-- ==== Sys2Proof/Word.lean ====
section
/-! DEFINITION. The word types of the module and their plainest arithmetic: widths as the manual gives them
(all multi-byte fields are little-endian, R13). -/

namespace Sys2Proof

/-- One byte. -/
abbrev Byte := BitVec 8
/-- A 16-bit field. -/
abbrev Half := BitVec 16
/-- A 32-bit word: one FP32 value, one word of a tile register (R113). -/
abbrev Word32 := BitVec 32
/-- A 64-bit word: the unit of Buckle messages, table headers and control crossings. -/
abbrev Word64 := BitVec 64

/-- The number of tiles of the module (R16). -/
abbrev nTiles : Nat := 288
/-- The number of compute dies (R16). -/
abbrev nDies : Nat := 72
/-- The number of memory stacks (R16). -/
abbrev nStacks : Nat := 24
/-- The number of stack slices, 8 to a stack (R16). -/
abbrev nSlices : Nat := 192
/-- The number of link dies (R16). -/
abbrev nLinkDies : Nat := 8
/-- The number of Vilet ports (R11). -/
abbrev nPorts : Nat := 16
/-- The number of partitions (R29). -/
abbrev nParts : Nat := 16
/-- The number of host functions: 16 on each PCIe port (R496). -/
abbrev nFuncs : Nat := 32
/-- The number of Buckle ranges (R251). -/
abbrev nRanges : Nat := 16

/-- A tile `x.y`, by its linear number `t = 18 y + x` (R9). -/
abbrev TileId := Fin nTiles
/-- A compute die `c.r`, by its linear number `d = 9 r + c`. -/
abbrev DieId := Fin nDies
/-- A memory stack. -/
abbrev StackId := Fin nStacks
/-- A stack slice, by `8 s + k`. -/
abbrev SliceId := Fin nSlices
/-- A link die. -/
abbrev LinkId := Fin nLinkDies
/-- A Vilet port. -/
abbrev PortId := Fin nPorts
/-- A partition. -/
abbrev PartId := Fin nParts
/-- A host function: 0 to 15 of PCIE_A, 16 to 31 of PCIE_B. -/
abbrev FuncId := Fin nFuncs
/-- A virtual channel: 0 control, 1 collective, 2 bulk, 3 management (R25). -/
abbrev VcId := Fin 4
/-- An issue context of a tile: 0 array, 1 vector, 2 stream, 3 control (R163). -/
abbrev CtxId := Fin 4

end Sys2Proof
end

