-- ==== Sys2Proof/Syntax.lean ====
section
/-! DEFINITION. The commands of the block: one constructor of `Instr` for each row of the table of operations and events, with
the operands that the row's rules give it. Unit numbers are bounded by type; command fields have the manual's widths;
messages and structures that carry a check arrive as raw words or bytes, and the meaning checks them. -/

namespace Sys2Proof

/-! ### Operands of the tile commands (R172 to R181) -/

/-- The fields of a LOADW (R173). Depth and width are written minus 1. -/
structure LoadwOp where
  fmt : BitVec 8
  record : BitVec 16
  span : BitVec 16
  panel : BitVec 12
  addr : BitVec 32
  depth : BitVec 10
  width : BitVec 9
  deriving DecidableEq, Repr

/-- The fields of an MMUL (R173). The row count is written minus 1. -/
structure MmulOp where
  mode : BitVec 2
  group : BitVec 2
  base : BitVec 12
  rows : BitVec 12
  span : BitVec 16
  panel : BitVec 12
  addr : BitVec 32
  record : BitVec 16
  carry : BitVec 16
  deriving DecidableEq, Repr

/-- The fields of a DRAIN (R173). The row count is written minus 1. -/
structure DrainOp where
  toStore : Bool
  reg : BitVec 3
  firstReg : BitVec 6
  first : BitVec 12
  rows : BitVec 12
  addr : BitVec 32
  record : BitVec 16
  deriving DecidableEq, Repr

/-- The fields of a VEC command (R175) below its function: the operation word of R116, and word 0's record and address. -/
structure VecOp where
  d : BitVec 4
  a : BitVec 4
  b : BitVec 4
  c : BitVec 4
  bcast : BitVec 2
  brow : BitVec 6
  blane : BitVec 9
  axis : BitVec 2
  prec : BitVec 2
  first : BitVec 6
  count : BitVec 6
  opts : BitVec 7
  record : BitVec 16 := 0
  addr : BitVec 32 := 0
  deriving DecidableEq, Repr

/-- The fields of ARRIVE, WAIT and ARRWAIT (R177). -/
structure BuckleOp where
  buckle : BitVec 16
  count : BitVec 16
  covers : BitVec 2
  target : BitVec 32
  deriving DecidableEq, Repr

/-- What a CHECK_STATUS_FINAL names: an accumulator row, a register row or a 64-byte store word (R110, R137, R156). -/
inductive StatusTarget where
  | accRow (r : Fin 4096)
  | regRow (reg : Fin 8) (r : Fin 64)
  | storeWord (w : Nat)
  deriving DecidableEq, Repr

/-! ### Packets of the fabric (R279 to R282) -/

/-- A packet: the four header words of R280 and its payload bytes. -/
structure Packet where
  w0 : Word64
  w1 : Word64
  w2 : Word64
  w3 : Word64
  payload : List Byte := []
  deriving DecidableEq, Repr

/-- What ends a transfer, or a part of it (R140): a data packet read from the inbound data crossing, or a write acknowledgement read from the
inbound control crossing. -/
inductive Answer where
  | data (p : Packet)
  | ack (w : Word64)
  deriving DecidableEq, Repr

/-- What the placer republishes (R150, R152): a binding-table entry, or the route to an endpoint behind an edge port. -/
inductive Republish where
  | entry (logical : BitVec 8) (phys : Fin 288)
  | route (dst : Fin 1024)
  deriving DecidableEq, Repr

/-- A router port: 0 north, 1 east, 2 south, 3 west, 4 local (R276). -/
abbrev RPort := Fin 5

/-- A VC of a receiving buffer whose credits the audit checks (R270, R273): a router input, the edge die behind a boundary router's
edge port, a core's inbound crossing, or a Vilet port's receiver. -/
inductive Hop where
  | input (t : TileId) (port : RPort) (vc : VcId)
  | edge (t : TileId) (vc : VcId)
  | core (t : TileId) (vc : VcId)
  | vilet (p : PortId) (vc : VcId)
  deriving DecidableEq, Repr

/-- Where a head flit starves (R289, R317): at an input of a router, or at the head of a source's queue for the output of a Vilet port. -/
inductive AgingPoint where
  | router (t : TileId) (port : RPort) (pool : BitVec 2)
  | vilet (p : PortId) (source : Fin 3)
  deriving DecidableEq, Repr

/-- Where a probe arrives (R297): at a welt, for one of its input buffers, or at the edge die behind a router's edge port. -/
inductive ProbeSite where
  | welt (t : TileId) (port : RPort)
  | die (t : TileId)
  deriving DecidableEq, Repr

/-- What a sweep, an update or a comparison is done on: one element group of a weight tensor of a partition (R193). -/
structure GroupRef where
  part : PartId
  handle : BitVec 32
  group : Nat
  deriving DecidableEq, Repr

/-- The cause of a substitution (R250). -/
inductive SubstCause where
  | fence | death | dieFault | migration
  deriving DecidableEq, Repr

/-! ### Vilet operands -/

/-- What a training attempt measured and exchanged (R307, R308): lanes that passed here and at the peer, the peer's permitted
modes, whether this was a half-rate attempt, whether the lanes locked, the 64 probes' largest round trip in ns, and the
identity that the peer sent. -/
structure TrainingResult where
  halfRate : Bool
  locked : Bool
  passing : BitVec 16
  deriving DecidableEq, Repr

/-- A Vilet flit as its frame decodes (R309, R310): whether each codeword decoded and how many symbols were corrected per lane,
the two header words and the payload bytes. -/
structure ViletFlit where
  decoded : Bool
  corrected : List (Nat × Nat)
  w0 : Word64
  w1 : Word64
  payload : List Byte
  deriving DecidableEq, Repr

/-- Why a port retrains (R310, R320). -/
inductive RetrainCause where
  | replayLimit | laneLock | portCommand | peerNotice
  deriving DecidableEq, Repr

/-! ### Collective operands -/

/-- A segment as it reaches an engine: its codes and its trailer words (R337). -/
structure SegmentIn where
  codes : List Byte
  trailer : List Word64
  deriving DecidableEq, Repr

/-! ### Measurements that arrive from outside the digital machine -/

/-- The readings of one 1 ms measurement interval (R420 to R424), in the units of their entries; lists are by unit number and
absent entries keep the last reading. -/
structure Readings where
  inputMillivolts : Nat
  inputMilliamps : Nat
  inputWatts : Nat
  busMillivolts : Nat
  /-- Tile core rail mV, core current mA, peak current mA, welt rail mV. -/
  tiles : List (TileId × Nat × Nat × Nat × Nat)
  /-- Die rail mV and mA. -/
  dies : List (DieId × Nat × Nat)
  /-- Stack power in mW. -/
  stackPower : List (StackId × Nat)
  /-- Edge-die power in mW: link dies 0 to 7, then the control die. -/
  edge : List Nat
  /-- Per-cycle activity a_u of a tile's unit classes, for the tiles whose readings are estimates (R447). -/
  activity : List (TileId × List Nat)
  deriving DecidableEq, Repr

/-- Powers measured over the last governor loop in W (R429, R430): base load, links, stacks, and each Running tile in mW. -/
structure LoopPowers where
  base : Nat
  links : Nat
  stackWatts : Nat
  tiles : List (TileId × Nat)
  deriving DecidableEq, Repr

/-- Coefficients k_u of a tile's activity estimate, per unit class, as a fit gives them (R447, R448). -/
structure Coefficients where
  k : List Nat
  deriving DecidableEq, Repr

/-! ### Error reports (R473, R475) -/

/-- What a fault report carries of its record (R473); fields with no value are `none`. -/
structure ErrorReport where
  code : BitVec 16
  cls : BitVec 3
  action : BitVec 4
  part : Option PartId
  origin : BitVec 10
  sub : BitVec 10
  witnesses : Nat
  time : Nat
  step : Option Word64
  first : BitVec 10
  attempt : Option (BitVec 8)
  temp : BitVec 16
  volts : BitVec 12
  logical : Option (BitVec 8)
  list : Option (BitVec 2)
  cmdClass : BitVec 4
  opcode : BitVec 4
  queue : Option (BitVec 5)
  gen : Option (BitVec 8)
  cmd : Option (BitVec 32)
  desc : Option (BitVec 32)
  detailA : BitVec 32
  detailB : Word64
  deriving DecidableEq, Repr

/-- A coalescing point (R475): the welt of a reporting tile, a link die, or the welt of tile 9.15. -/
inductive CoalescePoint where
  | welt (t : TileId)
  | link (l : LinkId)
  | entry
  deriving DecidableEq, Repr

/-- Where an uncorrectable word was read (R455): a tile's store, a stack slice, a fabric buffer of a partition's packet, or a
link-die buffer of a port. -/
inductive WordPlace where
  | store (t : TileId) (addr : BitVec 32)
  | stack (s : SliceId) (off : BitVec 34)
  /-- A flit of a packet in a router's buffer, with word 1 of the packet's header. -/
  | fabric (n : PartId) (t : TileId) (port : RPort) (header : Word64)
  /-- A word of a buffer of a Vilet port. -/
  | link (p : PortId)
  /-- A word of a link die's engine that holds a bucket of a partition. -/
  | bucket (n : PartId) (l : LinkId)
  deriving DecidableEq, Repr

/-- A control structure that failed its check (R457): one held in the stacks, by kind 1 page, 2 descriptor, 3 operand record,
4 update program, 5 scale table, or another, by packet kind. -/
structure StructFail where
  part : PartId
  tile : Option TileId
  held : Bool
  kind : BitVec 8
  handle : BitVec 32
  seq : BitVec 32
  deriving DecidableEq, Repr

/-- What a self-test observed (R482, R483): which tests ran, the signatures, the failing words, whether the scrub passed. -/
structure TestResult where
  logic : Option (BitVec 32)
  memory : Option (BitVec 32)
  failing : Nat
  firstFail : Nat
  production : Bool
  scrubOk : Bool
  aborted : Bool
  deriving DecidableEq, Repr

/-! ### Host interface operands (R496 to R514) -/

/-- What a failed host access was for (R513). -/
inductive HostAccess where
  | transfer (tag : Word32)
  | completion
  | record
  deriving DecidableEq, Repr

/-! ### Rein operands (R515 to R538) -/

/-- A Rein view: 0 to 15 the views, 16 the module view (R522). -/
abbrev ViewId := Fin 17

/-- A datagram as it reaches the module (R519): its header words, its data, its trailer, and whether the frame's FCS passed. -/
structure Datagram where
  h0 : Word64
  h1 : Word64
  data : List Byte
  trailer : Word64
  fcsOk : Bool := true
  deriving DecidableEq, Repr

/-- A frame on a Rein port (R516): the port it enters on (true for REIN_B), whether each port has a link, the frame's bytes without
its FCS, whether its FCS passed, and the latches of its arrival and departure in module time (R534), in ns. -/
structure ReinFrame where
  onB : Bool
  linkA : Bool
  linkB : Bool
  bytes : List Byte
  fcsOk : Bool
  arrive : Word64
  depart : Word64
  deriving DecidableEq, Repr

/-! ### Module operands (R556, R557) -/

/-- What the tests of the power-on sequence find (R556): welts, tiles, base dies and link dies that fail, the fitted coefficients
with their largest error, and the time that the sequence took, in ms. -/
structure PowerOnTests where
  welts : List TileId := []
  tiles : List TileId := []
  baseDies : List StackId := []
  links : List LinkId := []
  fits : List (TileId × Coefficients) := []
  fitError : BitVec 16 := 0
  startMs : Word32 := 0
  deriving DecidableEq, Repr

/-- The coolant as the control die finds it: inlet and outlet in 0.1 °C and flow in 0.1 L/min (R451). -/
structure CoolantReading where
  inlet : Int
  outlet : Int
  flow : Nat
  deriving DecidableEq, Repr

/-! ### The commands -/

/-- The commands of the block, one constructor per row of the table of operations and events; those without operands stand last. -/
inductive Instr where
  /-- LOADW (R93): Array command that names a staged block, checks its scale bytes against the scale table and prepares it for the shadow slots. -/
  | loadw (t : TileId) (o : LoadwOp)
  /-- BLOCK_LOADED (R93): The last byte of a staged block is present for an issued LOADW, so the transfer wave starts copying the block into the free slots. -/
  | blockLoaded (t : TileId)
  /-- MMUL (R94): Array command that passes rows of the row operand through the active block and accumulates group sums into accumulator rows under its accumulate mode. -/
  | mmul (t : TileId) (o : MmulOp)
  /-- DRAIN (R103): Array command that moves accumulator rows to a tile register or to the store and writes a drain trailer there. -/
  | drain (t : TileId) (o : DrainOp)
  /-- CHECK_STATUS_FINAL (R110): A row's or word's check status becomes final, passed or failed, at most 24 cycles after its last write. -/
  | checkStatusFinal (t : TileId) (w : StatusTarget) (passed : Bool)
  /-- RESIDUE_MISMATCH (R460): A residue or weight-slot parity mismatch on a tile leads to a layer re-run, a step retry, or a fence and substitution. -/
  | residueMismatch (t : TileId) (layer : Nat)
  /-- ADD (R117): Vector function that writes a + b, correctly rounded. -/
  | add (t : TileId) (o : VecOp)
  /-- SUB (R117): Vector function that writes a − b. -/
  | sub (t : TileId) (o : VecOp)
  /-- MUL (R117): Vector function that writes a × b. -/
  | mul (t : TileId) (o : VecOp)
  /-- FMA (R117): Vector function that writes a × b + c with one rounding. -/
  | fma (t : TileId) (o : VecOp)
  /-- MAX (R120): Vector function that writes the greater of a and b. -/
  | max (t : TileId) (o : VecOp)
  /-- MIN (R120): Vector function that writes the lesser of a and b. -/
  | min (t : TileId) (o : VecOp)
  /-- ABS (R117): Vector function that writes |a|. -/
  | abs (t : TileId) (o : VecOp)
  /-- NEG (R117): Vector function that writes −a. -/
  | neg (t : TileId) (o : VecOp)
  /-- CMP (R117): Vector function that writes 1.0 or +0 for the comparison that its options select. -/
  | cmp (t : TileId) (o : VecOp)
  /-- SEL (R120): Vector function that writes a or b according to the bits of c. -/
  | sel (t : TileId) (o : VecOp)
  /-- ICVT (R121): Vector function that converts an INT32 result row with its exponent to FP32. -/
  | icvt (t : TileId) (o : VecOp)
  /-- WID (R117): Vector function that widens FP32 rows exactly to FP64 row-pair form. -/
  | wid (t : TileId) (o : VecOp)
  /-- NAR (R117): Vector function that narrows FP64 values to FP32. -/
  | nar (t : TileId) (o : VecOp)
  /-- DIV (R117): Vector function that writes a / b. -/
  | div (t : TileId) (o : VecOp)
  /-- RECIP (R117): Vector function that writes 1 / a. -/
  | recip (t : TileId) (o : VecOp)
  /-- SQRT (R117): Vector function that writes √a. -/
  | sqrt (t : TileId) (o : VecOp)
  /-- RSQRT (R117): Vector function that writes 1 / √a. -/
  | rsqrt (t : TileId) (o : VecOp)
  /-- EXP (R117): Vector function that writes e^a. -/
  | exp (t : TileId) (o : VecOp)
  /-- EXP2 (R117): Vector function that writes 2^a. -/
  | exp2 (t : TileId) (o : VecOp)
  /-- LOG (R117): Vector function that writes ln a. -/
  | log (t : TileId) (o : VecOp)
  /-- LOG2 (R117): Vector function that writes log2 a. -/
  | log2 (t : TileId) (o : VecOp)
  /-- RSUM (R122): Vector reduction that sums along the axis over the fixed tree. -/
  | rsum (t : TileId) (o : VecOp)
  /-- RSUMSQ (R123): Vector reduction that sums squares along the axis over the fixed tree. -/
  | rsumsq (t : TileId) (o : VecOp)
  /-- RMAX (R124): Vector reduction that writes the maximum along the axis with its winner index. -/
  | rmax (t : TileId) (o : VecOp)
  /-- RMIN (R124): Vector reduction that writes the minimum along the axis with its winner index. -/
  | rmin (t : TileId) (o : VecOp)
  /-- TRN (R129): Vector function that transposes eight 64 × 64 word blocks. -/
  | trn (t : TileId) (o : VecOp)
  /-- LD (R127): Vector function that loads store rows into a register, widening them with their scales. -/
  | ld (t : TileId) (o : VecOp)
  /-- ST (R128): Vector function that narrows register rows into the store as an element region or a staged block, recording maxima and overflows. -/
  | st (t : TileId) (o : VecOp)
  /-- RNGU (R133): Vector function that draws a uniform FP32 value per lane from its generator counter. -/
  | rngu (t : TileId) (o : VecOp)
  /-- RNGR (R133): Vector function that draws a raw 32-bit random word per lane. -/
  | rngr (t : TileId) (o : VecOp)
  /-- RNGSV (R134): Vector function that saves all 4,096 generator counters to the store. -/
  | rngsv (t : TileId) (o : VecOp)
  /-- RNGRS (R134): Vector function that restores the generator counters from the store. -/
  | rngrs (t : TileId) (o : VecOp)
  /-- FLAGS (R131): Vector function that writes the lane flags into a row and clears them. -/
  | flags (t : TileId) (o : VecOp)
  /-- ARM (R145): Stream command that checks a descriptor and copies it into the active or shadow slot of a queue. -/
  | arm (t : TileId) (q : Fin 32) (idx : BitVec 32)
  /-- SEND (R146): Stream command that starts the oldest unstarted outbound arming of a queue. -/
  | send (t : TileId) (q : Fin 32)
  /-- RECV (R146): Stream command that starts the oldest unstarted inbound arming of a queue. -/
  | recv (t : TileId) (q : Fin 32)
  /-- ARRIVE (R178): Buckle command that sends its arrival once its own issue and the commands it covers have completed. -/
  | arrive (t : TileId) (c : CtxId) (o : BuckleOp)
  /-- WAIT (R256): Buckle command that holds its list until the Buckle counter reaches the target. -/
  | wait (t : TileId) (c : CtxId) (o : BuckleOp)
  /-- ARRWAIT (R178): Buckle command that sends an arrival and then waits for the target. -/
  | arrwait (t : TileId) (c : CtxId) (o : BuckleOp)
  /-- HINT_HEAVY (R436): Command that announces a rise in tile current, so the governor plans a ballast ramp. -/
  | hintHeavy (t : TileId) (amps : BitVec 8) (lead layer : BitVec 16)
  /-- HINT_LIGHT (R437): Command that announces a fall in tile current, which the governor counts in its fit. -/
  | hintLight (t : TileId) (amps : BitVec 8) (lead layer : BitVec 16)
  /-- MARK (R180): Command that records a phase boundary and empties the phase flag word into the record. -/
  | mark (t : TileId) (phase : BitVec 4) (layer : BitVec 16) (marker : BitVec 32)
  /-- STEP (R186): Last command of every list, which holds its context until the commit of the step. -/
  | step (t : TileId) (c : CtxId)
  /-- STEP_READY (R186): All four contexts of a tile are at STEP with every check status passed, so the tile sends its step-ready message. -/
  | stepReady (t : TileId)
  /-- TRANSFER_ISSUE (R139): The stream unit issues one transfer from the least recently served ready queue. -/
  | transferIssue (t : TileId)
  /-- TRANSFER_COMPLETE (R140): A transfer's ending event arrives; its budget is checked and the arming completes when all of its transfers have. -/
  | transferComplete (t : TileId) (answer : Answer)
  /-- TRANSFER_REFUSED (R152): A FENCED or stray-write negative acknowledgement arrives, so the transfer stays outstanding and is reported to the placer. -/
  | transferRefused (t : TileId) (p : Packet)
  /-- BINDING_REPUBLISH (R152): The placer republishes a binding entry or route, and the refused transfers re-send in the next cycle. -/
  | bindingRepublish (t : TileId) (what : Republish)
  /-- PAGE_FETCH (R185): A context's read position leaves a page, so it requests page p + 8 as a stack read. -/
  | pageFetch (t : TileId) (c : CtxId) (p : Nat)
  /-- PAGE_ARRIVAL (R185): A requested command page arrives and is checked against its trailer. -/
  | pageArrival (t : TileId) (c : CtxId) (p : Packet)
  /-- PUT_TILE_RECEIVE (R144): A PUT-TILE packet reaches its destination, which writes it into the EXPECT region and acknowledges it, or answers stray write. -/
  | putTileReceive (t : TileId) (p : Packet)
  /-- STACK_WRITE_RECEIVE (R226): A base die stores a write packet, applying the clean map and tags, and acknowledges it. -/
  | stackWriteReceive (k : StackId) (p : Packet)
  /-- STACK_READ_REQUEST (R191): A base die serves a stack read request through its edge ports. -/
  | stackReadRequest (k : StackId) (p : Packet)
  /-- GET_WEIGHT_PART (R200): A Skiver serves a GET-WEIGHT part from the narrowed image, waiting first for an unswept group. -/
  | getWeightPart (k : StackId) (p : Packet)
  /-- CORE_STATE_REQUEST (R46): The placer, the governor or a fence requests a core target state, which starts or is held behind a drain, move to Retain or Off, or wake. -/
  | coreStateRequest (t : TileId) (target : BitVec 2) (fence : Bool)
  /-- QUIESCE_REQUEST (R47): The core receives the quiesce request and stops issue in all contexts. -/
  | quiesceRequest (t : TileId)
  /-- FINAL_POINTERS (R47): The core receives the final inbound write pointers, reads the crossing up to them and sends the quiesce acknowledgement. -/
  | finalPointers (t : TileId)
  /-- QUIESCE_ACK (R47): The welt receives the quiesce acknowledgement and waits for the outbound crossing to empty. -/
  | quiesceAck (t : TileId)
  /-- CORE_CLOCK_STOP (R47): The outbound crossing is empty, so the welt stops the core clock, sets Stopped and resets its crossing halves. -/
  | coreClockStop (t : TileId)
  /-- QUIESCE_TIMEOUT (R48): No quiesce acknowledgement arrives within 50 µs, so the welt makes a forced close. -/
  | quiesceTimeout (t : TileId)
  /-- CORE_RAIL_LOSS (R49): The core rail falls below 0.40 V, so the welt makes a forced close at once and sets Off. -/
  | coreRailLoss (t : TileId)
  /-- LOCAL_PORT_HEAD (R45): A packet head wins the local port, and the welt delivers it or answers it with a FENCED negative acknowledgement. -/
  | localPortHead (t : TileId) (p : Packet) (symbolErrors : List Nat)
  /-- WAKE_REQUEST (R416): A wake of a tile is requested and is admitted at once or deferred by headroom. -/
  | wakeRequest (t : TileId) (cls : BitVec 2)
  /-- SOFT_START_END (R417): A soft-start ends after 10 µs, and the clock starts at 100 MHz or the wake fails and the tile is fenced. -/
  | softStartEnd (t : TileId) (millivolts : Nat)
  /-- READY_WORD (R51): The welt receives the core's ready word, raises the clock and opens ingress as the core becomes Running. -/
  | readyWord (t : TileId) (scrubOk : Bool)
  /-- WELT_FAULT (R53): A welt finds an uncorrectable fault in itself, or its clock or rail fails, and the core goes dark as a tile death. -/
  | weltFault (t : TileId)
  /-- DIE_RAIL_LOSS (R54): A compute die's rail is lost, which kills its four cores and welts. -/
  | dieRailLoss (d : DieId)
  /-- BUCKLE_ARRIVE_MSG (R258): A Buckle home receives an arrive message, checks it and applies its tokens. -/
  | buckleArriveMsg (words : List Word64)
  /-- BUCKLE_WATCH_MSG (R258): A Buckle home receives a watch message and registers or satisfies it. -/
  | buckleWatchMsg (words : List Word64)
  /-- BUCKLE_ARRIVE_WATCH_MSG (R258): A Buckle home receives an arrive-and-watch message, applies its tokens and registers its watch. -/
  | buckleArriveWatchMsg (words : List Word64)
  /-- BUCKLE_SATISFY_MSG (R258): A context receives a satisfy message, and its wait issues. -/
  | buckleSatisfyMsg (t : TileId) (words : List Word64)
  /-- CLOSING_WINDOW_EXPIRY (R265): The closing window ends, and a closing count that falls short of T(b) is a broken sum. -/
  | closingWindowExpiry (n : PartId)
  /-- AUDIT_MARKER (R273): A marker arrives, and the receiver checks the credit sum of the hop. -/
  | auditMarker (h : Hop) (balance received : Nat)
  /-- AUDIT_NOW (R275): A write of 1 sends markers on every hop and checks every pool. -/
  | auditNow (v : BitVec 8)
  /-- BUCKLE_PROBE (R275): A write of a Buckle number loads that Buckle's state into the probe result. -/
  | buckleProbe (b : BitVec 16)
  /-- HEAD_FLIT_ROUTE (R283): A router checks a head flit's header CRC and routes the packet, or consumes it as a header fault. -/
  | headFlitRoute (t : TileId) (port : RPort) (pool : BitVec 2) (p : Packet) (symbolErrors : List Nat)
  /-- HISTORY_ENTRY_EXPIRY (R284): A destination history entry idle for 1.0 ms is dropped. -/
  | historyEntryExpiry (dest src : BitVec 10) (flow : BitVec 6) (vc : VcId)
  /-- AGING_WAIT_EXPIRY (R289): A starved head flit's class drops by one after each aging wait. -/
  | agingWaitExpiry (p : AgingPoint) (vc : VcId)
  /-- NEIGHBOUR_SILENT (R293): A link carries nothing for 4 welt cycles, so the router handles the port as failed. -/
  | neighbourSilent (t : TileId) (port : RPort)
  /-- STUCK_OUTPUT (R297): An output has had no credit for 4 µs, so its welt launches a probe. -/
  | stuckOutput (t : TileId) (port : RPort) (vc : VcId) (pool : BitVec 2)
  /-- STUCK_PROBE (R297): A welt or edge die receives a probe and forwards or drops it. -/
  | stuckProbe (site : ProbeSite) (origin : TileId)
  /-- PROBE_RETURN (R298): A probe returns to its origin, which has found a cycle and sends a spill order. -/
  | probeReturn (t : TileId)
  /-- SPILL_ORDER (R298): A welt spills the blocked packets of the oldest stream to escape slots and returns their credits. -/
  | spillOrder (t : TileId) (origin : TileId)
  /-- ESCAPE_SPILL (R298): A base die stores an escape spill and its index entry. -/
  | escapeSpill (slice : SliceId) (p : Packet)
  /-- REINJECTION (R299): A spilling welt reads its spilled packets back and inserts them into the input they left. -/
  | reinjection (t : TileId)
  /-- CABLE_PRESENCE (R576): CBL_PRSNT_L is held low for 10 ms, so the module reads the cable identity and training begins. -/
  | cablePresence (p : PortId) (present : Bool) (identity : List Byte)
  /-- TRAINING_ATTEMPT (R307): A Vilet port trains its lanes, chooses a mode and checks its round trip, entering Up or Down. -/
  | trainingAttempt (p : PortId) (r : TrainingResult)
  /-- TRAINING_RETRY_TIMER (R308): A Down port starts a new training attempt every 1.0 s. -/
  | trainingRetryTimer (p : PortId)
  /-- VILET_FLIT_RECEIVE (R313): A Vilet frame arrives, and the receiver decodes and accepts it or discards it and sends NAK. -/
  | viletFlitReceive (p : PortId) (f : ViletFlit)
  /-- NAK_RECEIVE (R314): A NAK arrives, so the sender replays from the acknowledge. -/
  | nakReceive (p : PortId) (ack : BitVec 16)
  /-- REPLAY_TIMEOUT (R314): No acknowledge advances within the replay timeout, so the sender replays. -/
  | replayTimeout (p : PortId)
  /-- RETRAIN (R320): A port in Up makes a fast relock, then replays, on a retrain trigger. -/
  | retrain (p : PortId) (cause : RetrainCause) (passing : BitVec 16)
  /-- DOWN_TIMEOUT (R320): Fast relocks have failed until the down timeout, so the port is lost. -/
  | downTimeout (p : PortId)
  /-- LANE_SIGNAL_LOSS (R320): Every lane in use loses signal, so the port is lost at once. -/
  | laneSignalLoss (p : PortId)
  /-- IDENTITY (R308): Port-control command that carries the sender's identity and permitted modes. -/
  | identity (p : PortId) (fields : List Byte)
  /-- DRAIN_REQUEST (R321): Port-control command that asks the peer to stop admitting new packets. -/
  | drainRequest (p : PortId)
  /-- DRAIN_DONE (R321): Port-control command that reports that the sender has drained, ending the drain once both ends are done. -/
  | drainDone (p : PortId)
  /-- PROBE (R306): Port-control command carrying the sender's module time, answered at once with an echo. -/
  | probe (p : PortId) (stamp : Word64)
  /-- ECHO (R306): Port-control command returning a probe's time, from which the round trip is measured. -/
  | echo (p : PortId) (stamp : Word64)
  /-- RETRAIN_NOTICE (R320): Port-control command announcing a retrain, which makes the receiver retrain. -/
  | retrainNotice (p : PortId) (trigger : BitVec 8)
  /-- VILET_DRAIN_LIMIT (R321): A drain has not ended within 1.0 ms, so the port is lost. -/
  | viletDrainLimit (p : PortId)
  /-- PORT_ENABLE (R325): Port command 1, which enables the port for training. -/
  | portEnable (p : PortId)
  /-- PORT_DISABLE (R321): Port command 2, which drains the port and disables it. -/
  | portDisable (p : PortId)
  /-- PORT_RETRAIN (R320): Port command 3, which retrains the port. -/
  | portRetrain (p : PortId) (passing : BitVec 16)
  /-- VAUX_OVERCURRENT (R575): A receptacle's auxiliary supply exceeds 2.0 A and is switched off, which loses the port. -/
  | vauxOvercurrent (p : PortId)
  /-- PORT_TABLE (R238): A member receives a port table and recomputes the cut assignment. -/
  | portTable (n : PartId) (member : BitVec 16) (table : List Byte)
  /-- PORT_MATCH_CONFIRM (R227): The two placers confirm on VC3 that both ends of a cable are bound to one partition. -/
  | portMatchConfirm (p : PortId) (matched : Bool)
  /-- GRADIENT_PACKET (R332): A bucket engine writes GRAD-OUT codes into the bucket tensor and acknowledges the transfer. -/
  | gradientPacket (l : LinkId) (n : PartId) (p : Packet)
  /-- CONTRIBUTION_TRAILER (R331): A bucket engine receives a tile's block magnitudes for a pass. -/
  | contributionTrailer (n : PartId) (bytes : List Byte)
  /-- SEGMENT_PROCESS (R338): An engine holding a segment's codes and trailer adds its own codes and forwards the segment or decides it as owner. -/
  | segmentProcess (n : PartId) (bucket : BitVec 32) (chunk : BitVec 16) (seg : Option SegmentIn)
  /-- MARK_LIST (R340): An engine receives the owner's mark list and sends pass requests to its tiles. -/
  | markList (n : PartId) (bytes : List Byte)
  /-- PASS_REQUEST (R340): A stream unit reconverts marked blocks at the new increase, rewrites residuals and sends pass re-sends. -/
  | passRequest (n : PartId) (logical : BitVec 8) (bucket : BitVec 32)
  /-- PASS_RESEND (R340): An engine writes a pass re-send and starts the next pass once all have arrived. -/
  | passResend (n : PartId) (logical : BitVec 8) (bucket : BitVec 32) (block : Nat)
  /-- BUCKET_DEADLINE (R342): A member's deadline expires with its contribution not full, so it is late and is omitted. -/
  | bucketDeadline (n : PartId) (bucket : BitVec 32)
  /-- OMISSION_NOTICE (R345): A tile rewrites the late contribution into its residuals and acknowledges. -/
  | omissionNotice (n : PartId) (logical : BitVec 8) (bucket : BitVec 32)
  /-- ACCUMULATION_DELIVERY (R348): A final block is written into the accumulation buffer in declaration order. -/
  | accumulationDelivery (n : PartId) (bucket : BitVec 32) (block : Nat)
  /-- NODE_COPY (R349): A node member receives the exact sums from the lead and delivers them. -/
  | nodeCopy (n : PartId) (bucket : BitVec 32) (bytes : List Byte)
  /-- GATHER_REQUEST (R350): A peer link die and Skiver serve a GET-WEIGHT part for another module. -/
  | gatherRequest (l : LinkId) (n : PartId) (member : BitVec 16) (p : Packet)
  /-- NORM_TRAILER (R352): A member adds a peer's exact norm sums into the global norms of the previous step. -/
  | normTrailer (n : PartId) (member : BitVec 16) (bytes : List Byte)
  /-- PERMUTE_BLOCK_MOVE (R354): A 4 KiB block is moved from its source's current buffer to its destination's alternate buffer. -/
  | permuteBlockMove (n : PartId) (decl entry : Nat) (data : List Byte)
  /-- RING_TIMEOUT (R355): A collective operation receives nothing for the ring timeout and fails with a collective-timeout fault. -/
  | ringTimeout (l : LinkId) (n : PartId) (bucket : BitVec 32)
  /-- SCALE_FRAGMENT (R335): A member receives scale fragments and assembles the scale tables of the next step. -/
  | scaleFragment (n : PartId) (bytes : List Byte)
  /-- SCALE_TABLE_COMPUTE (R73): The ring holders and the controller compute the scale tables and wire exponents of the next step and deliver them. -/
  | scaleTableCompute (n : PartId) (handle : BitVec 32)
  /-- SCALE_TABLE_RECEIVE (R68): A unit receives a scale table and checks its CRC and sequence number before use. -/
  | scaleTableReceive (t : TileId) (bytes : List Byte)
  /-- SWEEP_BEGIN (R198): The step's scale tables are present, so the Skiver narrows every weight group into the narrowed image. -/
  | sweepBegin (k : StackId) (n : PartId)
  /-- RING_MAXIMA (R199): A ring holder combines a unit's slot maxima and overflow marks. -/
  | ringMaxima (k : StackId) (n : PartId) (handle : BitVec 32) (slot : Nat) (maxCode : BitVec 32) (overflow : Bool)
  /-- BURNISHER_UPDATE (R205): A group's gradient is final and swept, so the Burnisher runs the update rule with stochastic rounding into the alternate buffers. -/
  | burnisherUpdate (k : StackId) (g : GroupRef)
  /-- ENGINE_MISMATCH (R466): A Skiver, Burnisher or collective-engine residue mismatch leads to a redo or to failure of the die. -/
  | engineMismatch (k : StackId) (g : GroupRef) (burnisher : Bool)
  /-- UPDATE_COMPLETE_SEND (R215): All local conditions hold, so the module sends its update-complete message and opens the Cinch hold window. -/
  | updateCompleteSend (n : PartId)
  /-- UPDATE_COMPLETE_RECEIVE (R215): A module receives a member's update-complete message for the current step and attempt. -/
  | updateCompleteReceive (n : PartId) (words : List Word64)
  /-- COMMIT_POINT (R216): The last commit condition holds, so the controller writes the commit record and sends the commit message. -/
  | commitPoint (n : PartId)
  /-- COMMIT_FLIP (R216): A base die flips the current bits named in the commit record and acknowledges. -/
  | commitFlip (k : StackId) (n : PartId)
  /-- COMMIT_ACKS_IN (R216): All acknowledgements are in, so the step advances, the record closes and every STEP completes. -/
  | commitAcksIn (n : PartId)
  /-- LAYER_STAMP_TABLE (R366): A tile sends its layer stamp table, and the controller adds it into the step's fingerprints. -/
  | layerStampTable (t : TileId) (layer : Nat)
  /-- COMPARE_STEP (R382): In Compare mode the module compares its record with the reference, and on a mismatch it stops. -/
  | compareStep (n : PartId)
  /-- COMPARE_CONTINUE (R384): Compare release 1, which sends the update-complete message and continues. -/
  | compareContinue (n : PartId)
  /-- COMPARE_RETRY (R384): Compare release 2, which calls a step retry. -/
  | compareRetry (n : PartId)
  /-- COMPARE_LEAVE (R384): Compare release 3, which continues and sets the mode to Record. -/
  | compareLeave (n : PartId)
  /-- CINCH_EDGE (R391): An edge on CINCH_IN is timestamped and closes the open hold windows or is ignored. -/
  | cinchEdge (quarterNs : Word64) (highNs : Nat)
  /-- HOLD_WINDOW_EXPIRY (R394): A hold window reaches O + W without an edge and closes, and the expiry is counted. -/
  | holdWindowExpiry (n : PartId)
  /-- CINCH_TEST_PULSE (R398): A write of 1 sends one 100 ns test pulse on CINCH_OUT in Configured. -/
  | cinchTestPulse (v : BitVec 8)
  /-- INPUT_SAMPLE (R403): Every 1 µs the module measures V_in and applies its band. -/
  | inputSample (millivolts : Nat)
  /-- CONVERTER_FAILURE (R406): A converter fails and disconnects, so the converter limit is recomputed. -/
  | converterFailure (i : Fin 32)
  /-- PHASE_CHECK (R412): Every 100 ns the regulator controller checks each phase and declares phases lost. -/
  | phaseCheck (t : TileId) (bad : BitVec 8) (controllerFault : Bool)
  /-- VERTICAL_STAGE_PHASE_LOSS (R409): A vertical-stage phase of a die fails, so the die current limit falls or the die rail is lost. -/
  | verticalStagePhaseLoss (d : DieId) (phase : Fin 16)
  /-- BOOST (R414): The rail falls 30 mV below its setpoint, so the boost adds current. -/
  | boost (t : TileId)
  /-- SHUNT (R414): The rail rises 30 mV above its setpoint, so the shunt sinks current. -/
  | shunt (t : TileId)
  /-- MEASUREMENT_INTERVAL (R420): Each 1 ms interval, current, voltage and power readings are published. -/
  | measurementInterval (r : Readings)
  /-- GOVERNOR_LOOP (R426): Every 100 µs the governor computes the effective limit, ceilings and allowances. -/
  | governorLoop (r : LoopPowers)
  /-- SLOPE_INTERVAL (R433): Each 256 ns interval, the slope limiter and ballast keep each tile's current change within 8 A. -/
  | slopeInterval (demand : List (TileId × Nat))
  /-- WAKE_DEFERRAL_TIMEOUT (R418): A wake is still not admitted after 200 µs, so neighbours' allowances are lowered step by step. -/
  | wakeDeferralTimeout (t : TileId)
  /-- RAMP_START (R436): A hinted tile's ramp begins at its boundary, and the ballast raises its draw. -/
  | rampStart (t : TileId)
  /-- RAMP_RELEASE_TIMEOUT (R436): The work draw has not reached the ramp target by t_h + 8 µs, so the ballast is released. -/
  | rampReleaseTimeout (t : TileId)
  /-- DROOP_RECOVERY (R435): After 10 ms without exceeding the droop limit, the droop ceiling rises by one step. -/
  | droopRecovery (t : TileId)
  /-- TEMPERATURE_SAMPLE (R438): Every 10 µs a welt samples its tile temperature and throttles, migrates, fences or returns the tile. -/
  | temperatureSample (t : TileId) (tenths : Int)
  /-- EDGE_DIE_OVERTEMP (R439): An edge die reaches a temperature threshold and lowers its engines, resets partitions, loses ports or enters Fault. -/
  | edgeDieOvertemp (d : Fin 33) (tenths : Int)
  /-- COOLANT_SAMPLE (R440): Every 10 ms the lid sensors update the coolant limit. -/
  | coolantSample (inlet outlet : Int) (flow : Nat)
  /-- SLACK_NOTICE_RECEIVE (R445): A member checks a slack notice and may set slack ceilings. -/
  | slackNoticeReceive (n : PartId) (words : List Word64)
  /-- COEFFICIENT_REFIT (R448): Every 1 s the activity-estimate coefficients are refitted. -/
  | coefficientRefit (fits : List (TileId × Coefficients)) (error : BitVec 16)
  /-- ERROR_REPORT (R475): A coalescing point forwards the first report of a key and opens a window, or absorbs the report. -/
  | errorReport (pt : CoalescePoint) (r : ErrorReport)
  /-- COALESCING_WINDOW_END (R475): A coalescing window ends, and one witness report is forwarded. -/
  | coalescingWindowEnd (pt : CoalescePoint) (i : Nat)
  /-- RECORD_PUBLISH (R475): The controller publishes one error record per key 10 µs after its window. -/
  | recordPublish (i : Nat)
  /-- UNCORRECTABLE_WORD (R455): A read finds an uncorrectable word, so the owner partition is reset. -/
  | uncorrectableWord (w : WordPlace)
  /-- PATROL_READ (R454): Every 12 h a base die reads its slices and writes back corrected words. -/
  | patrolRead (k : StackId) (corrected uncorrectable : Nat) (slice : Fin 8)
  /-- CONTROL_STRUCTURE_FAIL (R457): A control structure fails its check and is fetched again or causes a step retry. -/
  | controlStructureFail (f : StructFail)
  /-- STEP_RETRY (R468): A module calls a retry, stops the commit and sends retry notices. -/
  | stepRetry (n : PartId) (code : BitVec 16)
  /-- RETRY_NOTICE (R468): A member receives a retry notice and joins the retry, or discards it. -/
  | retryNotice (n : PartId) (words : List Word64)
  /-- RETRY_QUIESCED (R469): The partition quiesces, so generations advance, the attempt increases and contexts restart at index 0. -/
  | retryQuiesced (n : PartId)
  /-- RETRY_QUIESCE_TIMEOUT (R469): The quiesce is not complete within 1.0 ms, so the partition is reset. -/
  | retryQuiesceTimeout (n : PartId)
  /-- PARTITION_RESET (R564): A partition resets: it drains, cleans its slices, completes host entries and becomes Composed. -/
  | partitionReset (n : PartId) (code : BitVec 16)
  /-- RESET_NOTICE (R471): A member receives a reset notice and resets the partition. -/
  | resetNotice (n : PartId) (words : List Word64)
  /-- ODD_NUMBERS_CHECK (R477): After a weight's update, ratios are checked and an odd-numbers event may record or hold. -/
  | oddNumbersCheck (n : PartId)
  /-- ODD_CONTINUE (R478): Odd-numbers release 1, which continues. -/
  | oddContinue (n : PartId)
  /-- ODD_RETRY (R478): Odd-numbers release 2, which calls a step retry. -/
  | oddRetry (n : PartId)
  /-- ODD_CONTINUE_CLEAR (R478): Odd-numbers release 3, which continues and sets the action to record. -/
  | oddContinueClear (n : PartId)
  /-- ALERT_ACKNOWLEDGE (R476): A write of 1 acknowledges every record so far and may release ALERT_L. -/
  | alertAcknowledge (v : BitVec 8)
  /-- READOUT_SEQUENCE (R480): A write selects the error record presented in the readout entry. -/
  | readoutSequence (seq : BitVec 32)
  /-- READOUT_STEP (R387): A write selects the Saddlebag record presented for readout. -/
  | readoutStep (n : PartId) (step : Word64)
  /-- REBIND_ADD (R223): Re-bind operation 1, which adds granules to a partition within 5 ms. -/
  | rebindAdd (words : List Word64)
  /-- REBIND_REMOVE (R223): Re-bind operation 2, which removes granules and makes them clean. -/
  | rebindRemove (words : List Word64)
  /-- REBIND_DISSOLVE (R223): Re-bind operation 3, which frees every granule of a partition. -/
  | rebindDissolve (words : List Word64)
  /-- SUBSTITUTION (R244): The placer replaces a fenced or dead tile with a chosen tile, restores state and restarts at the restart layer. -/
  | substitution (t : TileId) (cause : SubstCause)
  /-- MIGRATION (R246): The placer sets a hold and wakes a chosen tile to move a live tile's work. -/
  | migration (t : TileId)
  /-- MIGRATION_QUIESCED (R246): The tile is quiesced at its hold, so its state is copied and the binding is republished. -/
  | migrationQuiesced (t : TileId)
  /-- MIGRATION_ABANDON (R246): The tile is not quiesced within 20 ms, so the migration is abandoned. -/
  | migrationAbandon (t : TileId)
  /-- TEST_REQUEST (R484): A test request is checked and queued, or refused. -/
  | testRequest (words : List Word64)
  /-- TILE_TEST (R486): An admitted tile runs its logic and memory tests and a scrub inside a wake, then passes or fails. -/
  | tileTest (t : TileId) (r : TestResult)
  /-- STACK_BASE_TEST (R488): A base die runs its logic and memory tests and marches unbound DRAM. -/
  | stackBaseTest (k : StackId) (r : TestResult)
  /-- LINK_DIE_TEST (R488): A link die drains its ports, tests itself and trains again. -/
  | linkDieTest (l : LinkId) (r : TestResult)
  /-- FIELD_TEST_DUE (R490): A tile's in-field interval expires, so it is tested at once, in place, or by migration. -/
  | fieldTestDue (t : TileId)
  /-- DEFERRED_TEST_RETRY (R490): Every 1.0 s a deferred test is tried again. -/
  | deferredTestRetry (t : TileId)
  /-- SUBMISSION_TAIL (R501): Doorbell write, after which the module reads and checks new submission entries in ring order. -/
  | submissionTail (f : FuncId) (tail : Word32) (entries : List (List Word64))
  /-- LOAD (R505): Submission that copies, checks and binds a work image, leaving the partition Loaded and parked. -/
  | load (f : FuncId) (data : List Byte)
  /-- RELEASE (R505): Submission that discards the bound image and cleans the slices. -/
  | release (f : FuncId)
  /-- RUN (R506): Submission that adds steps to the allowance. -/
  | run (f : FuncId)
  /-- WRITE (R507): Submission that registers host input for a step, gated or not. -/
  | write (f : FuncId)
  /-- WRITE_GATE_OPEN (R507): A registered WRITE's condition holds, so its data is copied into the stacks. -/
  | writeGateOpen (f : FuncId) (tag : Word32) (data : List Byte)
  /-- READ (R508): Submission that registers an output read for a step. -/
  | read (f : FuncId)
  /-- READ_BEGIN (R508): The step commits, so a registered READ copies its bytes to the host. -/
  | readBegin (f : FuncId) (tag : Word32)
  /-- STATE_OUT (R510): Submission that writes a state image of the parked partition to the host. -/
  | stateOut (f : FuncId)
  /-- STATE_IN (R511): Submission that restores a state image into the current buffers. -/
  | stateIn (f : FuncId) (data : List Byte)
  /-- REFERENCE (R512): Submission that writes a reference record into the reference half. -/
  | reference (f : FuncId) (data : List Byte)
  /-- RECORD_OUT (R512): Submission that copies an own record to the host. -/
  | recordOut (f : FuncId)
  /-- STEP_START (R506): The allowance, inputs and reference are ready, so the contexts issue the first command of a step. -/
  | stepStart (n : PartId)
  /-- COMPLETION_HEAD (R503): Doorbell write that frees completion ring slots for held entries. -/
  | completionHead (f : FuncId) (head : Word32)
  /-- RECORD_HEAD (R504): Doorbell write that frees record ring slots. -/
  | recordHead (f : FuncId) (head : Word32)
  /-- FUNCTION_LEVEL_RESET (R513): A function-level reset, D3hot or loss of the data-link layer resets the partition and the function's rings. -/
  | functionLevelReset (f : FuncId)
  /-- HOST_ACCESS_FAIL (R513): A DMA to the host fails, so the entry completes with status 7 or is dropped. -/
  | hostAccessFail (f : FuncId) (a : HostAccess)
  /-- REIN_FRAME (R516): A Rein frame passes through the module and is processed, looped back or returned. -/
  | reinFrame (fr : ReinFrame)
  /-- NOP (R521): Datagram command that passes unchanged. -/
  | nop (g : Datagram)
  /-- SCAN (R521): Datagram command in which the module writes its serial number into the lowest free slot. -/
  | scan (g : Datagram)
  /-- ADDR (R521): Datagram command that assigns the module view's station address by serial number. -/
  | addr (g : Datagram)
  /-- CYC (R528): Datagram command that carries the view's command image and receives its report image. -/
  | cyc (g : Datagram)
  /-- COMMAND_IMAGE_APPLY (R529): A newer cycle's command image is applied within 2 µs of the FCS passing. -/
  | commandImageApply (v : ViewId)
  /-- MBX_W (R531): Datagram command that hands a mailbox request to a free view mailbox. -/
  | mbxW (g : Datagram)
  /-- MBX_R (R531): Datagram command that collects a ready mailbox response. -/
  | mbxR (g : Datagram)
  /-- LINK (R534): Datagram command that exchanges turn times, from which each module computes its link delay. -/
  | link (g : Datagram) (arrive depart : Word64)
  /-- TIME (R535): Datagram command through which modules take the reference time and slew or step their clocks. -/
  | time (g : Datagram) (arrive depart : Word64)
  /-- RESET (R538): Datagram command that causes a Rein reset of the addressed view. -/
  | reset (g : Datagram)
  /-- MAILBOX_READ (R533): Mailbox service that reads an entry's value. -/
  | mailboxRead (v : ViewId)
  /-- MAILBOX_WRITE (R525): Mailbox service that writes an entry or opens a segmented write. -/
  | mailboxWrite (v : ViewId)
  /-- SEGMENT_READ (R533): Mailbox service that returns a segment of a long value. -/
  | segmentRead (v : ViewId)
  /-- SEGMENT_WRITE (R533): Mailbox service that appends a segment and applies the value when complete. -/
  | segmentWrite (v : ViewId)
  /-- REIN_RESET (R538): A view's mailbox, sequence state and, for the module view, its clock link state are cleared. -/
  | reinReset (v : ViewId)
  /-- STORE (R537): Command that saves every M-class setting as its stored default. -/
  | store (flashOk : Bool)
  /-- RESTORE_FACTORY (R537): Command that discards the saved set. -/
  | restoreFactory (flashOk : Bool)
  /-- OD_WRITE (R525): A write to an entry that has no row of its own, checked against its access, range and conditions. -/
  | odWrite (v : ViewId) (idx : BitVec 16) (sub : BitVec 8) (data : List Byte)
  /-- FAULT_ENTRY (R553): A Fault cause resets and dissolves partitions, drives tiles Off and records the cause. -/
  | faultEntry (code : BitVec 16)
  /-- POWER_ON (R556): Input arrives in the Normal band, so converters start, firmware is verified and the power-on sequence brings the module to Configured. -/
  | powerOn (c : CoolantReading) (r : PowerOnTests)
  /-- COOLANT_RECHECK (R557): Every 1 s during power-on the coolant is checked again until the sequence may continue. -/
  | coolantRecheck (c : CoolantReading) (r : PowerOnTests)
  /-- DROOP_DETECT (R33): The droop detector finds the core rail more than 25 mV below its setpoint, so the next clock period is stretched to 1.5 times and counted. -/
  | droopDetect (t : TileId)
  /-- EDGE_DIE_RAIL_FAILURE (R409): The rails of a stack base die or link die fail, and the die is failed under R467 with its partitions reset or ports lost. -/
  | edgeDieRailFailure (d : Fin 33)
  /-- LANE_ERROR_RATIO_ALARM (R324): A lane's pre-FEC symbol error ratio over the last 1 s exceeds OD 0x2700.15, so an error record of code 0x0802 is written. -/
  | laneErrorRatioAlarm (p : PortId) (lane : Fin 16) (ratio : Word32)
  /-- NAK_REPEAT_TIMEOUT (R313): A receiver that sent NAK has not seen the expected sequence number within one replay timeout, so it sends the NAK again. -/
  | nakRepeatTimeout (p : PortId)
  /-- PCIE_LINK_TRAINED (R496): A PCIe port's link trains or retrains at a rate and width, setting or clearing the below-service bit and raising MSI-X vector 2. -/
  | pcieLinkTrained (portB : Bool) (rate width : BitVec 8)
  /-- RING_CONTROL_WRITE (R499): A write to a ring base, ring control or interrupt control register of BAR0 sets or enables a ring, starting its sequence numbers and phase at enable. -/
  | ringControlWrite (f : FuncId) (off : BitVec 16) (value : Word64)
  /-- INTERRUPT_INTERVAL_EXPIRY (R500): The least interval since a vector's previous raise ends with a signalled write pending, so the MSI-X vector is raised. -/
  | interruptIntervalExpiry (f : FuncId) (v : Fin 3)
  /-- HOST_TRANSFER_COMPLETE (R506): The DMA of a WRITE, READ, LOAD or STATE image finishes with the host, so its completion entry is written and any step start or hold it gates is released. -/
  | hostTransferComplete (f : FuncId) (tag : Word32)
  /-- AUDIT_PERIOD (R273): Each audit period, every hop sender sends a credit marker. -/
  | auditPeriod
  /-- ALTERNATE_SET_IN_FORCE (R292): The placer brings the alternate routes around failed welts into force and fences cut-off tiles. -/
  | alternateSetInForce
  /-- INPUT_LOSS (R404): The input is lost or over-voltage, so the converters stop, ALERT_L asserts, a record is saved and the rails fall. -/
  | inputLoss
  /-- EPO_ASSERT (R405): EPO_L is asserted for 5 µs, so every converter stops at once. -/
  | epoAssert
  /-- EPO_RELEASE (R581): A released EPO_L reading lasts 10 ms and takes effect. -/
  | epoRelease
  /-- COOLANT_FAULT (R440): A coolant condition lasts 1 s, so partitions reset, tiles go Off and the module enters Fault. -/
  | coolantFault
  /-- REIN_LINK_LOSS (R538): Both Rein links are down for 1 s, which causes a Rein reset. -/
  | reinLinkLoss
  /-- SYNC_WATCH_EXPIRY (R536): No TIME datagram arrives within the sync watch, so the module is not synchronized. -/
  | syncWatchExpiry
  /-- MODULE_RESET (R565): Module command 1, which resets partitions, dissolves them and restarts firmware to Configured. -/
  | moduleReset
  /-- ENTER_STANDBY (R561): Module command 2, which drains ports, turns tiles Off and puts stacks in self-refresh. -/
  | enterStandby
  /-- LEAVE_STANDBY (R562): Module command 3, which wakes stacks, links and tiles back to Configured. -/
  | leaveStandby
  /-- LEAVE_FAULT (R553): Module command 4, which performs a module reset out of Fault once its cause has cleared. -/
  | leaveFault
  /-- CINCH_IN_FALL (R398): CINCH_IN falls from logic 1 to logic 0, and in Repeat mode CINCH_OUT follows 6 ns later. -/
  | cinchInFall
  deriving DecidableEq, Repr

end Sys2Proof
end

