-- ==== Sys2Proof/Machine/Bits.lean ====
section
/-! DEFINITION. Bit-field, sign-extension and byte-order helpers. -/

namespace Sys2Proof.Machine

/-- The field `[hi:lo]` of a number, as a number. -/
def bits (w hi lo : Nat) : Nat := (w / 2 ^ lo) % 2 ^ (hi + 1 - lo)

/-- Bit `i` of a number. -/
def bitAt (w i : Nat) : Bool := w.testBit i

/-- The two's-complement value of the low `n` bits of a number. -/
def signed (n w : Nat) : Int :=
  let u := w % 2 ^ n
  if u < 2 ^ (n - 1) then (u : Int) else (u : Int) - (2 ^ n : Nat)

/-- The `n`-bit two's-complement pattern of an integer. -/
def ofSigned (n : Nat) (i : Int) : Nat := (i % ((2 ^ n : Nat) : Int)).toNat

/-- The number that a list of bytes spells, the first byte least significant (R13). -/
def leNat : List Byte → Nat
  | [] => 0
  | b :: bs => b.toNat + 256 * leNat bs

/-- The `n` bytes of a number, least significant first (R13). -/
def leBytes : Nat → Nat → List Byte
  | 0, _ => []
  | n + 1, w => BitVec.ofNat 8 w :: leBytes n (w / 256)

/-- The bytes of a list of 64-bit words, each little-endian (R13). -/
def wordsBytes : List Word64 → List Byte
  | [] => []
  | w :: ws => leBytes 8 w.toNat ++ wordsBytes ws

/-- `n` bytes of a list from an offset; bytes beyond its end are absent. -/
def slice (bs : List Byte) (off n : Nat) : List Byte := (bs.drop off).take n

/-- A little-endian field of `n` bytes at an offset of a byte list (absent bytes read 0). -/
def field (bs : List Byte) (off n : Nat) : Nat := leNat (slice bs off n)

/-- Word `i` of a list of 64-bit words, 0 beyond its end. -/
def wordAt (ws : List Word64) (i : Nat) : Nat := (ws.getD i 0).toNat

/-- The smallest multiple of `a` that is at least `n` (`a` positive). -/
def roundUp (a n : Nat) : Nat := ((n + a - 1) / a) * a

/-- Ceiling division. -/
def ceilDiv (n a : Nat) : Nat := (n + a - 1) / a

/-- Saturate an integer to a range. -/
def clampInt (lo hi x : Int) : Int := if x < lo then lo else if hi < x then hi else x

/-- The exclusive or of a list of 64-bit words. -/
def xorWords (ws : List Word64) : Word64 := ws.foldl (· ^^^ ·) 0

/-- ASCII bytes of a string. -/
def asciiBytes (s : String) : List Byte := s.toList.map fun c => BitVec.ofNat 8 c.toNat

/-- Insert into a list that is sorted by a key. -/
def insertBy {α : Type} (key : α → Nat) (x : α) : List α → List α
  | [] => [x]
  | y :: ys => if key x ≤ key y then x :: y :: ys else y :: insertBy key x ys

/-- Sort a list by a key, keeping the order of equal keys. -/
def sortBy {α : Type} (key : α → Nat) : List α → List α
  | [] => []
  | x :: xs => insertBy key x (sortBy key xs)

/-! Association lists: sparse data by key. -/

/-- The value at a key of an association list. -/
def Assoc.get {K V : Type} [DecidableEq K] (k : K) : List (K × V) → Option V
  | [] => none
  | (k', v) :: xs => if k' = k then some v else Assoc.get k xs

/-- Set the value at a key of an association list. -/
def Assoc.put {K V : Type} [DecidableEq K] (k : K) (v : V) : List (K × V) → List (K × V)
  | [] => [(k, v)]
  | (k', v') :: xs => if k' = k then (k, v) :: xs else (k', v') :: Assoc.put k v xs

/-- Remove a key of an association list. -/
def Assoc.del {K V : Type} [DecidableEq K] (k : K) (xs : List (K × V)) : List (K × V) :=
  xs.filter fun e => ¬ (e.1 = k)

end Sys2Proof.Machine
end

