-- ==== Sys2Proof/Machine/Crc.lean ====
section
/-! DEFINITION. The cyclic redundancy checks of the module: CRC-32C of control structures, headers and messages, and the
stamp polynomials of R361 with the fold values of R362. -/

namespace Sys2Proof.Machine

/-- One bit step of a reflected CRC with the given (reflected) polynomial. -/
def crcBit (poly c : Nat) : Nat := if c % 2 = 1 then (c / 2) ^^^ poly else c / 2

/-- The eight bit steps of one byte of a reflected CRC. -/
def crcByte (poly c : Nat) (b : Byte) : Nat :=
  let x := c ^^^ b.toNat
  crcBit poly (crcBit poly (crcBit poly (crcBit poly (crcBit poly (crcBit poly (crcBit poly (crcBit poly x)))))))

/-- CRC-32C of a byte list (R361, code 1, fold value 0). -/
def crc32c (bs : List Byte) : Nat :=
  (bs.foldl (crcByte 0x82F63B78) 0xFFFFFFFF) ^^^ 0xFFFFFFFF

/-- CRC-32C of a list of 64-bit words in little-endian order. -/
def crc32cWords (ws : List Word64) : Nat := crc32c (wordsBytes ws)

/-- One bit step of an unreflected CRC of width `w`. -/
def crcBitMsb (w poly c : Nat) : Nat :=
  let d := (2 * c) % 2 ^ w
  if c / 2 ^ (w - 1) % 2 = 1 then d ^^^ poly else d

/-- The eight bit steps of one byte of an unreflected CRC of width `w` (at least 8). -/
def crcByteMsb (w poly c : Nat) (b : Byte) : Nat :=
  let s := fun x => crcBitMsb w poly (crcBitMsb w poly x)
  s (s (s (s (c ^^^ (b.toNat * 2 ^ (w - 8))))))

/-- `fold_w(F)` of R362 for the width of the polynomial code. -/
def foldWidth (code F : Nat) : Nat :=
  match code with
  | 1 | 2 => (F / 2 ^ 32) % 2 ^ 32 ^^^ (F % 2 ^ 32)
  | 3 => F % 2 ^ 64
  | 4 => (F / 2 ^ 48) % 2 ^ 16 ^^^ (F / 2 ^ 32) % 2 ^ 16 ^^^ (F / 2 ^ 16) % 2 ^ 16 ^^^ F % 2 ^ 16
  | _ => 0

/-- The stamp of a block with polynomial code `code` and fold value `F` (R361, R362); 0 where the code stamps nothing. -/
def stamp (code F : Nat) (bs : List Byte) : Nat :=
  let f := foldWidth code F
  match code with
  | 1 => (bs.foldl (crcByte 0x82F63B78) (0xFFFFFFFF ^^^ f)) ^^^ 0xFFFFFFFF
  | 2 => (bs.foldl (crcByte 0xEDB88320) (0xFFFFFFFF ^^^ f)) ^^^ 0xFFFFFFFF
  | 3 => bs.foldl (crcByteMsb 64 0x42F0E1EBA9EA3693) f
  | 4 => bs.foldl (crcByteMsb 16 0x1021) (0xFFFF ^^^ f)
  | _ => 0

end Sys2Proof.Machine
end

