-- ==== Sys2Proof/Machine/State.lean ====
section
/-! DEFINITION. The state of the module as plain data: every register, table, queue, counter and mode that the manual gives it,
and the queue of waiting commands. -/

namespace Sys2Proof.Machine

/-! ### The tile -/

/-- Core island states with their codes 0 to 5 (R41 to R46, R55). -/
inductive IslandState where
  | running | draining | stopped | retain | off | waking
  deriving DecidableEq, Repr

/-- What a core island is asked to become, least strict first (R46). -/
inductive IslandTarget where
  | running | retain | off | fence
  deriving DecidableEq, Repr

/-- Check status (R114, R156): final and passed, not yet final with the operations whose checks it awaits, or failed. -/
inductive CheckStatus where
  | passed
  | pending (ops : List Nat)
  | failed
  deriving DecidableEq, Repr

/-- A packet in an inbound data crossing (R36): the flits written, those read, and those it has in all; `cut` when a truncation tail
ended it. -/
structure InEntry where
  packet : Packet
  got : Nat
  read : Nat
  flits : Nat
  cut : Bool
  deriving DecidableEq, Repr

/-- The core island of a tile, its welt and the two ends of its drain and wake (R30 to R55). -/
structure Island where
  /-- Core island state. -/
  state : IslandState
  /-- The fenced flag. -/
  fenced : Bool
  /-- Core clock setpoint in MHz; the clock reads 0 while it is stopped. -/
  clock : Nat
  /-- Stretched cycles since power-on (R33). -/
  stretched : BitVec 64
  /-- Stretched cycles of the present governor loop (R435). -/
  stretchedLoop : Nat
  /-- Welt failed. -/
  weltFailed : Bool
  /-- FENCED negative acknowledgements sent (R43). -/
  nacks : BitVec 64
  /-- Forced closes made (R48). -/
  forcedCloses : BitVec 32
  /-- The target of the drain or wake under way. -/
  target : Option IslandTarget
  /-- A request held for later (R46). -/
  held : Option IslandTarget
  /-- The next wake includes a scrub, because the tile leaves a partition (R224, R225). -/
  scrubDue : Bool
  /-- Ingress open (R41). -/
  ingressOpen : Bool
  /-- Step 1 of a drain: the core has received the quiesce request. -/
  quiesced : Bool
  /-- Step 3 of a drain: ingress has closed and the final write pointers were sent. -/
  finalSent : Bool
  /-- Step 4 of a drain: the core sent its acknowledgement. -/
  acked : Bool
  /-- Inbound data crossing: the welt's write pointer per VC, flits modulo 2^32 (R36). -/
  inWritten : Vector Nat 4
  /-- Inbound data crossing: the core's read pointer per VC. -/
  inRead : Vector Nat 4
  /-- Inbound data crossing: the read pointer as the welt's synchronizer shows it. -/
  inSeen : Vector Nat 4
  /-- Outbound data crossing: the core's write pointer per VC. -/
  outWritten : Vector Nat 4
  /-- Outbound data crossing: the welt's read pointer per VC. -/
  outRead : Vector Nat 4
  /-- Outbound data crossing: the read pointer as the core's synchronizer shows it. -/
  outSeen : Vector Nat 4
  /-- Packets of the inbound data crossing that the core has not read in full, oldest first. -/
  inPackets : List InEntry
  /-- Released packets that the core has not begun to write into the outbound data crossing, oldest first; what the crossing holds
  stands at the router's local input. -/
  outPackets : List Packet
  /-- Control crossings: words written and read, inbound by the welt and the core, outbound by the core and the welt. -/
  ctlPointers : Vector Nat 4
  /-- Inbound control crossing, at most 8 words. -/
  inCtl : List Word64
  /-- Outbound control crossing, at most 8 words. -/
  outCtl : List Word64
  /-- Edge ports of a boundary welt that are closed, by router port 0 north, 1 east, 2 south, 3 west. -/
  edgeClosed : Vector Bool 4
  /-- The welt's copy of module time in ns (R35). -/
  time : BitVec 64
  deriving DecidableEq, Repr

/-- A block of stationary operands in the array's slots (R85, R88, R93). -/
structure Block where
  handle : Nat
  fmt : Nat
  span : Nat
  panel : Nat
  depth : Nat
  width : Nat
  /-- The staged block's store address. -/
  addr : Nat
  /-- The scale bytes, in ascending K order. -/
  scales : List Byte
  /-- Element data by offset, canonical; unlisted bytes are 0. -/
  data : List Host.Cell
  /-- The command index of the LOADW. -/
  cmd : Nat
  /-- The worst check status of the staged words (R156). -/
  status : CheckStatus
  /-- The parity bit of each byte that the slots hold, where it is 1: by the byte's offset in the staged block (R109). -/
  parity : List Nat
  deriving DecidableEq, Repr

/-- An accumulator row (R90). -/
structure AccRow where
  vals : Vector Word32 512
  flags : Vector (BitVec 4) 512
  panel : Nat
  lastSpan : Nat
  group : BitVec 2
  isInt : Bool
  exponent : BitVec 16
  status : CheckStatus
  /-- Flags OR carried in by a mode 2 trailer, for the next drain trailer (R102). -/
  carried : BitVec 4
  /-- Valid width of the block that wrote the row, for the DRAIN to the store (R103). -/
  width : Nat
  /-- A DRAIN to the store has passed on the flags carried in (R102). -/
  drained : Bool
  deriving DecidableEq, Repr

/-- The MAC array of a tile (R85 to R112). -/
structure MacArray where
  /-- The block in the active slots. -/
  active : Option Block
  /-- The block waiting in the shadow slots. -/
  shadow : Option Block
  /-- A LOADW issued whose staged block is not yet loaded. -/
  loading : Option Block
  acc : Vector AccRow 4096
  /-- Next sequence number of the drain trailers per destination handle, in the current attempt (R104). -/
  trailerSeq : List (Nat × Nat)
  deriving DecidableEq, Repr

/-- One row of a tile register with its metadata (R113, R114). -/
structure RegRow where
  words : Vector Word32 512
  kind : BitVec 2
  exponent : BitVec 16
  status : CheckStatus
  deriving DecidableEq, Repr

/-- What a layer's vector commands found at their first operation, so that a re-run draws the same words and gathers the same flags
(R461). -/
structure LayerMark where
  layer : Nat
  gens : Vector (Vector Word64 8) 512
  laneFlags : Vector (BitVec 4) 512
  deriving DecidableEq, Repr

/-- The vector engine of a tile (R113 to R138). -/
structure VectorEngine where
  regs : Vector (Vector RegRow 64) 8
  laneFlags : Vector (BitVec 4) 512
  /-- The phase flag word (R131). -/
  phaseFlags : BitVec 4
  /-- Generator counters by lane and stream (R132). -/
  gens : Vector (Vector Word64 8) 512
  /-- Marks of the layers entered in the present attempt, oldest first. -/
  marks : List LayerMark
  deriving DecidableEq, Repr

/-- A descriptor (R142), its fields as numbers. -/
structure Descriptor where
  kind : Nat
  vc : Nat
  startOnArm : Bool
  poly : Nat
  depth : Nat
  buckle : Nat
  budget : Nat
  addr : Nat
  rowLen : Nat
  rows : Nat
  stride : Nat
  target : Nat
  position : Nat
  index : Nat
  deriving DecidableEq, Repr

/-- A packet that a transfer has sent and that is not answered yet. -/
structure Asked where
  packet : Packet
  /-- The cause of its negative acknowledgement, while it is refused (R152). -/
  refused : Option (BitVec 4)
  deriving DecidableEq, Repr

/-- A transfer that has issued and not completed (R140). -/
structure Transfer where
  idx : Nat
  /-- Module time of its issue. -/
  issued : Nat
  /-- Its packets that await their answers. -/
  asked : List Asked
  /-- Whether it ever saw a refusal, a link replay or an escape spill (R160). -/
  sawRefusal : Bool
  sawReplay : Bool
  sawSpill : Bool
  /-- The longest core clock period since its issue, in ps (R159). -/
  slow : Nat
  deriving DecidableEq, Repr

/-- An arming: a descriptor copied into a queue slot by one ARM (R145). -/
structure Arming where
  desc : Descriptor
  gen : BitVec 8
  started : Bool
  /-- A SEND or RECV recorded while it waits in the shadow slot (R146). -/
  startRecorded : Bool
  /-- Index of the next transfer to issue. -/
  next : Nat
  outstanding : List Transfer
  completed : Nat
  /-- Bytes an EXPECT has received (R140). -/
  received : Nat
  /-- A transfer is withheld because it reads a failed word (R151). -/
  withheld : Bool
  cancelled : Nat
  /-- Command index of the ARM, and of the command that started the arming. -/
  cmd : Nat
  startCmd : Nat
  /-- Kept through a layer re-run, and whether it had started before the re-run (R461). -/
  kept : Bool
  keptStarted : Bool
  /-- Its ARM repeats one of the same attempt, so that its conversions count as a re-run (R71). -/
  again : Bool
  deriving DecidableEq, Repr

/-- A stream queue (R139, R145). -/
structure Queue where
  armCount : BitVec 64
  active : Option Arming
  shadow : Option Arming
  /-- Armings that a layer re-run ended while transfers of theirs were still to be answered (R461). -/
  ending : List Arming
  faulted : Bool
  /-- Order of its last issue, for the least recently served rule; 0 for never. -/
  lastServed : Nat
  deriving DecidableEq, Repr

/-- The stream unit of a tile (R139 to R162). -/
structure StreamUnit where
  queues : Vector Queue 32
  /-- Issues made, for the least recently served rule. -/
  serves : Nat
  /-- The binding table: the physical tile of each logical tile of the partition, none while it is marked unbound (R150, R244). -/
  binding : List (Option TileId)
  overruns : BitVec 64
  largestOverrun : BitVec 32
  rearmOverruns : BitVec 32
  refusals : BitVec 64
  resends : BitVec 64
  cancelled : BitVec 64
  withheld : BitVec 32
  /-- Requests refused at least once under the store's arbitration (R155, R162). -/
  storeRefusals : BitVec 64
  ignoredArms : BitVec 32
  /-- Packets that the core has read in full from its inbound data crossing and that no unit of it has used yet. -/
  received : List Packet
  /-- Bytes of each contribution that PASS_REQUEST asked for again are re-sent from here: pass per bucket handle (R331). -/
  passOf : List (Nat × Nat)
  deriving DecidableEq, Repr

/-- An operand record (R169). -/
structure OperandRecord where
  handle : Nat
  fmt : Nat
  staged : Bool
  stride : Nat
  span : Nat
  panel : Nat
  firstK : Nat
  carryAddr : Nat
  deriving DecidableEq, Repr

/-- A scale table as a receiver holds it (R68). -/
structure ScaleTable where
  handle : Nat
  fmt : Nat
  kind : Nat
  headroom : Nat
  shift : Int
  step : Nat
  seq : Nat
  scales : List Byte
  deriving DecidableEq, Repr

/-- An arrival that waits for the commands it covers (R178). -/
structure HeldArrival where
  cmd : Nat
  buckle : Nat
  count : Nat
  /-- Covers every earlier command of the list; otherwise the one before it. -/
  all : Bool
  deriving DecidableEq, Repr

/-- Context states with their codes 0 to 5 (R189). -/
inductive CtxState where
  | idle | issuing | atBuckle | waiting | atStep | faulted
  deriving DecidableEq, Repr

/-- A page of a command list in a context's buffer (R185). -/
structure PageSlot where
  page : Nat
  /-- The page's bytes once it has arrived and passed its check. -/
  bytes : Option (List Byte)
  deriving DecidableEq, Repr

/-- An issue context (R182 to R186). -/
structure Context where
  state : CtxState
  /-- Command index of the next command to issue. -/
  pos : Nat
  /-- Command indices issued and not completed (their tags). -/
  outstanding : List Nat
  arrivals : List HeldArrival
  pages : List PageSlot
  /-- The arrival of an ARRWAIT at the front of the list has been sent. -/
  arrwaitSent : Bool
  /-- It waits for a page (R185, R189). -/
  pageWait : Bool
  deriving DecidableEq, Repr

/-- The sequencer of a tile (R163 to R189). -/
structure Sequencer where
  ctxs : Vector Context 4
  /-- Descriptor table of the logical tile: the 8 words of each descriptor. -/
  descriptors : List (List Word64)
  records : List OperandRecord
  completed : BitVec 64
  /-- Cycles of waits for pages, in thousandths (R189). -/
  pageWaits : Nat
  pageFails : BitVec 32
  lastFault : BitVec 64
  /-- Revision of the bound image, 0 for none. -/
  boundImage : BitVec 32
  /-- Scale tables present for the current step, by handle. -/
  tables : List (Nat × ScaleTable)
  /-- Contributions of the current step and attempt that a handle's next drain trailer would have, and the layer each list last
  entered, for RESIDUE_MISMATCH and SUBSTITUTION (R463). -/
  lastLayer : Vector Nat 4
  /-- The step-ready message was sent. -/
  stepReady : Bool
  /-- Command indices below these have been counted in the step's counts; a command that a re-run repeats is counted as a re-run
  only (R107). -/
  counted : Vector Nat 4
  deriving DecidableEq, Repr

/-! ### Stacks, regions and the update (Stack Engines and the Weight Update) -/

/-- A tag: the step and the attempt of a block's last write (R197). -/
structure Tag where
  step : Nat
  attempt : Nat
  deriving DecidableEq, Repr

/-- The kinds of region in a partition's slices (R194). -/
inductive RegionKind where
  | masterHigh | masterLow | image | moment1 | moment2 | accumulation | residual | checkpoint | data
  deriving DecidableEq, Repr

/-- A region's name: its tensor handle, its kind, and which of its two buffers (false for a single buffer). -/
structure RegionKey where
  handle : Nat
  kind : RegionKind
  buffer : Bool
  deriving DecidableEq, Repr

/-- A region of a partition's slices: its bytes in canonical form by offset (an unlisted byte reads 0, as a clean block does,
R226), the 4 KiB blocks written since the slices were made clean (the clean map's cleared bits), and the tags (R197). -/
structure Region where
  cells : List Host.Cell
  written : List Nat
  tags : List (Nat × Tag)
  deriving DecidableEq, Repr

/-- What the Skiver and the Burnisher have done with an element group in this attempt (R198, R205, R202, R210). -/
inductive GroupState where
  | unswept | swept | updated | sweepFailed | updateFailed
  deriving DecidableEq, Repr

/-- Base die states with their codes 0 to 2 (R218). -/
inductive StackPower where
  | up | selfRefresh | failed
  deriving DecidableEq, Repr

/-- A stack with its base die (R190 to R218). -/
structure Stack where
  power : StackPower
  /-- Its edge ports are closed (Standby). -/
  portsClosed : Bool
  /-- Current bits of the double-buffered tensors, by partition and handle (R196). -/
  current : List ((Nat × Nat) × Bool)
  /-- Step number of the last sweep completed on this stack (R218). -/
  lastSweep : BitVec 64
  narrowed : BitVec 64
  overflows : BitVec 64
  updated : BitVec 64
  increments : BitVec 64
  nonfinite : BitVec 64
  mismatches : BitVec 32
  parts : BitVec 64
  sweepWaits : BitVec 64
  /-- Nanoseconds at the floor share (R191, R218). -/
  floorTime : BitVec 64
  corrected : BitVec 64
  uncorrectable : BitVec 32
  /-- Slices whose blocks module reset has yet to make clean. -/
  toClean : Vector Bool 8
  /-- Stack power in mW, as last measured (R424). -/
  powerMw : Nat
  deriving DecidableEq, Repr

/-! ### Buckles (Buckles, Ordering and Conservation) -/

/-- A physical range: its generation and its counters, each stored with the generation of its last write (R251). Unlisted
counters read 0. -/
structure BuckleRange where
  generation : BitVec 64
  /-- Counters by index within the range: the stored generation and the count. -/
  counters : List (Nat × (BitVec 64 × BitVec 32))
  deriving DecidableEq, Repr

/-- A registered watch: a logical tile's list waits until a Buckle reaches a target (R258). -/
structure Watch where
  part : Nat
  tile : Nat
  list : Nat
  buckle : Nat
  target : Nat
  cmd : Nat
  deriving DecidableEq, Repr

/-- Home of a Buckle (R255). -/
inductive Home where
  | sequencer (logical : Nat)
  | welt (t : TileId)
  deriving DecidableEq, Repr

/-- A closing count under way for a Buckle after a commit advance (R265). -/
structure Closing where
  buckle : Nat
  generation : BitVec 64
  count : Nat
  total : Nat
  /-- Module time at which its window opened. -/
  opened : Nat
  deriving DecidableEq, Repr

/-- The tokens of a physical Buckle in a generation (R270); what is in flight is in the fabric's packets. -/
structure TokenAccount where
  buckle : Nat
  generation : BitVec 64
  sent : Nat
  applied : Nat
  retired : Nat
  rejected : Nat
  deriving DecidableEq, Repr

/-- The conservation audit (R275). -/
structure Audit where
  period : BitVec 32
  checks : BitVec 64
  broken : BitVec 32
  lastBroken : List Byte
  sent : BitVec 64
  applied : BitVec 64
  retired : BitVec 64
  rejected : BitVec 64
  suppressed : BitVec 64
  planned : BitVec 64
  completed : BitVec 64
  cancelled : BitVec 64
  closingPassed : BitVec 64
  satisfyRefused : BitVec 64
  window : BitVec 32
  probe : BitVec 16
  probeResult : List Byte
  /-- The token accounts (R270). -/
  tokens : List TokenAccount
  /-- Markers that are on their way: hop, B and K_s (R273). -/
  markers : List (Hop × Nat × Nat)
  /-- Hops whose last credit check broke (R472). -/
  brokenHops : List Hop
  deriving DecidableEq, Repr

/-- The sent map of one list of a tile, kept by its welt (R267): indices whose arrival was sent, and the highest. -/
structure SentMap where
  sent : List Nat
  high : Option Nat
  deriving DecidableEq, Repr

/-! ### The on-wafer fabric -/

/-- Where the flits of a buffered packet come from that have not arrived yet: the core through its outbound crossing, the welt
itself, the neighbour's router, a sender outside the routers, or the reinjection buffer (R299). -/
inductive Feed where
  | core | welt | link | outside | escape
  deriving DecidableEq, Repr

/-- A packet at a router input (R279, R286 to R289). Its flits lie in the slots from `sent` to `got`. -/
structure BufEntry where
  port : RPort
  vc : Nat
  /-- The pool of the slots it takes here. -/
  pool : Nat
  packet : Packet
  feed : Feed
  /-- Flits that have arrived. -/
  got : Nat
  /-- Flits that have left or were consumed. -/
  sent : Nat
  /-- Flits that it has in all, a truncation tail among them. -/
  flits : Nat
  /-- The class at this hop (R289). -/
  cls : Nat
  /-- The output that the head was routed to, after its checks. -/
  out : Option RPort
  /-- The welt decided to deliver it through the local port (R45). -/
  won : Bool
  /-- Held at the input until the alternate set is in force (R293). -/
  held : Bool
  /-- Its flits are consumed as they arrive (R43, R283, R293). -/
  drop : Bool
  /-- A truncation tail ends it (R285). -/
  cut : Bool
  deriving DecidableEq, Repr

/-- A stream in spill mode at an input (R298): source, flow, generation. -/
structure StreamKey where
  src : Nat
  flow : Nat
  gen : Nat
  deriving DecidableEq, Repr

/-- A spilled packet: where it lies and the input that it left (R298, R299). -/
structure Spilled where
  welt : TileId
  port : RPort
  pool : Nat
  slice : SliceId
  slot : Nat
  order : Nat
  packet : Packet
  /-- The base die has stored it. -/
  stored : Bool
  /-- It stands in the welt's reinjection buffer, read back as an escape return (R299). -/
  back : Bool
  /-- When it was spilled. -/
  at_ : Nat
  deriving DecidableEq, Repr

/-- What a probe carries for the oldest packet it has met (R297), and the partition that the packet's header names. -/
structure Probe where
  stamp : Nat
  key : StreamKey
  part : Nat
  /-- The buffer: the router, or the edge die's endpoint, with input port, VC and pool. -/
  at_ : Nat
  port : Nat
  vc : Nat
  pool : Nat
  deriving DecidableEq, Repr

/-- A VC and pool at a port of a router: port, VC, pool. -/
abbrev PoolKey := Nat × Nat × Nat

/-- The welt's router (R276 to R304). -/
structure Router where
  /-- Packets at the inputs, those of one port, VC and pool oldest first. -/
  bufs : List BufEntry
  /-- Credits returned per input port, VC and pool (K_r of R273). -/
  returned : List (PoolKey × Nat)
  /-- Credit balance per mesh or edge output, VC and pool; unlisted ones hold the buffer's depth (B of R273). -/
  balance : List (PoolKey × Nat)
  /-- Credits received per output, VC and pool (K_s of R273). -/
  received : List (PoolKey × Nat)
  /-- Flits in the data crossing into the edge die (R36). -/
  edgeCrossing : List (PoolKey × Nat)
  /-- Occupied slots of the edge die's buffer behind the edge port. -/
  edgeHeld : List (PoolKey × Nat)
  /-- Credits that the edge die returned for that buffer. -/
  edgeReturned : List (PoolKey × Nat)
  /-- The edge die's credit balance toward this router; unlisted ones hold the buffer's depth. -/
  edgeBalance : List (PoolKey × Nat)
  /-- Credits that the edge die received from this router. -/
  edgeReceived : List (PoolKey × Nat)
  /-- Per output, the place in the round robin of the input whose packet was taken last: 0 local, 1 north, 2 east, 3 south, 4 west
  (R287). -/
  turn : Vector Nat 5
  /-- Per output, slots since VC3 took one, at most 49 (R287). -/
  sinceVc3 : Vector Nat 5
  /-- Mesh links up, by port 0 to 3. -/
  linkUp : Vector Bool 4
  flits : BitVec 64
  classRaises : BitVec 32
  headerFaults : BitVec 32
  correctedFlits : BitVec 64
  /-- Outputs that are stuck: port, VC, pool (R297). -/
  stuck : List (RPort × Nat × Nat)
  /-- A probe launched by this welt and not yet returned or dropped. -/
  probe : Option Probe
  /-- Per input and partition, the time of the last packet that crossed, for the partition mask (R458). -/
  seen : List ((RPort × PartId) × Nat)
  /-- Streams in spill mode per input. -/
  spilling : List (RPort × StreamKey)
  sentMaps : Vector SentMap 4
  watches : List Watch
  deriving DecidableEq, Repr

/-- The module-wide fabric (R281 to R303). -/
structure Fabric where
  agingWait : BitVec 32
  cyclesBroken : BitVec 32
  spilled : BitVec 64
  reinjected : BitVec 64
  escapeExhausted : BitVec 32
  headerFaults : BitVec 32
  correctedFlits : BitVec 64
  uncorrectable : BitVec 32
  sequenceFaults : BitVec 32
  lastCycle : List Byte
  truncated : BitVec 32
  /-- The alternate set for the failed welts is in force at every router (R293). -/
  alternates : Bool
  /-- Next sequence number per source endpoint, flow and VC (R284). -/
  seqOut : List ((Nat × Nat × Nat) × BitVec 32)
  /-- Destination history: destination, source, flow, VC; number last accepted and its time (R284). -/
  history : List ((Nat × Nat × Nat × Nat) × (BitVec 32 × Nat))
  /-- Escape slots in use (R298). -/
  escape : List Spilled
  spillOrder : Nat
  /-- Free escape slots per slice; unlisted slices have all 16,384 (R195, R270). -/
  escapeFree : List (Nat × Nat)
  /-- The escape slot to use next in each partition, counted along its stripe list (R298). -/
  escapeNext : List (Nat × Nat)
  /-- The oldest stream of a cycle that its origin has ordered spilled, by origin. -/
  spillOrders : List (Nat × StreamKey)
  /-- Next sequence number of Buckle messages, by source and destination (R259). -/
  buckleSeqOut : List ((Nat × Nat) × BitVec 32)
  /-- Sequence number expected next of Buckle messages, by source and destination. -/
  buckleSeqIn : List ((Nat × Nat) × BitVec 32)
  /-- Packets and messages sent and not yet received. -/
  inFlight : List Packet
  deriving DecidableEq, Repr

/-! ### Vilet ports and link dies -/

/-- Port states with their codes 0 to 5 (R320). -/
inductive PortState where
  | disabled | down | training | up | retraining | draining
  deriving DecidableEq, Repr

/-- A flit in a port's replay buffer or waiting to be sent (R310, R312): type, VC, head, tail, destination module, hops,
sequence number, payload, and the source that a packet flit comes from: 0 the other port of the link die, 1 the edge port, 2 the collective engine (R317). -/
structure TxFlit where
  type : Nat
  vc : Nat
  head : Bool
  tail : Bool
  dest : Nat
  hops : Nat
  seq : Nat
  payload : List Byte
  source : Nat
  deriving DecidableEq, Repr

/-- A flit as it leaves on the lanes (R309, R310): the two header words and the payload. -/
structure LineFlit where
  w0 : Word64
  w1 : Word64
  payload : List Byte
  deriving DecidableEq, Repr

/-- A Vilet port (R305 to R325). -/
structure Port where
  state : PortState
  /-- Mode code 0 to 4. -/
  mode : Nat
  permitted : BitVec 8
  /-- Cable present. -/
  present : Bool
  identity : List Byte
  peer : List Byte
  /-- The permitted modes and the passing lanes of the peer's last identity flit (R308, R310). -/
  peerPermitted : BitVec 8
  peerPassing : BitVec 16
  roundTrip : BitVec 32
  /-- The round trip of the last training, for the replay timeout. -/
  trainingTrip : Nat
  /-- Largest probe time of the present audit period, or of the present training attempt. -/
  probeMax : Nat
  /-- Echoes received in the present training attempt (R307). -/
  echoes : Nat
  /-- The last flit that left on the lanes (R309, R312). -/
  lineOut : Option LineFlit
  /-- The VC whose count comes next in turn, and the count of each VC that was sent last (R316). -/
  creditTurn : Nat
  creditSent : Vector Nat 4
  sent : BitVec 64
  accepted : BitVec 64
  corrected : Vector (BitVec 64) 16
  uncorrectable : BitVec 64
  headerFails : BitVec 32
  replays : BitVec 32
  replayed : BitVec 64
  retrains : BitVec 32
  errorRatio : Word32
  forwarded : BitVec 64
  discarded : BitVec 64
  classRaises : BitVec 32
  passing : BitVec 16
  /-- Class of the packet at the head of each source's queue for the output on each VC, at 3 * VC + source (R317). -/
  classes : Vector Nat 12
  /-- The source whose packet is under way on each VC (R311). -/
  owner : Vector (Option Nat) 4
  /-- The source whose turn is next in each class (R317). -/
  turn : Vector Nat 4
  /-- A packet that arrives on each VC is forwarded, and its tail has not yet passed (R318). -/
  through : Vector Bool 4
  /-- Flit slots since VC3 last took its share (R317). -/
  share : Nat
  /-- The next training attempt is a half-rate attempt (R308). -/
  halfNext : Bool
  /-- Next sequence number to assign (R312). -/
  txSeq : Nat
  /-- Replay buffer, oldest first: 4,096 flits, and echoes behind them (R312). -/
  replayBuf : List TxFlit
  /-- Flits not yet sent for the first time. -/
  outQueue : List TxFlit
  lastAck : Nat
  replaysInRow : Nat
  rxSeq : Nat
  /-- The receiver has a NAK outstanding. -/
  nak : Bool
  /-- The next outgoing flit carries the NAK (R313). -/
  nakDue : Bool
  /-- Occupied receive slots per VC (R315). -/
  rxHeld : Vector Nat 4
  /-- Payloads of a packet being assembled per VC: destination module, hops, bytes so far. -/
  rxParts : Vector (List Byte) 4
  /-- Module hops of the packet being assembled, per VC (R310). -/
  rxHops : Vector Nat 4
  rxDiscard : Vector Bool 4
  /-- Credits returned since Up, modulo 8,192 (R316). -/
  returned : Vector Nat 4
  /-- Credit balance for sending per VC. -/
  credits : Vector Nat 4
  /-- Credits received since Up, modulo 8,192. -/
  received : Vector Nat 4
  drainSent : Bool
  drainDoneSent : Bool
  drainDoneGot : Bool
  /-- The drain under way ends in Disabled (PORT_DISABLE). -/
  disableAfter : Bool
  /-- Time the present retrain began, for the down timeout. -/
  retrainStart : Nat
  /-- Confirmed as matched with the peer end's partition (R227). -/
  matched : Bool
  /-- Forwarding table: output port by destination module (R318). -/
  forwarding : List (Nat × PortId)
  /-- Auxiliary supply of the receptacle on (R575). -/
  vaux : Bool
  deriving DecidableEq, Repr

/-! ### Collectives (per partition) -/

/-- A contribution entry of a tile's stream unit (R333). -/
structure Contribution where
  logical : Nat
  bucket : Nat
  addr : Nat
  rowLen : Nat
  rows : Nat
  stride : Nat
  residual : Nat
  offset : Nat
  deriving DecidableEq, Repr

/-- What has become of a wire block in this attempt (R339). -/
inductive BlockFate where
  | open_ | marked | final | carried
  deriving DecidableEq, Repr

/-- A wire block of a bucket at this module in the present attempt (R330 to R339). -/
structure WireBlock where
  index : Nat
  /-- Codes by wire byte within the block for the pass under way, as signed integers; empty until written. -/
  codes : List Int
  /-- Magnitude of this module's contribution. -/
  mu : Nat
  muKnown : Bool
  /-- The increase e_b. -/
  increase : Nat
  pass : Nat
  fate : BlockFate
  /-- Exact sums and contribution count, once it is final at this module as the owner or by a node copy. -/
  sums : List Int
  count : Nat
  delivered : Bool
  /-- The members' exponent of its final pass, X + e. -/
  exponent : Int
  /-- The ring entry that the commit writes, once decided (R334). -/
  maxSum : Nat
  /-- A residual rewrite of R345 for this block is still due. -/
  rewriteDue : Bool
  /-- The pass re-send of this block is on its way to the engine (R340). -/
  asked : Bool
  deriving DecidableEq, Repr

/-- A bucket at this module (R328 to R348). -/
structure Bucket where
  handle : Nat
  /-- Covered bytes written in pass 1, counted once each. -/
  coveredWritten : List Nat
  full : Bool
  start : Option Nat
  late : Bool
  /-- The deadline's module time when it passed. -/
  deadlineAt : Nat
  /-- Segments held until this member's contribution is full or late: trailer words and codes. -/
  held : List SegmentIn
  blocks : List WireBlock
  /-- Omission rewrites not yet acknowledged: logical tiles. -/
  rewrites : List Nat
  passResends : Nat
  rewritten : Nat
  chunksDone : List Nat
  /-- Passes of chunks in progress at this module, each an operation of its engine (R327): chunk, pass. -/
  active : List (Nat × Nat)
  /-- Divisor of each chunk by owner shard index. -/
  divisors : List (Nat × Nat)
  finals : Vector Nat 4
  carried : Nat
  /-- Members omitted: shard index, start, deadline. -/
  omitted : List (Nat × Nat × Nat)
  doneSent : Bool
  deriving DecidableEq, Repr

/-- Exact norm sums of a weight (R211): g², w², s², in units of 2^-298. -/
structure NormSums where
  g : Nat
  w : Nat
  u : Nat
  deriving DecidableEq, Repr

/-- The collective state of a partition in this module. -/
structure Reduce where
  buckets : List Bucket
  contributions : List Contribution
  /-- Wire rings by bucket handle and block: 16 E8M0 entries. -/
  wireRings : List ((Nat × Nat) × List Byte)
  /-- Wire exponents X_b of the step by bucket handle, present once complete. -/
  wireExps : List (Nat × List Int)
  /-- Scale fragments, this module's own among them: step, handle, first block or slot, bytes (R335). -/
  fragments : List (Nat × Nat × Nat × List Byte)
  /-- Next sequence number of segment trailers sent, by bucket; and expected. -/
  segOut : List (Nat × Nat)
  segIn : List (Nat × Nat)
  /-- Expected sequence numbers of other collective control structures, by kind and handle. -/
  ctlIn : List ((Nat × Nat) × Nat)
  /-- Norm trailers received for the previous step: handle, member, sums. -/
  trailers : List (Nat × Nat × NormSums)
  /-- This module's sums of the previous step, by handle. -/
  prevNorms : List (Nat × NormSums)
  /-- Weights and members whose first gather part of the step has been served (R352). -/
  served : List (Nat × Nat)
  /-- Permute declarations' entries moved in this attempt. -/
  permuted : List (Nat × Nat)
  deriving DecidableEq, Repr

/-- The module-wide collective entries (R357). -/
structure Collective where
  deadline : BitVec 32
  late : BitVec 8
  ringTimeout : BitVec 32
  reduced : BitVec 64
  finals : Vector (BitVec 64) 4
  carried : BitVec 64
  omissions : BitVec 32
  lastOmission : List Byte
  passResends : BitVec 64
  rewrites : BitVec 64
  gatherServed : BitVec 64
  timeouts : BitVec 32
  deriving DecidableEq, Repr

/-! ### Stamps, records and comparison -/

/-- A running value or fingerprint (A, N) under a key with its polynomial (R365). -/
structure Fingerprint where
  key : Nat
  poly : Nat
  a : Nat
  n : Nat
  deriving DecidableEq, Repr

/-- A block stamp: key, fold value F, stamp S (R363, R371). -/
structure BlockStamp where
  key : Nat
  layer : Nat
  f : Nat
  s : Nat
  logical : Nat
  deriving DecidableEq, Repr

/-- The Stamp unit of a tile: 32 contexts and the layer stamp tables not yet sent (R365, R366). -/
structure StampUnit where
  ctxs : Vector (Option Fingerprint) 32
  /-- Block stamps behind each context's running value, by queue. -/
  blocks : Vector (List BlockStamp) 32
  /-- Layer stamp tables: layer and fingerprints. -/
  tables : List (Nat × List Fingerprint)
  tableBlocks : List (Nat × List BlockStamp)
  sent : Nat
  deriving DecidableEq, Repr

/-- Modes of Record, Replay and Compare with their codes 0 to 3 (R379). -/
inductive RunMode where
  | off | record | replay | compare
  deriving DecidableEq, Repr

/-- Conversion and flag counts of a tensor in a step (R71, R107, R372): overflow and non-finite counts for forward, recompute,
backward and update; SAT, OVF, INV, NIN counts for forward, recompute, backward; and the re-run totals. -/
structure Counts where
  conv : Vector Nat 8
  flags : Vector Nat 12
  rerunConv : Nat
  rerunFlags : Nat
  deriving DecidableEq, Repr

/-- An event of the step's record (R376): its four words. -/
structure Event where
  w0 : Word64
  w1 : Word64
  w2 : Word64
  w3 : Word64
  deriving DecidableEq, Repr

/-- Times and counts of a logical tile in the step (R374, R375): the eight time classes in ns, the throttle times, the overruns
and the phase flag words. -/
structure TileTimes where
  classes : Vector Nat 8
  throttled : Vector Nat 8
  overruns : Vector Nat 5
  phaseFlags : Vector (BitVec 4) 5
  /-- Marked phase 1 to 5, 0 before the first MARK (R180). -/
  phase : Nat
  /-- Markers in order: phase, layer, marker number, time. -/
  markers : List (Nat × Nat × Nat × Nat)
  deriving DecidableEq, Repr

/-- The record and comparison state of a partition (R369 to R387). -/
structure Replay where
  setting : RunMode
  inForce : RunMode
  blockStamps : Bool
  /-- Records held, oldest first: step and bytes. -/
  records : List (Nat × List Byte)
  /-- Reference records present, in step order: step and bytes. -/
  references : List (Nat × List Byte)
  chain : Nat
  refChain : Nat
  /-- Fingerprints of the step gathered by the module controller, with the logical tile and layer of each tile table. -/
  tables : List (Nat × Nat × List Fingerprint)
  fingers : List (Nat × Fingerprint)
  blocks : List BlockStamp
  counts : List (Nat × Counts)
  events : List Event
  times : List (Nat × TileTimes)
  stepStart : Nat
  written : BitVec 64
  truncated : BitVec 32
  refWaits : BitVec 64
  refFaults : BitVec 32
  report : List Byte
  stops : BitVec 32
  forced : BitVec 32
  readout : BitVec 64
  ignored : BitVec 32
  /-- A Compare stop is in force (R382). -/
  stopped : Bool
  /-- The comparison of the step has matched or was released. -/
  compared : Bool
  /-- The record of the step whose commit is under way: step, bytes, chain value and whether its block stamps were cut off. -/
  closing : Option (Nat × List Byte × Nat × Bool)
  deriving DecidableEq, Repr

/-! ### Cinch -/

/-- A partition's hold window (R394): when it opened, its length, and the edge that closed it. -/
structure HoldWindow where
  opened : Nat
  length : Nat
  /-- When it closed, and the timestamp of the edge that closed it; none for expiry. -/
  closed : Option (Nat × Option Nat)
  deriving DecidableEq, Repr

/-- The Cinch circuits (R389 to R402). -/
structure Cinch where
  observe : BitVec 16
  window : BitVec 32
  outMode : BitVec 8
  outPart : BitVec 8
  accepted : BitVec 64
  ignored : BitVec 64
  filtered : BitVec 32
  lastEdge : BitVec 64
  /-- The last transition to logic 1, for the filter (R391), in quarter ns; none before the first. -/
  lastSeen : Option Nat
  expired : BitVec 64
  lastHold : List Byte
  level : Bool
  holdTime : BitVec 64
  /-- The level of CINCH_OUT (R398). -/
  outLevel : Bool
  /-- Pulses sent on CINCH_OUT. -/
  pulses : BitVec 64
  /-- Test-pulse writes ignored (R398). -/
  testIgnored : BitVec 32
  deriving DecidableEq, Repr

/-! ### Power -/

/-- Converter states with their codes 0 to 2 (R421). -/
inductive ConverterState where
  | working | failed | disabled
  deriving DecidableEq, Repr

/-- Input bands of R403. -/
inductive InputBand where
  | absent | over | normal | low | lost
  deriving DecidableEq, Repr

/-- The power input and the converters (R403 to R407, R420, R421). -/
structure PowerInput where
  /-- The last sample of V_in in mV. -/
  sample : Nat
  band : InputBand
  /-- When the band Over or Lost was entered, for their 1 ms. -/
  bandSince : Nat
  /-- Converters deliver power. -/
  running : Bool
  converters : Vector ConverterState 32
  /-- OD 0x2400.07. -/
  disable : Vector Bool 32
  lowEntries : BitVec 32
  lowTime : BitVec 64
  inputMillivolts : Nat
  inputMilliamps : Nat
  inputWatts : Nat
  busMillivolts : Nat
  edgePower : List Nat
  intervalEnd : Nat
  /-- EPO_L asserted. -/
  epo : Bool
  /-- An emergency power-off to count at the next power-on (R405). -/
  epoPending : Bool
  deriving DecidableEq, Repr

/-- Wake request classes 1 to 4 (R419), a request's time, and whether it was counted as deferred. -/
structure WakeReq where
  tile : TileId
  cls : Nat
  at_ : Nat
  deferred : Bool
  deriving DecidableEq, Repr

/-- Regulator, sensors and limits of a tile (R410 to R422, R438, R452). -/
structure TilePower where
  /-- Core rail setpoint in mV. -/
  setpoint : Nat
  rail : Nat
  current : Nat
  peak : Nat
  weltRail : Nat
  phases : BitVec 8
  /-- Bad checks in a row, per phase (R412). -/
  badChecks : Vector Nat 8
  controllerFault : Bool
  boosts : BitVec 64
  shunts : BitVec 64
  wakes : BitVec 32
  wakesDeferred : BitVec 32
  longestDeferral : BitVec 32
  /-- Current allowance in A (R416, R431). -/
  allowance : Nat
  /-- The soft-start is under way. -/
  softStart : Bool
  temp : Int
  peakTemp : Int
  /-- Governor ceilings in MHz. -/
  ceiling : Nat
  thermalCeiling : Nat
  droopCeiling : Nat
  slackCeiling : Nat
  /-- Throttle reasons active, bit per code. -/
  reasons : BitVec 8
  durations : Vector (BitVec 64) 8
  ballastTime : BitVec 64
  /-- Until when a phase loss or a forced close makes the readings estimates (R447). -/
  estimateUntil : Nat
  /-- The reason for which issue is withheld in the present slope interval (R441). -/
  withheld : Option Nat
  /-- The allowance was lowered for a deferred wake (R418). -/
  lowered : Bool
  /-- The allowance rises from 20 A after a soft-start (R417). -/
  rising : Bool
  /-- Reasons met since the last loop (R442). -/
  reasonsLoop : BitVec 8
  heatOffs : BitVec 32
  droopSteps : BitVec 32
  heatOff : Bool
  /-- Current of the last slope interval in A (R433). -/
  lastDraw : Nat
  ballast : Nat
  /-- A ramp under way toward a hinted current: target A, the scheduled start, the hint's time (R436). -/
  ramp : Option (Nat × Nat × Nat)
  /-- Governor loops since the last droop step (R435). -/
  quietLoops : Nat
  deriving DecidableEq, Repr

/-- A compute die (R409, R416 to R423). -/
structure Die where
  railMillivolts : Nat
  railMilliamps : Nat
  phases : BitVec 16
  softStartTile : Option TileId
  /-- Wake requests not yet admitted (R419). -/
  requests : List WakeReq
  deferred : BitVec 32
  lowerings : BitVec 32
  /-- Allowances are being lowered for the request at the front (R418). -/
  lowering : Bool
  /-- The rail is lost (R54). -/
  railLost : Bool
  temp : Int
  deriving DecidableEq, Repr

/-- Binding terms of the effective limit with their codes 0 to 3 (R426, R450). -/
inductive BindingTerm where
  | cap | input | converters | coolant
  deriving DecidableEq, Repr

/-- The power governor (R426 to R450). -/
structure Governor where
  cap : BitVec 32
  /-- A cap accepted and in effect from the next loop. -/
  capNext : BitVec 32
  effective : Nat
  binding : BindingTerm
  computeFloor : BitVec 16
  stackFloor : BitVec 16
  basePower : Nat
  linkPower : Nat
  stackPower : Nat
  computePower : Nat
  /-- The floor powers of the last loop, in W (R427). -/
  floorPower : Nat
  ceiling : Nat
  /-- The engines' share of internal bandwidth in GB/s. -/
  stackShare : Nat
  warnings : BitVec 8
  slackSent : BitVec 32
  slackReceived : BitVec 32
  slackMatching : BitVec 8
  slackThreshold : BitVec 32
  slackFloor : BitVec 16
  target : BitVec 16
  droopLimit : BitVec 32
  calibrated : Bool
  estimateError : BitVec 16
  hints : BitVec 64
  shortLead : BitVec 64
  capRefused : BitVec 32
  /-- Nanoseconds under slack ceilings. -/
  slackTime : Nat
  discarded : BitVec 32
  /-- Fitted coefficients by tile; a tile not listed has its fused defaults. -/
  coefficients : List (TileId × Coefficients)
  /-- Hints counted in the fit: tile, current, from which time (R437). -/
  fit : List (TileId × Nat × Nat)
  /-- Module time since which the limit has been exceeded with every domain at its minimum. -/
  overSince : Option Nat
  deriving DecidableEq, Repr

/-- Temperatures and the coolant (R438 to R440, R451). -/
structure Thermal where
  throttle : BitVec 16
  migrate : BitVec 16
  returnTemp : BitVec 16
  inlet : Int
  outlet : Int
  flow : Nat
  /-- Since when one of the coolant fault's conditions has held. -/
  badSince : Option Nat
  /-- Since when every limit of R440 has held (R553). -/
  goodSince : Option Nat
  heatOffs : BitVec 32
  heatMigrations : BitVec 32
  coolantFaults : BitVec 32
  edgeTemps : Vector Int 33
  /-- Migrations deferred for want of a tile (R449). -/
  heatDeferred : BitVec 32
  /-- Tiles at or above the migrate temperature: since when, and whether their migration was counted as deferred (R438, R449). -/
  hotSince : List (TileId × Nat × Bool)
  deriving DecidableEq, Repr

/-! ### Faults and records -/

/-- The key under which reports coalesce (R475). -/
structure RecordKey where
  code : Nat
  origin : Nat
  sub : Nat
  step : Option Word64
  attempt : Option (BitVec 8)
  part : Option Nat
  deriving DecidableEq, Repr

/-- An open coalescing window (R475): the report that opened it with its witnesses summed so far. -/
structure CoWindow where
  report : ErrorReport
  opened : Nat
  deriving DecidableEq, Repr

/-- An error record as it stands in the ring: its sequence number and its words (R473, R476). -/
structure Record where
  seq : BitVec 32
  words : List Word64
  cls : Nat
  part : Option Nat
  deriving DecidableEq, Repr

/-- Fault recording and its settings (R473 to R480). -/
structure Faults where
  /-- Open windows at the welts, by tile. -/
  weltWindows : List (TileId × CoWindow)
  linkWindows : List (LinkId × CoWindow)
  entryWindows : List CoWindow
  /-- Windows of tile 9.15 that have ended and await publication, with continuation marks. -/
  awaiting : List (CoWindow × Bool)
  /-- Keys already published or awaiting, for the continuation bit. -/
  keysSeen : List RecordKey
  /-- The last 4,096 records, oldest first. -/
  ring : List Record
  nextSeq : BitVec 32
  readout : BitVec 32
  perClass : Vector (BitVec 64) 5
  alertClasses : BitVec 8
  /-- Records of sequence numbers below this are acknowledged. -/
  acked : Nat
  published : Nat
  retryLimit : BitVec 8
  rerunLimit : BitVec 16
  overflows : BitVec 32
  merged : BitVec 64
  reruns : BitVec 64
  retries : BitVec 64
  resets : BitVec 32
  gradThreshold : Word32
  updThreshold : Word32
  oddAction : BitVec 8
  oddEvents : BitVec 32
  discarded : BitVec 32
  oddIgnored : BitVec 32
  deriving DecidableEq, Repr

/-- Mismatches and re-runs of a tile (R460, R481). -/
structure TileFaults where
  mismatches : BitVec 32
  reruns : BitVec 32
  corrected : BitVec 64
  uncorrectable : BitVec 32
  /-- Module times of re-runs, for the last 1.0 s. -/
  recent : List Nat
  /-- Mismatches per layer (none for the preamble) in the present attempt. -/
  perLayer : List (Option Nat × Nat)
  /-- The re-run under way, by layer. -/
  rerun : Option Nat
  /-- PUT-TILE and EXPECT armings that completed in the attempt, by the command indices of their ARM and of the command that started
  them: spent in a restart (R461). -/
  spent : List (Nat × Nat)
  deriving DecidableEq, Repr

/-! ### Self-test -/

/-- Results of a tile's tests with their codes 0 to 4 (R495). -/
inductive TestCode where
  | never | running | passed | failed | aborted
  deriving DecidableEq, Repr

/-- A test pending or running (R484 to R490). -/
structure PendingTest where
  scope : Nat
  unit : Nat
  memory : Bool
  logic : Bool
  migrate : Bool
  production : Bool
  running : Bool
  /-- The unit's result before the test, restored when the test is aborted or ends unrecorded (R493). -/
  previous : TestCode
  /-- The partition whose sweep this test belongs to (R492). -/
  sweep : Option PartId
  deriving DecidableEq, Repr

/-- Self-test state of a tile (R495). -/
structure TileTestState where
  last : TestCode
  lastPass : Nat
  run : BitVec 32
  failed : BitVec 32
  deferred : BitVec 32
  /-- A field test deferred for want of a tile, to be tried again (R490). -/
  waiting : Option PendingTest
  deriving DecidableEq, Repr

/-- Self-test of the module (R482 to R494). -/
structure SelfTest where
  status : BitVec 8
  lastNumber : BitVec 32
  tests : List PendingTest
  interval : BitVec 32
  fieldTests : BitVec 8
  passed : BitVec 64
  failed : BitVec 32
  aborted : BitVec 32
  deferred : BitVec 32
  lastResult : List Byte
  powerOnFails : List TileId
  deriving DecidableEq, Repr

/-! ### Host interface -/

/-- A submission entry that has been read and has not completed (R501, R502). -/
structure OpenEntry where
  kind : Nat
  tag : Word32
  /-- Word 1: revision, steps, or the step that is fed or read. -/
  arg : Word64
  handle : Nat
  gate : Option Nat
  offset : Nat
  length : Nat
  addr : Word64
  pageList : Bool
  /-- A gated entry has been registered (R502). -/
  registered : Bool
  /-- Its transfer is under way or has been made, and HOST_TRANSFER_COMPLETE is awaited. -/
  running : Bool
  /-- The status, the value and the detail that its completion will carry. -/
  status : Nat
  value : Word64
  detail : Word32
  /-- The bytes that the transfer moves. -/
  data : List Byte
  /-- What a WRITE wrote over, for a host access that fails (R513). -/
  before : List Byte
  /-- The completion of a WRITE has been written; it is applied again for a new attempt (R509). -/
  posted : Bool
  deriving DecidableEq, Repr

/-- A completion entry before its sequence number, its CRC and its phase (R503). -/
structure Completion where
  kind : Nat
  status : Nat
  tag : Word32
  value : Word64
  detail : Word32
  deriving DecidableEq, Repr

/-- A ring of a function (R499, R503, R504): base, control, the module's index, the host's index, the sequence number and the
slots that have been written. -/
structure Ring where
  base : Word64
  control : Word32
  /-- The index of the next entry that the module reads (submissions) or writes. -/
  next : Nat
  /-- The doorbell: the submission tail, or the head. -/
  host : Nat
  seq : Word32
  phase : Bool
  /-- What the module wrote into the ring's slots, by slot. -/
  slots : List (Nat × List Word64)
  deriving DecidableEq, Repr

/-- An MSI-X vector (R500). -/
structure Msix where
  raised : Nat
  last : Option Nat
  pending : Bool
  deriving DecidableEq, Repr

/-- A host function (R496 to R513); functions 0 to 15 are those of PCIE_A and 16 to 31 those of PCIE_B. -/
structure HostFn where
  submission : Ring
  completion : Ring
  record : Ring
  interrupt : Word32
  entries : List OpenEntry
  /-- WRITEs that have completed, for a step that has not committed or has committed last (R507, R509). -/
  fed : List OpenEntry
  /-- Completions held for a free slot (R503). -/
  held : List Completion
  recordsDropped : Word32
  completionsDropped : Word32
  vectors : Vector Msix 3
  deriving DecidableEq, Repr

/-- The link of a PCIe port (R496): rate in GT/s, width. -/
structure PcieLink where
  rate : BitVec 8
  width : BitVec 8
  deriving DecidableEq, Repr

/-! ### Rein -/

/-- An entry of a map (R527). -/
structure MapEntry where
  index : BitVec 16
  sub : BitVec 8
  deriving DecidableEq, Repr

/-- A mailbox (R530 to R533). -/
structure Mailbox where
  /-- The request taken and not yet answered. -/
  request : Option (List Byte)
  /-- The response that is ready. -/
  response : Option (List Byte)
  /-- The response stored for a repeated request. -/
  stored : Option (List Byte)
  lastSeq : Option Word32
  /-- The value of the last read, for segment reads. -/
  readValue : Option (BitVec 16 × BitVec 8 × List Byte)
  /-- A segmented write: index, subindex, total, the bytes so far. -/
  writing : Option (BitVec 16 × BitVec 8 × Nat × List Byte)
  deriving DecidableEq, Repr

/-- A view, or the module view (R522 to R539). -/
structure View where
  address : BitVec 16
  commandMap : List MapEntry
  reportMap : List MapEntry
  refused : Nat
  failures : Word32
  unprocessed : Word32
  executed : Word64
  aborts : Word32
  resets : Word32
  mailbox : Mailbox
  lastCycle : Option Word32
  /-- Command images that wait to be applied, in datagram order (R529, R538). -/
  images : List (List Byte)
  deriving DecidableEq, Repr

/-- The four latches of a LINK datagram (R534). -/
structure Turns where
  b : Option Nat
  a : Option Nat
  d : Option Nat
  c : Option Nat
  deriving DecidableEq, Repr

/-- The Rein ports, the distributed clock and the views. -/
structure Rein where
  linkA : Bool
  linkB : Bool
  /-- The upstream port, true for REIN_B; none before the first frame. -/
  upstream : Option Bool
  framesProcessed : Word64
  frameFailures : Word32
  framesForwarded : Word64
  views : Vector View 17
  /-- The latches of the last LINK datagram and of the one before. -/
  turns : Turns
  prevTurns : Turns
  linkDelay : Option Nat
  trim : Int
  synchronized : Bool
  reference : Bool
  lastError : Int
  /-- Errors in a row within ± 20 ns, at most 3. -/
  good : Nat
  lastTime : Option Nat
  steps : Word32
  syncWatch : Word32
  rate : Int
  /-- What left with the last frame or datagram processed. -/
  out : List Byte
  outB : Bool
  outFcsGood : Bool
  deriving DecidableEq, Repr

/-- The settings that a store saves: each M-class entry with its bytes (R537). -/
structure Setting where
  index : BitVec 16
  sub : BitVec 8
  data : List Byte
  deriving DecidableEq, Repr

/-- Signed flash (R526, R537, R541, R554). -/
structure Flash where
  saved : Option (List Setting)
  /-- A store in progress with the set that it saves, or a restore, which saves none (R537, R550). -/
  storing : Option (Option (List Setting))
  storeStatus : BitVec 8
  stores : Word32
  /-- Whether the signature of the image last installed, and of the other image, passes. -/
  installedOk : Bool
  otherOk : Bool
  powerOns : Word32
  moduleResets : Word32
  inputLosses : Word32
  epoCount : Word32
  lastPass : Vector Nat 288
  /-- Records kept in signed flash (R404, R467). -/
  records : List (List Word64)
  deriving DecidableEq, Repr

/-! ### The module -/

/-- Module states; off and then the codes 1 to 7 (R552). -/
inductive ModuleState where
  | off | booting | init | configured | running | degraded | standby | fault
  deriving DecidableEq, Repr

/-- The module controller (R547 to R568). -/
structure Module where
  state : ModuleState
  /-- Module time at which the present state was entered. -/
  since : Nat
  commandStatus : BitVec 8
  faultCause : BitVec 16
  /-- The fault was the control die's temperature (R553). -/
  faultHot : Bool
  startMs : Word32
  /-- The power-on sequence waits at the coolant check (R557). -/
  coolantWait : Bool
  /-- Which flash image runs: none before verification, true the one last installed. -/
  firmware : Option Bool
  weltFailed : List TileId
  linkFailed : List LinkId
  edgeFailed : Bool
  converterWarning : Bool
  /-- ALERT_L asserted. -/
  alert : Bool
  linkUpBeforeStandby : List PortId
  deriving DecidableEq, Repr

/-! ### Work images -/

/-- A tensor declaration (R166). -/
structure TensorDecl where
  handle : Nat
  kind : Nat
  fmt : Nat
  blockKind : Nat
  headroom : Nat
  seed : Nat
  residency : Nat
  program : Nat
  rows : Nat
  k : Nat
  n : Nat
  length : Nat
  deriving DecidableEq, Repr

/-- A layer declaration (R167). -/
structure LayerDecl where
  pass : Nat
  statFmt : Nat
  rowFmt : Nat
  group : Nat
  stat : Nat
  row : Nat
  out : Nat
  k : Nat
  n : Nat
  rows : Nat
  tilesUsed : Nat
  peak : Nat
  deriving DecidableEq, Repr

/-- A tile-directory entry (R168), its lists as first page and page count. -/
structure DirEntry where
  footprint : Nat
  firstDesc : Nat
  descCount : Nat
  firstRec : Nat
  recCount : Nat
  lists : List (Nat × Nat)
  firstLayer : Nat
  deriving DecidableEq, Repr

/-- An update program (R203). -/
structure UpdateProgram where
  rule : Nat
  poly : Nat
  beta1 : Word32
  beta2 : Word32
  eps : Word32
  lam : Word32
  factor : Word32
  offset : Nat
  points : List (Nat × Word64)
  deriving DecidableEq, Repr

/-- A collective declaration (R328): kind, done Buckle and words 1 to 6. -/
structure CollDecl where
  kind : Nat
  done : Nat
  words : List Word64
  deriving DecidableEq, Repr

/-- A work image as it is bound (R163 to R171). -/
structure Image where
  revision : Nat
  exact_ : Bool
  tiles : Nat
  modules : Nat
  seed : Word64
  layerCount : Nat
  build : Nat
  /-- The header's CRC field. -/
  crc : Nat
  ranges : Nat
  tensors : List TensorDecl
  layers : List LayerDecl
  dir : List DirEntry
  pages : List (List Byte)
  descriptors : List (List Word64)
  records : List (List Word64)
  entries : List (List Nat)
  decls : List CollDecl
  programs : List UpdateProgram
  deriving DecidableEq, Repr

/-! ### Partitions -/

/-- Partition states with their codes 0 to 3 (R220). -/
inductive PartState where
  | free | composed | loaded | resetting
  deriving DecidableEq, Repr

/-- The P-class entries of a partition that hold its layout (R248). -/
structure PartSettings where
  modules : BitVec 16
  logical : BitVec 16
  shardWidth : BitVec 16
  expertWidth : BitVec 16
  depth : BitVec 16
  nodeSize : BitVec 16
  threshold : Word32
  members : List Byte
  deriving DecidableEq, Repr

/-- A refused transfer as a stream unit reports it to the placer: its logical destination, a logical tile for PUT-TILE and a tensor or bucket
handle otherwise, and the cause (R152). -/
structure RefusedTransfer where
  logical : Nat
  queue : Fin 32
  idx : Nat
  toTile : Bool
  dest : Nat
  cause : BitVec 4
  deriving DecidableEq, Repr

/-- What the placer has bound (R221 to R240). -/
structure Placement where
  /-- Physical tile of each logical tile; none while it is unbound (R244). -/
  binding : List (Option TileId)
  /-- Stripe list (R231). -/
  stripe : List SliceId
  /-- Physical range of each logical Buckle range, from the load on (R230). -/
  ranges : List (Fin 16)
  /-- Port tables received from the members, by logical module number (R238). -/
  tables : List (Nat × List Byte)
  /-- Ring order (R239). -/
  ring : List Nat
  /-- Cut of each bound port: 0 unassigned, 1 shard, 2 expert, 3 pipeline, 4 forwarding. -/
  cuts : List (PortId × Nat)
  /-- The port toward each other member (R239). -/
  routes : List (Nat × PortId)
  /-- Homes of the Buckles that are on tiles, with the logical tile; others are at the home of R255. -/
  homes : List (Nat × Home)
  /-- Restart layers by logical tile and layer; a pair not listed has none (R463). -/
  restart : List ((Nat × Nat) × Nat)
  /-- Declared totals T(b) (R253). -/
  totals : List (Nat × Nat)
  /-- Warning bits 2 and 3 of the partition's cut assignment (R240). -/
  cutWarnings : BitVec 2
  /-- Refusals reported by the stream units and not republished yet (R152). -/
  refusals : List RefusedTransfer
  deriving DecidableEq, Repr

/-- A substitution (R243, R244) or a migration (R246) in progress. -/
structure Move where
  migration : Bool
  logical : Nat
  source : TileId
  target : TileId
  /-- The layer at which it restarts or holds; none for the preamble. -/
  layer : Option Nat
  /-- Served after the moves before it. -/
  since : Nat
  /-- What the replaced tile had received or half sent rules out a restart at a layer (R464). -/
  blocked : Bool
  /-- The chosen tile was an idle tile of the partition. -/
  own : Bool
  deriving DecidableEq, Repr

/-- Where the run of a partition stands (R186, R197, R214 to R217, R469 to R472). -/
structure StepRun where
  step : Nat
  attempt : Nat
  /-- The step has started and not committed. -/
  running : Bool
  committed : Option Nat
  allowance : Word64
  parked : Bool
  ready : List Nat
  updateSent : Bool
  updateOut : Nat
  /-- Members whose update-complete message for the current step and attempt is held. -/
  updateIn : List Nat
  /-- Sequence number expected next from each member. -/
  updateSeq : List (Nat × Nat)
  /-- The commit record (R216): step, attempt and tensors written in full. -/
  record : Option (Nat × Nat × List Nat)
  /-- Stacks whose acknowledgement of the commit is awaited. -/
  acksDue : List StackId
  /-- When conditions 1 to 4 of R214 came to hold, for the hold of R396. -/
  heldSince : Option Nat
  /-- Module time of the commit point under way. -/
  commitAt : Nat
  /-- A retry has been called and its quiesce is under way (R469): the code that called it. -/
  retry : Option (BitVec 16)
  /-- The retry's notices have arrived: no unit issues any more (R469). -/
  noticed : Bool
  /-- The attempt that the retry under way starts, at least the next one. -/
  retryTo : Nat
  noticeOut : Nat
  noticeIn : List (Nat × Nat)
  /-- The reset's error code while one is under way. -/
  resetCode : BitVec 16
  /-- Control structures that failed once in the present attempt (R457). -/
  structFails : List StructFail
  deriving DecidableEq, Repr

/-- Weights and other regions of a partition, its rings, its scales and its update (R192 to R218). -/
structure Weights where
  regions : List (RegionKey × Region)
  /-- Current buffer of each double-buffered tensor, as committed (R196). -/
  current : List (Nat × Bool)
  /-- Running-estimate rings: 16 entries per handle and slot (R72). -/
  rings : List ((Nat × Nat) × List (BitVec 16))
  /-- Maxima of this step per handle and slot: maximum code and overflow (R74). -/
  maxima : List ((Nat × Nat) × (Word32 × Bool))
  /-- Scale tables of the step (R68, R73). -/
  tables : List (Nat × ScaleTable)
  groups : List ((Nat × Nat) × GroupState)
  /-- Groups that the sweep of the step has counted, so that a sweep again is a re-run (R199). -/
  sweptOnce : List (Nat × Nat)
  /-- Mismatches of the attempt: handle, group, and whether the Burnisher's (R466). -/
  mismatched : List (Nat × Nat × Bool)
  norms : List (Nat × NormSums)
  /-- Step whose sweep ended on every stack. -/
  sweeping : Bool
  deriving DecidableEq, Repr

/-- Generator snapshots of a logical tile (R465): two slots, each with its step and its 4,096 counters. -/
structure Snapshots where
  logical : Nat
  slot0 : Option (Nat × List Word64)
  slot1 : Option (Nat × List Word64)
  deriving DecidableEq, Repr

/-- Odd numbers of a partition (R477 to R479). -/
structure Odd where
  /-- G of the last 16 committed steps by weight, newest first, as FP64 codes. -/
  history : List (Nat × List Word64)
  checked : Bool
  held : Bool
  deriving DecidableEq, Repr

/-- Slack matching of a partition (R443 to R446). -/
structure Slack where
  out : Nat
  expected : List (Nat × Nat)
  /-- Notices held: member, step, predicted arrival. -/
  notices : List (Nat × Nat × Nat)
  /-- Time from step start to the update-complete message in the last committed step, in ns (R443). -/
  baseline : Option Nat
  /-- That time in the present step, once the message was sent. -/
  sentAfter : Option Nat
  /-- When the last notice of the step was sent, and its P. -/
  last : Option (Nat × Nat)
  ceiling : Option Nat
  deriving DecidableEq, Repr

/-- A partition (R220). -/
structure Partition where
  state : PartState
  tiles : List TileId
  slices : List SliceId
  ports : List PortId
  ranges : List (Fin 16)
  view : Option (Fin 16)
  func : Option FuncId
  settings : PartSettings
  refusedWrites : Word32
  image : Option Image
  place : Placement
  run : StepRun
  weights : Weights
  reduce : Reduce
  replay : Replay
  odd : Odd
  slack : Slack
  snapshots : List Snapshots
  window : Option HoldWindow
  /-- Substitutions and migrations in progress, in order. -/
  moves : List Move
  closing : List Closing
  deriving DecidableEq, Repr

/-- The re-bind request in service (R222, R224). -/
structure RebindService where
  words : List Word64
  /-- Module time at which it entered service. -/
  since : Nat
  /-- Tiles that it adds and that are brought to Retain, or leaving tiles that are made clean. -/
  tiles : List TileId
  deriving DecidableEq, Repr

/-- Placement entries and the re-bind service (R221, R249, R250). -/
structure Placer where
  rebindNumber : Word32
  rebindStatus : BitVec 8
  rebindNs : Nat
  rebindCount : Word32
  spareReserve : BitVec 8
  designated : List TileId
  substitutions : Word32
  migrations : Word32
  abandoned : Word32
  lastSubstitution : List Byte
  lengthOverride : Vector (BitVec 8) 16
  /-- Re-bind requests that wait, in order of arrival (R222). -/
  requests : List (List Word64)
  /-- The request in service. -/
  service : Option RebindService
  deriving DecidableEq, Repr

/-- A tile. -/
structure Tile where
  island : Island
  array : MacArray
  vec : VectorEngine
  stream : StreamUnit
  seqr : Sequencer
  /-- Activation store, canonical; unlisted bytes are 0 (R225). -/
  store : List Host.Cell
  /-- Check status of 64-byte words of the store that is not `passed`. -/
  storeStatus : List (Nat × CheckStatus)
  stamp : StampUnit
  router : Router
  power : TilePower
  faults : TileFaults
  test : TileTestState
  deriving DecidableEq, Repr

/-- An access that a link die has taken from another module and has not answered (R311, R350, R353): the member that asked, the packet as it came by
Vilet, and the address under which the link die has sent it on to a stack. -/
structure LinkAsk where
  part : PartId
  member : Nat
  packet : Packet
  addr : Word64
  deriving DecidableEq, Repr

/-- A link die (R275, R311, R326, R327). -/
structure LinkDie where
  failed : Bool
  clockStopped : Bool
  asks : List LinkAsk
  corrected : Word64
  uncorrectable : Word32
  deriving DecidableEq, Repr

/-- Module-wide Vilet and Saddlebag settings (R324, R386). -/
structure LinkSettings where
  replayMargin : Word32
  retrainLimit : BitVec 8
  downTimeout : Word32
  errorAlarm : Word32
  lost : Word32
  stampShare : BitVec 8
  sumPoly : BitVec 8
  deriving DecidableEq, Repr


/-! ### The whole state -/

/-- The machine (R1 to R588): module-wide units first, then the repeated units, then the queue of waiting commands. -/
structure State where
  /-- Module time in ns (R35). -/
  time : Nat
  module : Module
  flash : Flash
  placer : Placer
  /-- Physical Buckle ranges (R251). -/
  ranges : Vector BuckleRange 16
  audit : Audit
  fabric : Fabric
  links : LinkSettings
  collective : Collective
  cinch : Cinch
  input : PowerInput
  governor : Governor
  thermal : Thermal
  faults : Faults
  selfTest : SelfTest
  rein : Rein
  pcie : Vector PcieLink 2
  tiles : Vector Tile 288
  stackDies : Vector Stack 24
  linkDies : Vector LinkDie 8
  ports : Vector Port 16
  dies : Vector Die 72
  parts : Vector Partition 16
  fns : Vector HostFn 32
  /-- The model's own field: how many free values have been drawn so far. Nothing of the manual reads it. -/
  free : Nat
  /-- Commands that wait, first in first out. -/
  pending : List Instr
  deriving DecidableEq, Repr

/-- What stops the machine. -/
inductive Fault where
  /-- Raised by INPUT_SAMPLE, COOLANT_SAMPLE, POWER_ON and COOLANT_RECHECK when the module is exposed to stress beyond an absolute maximum rating (R583), after
  which nothing is guaranteed. Safe: the run stops where the manual stops speaking. -/
  | beyondAbsoluteMaximum
  deriving DecidableEq, Repr

/-- What the model declines. -/
inductive Refusal where
  /-- Raised by the dispatcher for a command that has no meaning yet. Safe: the run stops. -/
  | notModelled (mnemonic : String)
  deriving DecidableEq, Repr

/-! ### The machine right after reset

Reset is the module in Off: no input power, and every register as the first power-on finds it. Where the manual gives a default
(R544) or names a value, that is the value; every other register is zero, empty or none (DESIGN CHOICE, log entry 1). -/

/-- An island of a module without power (R31, R552). -/
def Island.reset : Island where
  state := .off
  fenced := false
  clock := 0
  stretched := 0
  stretchedLoop := 0
  weltFailed := false
  nacks := 0
  forcedCloses := 0
  target := none
  held := none
  scrubDue := false
  ingressOpen := false
  quiesced := false
  finalSent := false
  acked := false
  inWritten := Vector.replicate 4 0
  inRead := Vector.replicate 4 0
  inSeen := Vector.replicate 4 0
  outWritten := Vector.replicate 4 0
  outRead := Vector.replicate 4 0
  outSeen := Vector.replicate 4 0
  inPackets := []
  outPackets := []
  ctlPointers := Vector.replicate 4 0
  inCtl := []
  outCtl := []
  edgeClosed := Vector.replicate 4 false
  time := 0

/-- A cleared accumulator row. -/
def AccRow.zero : AccRow where
  vals := Vector.replicate 512 0
  flags := Vector.replicate 512 0
  panel := 0
  lastSpan := 0
  group := 0
  isInt := false
  exponent := 0
  status := .passed
  carried := 0
  width := 0
  drained := false

/-- A cleared array. -/
def MacArray.reset : MacArray where
  active := none
  shadow := none
  loading := none
  acc := Vector.replicate 4096 AccRow.zero
  trailerSeq := []

/-- A cleared row of a tile register. -/
def RegRow.zero : RegRow where
  words := Vector.replicate 512 0
  kind := 0
  exponent := 0
  status := .passed

/-- A cleared vector engine. -/
def VectorEngine.reset : VectorEngine where
  regs := Vector.replicate 8 (Vector.replicate 64 RegRow.zero)
  laneFlags := Vector.replicate 512 0
  phaseFlags := 0
  gens := Vector.replicate 512 (Vector.replicate 8 0)
  marks := []

/-- An empty queue. -/
def Queue.reset : Queue where
  armCount := 0
  active := none
  shadow := none
  ending := []
  faulted := false
  lastServed := 0

/-- A cleared stream unit. -/
def StreamUnit.reset : StreamUnit where
  queues := Vector.replicate 32 Queue.reset
  serves := 0
  binding := []
  overruns := 0
  largestOverrun := 0
  rearmOverruns := 0
  refusals := 0
  resends := 0
  cancelled := 0
  withheld := 0
  storeRefusals := 0
  ignoredArms := 0
  received := []
  passOf := []

/-- An idle context. -/
def Context.reset : Context where
  state := .idle
  pos := 0
  outstanding := []
  arrivals := []
  pages := []
  arrwaitSent := false
  pageWait := false

/-- A sequencer with nothing bound. -/
def Sequencer.reset : Sequencer where
  ctxs := Vector.replicate 4 Context.reset
  descriptors := []
  records := []
  completed := 0
  pageWaits := 0
  pageFails := 0
  lastFault := 0
  boundImage := 0
  tables := []
  lastLayer := Vector.replicate 4 0
  stepReady := false
  counted := Vector.replicate 4 0

/-- An empty Stamp unit. -/
def StampUnit.reset : StampUnit where
  ctxs := Vector.replicate 32 none
  blocks := Vector.replicate 32 []
  tables := []
  tableBlocks := []
  sent := 0

/-- An empty router. -/
def Router.reset : Router where
  bufs := []
  returned := []
  balance := []
  received := []
  edgeCrossing := []
  edgeHeld := []
  edgeReturned := []
  edgeBalance := []
  edgeReceived := []
  turn := Vector.replicate 5 0
  sinceVc3 := Vector.replicate 5 49
  linkUp := Vector.replicate 4 false
  flits := 0
  classRaises := 0
  headerFaults := 0
  correctedFlits := 0
  stuck := []
  probe := none
  seen := []
  spilling := []
  sentMaps := Vector.replicate 4 ⟨[], none⟩
  watches := []

/-- A tile's regulator without power; the ceilings stand at the target clock. -/
def TilePower.reset : TilePower where
  setpoint := 0
  rail := 0
  current := 0
  peak := 0
  weltRail := 0
  phases := 0xFF
  badChecks := Vector.replicate 8 0
  controllerFault := false
  boosts := 0
  shunts := 0
  wakes := 0
  wakesDeferred := 0
  longestDeferral := 0
  allowance := 0
  softStart := false
  temp := 0
  peakTemp := 0
  ceiling := 800
  thermalCeiling := 900
  droopCeiling := 900
  slackCeiling := 900
  reasons := 0
  durations := Vector.replicate 8 0
  ballastTime := 0
  estimateUntil := 0
  withheld := none
  lowered := false
  rising := false
  reasonsLoop := 0
  heatOffs := 0
  droopSteps := 0
  heatOff := false
  lastDraw := 0
  ballast := 0
  ramp := none
  quietLoops := 0

/-- A tile with no fault. -/
def TileFaults.reset : TileFaults where
  mismatches := 0
  reruns := 0
  corrected := 0
  uncorrectable := 0
  recent := []
  perLayer := []
  rerun := none
  spent := []

/-- A tile that was never tested. -/
def TileTestState.reset : TileTestState where
  last := .never
  lastPass := 0
  run := 0
  failed := 0
  deferred := 0
  waiting := none

/-- A tile without power. -/
def Tile.reset : Tile where
  island := Island.reset
  array := MacArray.reset
  vec := VectorEngine.reset
  stream := StreamUnit.reset
  seqr := Sequencer.reset
  store := []
  storeStatus := []
  stamp := StampUnit.reset
  router := Router.reset
  power := TilePower.reset
  faults := TileFaults.reset
  test := TileTestState.reset

/-- A stack without power; its state entry reads 0 once it can be read. -/
def Stack.reset : Stack where
  power := .up
  portsClosed := true
  current := []
  lastSweep := 0
  narrowed := 0
  overflows := 0
  updated := 0
  increments := 0
  nonfinite := 0
  mismatches := 0
  parts := 0
  sweepWaits := 0
  floorTime := 0
  corrected := 0
  uncorrectable := 0
  toClean := Vector.replicate 8 false
  powerMw := 0

/-- A port without power: Disabled, every mode permitted (R544). -/
def Port.reset : Port where
  state := .disabled
  mode := 0
  permitted := 0x1E
  present := false
  identity := List.replicate 32 0xFF
  peer := List.replicate 16 0
  peerPermitted := 0
  peerPassing := 0
  roundTrip := 0
  trainingTrip := 0
  probeMax := 0
  echoes := 0
  lineOut := none
  creditTurn := 0
  creditSent := Vector.replicate 4 0
  sent := 0
  accepted := 0
  corrected := Vector.replicate 16 0
  uncorrectable := 0
  headerFails := 0
  replays := 0
  replayed := 0
  retrains := 0
  errorRatio := 0
  forwarded := 0
  discarded := 0
  classRaises := 0
  passing := 0
  classes := Vector.ofFn fun i => i.1 / 3
  owner := Vector.replicate 4 none
  turn := Vector.replicate 4 0
  through := Vector.replicate 4 false
  share := 0
  halfNext := false
  txSeq := 0
  replayBuf := []
  outQueue := []
  lastAck := 0
  replaysInRow := 0
  rxSeq := 0
  nak := false
  nakDue := false
  rxHeld := Vector.replicate 4 0
  rxParts := Vector.replicate 4 []
  rxHops := Vector.replicate 4 0
  rxDiscard := Vector.replicate 4 false
  returned := Vector.replicate 4 0
  credits := Vector.replicate 4 0
  received := Vector.replicate 4 0
  drainSent := false
  drainDoneSent := false
  drainDoneGot := false
  disableAfter := false
  retrainStart := 0
  matched := false
  forwarding := []
  vaux := false

/-- A die without power. -/
def Die.reset : Die where
  railMillivolts := 0
  railMilliamps := 0
  phases := 0xFFFF
  softStartTile := none
  requests := []
  deferred := 0
  lowerings := 0
  lowering := false
  railLost := false
  temp := 0

/-- A link die without power. -/
def LinkDie.reset : LinkDie where
  failed := false
  clockStopped := true
  asks := []
  corrected := 0
  uncorrectable := 0

/-- The layout entries of a partition at their defaults (R544). -/
def PartSettings.reset : PartSettings where
  modules := 1
  logical := 0
  shardWidth := 1
  expertWidth := 1
  depth := 1
  nodeSize := 8
  threshold := 0x00400000
  members := []

/-- Nothing placed. -/
def Placement.reset : Placement where
  binding := []
  stripe := []
  ranges := []
  tables := []
  ring := []
  cuts := []
  routes := []
  homes := []
  restart := []
  totals := []
  cutWarnings := 0
  refusals := []

/-- No step. -/
def StepRun.reset : StepRun where
  step := 0
  attempt := 0
  running := false
  committed := none
  allowance := 0
  parked := true
  ready := []
  updateSent := false
  updateOut := 0
  updateIn := []
  updateSeq := []
  record := none
  acksDue := []
  heldSince := none
  commitAt := 0
  retry := none
  noticed := false
  retryTo := 0
  noticeOut := 0
  noticeIn := []
  resetCode := 0
  structFails := []

/-- No weights. -/
def Weights.reset : Weights where
  regions := []
  current := []
  rings := []
  maxima := []
  tables := []
  groups := []
  sweptOnce := []
  mismatched := []
  norms := []
  sweeping := false

/-- No collectives. -/
def Reduce.reset : Reduce where
  buckets := []
  contributions := []
  wireRings := []
  wireExps := []
  fragments := []
  segOut := []
  segIn := []
  ctlIn := []
  trailers := []
  prevNorms := []
  served := []
  permuted := []

/-- No records; the settings at their defaults (R544). -/
def Replay.reset : Replay where
  setting := .record
  inForce := .off
  blockStamps := true
  records := []
  references := []
  chain := 0
  refChain := 0
  tables := []
  fingers := []
  blocks := []
  counts := []
  events := []
  times := []
  stepStart := 0
  written := 0
  truncated := 0
  refWaits := 0
  refFaults := 0
  report := []
  stops := 0
  forced := 0
  readout := 0xFFFFFFFFFFFFFFFF
  ignored := 0
  stopped := false
  compared := false
  closing := none

/-- No ratios. -/
def Odd.reset : Odd where
  history := []
  checked := false
  held := false

/-- No notices. -/
def Slack.reset : Slack where
  out := 0
  expected := []
  notices := []
  baseline := none
  sentAfter := none
  last := none
  ceiling := none

/-- A Free partition (R220). -/
def Partition.reset : Partition where
  state := .free
  tiles := []
  slices := []
  ports := []
  ranges := []
  view := none
  func := none
  settings := PartSettings.reset
  refusedWrites := 0
  image := none
  place := Placement.reset
  run := StepRun.reset
  weights := Weights.reset
  reduce := Reduce.reset
  replay := Replay.reset
  odd := Odd.reset
  slack := Slack.reset
  snapshots := []
  window := none
  moves := []
  closing := []

/-- A ring whose registers are 0 (R567). -/
def Ring.reset : Ring where
  base := 0
  control := 0
  next := 0
  host := 0
  seq := 0
  phase := true
  slots := []

/-- A function whose registers are 0. -/
def HostFn.reset : HostFn where
  submission := Ring.reset
  completion := Ring.reset
  record := Ring.reset
  interrupt := 0
  entries := []
  fed := []
  held := []
  recordsDropped := 0
  completionsDropped := 0
  vectors := Vector.replicate 3 ⟨0, none, false⟩

/-- A mailbox with nothing in it. -/
def Mailbox.reset : Mailbox := ⟨none, none, none, none, none, none⟩

/-- A view at its defaults (R539). -/
def View.reset : View where
  address := 0
  commandMap := []
  reportMap := []
  refused := 0
  failures := 0
  unprocessed := 0
  executed := 0
  aborts := 0
  resets := 0
  mailbox := Mailbox.reset
  lastCycle := none
  images := []

/-- Rein before the first frame. -/
def Rein.reset : Rein where
  linkA := false
  linkB := false
  upstream := none
  framesProcessed := 0
  frameFailures := 0
  framesForwarded := 0
  views := Vector.replicate 17 View.reset
  turns := ⟨none, none, none, none⟩
  prevTurns := ⟨none, none, none, none⟩
  linkDelay := none
  trim := 0
  synchronized := false
  reference := false
  lastError := 0
  good := 0
  lastTime := none
  steps := 0
  syncWatch := 10000
  rate := 0
  out := []
  outB := false
  outFcsGood := true

/-- Flash with a firmware image that passes and nothing saved. -/
def Flash.reset : Flash where
  saved := none
  storing := none
  storeStatus := 0
  stores := 0
  installedOk := true
  otherOk := true
  powerOns := 0
  moduleResets := 0
  inputLosses := 0
  epoCount := 0
  lastPass := Vector.replicate 288 0
  records := []

/-- The module controller in Off. -/
def Module.reset : Module where
  state := .off
  since := 0
  commandStatus := 0
  faultCause := 0
  faultHot := false
  startMs := 0
  coolantWait := false
  firmware := none
  weltFailed := []
  linkFailed := []
  edgeFailed := false
  converterWarning := false
  alert := false
  linkUpBeforeStandby := []

/-- The designated spares at shipment (R241). -/
def shipmentSpares : List TileId :=
  let six := [1, 4, 7, 10, 13, 16]
  let four := [2, 6, 11, 15]
  [(2, six), (4, four), (6, six), (10, six), (12, four), (14, six)].flatMap fun (y, xs) =>
    xs.map fun x => Fin.ofNat 288 (18 * y + x)

/-- The placer at its defaults. -/
def Placer.reset : Placer where
  rebindNumber := 0
  rebindStatus := 0
  rebindNs := 0
  rebindCount := 0
  spareReserve := 8
  designated := shipmentSpares
  substitutions := 0
  migrations := 0
  abandoned := 0
  lastSubstitution := List.replicate 32 0
  lengthOverride := Vector.replicate 16 0xFF
  requests := []
  service := none

/-- The audit at its defaults (R544). -/
def Audit.reset : Audit where
  period := 1000
  checks := 0
  broken := 0
  lastBroken := []
  sent := 0
  applied := 0
  retired := 0
  rejected := 0
  suppressed := 0
  planned := 0
  completed := 0
  cancelled := 0
  closingPassed := 0
  satisfyRefused := 0
  window := 100
  probe := 0
  probeResult := []
  tokens := []
  markers := []
  brokenHops := []

/-- The fabric at its defaults (R544). -/
def Fabric.reset : Fabric where
  agingWait := 50
  cyclesBroken := 0
  spilled := 0
  reinjected := 0
  escapeExhausted := 0
  headerFaults := 0
  correctedFlits := 0
  uncorrectable := 0
  sequenceFaults := 0
  lastCycle := List.replicate 32 0
  truncated := 0
  alternates := false
  seqOut := []
  history := []
  escape := []
  escapeFree := []
  spillOrder := 0
  escapeNext := []
  spillOrders := []
  buckleSeqOut := []
  buckleSeqIn := []
  inFlight := []

/-- Link and Saddlebag settings at their defaults (R544): the alarm is 1 × 10^-5 as binary32. -/
def LinkSettings.reset : LinkSettings where
  replayMargin := 200
  retrainLimit := 16
  downTimeout := 1000
  errorAlarm := 0x3727C5AC
  lost := 0
  stampShare := 25
  sumPoly := 1

/-- The collective entries at their defaults (R544). -/
def Collective.reset : Collective where
  deadline := 2000
  late := 0
  ringTimeout := 20000
  reduced := 0
  finals := Vector.replicate 4 0
  carried := 0
  omissions := 0
  lastOmission := List.replicate 32 0
  passResends := 0
  rewrites := 0
  gatherServed := 0
  timeouts := 0

/-- Cinch at its defaults (R544). -/
def Cinch.reset : Cinch where
  observe := 0
  window := 2000
  outMode := 0
  outPart := 0
  accepted := 0
  ignored := 0
  filtered := 0
  lastEdge := 0xFFFFFFFFFFFFFFFF
  lastSeen := none
  expired := 0
  lastHold := List.replicate 32 0
  level := false
  holdTime := 0
  outLevel := false
  pulses := 0
  testIgnored := 0

/-- The input without power; EPO_L reads asserted before any reading exists (R581). -/
def PowerInput.reset : PowerInput where
  sample := 0
  band := .absent
  bandSince := 0
  running := false
  converters := Vector.replicate 32 .working
  disable := Vector.replicate 32 false
  lowEntries := 0
  lowTime := 0
  inputMillivolts := 0
  inputMilliamps := 0
  inputWatts := 0
  busMillivolts := 0
  edgePower := List.replicate 9 0
  intervalEnd := 0
  epo := true
  epoPending := false

/-- The governor at its defaults (R544). -/
def Governor.reset : Governor where
  cap := 28000
  capNext := 28000
  effective := 28000
  binding := .cap
  computeFloor := 300
  stackFloor := 800
  basePower := 0
  linkPower := 0
  stackPower := 0
  computePower := 0
  floorPower := 0
  ceiling := 800
  stackShare := 3200
  warnings := 0
  slackSent := 0
  slackReceived := 0
  slackMatching := 0
  slackThreshold := 100
  slackFloor := 400
  target := 800
  droopLimit := 1000
  calibrated := false
  estimateError := 0
  hints := 0
  shortLead := 0
  capRefused := 0
  slackTime := 0
  discarded := 0
  coefficients := []
  fit := []
  overSince := none

/-- Thermal settings at their defaults (R544). -/
def Thermal.reset : Thermal where
  throttle := 950
  migrate := 1000
  returnTemp := 850
  inlet := 0
  outlet := 0
  flow := 0
  badSince := none
  goodSince := none
  heatOffs := 0
  heatMigrations := 0
  coolantFaults := 0
  edgeTemps := Vector.replicate 33 0
  heatDeferred := 0
  hotSince := []

/-- Fault recording at its defaults (R544): thresholds 4.0 and 0.05 as binary32. -/
def Faults.reset : Faults where
  weltWindows := []
  linkWindows := []
  entryWindows := []
  awaiting := []
  keysSeen := []
  ring := []
  nextSeq := 0
  readout := 0
  perClass := Vector.replicate 5 0
  alertClasses := 0x18
  acked := 0
  published := 0
  retryLimit := 3
  rerunLimit := 4
  overflows := 0
  merged := 0
  reruns := 0
  retries := 0
  resets := 0
  gradThreshold := 0x40800000
  updThreshold := 0x3D4CCCCD
  oddAction := 0
  oddEvents := 0
  discarded := 0
  oddIgnored := 0

/-- Self-test at its defaults (R544). -/
def SelfTest.reset : SelfTest where
  status := 0
  lastNumber := 0
  tests := []
  interval := 168
  fieldTests := 3
  passed := 0
  failed := 0
  aborted := 0
  deferred := 0
  lastResult := List.replicate 16 0
  powerOnFails := []

/-- The machine right after reset: the module in Off, with no input power (R552). -/
def State.reset : State where
  time := 0
  module := Module.reset
  flash := Flash.reset
  placer := Placer.reset
  ranges := Vector.replicate 16 ⟨0, []⟩
  audit := Audit.reset
  fabric := Fabric.reset
  links := LinkSettings.reset
  collective := Collective.reset
  cinch := Cinch.reset
  input := PowerInput.reset
  governor := Governor.reset
  thermal := Thermal.reset
  faults := Faults.reset
  selfTest := SelfTest.reset
  rein := Rein.reset
  pcie := Vector.replicate 2 ⟨0, 0⟩
  tiles := Vector.replicate 288 Tile.reset
  stackDies := Vector.replicate 24 Stack.reset
  linkDies := Vector.replicate 8 LinkDie.reset
  ports := Vector.replicate 16 Port.reset
  dies := Vector.replicate 72 Die.reset
  parts := Vector.replicate 16 Partition.reset
  fns := Vector.replicate 32 HostFn.reset
  free := 0
  pending := []

end Sys2Proof.Machine
end

