-- ==== Sys2Proof/Machine/Ops.lean ====
section
/-! DEFINITION. The named operations on the state that the meanings share: units by number, byte memories in canonical form, checks of
control structures, error records with their coalescing, and the rings of the host functions. -/

namespace Sys2Proof.Machine

/-! ### Units by number -/

/-- Change one element of a vector. -/
def vmod {α : Type} {n : Nat} (v : Vector α n) (i : Fin n) (f : α → α) : Vector α n := v.set i.1 (f (v.get i)) i.2

/-- Change one tile. -/
def State.modTile (s : State) (t : TileId) (f : Tile → Tile) : State := { s with tiles := vmod s.tiles t f }
/-- Change one stack. -/
def State.modStack (s : State) (k : StackId) (f : Stack → Stack) : State := { s with stackDies := vmod s.stackDies k f }
/-- Change one Vilet port. -/
def State.modPort (s : State) (p : PortId) (f : Port → Port) : State := { s with ports := vmod s.ports p f }
/-- Change one link die. -/
def State.modLink (s : State) (l : LinkId) (f : LinkDie → LinkDie) : State := { s with linkDies := vmod s.linkDies l f }
/-- Change one compute die. -/
def State.modDie (s : State) (d : DieId) (f : Die → Die) : State := { s with dies := vmod s.dies d f }
/-- Change one partition. -/
def State.modPart (s : State) (n : PartId) (f : Partition → Partition) : State := { s with parts := vmod s.parts n f }
/-- Change one host function. -/
def State.modFn (s : State) (f : FuncId) (g : HostFn → HostFn) : State := { s with fns := vmod s.fns f g }
/-- Change one Buckle range. -/
def State.modRange (s : State) (r : Fin 16) (f : BuckleRange → BuckleRange) : State := { s with ranges := vmod s.ranges r f }

/-- Change every tile of a list. -/
def State.modTiles (s : State) (ts : List TileId) (f : Tile → Tile) : State := ts.foldl (fun (s : State) t => s.modTile t f) s

/-- All unit numbers below `n`, in ascending order. -/
def allFin (n : Nat) : List (Fin n) := List.finRange n

/-- The compute die of a tile: dies hold 2 by 2 tiles, and die c.r has number 9 r + c (R9). -/
def dieOf (t : TileId) : DieId := Fin.ofNat 72 (9 * (t.1 / 18 / 2) + t.1 % 18 / 2)

/-- The four tiles of a compute die in ascending number (R9). -/
def tilesOfDie (d : DieId) : List TileId := (allFin 288).filter fun t => dieOf t = d

/-- The stack of a slice. -/
def stackOf (c : SliceId) : StackId := Fin.ofNat 24 (c.1 / 8)

/-- All slices in the order of the stripe list (R231). -/
def stripeOrder : List SliceId :=
  (List.range 8).flatMap fun k => (List.range 24).map fun i => Fin.ofNat 192 (8 * (6 * (i % 4) + i / 4) + k)

/-- The stripe list of some slices (R231). -/
def stripeOf (cs : List SliceId) : List SliceId := stripeOrder.filter fun c => cs.contains c

/-- The link die of a Vilet port (R11): ports 2 l and 2 l + 1 belong to link die l. -/
def linkOf (p : PortId) : LinkId := Fin.ofNat 8 (p.1 / 2)

/-- Distance in hops between two tiles (R241). -/
def hops (a b : TileId) : Nat :=
  let d := fun (x y : Nat) => if x < y then y - x else x - y
  d (a.1 % 18) (b.1 % 18) + d (a.1 / 18) (b.1 / 18)

/-! ### Endpoint numbers (R277) -/

/-- The endpoint number of a tile's core. -/
def epTile (t : TileId) : Nat := t.1
/-- The endpoint number of a base die. -/
def epStack (k : StackId) : Nat := 288 + k.1
/-- The endpoint number of a link die. -/
def epLink (l : LinkId) : Nat := 312 + l.1
/-- The endpoint number of the control die. -/
def epControl : Nat := 320
/-- The endpoint number of a tile's welt. -/
def epWelt (t : TileId) : Nat := 512 + t.1

/-- What an endpoint number names (R277). -/
inductive Endpoint where
  | core (t : TileId)
  | base (k : StackId)
  | link (l : LinkId)
  | control
  | welt (t : TileId)
  deriving DecidableEq, Repr

/-- The unit that an endpoint number names; none where the number is reserved (R277). -/
def endpointOf (e : Nat) : Option Endpoint :=
  if h : e < 288 then some (.core ⟨e, h⟩)
  else if e < 312 then some (.base (Fin.ofNat 24 (e - 288)))
  else if e < 320 then some (.link (Fin.ofNat 8 (e - 312)))
  else if e = 320 then some .control
  else if 512 ≤ e ∧ e < 800 then some (.welt (Fin.ofNat 288 (e - 512)))
  else none

/-! ### Byte memories in canonical form -/

/-- The byte at an address of a memory; an unlisted address reads 0 (R225, R226). -/
def Cells.read (m : List Host.Cell) (a : Nat) : Byte :=
  match m.find? (fun c => c.1 == a) with
  | some c => c.2
  | none => 0

/-- `n` bytes from an address. -/
def Cells.readList (m : List Host.Cell) (a n : Nat) : List Byte := (List.range n).map fun i => Cells.read m (a + i)

/-- The listed cells of a run of bytes from an address: zero bytes are not listed. -/
def Cells.ofBytes (a : Nat) : List Byte → List Host.Cell
  | [] => []
  | b :: bs => if b = 0 then Cells.ofBytes (a + 1) bs else (a, b) :: Cells.ofBytes (a + 1) bs

/-- Write a run of bytes from an address. -/
def Cells.write (m : List Host.Cell) (a : Nat) (bs : List Byte) : List Host.Cell :=
  m.filter (fun c => decide (c.1 < a)) ++ Cells.ofBytes a bs ++ m.filter (fun c => decide (a + bs.length ≤ c.1))

/-- A memory is in canonical form: addresses strictly rising, and no listed byte equal to what an unlisted address reads as. -/
def Cells.wf (m : List Host.Cell) : Bool := decide (m.Pairwise fun x y => x.1 < y.1) && m.all fun c => c.2 != 0

/-! ### Control structures -/

/-- The 64-bit words of a byte list, the last padded with zeros. -/
def bytesWords (bs : List Byte) : List Word64 :=
  (List.range (ceilDiv bs.length 8)).map fun i => BitVec.ofNat 64 (field bs (8 * i) 8)

/-- A word with its field `[63:32]` read as 0. -/
def clearHigh (w : Word64) : Word64 := w &&& 0xFFFFFFFF#64

/-- The CRC-32C of a control structure, taken with the field `[63:32]` of word `i` read as 0, is the value in that field (R14). -/
def crcOk (ws : List Word64) (i : Nat) : Bool :=
  crc32cWords (ws.set i (clearHigh (ws.getD i 0))) == bits (wordAt ws i) 63 32

/-- Put the CRC-32C of a control structure into the field `[63:32]` of word `i`. -/
def sealCrc (ws : List Word64) (i : Nat) : List Word64 :=
  let z := ws.set i (clearHigh (ws.getD i 0))
  z.set i (BitVec.ofNat 64 (crc32cWords z * 2 ^ 32) ||| z.getD i 0)

/-- A field `[hi:lo]` of word `i` is 0. -/
def zeroField (ws : List Word64) (i hi lo : Nat) : Bool := bits (wordAt ws i) hi lo == 0

/-- The word with a value in its field from bit `lo`. -/
def at_ (lo v : Nat) : Word64 := BitVec.ofNat 64 (v * 2 ^ lo)

/-- A word made of its fields. -/
def mkWord (fs : List Word64) : Word64 := fs.foldl (· ||| ·) 0

/-! ### The rings of a host function (R499 to R504) -/

/-- Entries that a ring holds: 2 to the power of control bits [4:0]. -/
def Ring.size (r : Ring) : Nat := 2 ^ bits r.control.toNat 4 0

/-- The ring is enabled. -/
def Ring.enabled (r : Ring) : Bool := r.control.msb

/-- No released slot is left. Indices count entries from 0 at enable and wrap at 2^32 (DESIGN CHOICE, log entry 4). -/
def Ring.full (r : Ring) : Bool := decide (r.size ≤ (r.next + 2 ^ 32 - r.host) % 2 ^ 32)

/-- Raise vector `v` of a function: at once when it is enabled and its least interval has passed, otherwise as pending (R500). -/
def HostFn.raiseVector (h : HostFn) (now : Nat) (v : Fin 3) : HostFn :=
  if bitAt h.interrupt.toNat (29 + v.1) then
    let m := h.vectors.get v
    let due := match m.last with
      | none => true
      | some l => decide (bits h.interrupt.toNat 15 0 * 1000 ≤ now - l)
    if due then { h with vectors := vmod h.vectors v fun m => { m with raised := m.raised + 1, last := some now, pending := false } }
    else { h with vectors := vmod h.vectors v fun m => { m with pending := true } }
  else h

/-- The words of a completion entry (R503). -/
def Completion.words (c : Completion) (seq : Word32) (phase : Bool) : List Word64 :=
  sealCrc [mkWord [at_ 56 c.kind, at_ 48 c.status, at_ 0 c.tag.toNat], c.value,
    mkWord [at_ 32 seq.toNat, at_ 0 c.detail.toNat], at_ 0 phase.toNat] 3

/-- Write one completion entry into the next slot of the ring. -/
def HostFn.writeCompletion (h : HostFn) (now : Nat) (c : Completion) : HostFn :=
  let r := h.completion
  let slot := r.next % r.size
  let r' := { r with
    slots := Assoc.put slot (c.words r.seq r.phase) r.slots
    next := (r.next + 1) % 2 ^ 32
    seq := r.seq + 1
    phase := if slot + 1 = r.size then !r.phase else r.phase }
  ({ h with completion := r' }).raiseVector now 0

/-- The port of a function: functions 0 to 15 are those of PCIE_A. -/
def fnPort (f : FuncId) : Fin 2 := if f.1 < 16 then 0 else 1

/-- The operating points in service (R496). -/
def PcieLink.inService (l : PcieLink) : Bool := (l.rate == 64 || l.rate == 32) && (l.width == 16 || l.width == 8)

/-- The port of a function is in service; else the module makes no DMA on its link (R496). -/
def State.linkUp (s : State) (f : FuncId) : Bool := (s.pcie.get (fnPort f)).inService

/-- Give a completion entry to a function: into its ring, or held while no slot is free (R503) or its port is out of service (R496); dropped and counted when the
ring is not enabled (DESIGN CHOICE, log entry 5). -/
def HostFn.post (h : HostFn) (up : Bool) (now : Nat) (c : Completion) : HostFn :=
  if ¬ h.completion.enabled then { h with completionsDropped := h.completionsDropped + 1 }
  else if up && h.held.isEmpty && !h.completion.full then h.writeCompletion now c
  else { h with held := h.held ++ [c] }

/-- Write held completions while slots are free, oldest first; `n` bounds the count. -/
def HostFn.drain (h : HostFn) (now : Nat) : Nat → HostFn
  | 0 => h
  | n + 1 =>
    match h.held with
    | [] => h
    | c :: cs =>
      if h.completion.enabled && !h.completion.full then (({ h with held := cs }).writeCompletion now c).drain now n else h

/-- Deliver a record to a function's record ring, or drop and count it when the ring is full (R504), and when the port is out of service (R496, DESIGN CHOICE, log entry 5). -/
def HostFn.deliverRecord (h : HostFn) (up : Bool) (now : Nat) (ws : List Word64) : HostFn :=
  let r := h.record
  if ¬ r.enabled then h
  else if r.full || !up then { h with recordsDropped := h.recordsDropped + 1 }
  else
    let r' := { r with slots := Assoc.put (r.next % r.size) ws r.slots, next := (r.next + 1) % 2 ^ 32, seq := r.seq + 1 }
    ({ h with record := r' }).raiseVector now 1

/-- The function bound to a partition raises vector 2 (R500). -/
def State.statusChanged (s : State) (n : PartId) : State :=
  match (s.parts.get n).func with
  | some f => s.modFn f fun h => h.raiseVector s.time 2
  | none => s

/-- Give a completion entry to the function of a partition, if it has one. -/
def State.postTo (s : State) (n : PartId) (c : Completion) : State :=
  match (s.parts.get n).func with
  | some f => s.modFn f fun h => h.post (s.linkUp f) s.time c
  | none => s

/-! ### Error records (R473 to R476) -/

/-- The words of a record (R473). -/
def recordWords (r : ErrorReport) (seq : Word32) (cont : Bool) : List Word64 :=
  let opt := fun (o : Option Nat) (none_ : Nat) => o.getD none_
  sealCrc
    [ mkWord [at_ 48 r.code.toNat, at_ 45 r.cls.toNat, at_ 41 r.action.toNat, at_ 36 (opt (r.part.map (·.1)) 0x1F),
        at_ 26 r.origin.toNat, at_ 16 r.sub.toNat, at_ 0 (min r.witnesses 65535)],
      BitVec.ofNat 64 r.time,
      r.step.getD 0xFFFFFFFFFFFFFFFF#64,
      mkWord [at_ 54 r.first.toNat, at_ 46 ((r.attempt.map (·.toNat)).getD 0xFF), at_ 30 r.temp.toNat, at_ 18 r.volts.toNat,
        at_ 17 cont.toNat],
      mkWord [at_ 55 ((r.logical.map (·.toNat)).getD 0x1FF), at_ 53 ((r.list.map (·.toNat)).getD 3), at_ 49 r.cmdClass.toNat,
        at_ 45 r.opcode.toNat, at_ 40 ((r.queue.map (·.toNat)).getD 0x1F), at_ 32 ((r.gen.map (·.toNat)).getD 0xFF),
        at_ 0 ((r.cmd.map (·.toNat)).getD 0xFFFFFFFF)],
      mkWord [at_ 32 ((r.desc.map (·.toNat)).getD 0xFFFFFFFF), at_ 0 r.detailA.toNat],
      r.detailB,
      at_ 0 seq.toNat ] 7

/-- The fault key of a report (R475). -/
def faultKey (r : ErrorReport) : RecordKey :=
  ⟨r.code.toNat, r.origin.toNat, r.sub.toNat, r.step, r.attempt, r.part.map (·.1)⟩

/-- A record of an enabled class is not acknowledged, or ALERT_L is asserted by R404 or R554 (R476, R581). -/
def State.alertCause (s : State) : Bool :=
  let seen := s.faults.published - s.faults.ring.length
  (s.faults.ring.drop (s.faults.acked - seen)).any (fun r => bitAt s.faults.alertClasses.toNat r.cls)
    || (s.module.state == .booting && s.module.firmware.isNone)

/-- Set the level of ALERT_L. -/
def State.refreshAlert (s : State) : State := { s with module := { s.module with alert := s.alertCause } }

/-- Publish a record: into the ring of the last 4,096, into the counts, to the record rings of the host (R476, R480, R504). -/
def State.publish (s : State) (r : ErrorReport) (cont : Bool) : State :=
  let f := s.faults
  let ws := recordWords r f.nextSeq cont
  let ring := f.ring ++ [⟨f.nextSeq, ws, r.cls.toNat, r.part.map (·.1)⟩]
  let ring := ring.drop (ring.length - 4096)
  let cls : Fin 5 := Fin.ofNat 5 r.cls.toNat
  let s := { s with faults := { f with
    ring := ring
    nextSeq := f.nextSeq + 1
    published := f.published + 1
    perClass := vmod f.perClass cls (· + 1)
    keysSeen := f.keysSeen ++ [faultKey r] } }
  let give := fun (s : State) (g : FuncId) => s.modFn g fun h => h.deliverRecord (s.linkUp g) s.time ws
  let s := match r.part with
    | some n => match (s.parts.get n).func with
      | some g => give s g
      | none => s
    | none => [0, 16].foldl (fun (s : State) (g : FuncId) => if bitAt (s.fns.get g).record.control.toNat 30 then give s g else s) s
  s.refreshAlert

/-- Absorb a report into the window of its key (R475). -/
def CoWindow.absorb (w : CoWindow) (r : ErrorReport) : CoWindow :=
  { w with report := { w.report with
    witnesses := min (w.report.witnesses + r.witnesses) 65535
    time := min w.report.time r.time
    first := if r.time < w.report.time then r.first else w.report.first } }

/-- A report reaches the welt of tile 9.15: absorbed by the open window of its key, or a new window opens; when 32 are open it is
forwarded without coalescing and counted, and is then published (R475). -/
def State.reportEntry (s : State) (r : ErrorReport) : State :=
  let f := s.faults
  match f.entryWindows.findIdx? (fun w => faultKey w.report == faultKey r) with
  | some i =>
    { s with faults := { f with
      entryWindows := f.entryWindows.modify i (·.absorb r)
      merged := f.merged + 1 } }
  | none =>
    if f.entryWindows.length < 32 then { s with faults := { f with entryWindows := f.entryWindows ++ [⟨r, s.time⟩] } }
    else
      let s := { s with faults := { f with overflows := f.overflows + 1 } }
      s.publish r (f.keysSeen.contains (faultKey r))

/-- A report reaches a coalescing point (R475). A first report is forwarded at once, and its window opens; a later one is absorbed. -/
def State.report (s : State) (pt : CoalescePoint) (r : ErrorReport) : State :=
  let f := s.faults
  match pt with
  | .entry => s.reportEntry r
  | .welt t =>
    if t.1 = 279 then s.reportEntry r else
    match f.weltWindows.findIdx? (fun w => w.1 == t && faultKey w.2.report == faultKey r) with
    | some i =>
      { s with faults := { f with
        weltWindows := f.weltWindows.modify i (fun w => (w.1, w.2.absorb r))
        merged := f.merged + 1 } }
    | none =>
      if (f.weltWindows.filter (fun w => w.1 == t)).length < 32 then
        ({ s with faults := { f with weltWindows := f.weltWindows ++ [(t, CoWindow.mk { r with witnesses := 0 } s.time)] } }).reportEntry r
      else ({ s with faults := { f with overflows := f.overflows + 1 } }).reportEntry r
  | .link l =>
    match f.linkWindows.findIdx? (fun w => w.1 == l && faultKey w.2.report == faultKey r) with
    | some i =>
      { s with faults := { f with
        linkWindows := f.linkWindows.modify i (fun w => (w.1, w.2.absorb r))
        merged := f.merged + 1 } }
    | none =>
      if (f.linkWindows.filter (fun w => w.1 == l)).length < 32 then
        ({ s with faults := { f with linkWindows := f.linkWindows ++ [(l, CoWindow.mk { r with witnesses := 0 } s.time)] } }).reportEntry r
      else ({ s with faults := { f with overflows := f.overflows + 1 } }).reportEntry r

/-- The partition that a tile is bound to (R220). -/
def State.partOfTile (s : State) (t : TileId) : Option PartId := (allFin 16).find? fun n => (s.parts.get n).tiles.contains t

/-- The partition that a slice is bound to. -/
def State.partOfSlice (s : State) (c : SliceId) : Option PartId := (allFin 16).find? fun n => (s.parts.get n).slices.contains c

/-- The partition that a Vilet port is bound to. -/
def State.partOfPort (s : State) (p : PortId) : Option PartId := (allFin 16).find? fun n => (s.parts.get n).ports.contains p

/-- The partition that a function serves (R498). -/
def State.partOfFn (s : State) (f : FuncId) : Option PartId := (allFin 16).find? fun n => (s.parts.get n).func == some f

/-- The partition that a view is bound to (R523). -/
def State.partOfView (s : State) (v : Fin 16) : Option PartId := (allFin 16).find? fun n => (s.parts.get n).view == some v

/-- The partition that a Buckle range is bound to. -/
def State.partOfRange (s : State) (r : Fin 16) : Option PartId := (allFin 16).find? fun n => (s.parts.get n).ranges.contains r

/-- The logical tile that a physical tile stands behind in its partition, if any. -/
def Partition.logicalOf (p : Partition) (t : TileId) : Option Nat := p.place.binding.findIdx? (· == some t)

/-- The physical tile of a logical tile. -/
def Partition.physOf (p : Partition) (l : Nat) : Option TileId := (p.place.binding.getD l none)

/-- The tile whose core or welt an endpoint names. -/
def tileOfEp (e : Nat) : Option TileId :=
  match endpointOf e with
  | some (.core t) => some t
  | some (.welt t) => some t
  | _ => none

/-- Module time as the unit at an endpoint holds it: a tile's welt reads its own copy (R35). -/
def State.timeAt (s : State) (e : Nat) : Nat :=
  match tileOfEp e with
  | some t => (s.tiles.get t).island.time.toNat
  | none => s.time

/-- Every healthy welt's copy of module time follows the control die's. The manual lets a copy differ by up to 4 ns; the model takes it as
equal (DESIGN CHOICE, log entry 59). -/
def State.syncTime (s : State) : State :=
  { s with tiles := s.tiles.map fun x => if x.island.weltFailed then x else { x with island := { x.island with time := BitVec.ofNat 64 s.time } } }

/-- A report with the fields that the module fills in for every fault (R473): the step and the attempt of the partition, the module
time, and the temperature and the rail voltage of the origin's tile. -/
def State.mkReport (s : State) (code cls action : Nat) (part : Option PartId) (origin sub : Nat) : ErrorReport where
  code := BitVec.ofNat 16 code
  cls := BitVec.ofNat 3 cls
  action := BitVec.ofNat 4 action
  part := part
  origin := BitVec.ofNat 10 origin
  sub := BitVec.ofNat 10 sub
  witnesses := 1
  time := s.timeAt origin
  step := part.map fun n => BitVec.ofNat 64 (s.parts.get n).run.step
  first := BitVec.ofNat 10 origin
  attempt := part.map fun n => BitVec.ofNat 8 (s.parts.get n).run.attempt
  temp := BitVec.ofNat 16 (ofSigned 16 (match tileOfEp origin with
    | some t => (s.tiles.get t).power.temp
    | none => 0))
  volts := BitVec.ofNat 12 (match tileOfEp origin with
    | some t => (s.tiles.get t).power.rail
    | none => 0)
  logical := match part, tileOfEp origin with
    | some n, some t => ((s.parts.get n).logicalOf t).map (BitVec.ofNat 8 ·)
    | _, _ => none
  list := none
  cmdClass := 0
  opcode := 0
  queue := none
  gen := none
  cmd := none
  desc := none
  detailA := 0
  detailB := 0

/-- The control die's own record needs no coalescing point: it is published at once (DEDUCED, log entry 6). -/
def State.recordOwn (s : State) (r : ErrorReport) : State := s.publish r (s.faults.keysSeen.contains (faultKey r))

/-- An event of the step's record (R376): its code in word 0, the module time in word 1, and two detail words. -/
def State.sbEvent (s : State) (n : PartId) (w0 w2 w3 : Word64) : State :=
  s.modPart n fun p => { p with replay := { p.replay with events := p.replay.events ++ [⟨w0, BitVec.ofNat 64 s.time, w2, w3⟩] } }

end Sys2Proof.Machine
end

