-- ==== Sys2Proof/Machine/Image.lean ====
section
/-! DEFINITION. Reading a bound work image: its tables, its command lists, the layer of a command, the armings that a stream list
starts, and the tokens that a list sends (R166 to R171, R252 to R254, R266, R588). -/

namespace Sys2Proof.Machine

/-- The declaration of a tensor. -/
def Image.tensor (m : Image) (h : Nat) : Option TensorDecl := m.tensors.find? fun d => d.handle == h

/-- A layer declaration. -/
def Image.layer (m : Image) (n : Nat) : Option LayerDecl := m.layers[n]?

/-- The directory entry of a logical tile. -/
def Image.dirOf (m : Image) (l : Nat) : DirEntry := m.dir.getD l ⟨0, 0, 0, 0, 0, [], 0⟩

/-- First page and page count of a list of a logical tile. -/
def Image.listPages (m : Image) (l c : Nat) : Nat × Nat := (m.dirOf l).lists.getD c (0, 0)

/-- Page `p` of a list. -/
def Image.page (m : Image) (l c p : Nat) : List Byte :=
  let (first, n) := m.listPages l c
  if p < n then m.pages.getD (first + p) [] else []

/-- The two words of a command in a page (R171, R172). -/
def pageCmd (page : List Byte) (j : Nat) : Word64 × Word64 :=
  (BitVec.ofNat 64 (field page (16 * j) 8), BitVec.ofNat 64 (field page (16 * j + 8) 8))

/-- Class and opcode of a command word (R172). -/
def cmdClassOp (w0 : Word64) : Nat := bits w0.toNat 63 56

/-- The commands of a list, to its STEP. -/
def Image.cmds (m : Image) (l c : Nat) : List (Word64 × Word64) :=
  let all := (List.range (m.listPages l c).2).flatMap fun p => (List.range 255).map fun j => pageCmd (m.page l c p) j
  let upto := all.takeWhile fun w => cmdClassOp w.1 != 0x71
  upto ++ (all.drop upto.length).take 1

/-- The entry index of a layer in a list of a logical tile (R170). -/
def Image.entry (m : Image) (l n c : Nat) : Nat := (m.entries.getD ((m.dirOf l).firstLayer + n) []).getD c 0

/-- The layer of a command: the last layer whose entry index does not lie beyond it; none for the preamble (R170). -/
def Image.layerOf (m : Image) (l c i : Nat) : Option Nat :=
  ((List.range m.layerCount).reverse).find? fun n => decide (m.entry l n c ≤ i)

/-- The column of a layer's counts: 0 forward, 1 recompute, 2 backward (R167). -/
def Image.column (m : Image) (n : Option Nat) : Nat :=
  match n with
  | none => 0
  | some k =>
    match (((List.range (k + 1)).reverse).filterMap fun i => (m.layer i).bind fun d => if d.pass = 4 then none else some d.pass).head? with
    | some p => p - 1
    | none => 0

/-- The words of a descriptor of a logical tile by its local index. -/
def Image.descriptor (m : Image) (l i : Nat) : Option (List Word64) :=
  let d := m.dirOf l
  if i < d.descCount then m.descriptors[d.firstDesc + i]? else none

/-- The descriptor that eight words spell (R142). -/
def descOf (ws : List Word64) : Descriptor where
  kind := bits (wordAt ws 0) 63 56
  vc := bits (wordAt ws 0) 47 46
  startOnArm := bitAt (wordAt ws 0) 45
  poly := bits (wordAt ws 0) 44 42
  depth := bits (wordAt ws 0) 39 32
  buckle := bits (wordAt ws 0) 31 16
  budget := bits (wordAt ws 0) 15 0
  addr := bits (wordAt ws 1) 63 32
  rowLen := bits (wordAt ws 1) 31 0
  rows := bits (wordAt ws 2) 63 32
  stride := bits (wordAt ws 2) 31 0
  target := wordAt ws 3
  position := wordAt ws 4
  index := bits (wordAt ws 5) 63 32

/-- The operand record that four words spell (R169). -/
def recordOf (ws : List Word64) : OperandRecord where
  handle := bits (wordAt ws 0) 63 32
  fmt := bits (wordAt ws 0) 31 24
  staged := bitAt (wordAt ws 0) 23
  stride := bits (wordAt ws 1) 63 32
  span := bits (wordAt ws 2) 63 48
  panel := bits (wordAt ws 2) 47 32
  firstK := bits (wordAt ws 2) 31 0
  carryAddr := bits (wordAt ws 3) 63 32

/-- The operand records of a logical tile. -/
def Image.recordsOf (m : Image) (l : Nat) : List OperandRecord :=
  let d := m.dirOf l
  ((m.records.drop d.firstRec).take d.recCount).map recordOf

/-- The descriptors of a logical tile, as words. -/
def Image.descriptorsOf (m : Image) (l : Nat) : List (List Word64) :=
  let d := m.dirOf l
  (m.descriptors.drop d.firstDesc).take d.descCount

/-- Transfers of a descriptor (R141). -/
def Descriptor.transfers (d : Descriptor) : Nat :=
  if d.kind = 0x04 then 65 * d.rows else d.rows * ceilDiv d.rowLen 4096

/-- The store address and the length of the bytes that a transfer of a descriptor moves (R141, R88). -/
def Descriptor.piece (d : Descriptor) (i : Nat) : Nat × Nat :=
  if d.kind = 0x04 then
    let base := d.addr + i / 65 * d.stride
    if i % 65 = 0 then (base, 64) else (base + 64 + 4096 * (i % 65 - 1), 4096)
  else
    let per := ceilDiv d.rowLen 4096
    (d.addr + i / per * d.stride + 4096 * (i % per), min 4096 (d.rowLen - 4096 * (i % per)))

/-- An arming that a stream list makes: its queue, its descriptor index, the index of its ARM and of the command that starts it. -/
structure ListArming where
  queue : Nat
  desc : Nat
  arm : Nat
  start : Option Nat
  deriving DecidableEq, Repr

/-- The armings of a stream list up to a command index, in order of their ARM (R145, R146). -/
def Image.armings (m : Image) (l upto : Nat) : List ListArming :=
  ((m.cmds l 2).take upto).zipIdx.foldl (fun as (w, i) =>
    let q := bits w.1.toNat 55 51
    match cmdClassOp w.1 with
    | 0x31 =>
      let d := bits w.2.toNat 63 32
      let onArm := ((m.descriptor l d).map fun ws => (descOf ws).startOnArm).getD false
      as ++ [⟨q, d, i, if onArm then some i else none⟩]
    | 0x32 | 0x33 =>
      match as.findIdx? (fun a => a.queue == q && a.start.isNone) with
      | some k => as.modify k fun a => { a with start := some i }
      | none => as
    | _ => as) []

/-- The tokens that the commands of a list before an index send, by logical Buckle: ARRIVE and ARRWAIT (R253, R266). -/
def Image.tokens (m : Image) (l c upto : Nat) : List (Nat × Nat) :=
  ((m.cmds l c).take upto).filterMap fun w =>
    let op := cmdClassOp w.1
    if op = 0x41 ∨ op = 0x43 then some (bits w.1.toNat 55 40, bits w.1.toNat 39 24) else none

/-- The completion Buckle of a descriptor of a logical tile. -/
def Image.completion (m : Image) (l d : Nat) : Nat := ((m.descriptor l d).map fun ws => (descOf ws).buckle).getD 0

/-- The tokens for one logical Buckle in a list of tokens. -/
def tokensFor (b : Nat) (ts : List (Nat × Nat)) : Nat := ((ts.filter fun t => t.1 == b).map (·.2)).sum

/-- The entry value of a Buckle of tile scope at a layer (R266). -/
def Image.entryValue (m : Image) (l n b : Nat) : Nat :=
  ((List.range 4).map fun c => tokensFor b (m.tokens l c (m.entry l n c))).sum +
  ((m.armings l (m.entry l n 2)).filter fun a => a.start.isSome && m.completion l a.desc == b).length

/-- The Buckles that a logical tile names, as logical numbers: in ARRIVE, WAIT and ARRWAIT, and as completion Buckle of any descriptor of its table (R254). -/
def Image.named (m : Image) (l : Nat) : List Nat :=
  ((List.range 4).flatMap fun c => (m.cmds l c).filterMap fun w =>
    if cmdClassOp w.1 / 16 = 4 then some (bits w.1.toNat 55 40) else none) ++
  (m.descriptorsOf l).map fun ws => (descOf ws).buckle

/-- The done Buckles of the collective declarations, one token each (R328): one per bucket, one per permute. -/
def Image.doneTokens (m : Image) : List (Nat × Nat) :=
  let buckets := (m.decls.filter fun d => d.kind == 1).map fun d => (bits (wordAt d.words 0) 63 32, d.done)
  (buckets.eraseDups.map fun b => (b.2, 1)) ++ (m.decls.filter fun d => d.kind == 3).map fun d => (d.done, 1)

/-- The declared total of a logical Buckle (R253). -/
def Image.total (m : Image) (b : Nat) : Nat :=
  ((List.range m.tiles).map fun l =>
    ((List.range 4).map fun c => tokensFor b (m.tokens l c (m.cmds l c).length)).sum +
    ((m.armings l (m.cmds l 2).length).filter fun a => m.completion l a.desc == b).length).sum +
  tokensFor b m.doneTokens

/-- The logical tiles that name a Buckle. -/
def Image.namers (m : Image) (b : Nat) : List Nat := (List.range m.tiles).filter fun l => (m.named l).contains b

/-- A Buckle has tile scope: one logical tile names it and no declaration does (R254). -/
def Image.tileScope (m : Image) (b : Nat) : Option Nat :=
  match m.namers b with
  | [l] => if m.doneTokens.any fun t => t.1 == b then none else some l
  | _ => none

/-- Every logical Buckle that the image names. -/
def Image.buckles (m : Image) : List Nat :=
  (((List.range m.tiles).flatMap m.named) ++ m.doneTokens.map (·.1)).eraseDups

/-- The checkpoint shares of a logical tile: its PUT-STACK descriptors that name a tensor of kind 0x05 (R213). -/
def Image.shares (m : Image) (l : Nat) : List Descriptor :=
  ((m.descriptorsOf l).map descOf).filter fun d =>
    d.kind == 0x02 && ((m.tensor (d.target / 2 ^ 32)).map (·.kind)) == some 5

/-- Store address and tensor offset of each row of a descriptor (R142). -/
def Descriptor.rowsOf (d : Descriptor) : List (Nat × Nat) :=
  (List.range d.rows).map fun r => (d.addr + r * d.stride, d.position + r * d.rowLen)

end Sys2Proof.Machine
end

