-- ==== Sys2Proof/Config.lean ====
section
/-! DEFINITION. What one module fixes and the manual leaves open: constants with no value in the model, and the free values. A
statement holds whatever they are. -/

namespace Sys2Proof.Config

/-- Free values: the value that the manual leaves open at the draw `n` (DESIGN CHOICE, log entry 3). -/
opaque freeWord : Nat → Word64
/-- The 12 characters of the module's serial number (R5). -/
opaque serialChars : Vector Byte 12
/-- The module's serial number, OD 0x1000.02 (R5). -/
def serial : List Byte := serialChars.toList
/-- The entries of OD 0x1000 whose values belong to one module or to one release (R5, R548), by subindex. -/
opaque identity : BitVec 8 → List Byte
/-- The core-rail voltage in mV that the factory measured for a tile at the clock 100 + 25 i MHz (R410). -/
opaque fusedMillivolts : TileId → Nat → Nat
/-- A tile's coefficients of the activity estimate as fused at manufacture (R448), by unit class. -/
opaque fusedCoefficient : TileId → Nat → Nat
/-- A tile's leakage current in mA at a rail in mV and a junction temperature in 0.1 °C (R447). -/
opaque leakage : TileId → Nat → Int → Nat
/-- The signature that a self-test expects (R483): by scope code 1, 3 or 4 of the unit's kind, memory or logic test, and production or
field set. -/
opaque signature : Nat → Bool → Bool → Word32
/-- The five check symbols of the memory code over 64 bytes of data (R279, R453): the manual gives the code's kind and not its polynomial. -/
opaque checkSymbols : List Byte → BitVec 40
/-- Requests of a tile that its store refuses at least once under its arbitration in the nanosecond that ends at a time (R155, R162): they depend on cycles, which
the model does not hold (DESIGN CHOICE, log entry 70). -/
opaque storeRefusals : TileId → Nat → Nat
/-- The rate, in parts per 10^9, with which a module slews its clock toward an error in ns (R535). -/
opaque slewRate : Int → Int

end Sys2Proof.Config
end

