-- ==== Sys2Proof/Machine/Messages.lean ====
section
/-! DEFINITION. Packets and messages: the header of R280, sending a packet, negative acknowledgements, control fragments inside the
module and to other members, Buckle messages and the notices of the step boundary. -/

namespace Sys2Proof.Machine

/-! ### Header fields (R280) -/

/-- Packet kind. -/
def pktKind (p : Packet) : Nat := bits p.w0.toNat 63 58
/-- VC. -/
def pktVc (p : Packet) : Nat := bits p.w0.toNat 57 56
/-- Destination endpoint. -/
def pktDst (p : Packet) : Nat := bits p.w0.toNat 55 46
/-- Source endpoint. -/
def pktSrc (p : Packet) : Nat := bits p.w0.toNat 45 36
/-- Via tile, 0x1FF for none. -/
def pktVia (p : Packet) : Nat := bits p.w0.toNat 35 27
/-- Phase bit. -/
def pktPhase (p : Packet) : Bool := bitAt p.w0.toNat 26
/-- Partition that owns the packet. -/
def pktPart (p : Packet) : PartId := Fin.ofNat 16 (bits p.w0.toNat 25 22)
/-- Flits in the packet. -/
def pktFlits (p : Packet) : Nat := bits p.w0.toNat 21 16 + 1
/-- Payload bytes. -/
def pktLength (p : Packet) : Nat := bits p.w0.toNat 12 0
/-- Sequence number. -/
def pktSeq (p : Packet) : Nat := bits p.w2.toNat 63 32
/-- Generation of the arming. -/
def pktGen (p : Packet) : BitVec 8 := BitVec.ofNat 8 (bits p.w2.toNat 31 24)
/-- Source flow. -/
def pktFlow (p : Packet) : Nat := bits p.w2.toNat 23 18
/-- Destination queue of a PUT-TILE. -/
def pktQueue (p : Packet) : Nat := bits p.w2.toNat 17 13
/-- Issue stamp. -/
def pktStamp (p : Packet) : Nat := bits p.w3.toNat 31 0

/-- The four header words. -/
def pktHeader (p : Packet) : List Word64 := [p.w0, p.w1, p.w2, p.w3]

/-- The header's CRC passes (R280). -/
def pktCrcOk (p : Packet) : Bool := crcOk (pktHeader p) 3

/-- The VC of a packet kind (R281); none for a reserved kind and for kind 0x04, which takes the VC of its transfer. -/
def kindVc : Nat → Option Nat
  | 0x01 => some 2 | 0x02 => some 2 | 0x03 => some 2 | 0x05 => some 1 | 0x06 => some 1 | 0x07 => some 0 | 0x08 => some 0
  | 0x09 => some 0 | 0x0A => some 0 | 0x0B => some 3 | 0x0C => some 2 | 0x0D => some 2 | _ => none

/-- The kind is one that the module sends, on the VC that the kind takes (R281). -/
def pktKindOk (p : Packet) : Bool :=
  if pktKind p = 0x04 then pktVc p == 1 || pktVc p == 2 else kindVc (pktKind p) == some (pktVc p)

/-- Build a packet (R279, R280). The header rides on the head flit; the via field is none. -/
def mkPacket (kind vc dst src : Nat) (part : PartId) (addr : Word64) (seq : Word32) (gen : BitVec 8) (flow queue stamp : Nat)
    (payload : List Byte) : Packet :=
  let flits := max 1 (ceilDiv payload.length 64)
  let ws := sealCrc
    [ mkWord [at_ 58 kind, at_ 56 vc, at_ 46 dst, at_ 36 src, at_ 27 0x1FF, at_ 26 1, at_ 22 part.1, at_ 16 (flits - 1),
        at_ 0 payload.length],
      addr,
      mkWord [at_ 32 seq.toNat, at_ 24 gen.toNat, at_ 18 flow, at_ 13 queue],
      at_ 0 (stamp % 2 ^ 32) ] 3
  { w0 := ws.getD 0 0, w1 := ws.getD 1 0, w2 := ws.getD 2 0, w3 := ws.getD 3 0, payload := payload }

/-- Send a packet: the source's counter for its flow and VC gives the sequence number (R283, R284), and the packet is in flight. A
packet of a tile's core stands in its outbound crossing until its head is routed. -/
def State.send (s : State) (kind vc dst src flow : Nat) (part : PartId) (addr : Word64) (gen : BitVec 8) (queue : Nat)
    (payload : List Byte) : State :=
  let key := (src, flow, vc)
  let seq := (Assoc.get key s.fabric.seqOut).getD 0
  let p := mkPacket kind vc dst src part addr seq gen flow queue s.time payload
  let s := { s with fabric := { s.fabric with
    seqOut := Assoc.put key (seq + 1) s.fabric.seqOut
    inFlight := s.fabric.inFlight ++ [p] } }
  match endpointOf src with
  | some (.core t) => s.modTile t fun x => { x with island := { x.island with outPackets := x.island.outPackets ++ [p] } }
  | _ => s

/-- Send what a unit sends, with the stamp of an earlier time: a packet that is sent again keeps the stamp of its first sending (R280). -/
def State.stamped (s : State) (at_ : Nat) (f : State → State) : State := { f { s with time := at_ } with time := s.time }

/-- A packet leaves the flight: it was received or consumed. -/
def State.take (s : State) (p : Packet) : State := { s with fabric := { s.fabric with inFlight := s.fabric.inFlight.erase p } }

/-- The escape slots of spilled packets are free again (R270). -/
def Fabric.freeSlots (f : Fabric) (zs : List Spilled) : Fabric :=
  { f with escapeFree := zs.foldl (fun l z => Assoc.put z.slice.1 ((Assoc.get z.slice.1 l).getD 16384 + 1) l) f.escapeFree }

/-- The body of a negative acknowledgement (R282). -/
def nackBody (p : Packet) (cause : Nat) : List Byte :=
  wordsBytes [ mkWord [at_ 32 (pktSeq p), at_ 28 cause, at_ 22 (pktKind p), at_ 14 (pktGen p).toNat, at_ 8 (pktFlow p)], p.w1, 0, 0 ]

/-- The address of a packet as 42 bits: the slice and the byte offset in it, or the low bits of another address word. -/
def ackAddr (w : Nat) : Nat := bits w 63 56 * 2 ^ 34 + bits w 33 0

/-- The word by which the control crossing passes a write acknowledgement to the core: queue, generation and the address of the acknowledged packet
(R140, DESIGN CHOICE, log entry 32). -/
def ackNote (flow gen addr : Nat) : Word64 := mkWord [at_ 56 5, at_ 50 flow, at_ 42 gen, at_ 0 addr]

/-- The word for an acknowledgement packet, whose body is laid out as that of R282 (DESIGN CHOICE, log entry 15). -/
def ackOf (p : Packet) : Word64 := ackNote (pktFlow p) (pktGen p).toNat (ackAddr (wordAt (bytesWords p.payload) 1))

/-- The welt of a tile answers a packet with a FENCED negative acknowledgement (R43, R282); a satisfy message so answered is counted (R258, R275). -/
def State.nack (s : State) (t : TileId) (p : Packet) (cause : Nat) : State :=
  let s := s.send 0x08 0 (pktSrc p) (epWelt t) 0 (pktPart p) 0 0 0 (nackBody p cause)
  let refused := pktKind p == 7 && bits (wordAt (bytesWords p.payload) 0) 63 60 == 4
  let s := if refused then { s with audit := { s.audit with satisfyRefused := s.audit.satisfyRefused + 1 } } else s
  s.modTile t fun x => { x with island := { x.island with nacks := x.island.nacks + 1 } }

/-- A control structure as control fragments (kind 0x0A) on VC0, at most 480 bytes each (R279, R281). -/
def State.sendControl (s : State) (dst src flow : Nat) (part : PartId) (bs : List Byte) : State :=
  (List.range (ceilDiv bs.length 480)).foldl (fun (s : State) i => s.send 0x0A 0 dst src flow part 0 0 0 (slice bs (480 * i) 480)) s

/-- The port toward another member (R239). -/
def Partition.portTo (p : Partition) (m : Nat) : Option PortId := Assoc.get m p.place.routes

/-- The port toward another member, while both of its ends are bound to the partition (R227). -/
def Partition.matchedPort (p : Partition) (ports : Vector Port 16) (m : Nat) : Option PortId :=
  (p.portTo m).bind fun q => if (ports.get q).matched then some q else none

/-- The flits of a packet from a source on a Vilet port (R311, R317): header, then payload, in pieces of 240 bytes. -/
def viletFlits (p : Packet) (dest source : Nat) : List TxFlit :=
  let bs := wordsBytes (pktHeader p) ++ p.payload
  let n := ceilDiv bs.length 240
  (List.range n).map fun i =>
    { type := 1, vc := pktVc p, head := i == 0, tail := i + 1 == n, dest := dest, hops := 0, seq := 0, payload := slice bs (240 * i) 240, source := source }

/-- The place of a VC and source among a port's classes. -/
def sourceAt (vc : Fin 4) (src : Nat) : Fin 12 := Fin.ofNat 12 (3 * vc.1 + src)

/-- The first packet flit that waits on a VC from a source. -/
def Port.front (x : Port) (vc src : Nat) : Option TxFlit := x.outQueue.find? fun f => f.type == 1 && f.vc == vc && f.source == src

/-- A source has a flit that may leave on a VC: the VC holds a credit, no packet of another source is under way on it, and a draining port starts no packet
(R311, R316, R321). -/
def Port.canSend (x : Port) (vc : Fin 4) (src : Nat) : Bool :=
  match x.front vc.1 src with
  | none => false
  | some f => (x.owner.get vc == none || x.owner.get vc == some src) && decide (0 < x.credits.get vc) && !(x.state == .draining && f.head)

/-- The order of a VC and source: the lowest class, then the sources in turn, then the lowest VC (R287, R317). -/
def Port.order (x : Port) (k : Fin 4 × Nat) : Nat :=
  let c := x.classes.get (sourceAt k.1 k.2)
  100 * c + 10 * ((k.2 + 3 - x.turn.get (Fin.ofNat 4 c)) % 3) + k.1.1

/-- The flit that takes the next slot: a port-control flit, a marker, VC3 in its share of 50 slots, else the lowest class, in which the sources take turns by packet
(R287, R316, R317). -/
def Port.pick (x : Port) : Option TxFlit :=
  match x.outQueue.find? fun f => f.type == 3, x.outQueue.find? fun f => f.type == 2 with
  | some f, _ => some f
  | none, some f => some f
  | none, none =>
    let ks := (allFin 4).flatMap fun v => ([0, 1, 2].filter (x.canSend v)).map fun k => (v, k)
    let share := ks.filter fun k => decide (49 ≤ x.share) && k.1 == 3
    match (sortBy x.order (if share.isEmpty then ks else share)).head? with
    | some k => x.front k.1.1 k.2
    | none => none

/-- The head of a packet at the front of a source's queue holds credit for the output and loses it to another flit (R289, R317). -/
def Port.starves (x : Port) (vc : Fin 4) (src : Nat) : Bool :=
  match x.front vc.1 src with
  | none => false
  | some f => f.head && x.canSend vc src && x.pick != some f

/-- The address word of a packet to a link die for Vilet (R350). -/
def linkAddr (member pass decl off : Nat) : Word64 := mkWord [at_ 48 member, at_ 46 (pass - 1), at_ 32 decl, at_ 0 (off % 2 ^ 32)]

/-- Offer a packet with an address word to the Vilet port toward a member; a member with no route receives nothing. The exchanges of the placers on VC3 take any port,
other packets a matched one (R227, R322). -/
def State.sendVia (s : State) (n : PartId) (m : Nat) (source kind vc : Nat) (addr : Word64) (payload : List Byte) : State :=
  match (if vc = 3 then (s.parts.get n).portTo m else (s.parts.get n).matchedPort s.ports m) with
  | none => s
  | some port =>
    let key := (epControl, 0, vc)
    let seq := (Assoc.get key s.fabric.seqOut).getD 0
    let p := mkPacket kind vc epControl epControl n addr seq 0 0 0 s.time payload
    let s := { s with fabric := { s.fabric with seqOut := Assoc.put key (seq + 1) s.fabric.seqOut } }
    s.modPort port fun x => { x with outQueue := x.outQueue ++ viletFlits p m source }

/-- Answer an access that a link die took from another member: the packet names the endpoint that asked, with its flow and its generation, and leaves by the port
toward that member (R311, R350, R353). -/
def State.sendBack (s : State) (n : PartId) (k : LinkAsk) (kind vc : Nat) (addr : Word64) (payload : List Byte) : State :=
  match (s.parts.get n).matchedPort s.ports k.member with
  | none => s
  | some port =>
    let src := epLink (linkOf port)
    let key := (src, pktFlow k.packet, vc)
    let seq := (Assoc.get key s.fabric.seqOut).getD 0
    let p := mkPacket kind vc (pktSrc k.packet) src n addr seq (pktGen k.packet) (pktFlow k.packet) 0 s.time payload
    let s := { s with fabric := { s.fabric with seqOut := Assoc.put key (seq + 1) s.fabric.seqOut } }
    s.modPort port fun x => { x with outQueue := x.outQueue ++ viletFlits p k.member 1 }

/-- Offer a structure to the Vilet port toward a member: on VC0 in packets of at most 480 bytes (R279). -/
def State.sendMember (s : State) (n : PartId) (m : Nat) (source kind vc : Nat) (payload : List Byte) : State :=
  let size := if vc = 0 then 480 else 4096
  (List.range (max 1 (ceilDiv payload.length size))).foldl (fun (s : State) i =>
    s.sendVia n m source kind vc (linkAddr m 1 0 0) (slice payload (size * i) size)) s

/-- Every other member of a partition, by logical module number. -/
def Partition.others (p : Partition) : List Nat := (List.range p.settings.modules.toNat).filter (· != p.settings.logical.toNat)

/-- Send a control structure to every other member of a partition on VC0. -/
def State.sendMembers (s : State) (n : PartId) (bs : List Byte) : State :=
  (s.parts.get n).others.foldl (fun (s : State) m => s.sendMember n m 1 0x0A 0 bs) s

/-! ### Notices and step-boundary messages -/

/-- A retry or reset notice (R468). -/
def noticeWords (sender attempt code : Nat) (step : Word64) (seq : Nat) : List Word64 :=
  sealCrc [mkWord [at_ 48 sender, at_ 40 attempt, at_ 16 code], step, 0, at_ 0 (seq % 2 ^ 32)] 3

/-- An update-complete message (R215). -/
def updateCompleteWords (sender attempt : Nat) (step : Word64) (seq : Nat) : List Word64 :=
  sealCrc [mkWord [at_ 48 sender, at_ 40 attempt], step, 0, at_ 0 (seq % 2 ^ 32)] 3

/-- Send a notice to every tile, base die and link die of the partition in this module (R468). -/
def State.noticeHere (s : State) (n : PartId) (bs : List Byte) : State :=
  let p := s.parts.get n
  let s := (p.place.binding.filterMap id).foldl (fun (s : State) t => s.sendControl (epTile t) epControl 0 n bs) s
  let s := ((p.slices.map stackOf).eraseDups).foldl (fun (s : State) k => s.sendControl (epStack k) epControl 0 n bs) s
  ((p.ports.map linkOf).eraseDups).foldl (fun (s : State) l => s.sendControl (epLink l) epControl 0 n bs) s

/-- Send a notice to every tile, base die and link die of the partition in this module and to every other member (R468). -/
def State.sendNotice (s : State) (n : PartId) (attempt code : Nat) : State :=
  let p := s.parts.get n
  let bs := wordsBytes (noticeWords p.settings.logical.toNat attempt code (BitVec.ofNat 64 p.run.step) p.run.noticeOut)
  let s := (s.noticeHere n bs).sendMembers n bs
  s.modPart n fun p => { p with run := { p.run with noticeOut := p.run.noticeOut + 1 } }

/-! ### Buckle messages (R259) -/

/-- The words of a Buckle message before its sequence number and its CRC. -/
structure BuckleMsg where
  kind : Nat
  list : Nat
  fromLink : Bool
  source : Nat
  buckle : Nat
  count : Nat
  generation : Word64
  target : Nat
  cmd : Nat
  deriving DecidableEq, Repr

/-- The four words of a Buckle message. -/
def buckleWords (m : BuckleMsg) (seq : Nat) : List Word64 :=
  sealCrc [ mkWord [at_ 60 m.kind, at_ 58 m.list, at_ 56 m.fromLink.toNat, at_ 48 m.source, at_ 32 m.buckle, at_ 0 m.count],
    m.generation, mkWord [at_ 32 m.target, at_ 0 m.cmd], at_ 0 (seq % 2 ^ 32) ] 3

/-- The message that four words spell. -/
def buckleOfWords (ws : List Word64) : BuckleMsg where
  kind := bits (wordAt ws 0) 63 60
  list := bits (wordAt ws 0) 59 58
  fromLink := bits (wordAt ws 0) 57 56 == 1
  source := bits (wordAt ws 0) 55 48
  buckle := bits (wordAt ws 0) 47 32
  count := bits (wordAt ws 0) 31 0
  generation := ws.getD 1 0
  target := bits (wordAt ws 2) 63 32
  cmd := bits (wordAt ws 2) 31 0

/-- Tokens that a packet carries toward a home: those of an arrive message (R259, R270). -/
def tokensOf (p : Packet) : Nat :=
  if pktKind p = 7 then
    let m := buckleOfWords (bytesWords p.payload)
    if m.kind = 1 ∨ m.kind = 3 then m.count else 0
  else 0

/-- Tokens enter an account (R270). -/
def TokenAccount.add (k : TokenAccount) (sent applied retired rejected : Nat) : TokenAccount :=
  { k with sent := k.sent + sent, applied := k.applied + applied, retired := k.retired + retired, rejected := k.rejected + rejected }

/-- Tokens of a physical Buckle in a generation are counted as sent, applied, retired or rejected, in its account and in the counts of all (R270, R275). -/
def State.countTokens (s : State) (b : Nat) (g : Word64) (sent applied retired rejected : Nat) : State :=
  let a := s.audit
  let here := fun (k : TokenAccount) => k.buckle == b && k.generation == g
  let ks := if a.tokens.any here then a.tokens else a.tokens ++ [⟨b, g, 0, 0, 0, 0⟩]
  { s with audit := { a with
    tokens := ks.map fun k => if here k then k.add sent applied retired rejected else k
    sent := a.sent + BitVec.ofNat 64 sent
    applied := a.applied + BitVec.ofNat 64 applied
    retired := a.retired + BitVec.ofNat 64 retired
    rejected := a.rejected + BitVec.ofNat 64 rejected } }

/-- Packets end in flight with the partition that sent them, or with the welt that held them: the tokens of their arrive messages are
retired (R263, R269, R271). -/
def State.retireLost (s : State) (ps : List Packet) : State :=
  (ps.filter fun p => decide (0 < tokensOf p)).foldl (fun (s : State) p =>
    let m := buckleOfWords (bytesWords p.payload)
    s.countTokens m.buckle m.generation 0 0 m.count 0) s

/-- Send a Buckle message in one VC0 packet of kind 0x07; its own sequence number counts the messages from this source to this
destination. -/
def State.sendBuckle (s : State) (src dst : Nat) (part : PartId) (m : BuckleMsg) : State :=
  let seq := (Assoc.get (src, dst) s.fabric.buckleSeqOut).getD 0
  let s := { s with fabric := { s.fabric with buckleSeqOut := Assoc.put (src, dst) (seq + 1) s.fabric.buckleSeqOut } }
  s.send 0x07 0 dst src 36 part 0 0 0 (wordsBytes (buckleWords m seq.toNat))

/-- The range of a physical Buckle (R251). -/
def rangeOf (b : Nat) : Fin 16 := Fin.ofNat 16 (b / 4096)

/-- The counter of a physical Buckle: 0 when it was last written in another generation (R251). -/
def State.buckle (s : State) (b : Nat) : Nat :=
  let r := s.ranges.get (rangeOf b)
  match Assoc.get (b % 4096) r.counters with
  | some (g, c) => if g = r.generation then c.toNat else 0
  | none => 0

/-- Write the counter of a physical Buckle in its range's generation. -/
def State.setBuckle (s : State) (b v : Nat) : State :=
  s.modRange (rangeOf b) fun r => { r with counters := Assoc.put (b % 4096) (r.generation, BitVec.ofNat 32 v) r.counters }

/-- The physical number of a logical Buckle (R230, R252): logical range r is the r-th lowest range that the partition held at the load. A range that a
re-bind adds later changes none of them (DESIGN CHOICE, log entry 61). -/
def Partition.physBuckle (p : Partition) (b : Nat) : Nat :=
  4096 * (p.place.ranges.map (·.1)).getD (b / 4096) 0 + b % 4096

/-- The home of a physical Buckle that the partition's image uses (R255). -/
def Partition.homeOf (p : Partition) (b : Nat) : Option Home := Assoc.get b p.place.homes

/-- The declared total T(b) (R253). -/
def Partition.totalOf (p : Partition) (b : Nat) : Nat := (Assoc.get b p.place.totals).getD 0

end Sys2Proof.Machine
end

