-- ==== Sys2Proof/Machine/Routers.lean ====
section
/-! DEFINITION. Routers: their ports and buffers, flits, credits, and packets that enter, leave, are consumed or are cut short
(R36, R276 to R279, R285, R286). -/

namespace Sys2Proof.Machine

/-! ### Ports (R276, R278) -/

/-- The edge ports in use: router, its side, and the endpoint behind it (R278). -/
def edgePorts : List (TileId × RPort × Nat) :=
  let side := fun (port : RPort) (at_ : Nat → Nat) (l : List (Nat × Nat)) => l.map fun e => (Fin.ofNat 288 (at_ e.1), port, e.2)
  side 0 (fun x => x) [(1, 288), (2, 288), (3, 289), (4, 289), (5, 290), (6, 290), (7, 312), (10, 313), (11, 291), (12, 291), (13, 292),
    (14, 292), (15, 293), (16, 293)]
  ++ side 1 (fun y => 18 * y + 17) [(1, 294), (2, 294), (3, 295), (4, 295), (5, 296), (6, 296), (7, 314), (8, 315), (9, 297), (10, 297),
    (11, 298), (12, 298), (13, 299), (14, 299)]
  ++ side 2 (fun x => 18 * 15 + x) [(2, 305), (3, 305), (4, 304), (5, 304), (6, 303), (7, 303), (8, 317), (9, 320), (10, 316), (11, 302),
    (12, 302), (13, 301), (14, 301), (15, 300), (16, 300)]
  ++ side 3 (fun y => 18 * y) [(1, 311), (2, 311), (3, 310), (4, 310), (5, 309), (6, 309), (7, 319), (8, 318), (9, 308), (10, 308), (11, 307),
    (12, 307), (13, 306), (14, 306)]

/-- The edge port in use at a router, with the endpoint behind it. -/
def edgeAt (t : TileId) : Option (RPort × Nat) := (edgePorts.find? fun e => e.1 == t).map (·.2)

/-- The local port of a router. -/
def localPort : RPort := 4

/-- The mesh neighbour on a side. -/
def neighbour (t : TileId) (port : RPort) : Option TileId :=
  let x := t.1 % 18
  let y := t.1 / 18
  match port with
  | 0 => if y = 0 then none else some (Fin.ofNat 288 (t.1 - 18))
  | 1 => if x = 17 then none else some (Fin.ofNat 288 (t.1 + 1))
  | 2 => if y = 15 then none else some (Fin.ofNat 288 (t.1 + 18))
  | 3 => if x = 0 then none else some (Fin.ofNat 288 (t.1 - 1))
  | _ => none

/-- The side of the next router that faces a side of this one. -/
def facing (port : RPort) : RPort :=
  match port with
  | 0 => 2
  | 1 => 3
  | 2 => 0
  | 3 => 1
  | _ => 4

/-- Flit slots by VC and pool of the receiving buffer at a port, the same in both directions: a mesh port, an edge port, or the data
crossings at the local port (R286). -/
def inputDepth (t : TileId) (port : RPort) (vc pool : Nat) : Nat :=
  if port = localPort then (if pool = 0 then 16 else 0)
  else if (neighbour t port).isSome then
    match pool with
    | 0 => [32, 128, 128, 16].getD vc 0
    | 1 => 16
    | _ => if vc = 2 then 16 else 0
  else
    match pool with
    | 0 => [64, 256, 256, 32].getD vc 0
    | 2 => if vc = 2 then 16 else 0
    | _ => 0

/-- The mesh link on a side is up; an edge port or the local port has no mesh link. -/
def Router.up (r : Router) (port : RPort) : Bool :=
  match port with
  | 0 => r.linkUp.get 0
  | 1 => r.linkUp.get 1
  | 2 => r.linkUp.get 2
  | 3 => r.linkUp.get 3
  | _ => true

/-! ### Flits (R279) -/

/-- A flit: 64 bytes of payload, its sideband, and on a head flit the header. -/
structure Flit where
  payload : List Byte
  head : Bool
  tail : Bool
  truncated : Bool
  vc : Nat
  pool : Nat
  checks : BitVec 40
  header : List Word64
  deriving DecidableEq, Repr

/-- Flit `i` of a packet in a pool; payload bytes beyond the packet's length are 0. -/
def Packet.flit (p : Packet) (pool i : Nat) : Flit :=
  let bs := slice p.payload (64 * i) 64
  let bs := bs ++ List.replicate (64 - bs.length) 0
  { payload := bs
    head := i == 0
    tail := i + 1 == pktFlits p
    truncated := false
    vc := pktVc p
    pool := pool
    checks := Config.checkSymbols bs
    header := if i = 0 then pktHeader p else [] }

/-- A truncation tail (R285). -/
def truncationTail (vc pool : Nat) : Flit where
  payload := List.replicate 64 0
  head := false
  tail := true
  truncated := true
  vc := vc
  pool := pool
  checks := Config.checkSymbols (List.replicate 64 0)
  header := []

/-- The pool that a packet uses at the next hop (R281, R292): escape, main, or detour toward a via tile. -/
def poolOf (p : Packet) : Nat := if pktKind p = 0x0C ∨ pktKind p = 0x0D then 2 else if pktPhase p then 0 else 1

/-- The units of a core use a packet of its kind as it stands: PUT-TILE data, read data and negative acknowledgements. -/
def usedWhole (p : Packet) : Bool := [1, 3, 8, 9].contains (pktKind p)

/-- The kinds whose packets an edge die or a welt has done with on arrival (R281): negative acknowledgements, and fragments of control structures, which
a command brings as a whole. -/
def endsOnArrival (p : Packet) : Bool := [8, 9, 10].contains (pktKind p)

/-! ### Buffers and credits (R286) -/

/-- Add to a count by key. -/
def Assoc.bump {K : Type} [DecidableEq K] (k : K) (n : Nat) (xs : List (K × Nat)) : List (K × Nat) := Assoc.put k ((Assoc.get k xs).getD 0 + n) xs

/-- The key of a VC and pool at a port. -/
def poolKey (port : RPort) (vc pool : Nat) : PoolKey := (port.1, vc, pool)

/-- Flit slots that a packet occupies. -/
def BufEntry.slots (e : BufEntry) : Nat := e.got - e.sent

/-- The VC of an entry as an index. -/
def BufEntry.vcId (e : BufEntry) : Fin 4 := Fin.ofNat 4 e.vc

/-- Entries of an input's VC and pool, oldest first. -/
def Router.input (r : Router) (port : RPort) (vc pool : Nat) : List BufEntry :=
  r.bufs.filter fun e => e.port == port && e.vc == vc && e.pool == pool

/-- Occupied slots of an input's VC and pool. -/
def Router.occupied (r : Router) (port : RPort) (vc pool : Nat) : Nat := ((r.input port vc pool).map (·.slots)).sum

/-- The packet at the front of its input's VC and pool. -/
def Router.front (r : Router) (e : BufEntry) : Bool := (r.input e.port e.vc e.pool).head? == some e

/-- The credit balance of an output for a VC and pool. -/
def Router.credits (r : Router) (t : TileId) (port : RPort) (vc pool : Nat) : Nat :=
  (Assoc.get (poolKey port vc pool) r.balance).getD (inputDepth t port vc pool)

/-- The balance that the edge die behind a port holds toward its router. -/
def Router.edgeCredits (r : Router) (t : TileId) (port : RPort) (vc pool : Nat) : Nat :=
  (Assoc.get (poolKey port vc pool) r.edgeBalance).getD (inputDepth t port vc pool)

/-- Free entries of a data crossing for a VC, from the pointers that its sender sees. -/
def crossingRoom (written seen : Vector Nat 4) (vc : Fin 4) : Nat := 16 - (written.get vc + 2 ^ 32 - seen.get vc) % 2 ^ 32

/-- Advance a crossing pointer. -/
def advancePtr (v : Vector Nat 4) (vc : Fin 4) (n : Nat) : Vector Nat 4 := vmod v vc fun k => (k + n) % 2 ^ 32

/-- Flits of an entry free their slots: their credits return to the sender, or the outbound crossing is read (R36, R286). -/
def Tile.freeSlots (x : Tile) (e : BufEntry) (n : Nat) : Tile :=
  match e.feed with
  | .core => { x with island := { x.island with outRead := advancePtr x.island.outRead e.vcId n } }
  | .welt => x
  | _ => { x with router := { x.router with returned := Assoc.bump (poolKey e.port e.vc e.pool) n x.router.returned } }

/-- Put another entry in an entry's place. -/
def Router.swap (r : Router) (e e' : BufEntry) : Router := { r with bufs := r.bufs.map fun k => if k = e then e' else k }

/-- Take an entry out. -/
def Router.drop (r : Router) (e : BufEntry) : Router := { r with bufs := r.bufs.erase e }

/-- A packet is consumed at its input, flit by flit: what has arrived frees its slots, and the rest will as it arrives (R43, R283). -/
def Tile.discard (x : Tile) (e : BufEntry) : Tile :=
  let x := x.freeSlots e e.slots
  { x with router := if e.flits ≤ e.got then x.router.drop e else x.router.swap e { e with sent := e.got, out := none, won := false, held := false, drop := true } }

/-- Every packet of a partition leaves a tile's buffers and crossings, and every credit returns (R271). -/
def Tile.dropPart (x : Tile) (n : PartId) : Tile :=
  let es := x.router.bufs.filter fun e => pktPart e.packet == n
  let x := es.foldl (fun (x : Tile) e => x.freeSlots e e.slots) x
  let ins := x.island.inPackets.filter fun z => pktPart z.packet == n
  { x with
    router := { x.router with bufs := x.router.bufs.filter fun e => pktPart e.packet != n }
    island := { x.island with
      inPackets := x.island.inPackets.filter fun z => pktPart z.packet != n
      inRead := ins.foldl (fun v z => advancePtr v (Fin.ofNat 4 (pktVc z.packet)) (z.got - z.read)) x.island.inRead
      outPackets := x.island.outPackets.filter fun p => pktPart p != n } }

/-! ### Flits that arrive -/

/-- A packet that is new at an input. -/
def newEntry (port : RPort) (vc pool : Nat) (p : Packet) (feed : Feed) (got : Nat) : BufEntry where
  port := port
  vc := vc
  pool := pool
  packet := p
  feed := feed
  got := got
  sent := 0
  flits := pktFlits p
  cls := pktVc p
  out := none
  won := false
  held := false
  drop := false
  cut := false

/-- Flits of a packet arrive that its entry waits for; a packet that is being consumed frees them at once. -/
def Tile.grow (x : Tile) (e : BufEntry) (n : Nat) : Tile :=
  if e.drop then
    let x := x.freeSlots e n
    { x with router := if e.flits ≤ e.got + n then x.router.drop e else x.router.swap e { e with got := e.got + n, sent := e.got + n } }
  else { x with router := x.router.swap e { e with got := e.got + n } }

/-- The entry whose next flit arrives over the mesh at an input's VC and pool. -/
def Router.growing (r : Router) (port : RPort) (vc pool : Nat) : Option BufEntry :=
  (r.input port vc pool).find? fun e => e.feed == .link && decide (e.got < e.flits)

/-- A flit of a packet arrives over the mesh: a head opens an entry, and a truncation tail ends the one that waits (R279, R285). -/
def Tile.arriveFlit (x : Tile) (port : RPort) (vc pool : Nat) (p : Packet) (head cut : Bool) : Tile :=
  if head then
    let e := newEntry port vc pool p .link 1
    { x with router := { x.router with bufs := x.router.bufs ++ [if cut then { e with flits := 1, cut := true } else e] } }
  else match x.router.growing port vc pool with
    | none => x
    | some e =>
      let e' := if cut then { e with flits := e.got + 1, cut := true } else e
      ({ x with router := x.router.swap e e' }).grow e' 1

/-! ### Packets cut short (R48, R285, R293) -/

/-- End a packet whose missing flits will not come: with its head gone a truncation tail follows the flits that have arrived. -/
def BufEntry.truncate (e : BufEntry) (got : Nat) : BufEntry := { e with feed := if e.feed = .core then .welt else e.feed, got := got + 1, flits := got + 1, cut := true }

/-- A forced close at the outbound crossing (R48 step 2): complete packets leave on the mesh, an incomplete one is discarded with its
slots, and a truncation tail ends it where earlier flits have left. -/
def closedEntry (e : BufEntry) : Option BufEntry :=
  if e.feed ≠ .core then some e
  else if e.flits ≤ e.got then some { e with feed := .welt }
  else if e.sent = 0 ∨ e.drop = true then none
  else some (e.truncate e.sent)

/-- Packets of the outbound crossing that a forced close discards or cuts short. -/
def Router.unfinished (r : Router) : List BufEntry := r.bufs.filter fun e => e.feed == .core && decide (e.got < e.flits)

end Sys2Proof.Machine
end

