-- ==== Sys2Proof/Machine/Island.lean ====
section
/-! DEFINITION. The core island and its welt: what a core keeps and loses, drains, forced closes, wakes with their admission, and requests
that meet (R36 to R54, R225, R409 to R419, R559, R560). -/

namespace Sys2Proof.Machine

/-! ### What a core keeps and loses (R560) -/

/-- A core whose contents are those after a scrub (R225): every array, store, queue and counter zero. The queues' counts since
power-on, the sequencer's counts and the page counts are the tile's entries, kept by its welt (R52, R541). -/
def Tile.scrubbed (x : Tile) : Tile :=
  let st := x.stream
  let sq := x.seqr
  { x with
    array := MacArray.reset
    vec := VectorEngine.reset
    stream := { st with queues := Vector.replicate 32 Queue.reset, serves := 0, binding := [], received := [], passOf := [] }
    seqr := { sq with ctxs := Vector.replicate 4 Context.reset, descriptors := [], records := [], tables := [], stepReady := false }
    store := []
    storeStatus := []
    stamp := StampUnit.reset }

/-- A queue whose arming state is lost: both slots are empty, the arm count stays (R560). -/
def Queue.idle (q : Queue) : Queue := { q with active := none, shadow := none, ending := [], faulted := false }

/-- A core entering Retain: positions, tags, queue states, lane flags, the phase flag word and the Stamp running values are lost
(R560). -/
def Tile.retained (x : Tile) : Tile :=
  { x with
    vec := { x.vec with laneFlags := Vector.replicate 512 0, phaseFlags := 0 }
    stream := { x.stream with queues := x.stream.queues.map Queue.idle, received := [] }
    seqr := { x.seqr with
      ctxs := x.seqr.ctxs.map fun c => { Context.reset with pages := c.pages }
      stepReady := false }
    stamp := StampUnit.reset }

/-- The welt resets its halves of the four crossings (R38): nothing is left in them, and the core's halves keep their pointers. -/
def Island.resetWeltHalves (i : Island) : Island :=
  { i with
    inWritten := Vector.replicate 4 0
    inSeen := Vector.replicate 4 0
    outRead := Vector.replicate 4 0
    inPackets := []
    outPackets := []
    inCtl := []
    outCtl := []
    ctlPointers := (i.ctlPointers.set 0 0).set 3 0
    quiesced := false
    finalSent := false
    acked := false }

/-- The core resets its halves of the four crossings at step 3 of a wake (R38, R51). -/
def Island.resetCoreHalves (i : Island) : Island :=
  { i with
    inRead := Vector.replicate 4 0
    outWritten := Vector.replicate 4 0
    outSeen := Vector.replicate 4 0
    ctlPointers := (i.ctlPointers.set 1 0).set 2 0 }

/-- The welt writes a word into the inbound control crossing, which holds 8 (R36). -/
def Island.sendIn (i : Island) (w : Word64) : Island :=
  if 8 ≤ i.inCtl.length then i
  else { i with inCtl := i.inCtl ++ [w], ctlPointers := advancePtr i.ctlPointers 0 1 }

/-- The core reads a word from the inbound control crossing. -/
def Island.takeIn (i : Island) (w : Word64) : Island := { i with inCtl := i.inCtl.erase w, ctlPointers := advancePtr i.ctlPointers 1 1 }

/-- The core writes a word into the outbound control crossing, which holds 8 (R36). -/
def Island.sendOut (i : Island) (w : Word64) : Island :=
  if 8 ≤ i.outCtl.length then i
  else { i with outCtl := i.outCtl ++ [w], ctlPointers := advancePtr i.ctlPointers 2 1 }

/-- The welt reads a word from the outbound control crossing. -/
def Island.takeOut (i : Island) (w : Word64) : Island := { i with outCtl := i.outCtl.erase w, ctlPointers := advancePtr i.ctlPointers 3 1 }

/-- The core clock has stopped: the welt resets its halves of the crossings (R47 step 6, R48 step 4). What the outbound crossing still
held complete leaves on the mesh, and packets that the core had not finished end there (R48 step 2); after a drain nothing is left. -/
def Tile.stopCrossings (x : Tile) : Tile :=
  { x with
    island := x.island.resetWeltHalves
    router := { x.router with bufs := x.router.bufs.filterMap closedEntry } }

/-- The core goes Off: the rail is at 0 V and the contents are lost (R415, R560); class V entries of the tile take their defaults
(R542). -/
def Tile.goOff (x : Tile) : Tile :=
  let x := x.scrubbed.stopCrossings
  { x with
    island := { x.island with state := .off, clock := 0, ingressOpen := false, target := none, held := none, scrubDue := false }
    power := { x.power with
      setpoint := 0
      rail := 0
      current := 0
      allowance := 0
      softStart := false
      ramp := none
      ballast := 0
      lastDraw := 0
      withheld := none
      lowered := false
      rising := false } }

/-- The core goes to Retain: the rail is at 0.45 V with the clock stopped (R50, R415). -/
def Tile.goRetain (x : Tile) : Tile :=
  let x := x.retained.stopCrossings
  { x with
    island := { x.island with state := .retain, clock := 0, ingressOpen := false, target := none }
    power := { x.power with
      setpoint := 450
      rail := 450
      allowance := 4
      softStart := false
      ramp := none
      ballast := 0
      lastDraw := 0
      withheld := none
      lowered := false
      rising := false } }

/-- The core is Stopped: the clock is stopped and the rail unchanged (R47 step 6). -/
def Tile.goStopped (x : Tile) : Tile :=
  let x := x.stopCrossings
  { x with island := { x.island with state := .stopped, clock := 0, ingressOpen := false } }

/-! ### The V/F table and the clock (R32, R410) -/

/-- An entry of the fused table brought into the range and the order that R410 gives it. -/
def vfEntry (t : TileId) : Nat → Nat
  | 0 => 550 + Config.fusedMillivolts t 0 % 301
  | i + 1 => max (vfEntry t i) (550 + Config.fusedMillivolts t (i + 1) % 301)

/-- The core-rail setpoint in mV of a clock setpoint in MHz. -/
def railFor (t : TileId) (mhz : Nat) : Nat := vfEntry t ((mhz - 100) / 25)

/-- Phases of a tile's regulator that are lost. -/
def TilePower.lost (p : TilePower) : Nat := ((List.range 8).filter fun i => !bitAt p.phases.toNat i).length

/-- The current cap of a tile by its lost phases (R412). -/
def TilePower.cap (p : TilePower) : Nat :=
  if p.controllerFault then 0 else match p.lost with
  | 0 => 128
  | 1 => 112
  | 2 => 96
  | _ => 0

/-- The highest clock setpoint of a tile by its lost phases (R412). -/
def TilePower.clockLimit (p : TilePower) : Nat := if p.lost = 2 then 700 else 900

/-- The clock setpoint that the governor's ceilings and the tile's own limits allow, in steps of 25 MHz, at least 100 MHz (R32). -/
def Tile.clockSetpoint (x : Tile) : Nat :=
  let p := x.power
  let m := min (min (min p.ceiling p.thermalCeiling) (min p.droopCeiling p.slackCeiling)) p.clockLimit
  max 100 (m - m % 25)

/-- The period of a core clock in ps. -/
def periodPs (mhz : Nat) : Nat := 1000000 / mhz

/-- A clock period is in force while transfers are outstanding (R159). -/
def Arming.slowed (a : Arming) (ps : Nat) : Arming :=
  { a with outstanding := a.outstanding.map fun k => { k with slow := max k.slow ps } }

/-- A clock period is in force while transfers of any queue are outstanding (R159). -/
def StreamUnit.slowed (u : StreamUnit) (ps : Nat) : StreamUnit :=
  { u with queues := u.queues.map fun q => { q with active := q.active.map (·.slowed ps) } }

/-- Put a Running core at a clock setpoint: the rail setpoint follows the table (R32, R410). -/
def Tile.setClock (x : Tile) (t : TileId) (mhz : Nat) : Tile :=
  { x with
    stream := x.stream.slowed (periodPs mhz)
    island := { x.island with clock := mhz }
    power := { x.power with setpoint := railFor t mhz, rail := railFor t mhz } }

/-! ### Wake admission (R409, R416 to R419) -/

/-- Working phases of a die's vertical stage set. -/
def Die.working (d : Die) : Nat := ((List.range 16).filter fun i => bitAt d.phases.toNat i).length

/-- The die current limit in A (R409). -/
def Die.limit (d : Die) : Nat :=
  if d.railLost then 0 else match d.working with
  | 16 => 450
  | 15 => 400
  | 14 => 350
  | _ => 0

/-- What a tile counts in its die's sum (R416). -/
def Tile.counts (x : Tile) : Nat :=
  if x.power.softStart then 20 else match x.island.state with
  | .retain => 4
  | .off => 0
  | _ => x.power.allowance

/-- The headroom of a die with one tile counted at 0 (R416). -/
def State.headroom (s : State) (d : DieId) (waking : TileId) : Int :=
  ((s.dies.get d).limit : Int) -
    ((tilesOfDie d).map fun t => if t = waking then 0 else (s.tiles.get t).counts).sum

/-- The first request of a die by class and then by time (R419). -/
def Die.nextRequest (d : Die) : Option WakeReq := (sortBy (fun r => r.cls) d.requests).head?

/-- Admit a wake: the state is Waking and the soft-start begins (R51 step 1, R417). -/
def State.admitWake (s : State) (t : TileId) (r : WakeReq) : State :=
  let d := dieOf t
  let waited := s.time - r.at_
  let s := s.modDie d fun x => { x with
    softStartTile := some t
    requests := x.requests.filter fun q => q.tile != t }
  s.modTile t fun x => { x with
    island := { x.island with state := .waking, ingressOpen := false }
    power := { x.power with
      softStart := true
      setpoint := railFor t 100
      wakes := x.power.wakes + 1
      longestDeferral := if r.deferred then BitVec.ofNat 32 (max x.power.longestDeferral.toNat (waited / 1000)) else x.power.longestDeferral } }

/-- Serve the wake requests of a die: the first one is admitted when no soft-start is under way and the headroom is at least 40 A
(R416, R419). -/
def State.tryAdmit (s : State) (d : DieId) : State :=
  let x := s.dies.get d
  match x.softStartTile, x.nextRequest with
  | none, some r => if 40 ≤ s.headroom d r.tile then s.admitWake r.tile r else s
  | _, _ => s

/-- A wake of a tile in Retain or Off is admitted at once, or deferred and counted (R416, R418). -/
def State.queueWake (s : State) (t : TileId) (cls : Nat) : State :=
  let x := s.tiles.get t
  if (x.island.state == .retain || x.island.state == .off) && !x.island.weltFailed then
    let d := dieOf t
    if (s.dies.get d).requests.any fun r => r.tile == t then s
    else
      let s := s.modDie d fun y => { y with requests := y.requests ++ [⟨t, cls, s.time, false⟩] }
      let s := s.tryAdmit d
      if (s.dies.get d).requests.any fun r => r.tile == t then
        let s := s.modDie d fun y => { y with
          requests := y.requests.map fun r => if r.tile = t then { r with deferred := true } else r
          deferred := y.deferred + 1 }
        s.modTile t fun x => { x with power := { x.power with wakesDeferred := x.power.wakesDeferred + 1 } }
      else s
  else s

/-- Request a wake of a tile that is not fenced. -/
def State.requestWake (s : State) (t : TileId) (cls : Nat) : State :=
  if (s.tiles.get t).island.fenced then s else s.queueWake t cls

/-! ### Requests that meet (R46) -/

/-- Strictness of a target: running, retain, off, off for a fence. -/
def IslandTarget.rank : IslandTarget → Nat
  | .running => 0
  | .retain => 1
  | .off => 2
  | .fence => 3

/-- The quiesce request on the inbound control crossing (R47 step 1). The coding of the words on the control crossings is the model's own
(DESIGN CHOICE, log entry 32). -/
def quiesceWord : Word64 := 1

/-- The final write pointer of the inbound data crossing for a VC (R47 step 3). -/
def finalWord (vc pointer : Nat) : Word64 := mkWord [at_ 56 4, at_ 32 vc, at_ 0 pointer]

/-- The four final write pointers of an island. -/
def Island.finals (i : Island) : List Word64 := (List.range 4).map fun v => finalWord v (i.inWritten.get (Fin.ofNat 4 v))

/-- Begin a drain toward a target (R47 step 1). -/
def Tile.startDrain (x : Tile) (g : IslandTarget) : Tile :=
  { x with island := { x.island with
    state := .draining
    target := some g }.sendIn quiesceWord }

/-- The welt closes ingress at a packet boundary, once no packet is on its way through the local port, and sends the final write pointers
(R45, R47 step 3). -/
def Tile.closeIngress (x : Tile) : Tile :=
  let i := x.island
  if i.state = .draining ∧ i.finalSent = false ∧ i.inCtl.length ≤ 4 ∧ (x.router.bufs.any fun e => e.won) = false then
    { x with island := i.finals.foldl Island.sendIn { i with ingressOpen := false, finalSent := true } }
  else x

/-- A stricter request ends a wake that is not admitted yet (R46). -/
def State.dropWake (s : State) (t : TileId) : State :=
  s.modDie (dieOf t) fun d => { d with requests := d.requests.filter fun r => r.tile != t }

/-- The wake of a tile ends, admitted or not. -/
def State.stopWake (s : State) (t : TileId) : State :=
  (s.dropWake t).modDie (dieOf t) fun d => { d with softStartTile := if d.softStartTile = some t then none else d.softStartTile }

/-- A request for a core island (R46, R50). The manual gives no path from Off to Retain: a request for Retain that reaches a core in Off wakes
it, and the drain to Retain follows the wake (DESIGN CHOICE, log entry 59). -/
def State.requestCore (s : State) (t : TileId) (g : IslandTarget) (cls : Nat) : State :=
  let s := if g = .fence then s.modTile t fun x => { x with island := { x.island with fenced := true } } else s
  let i := (s.tiles.get t).island
  if g = .running ∧ i.fenced then s else
  match i.state with
  | .running => if g = .running then s else s.modTile t fun x => x.startDrain g
  | .draining =>
    let now := ((i.target.map (·.rank)).getD 0)
    if now ≤ g.rank then s.modTile t fun x => { x with island := { x.island with target := some g, held := none } }
    else if i.fenced || ((i.held.map (·.rank)).getD 0) > g.rank then s
    else s.modTile t fun x => { x with island := { x.island with held := some g } }
  | .waking =>
    if g = .running then s
    else if ((i.held.map (·.rank)).getD 0) > g.rank then s
    else s.modTile t fun x => { x with island := { x.island with held := some g } }
  | .stopped =>
    match g with
    | .running => (s.modTile t fun x => x.goRetain).requestWake t cls
    | .retain => s.modTile t fun x => x.goRetain
    | .off | .fence => s.modTile t fun x => x.goOff
  | .retain =>
    match g with
    | .running => s.requestWake t cls
    | .retain => s.dropWake t
    | .off | .fence => (s.dropWake t).modTile t fun x => x.goOff
  | .off =>
    match g with
    | .running => s.requestWake t cls
    | .retain =>
      (s.modTile t fun x => { x with island := { x.island with held := some .retain } }).requestWake t cls
    | .off | .fence => (s.dropWake t).modTile t fun x => { x with island := { x.island with held := none } }

/-- What follows when a core has come to Stopped: the target of the drain, then a held request (R46, R50). -/
def State.afterStopped (s : State) (t : TileId) : State :=
  let i := (s.tiles.get t).island
  let s := s.modTile t fun x => { x with island := { x.island with target := none, held := none } }
  if i.fenced then s.modTile t fun x => x.goOff else
  let s := match i.target with
    | some .retain => s.modTile t fun x => x.goRetain
    | some .off | some .fence => s.modTile t fun x => x.goOff
    | _ => s
  match i.held with
  | some g => s.requestCore t g (if i.scrubDue then 3 else 4)
  | none => s

/-- The cause with which a welt answers packets for its core (R43, R44); none while they are delivered. -/
def Island.cause (i : Island) : Option Nat :=
  if i.fenced && !(i.state == .running && i.ingressOpen) then some 0x1 else
  match i.state with
  | .running => if i.ingressOpen then none else some 0x2
  | .draining => if i.ingressOpen then none else some 0x2
  | .stopped => some 0x3
  | .retain => some 0x4
  | .off => some 0x5
  | .waking => some 0x6

/-- A forced close (R48): the clock stops; complete packets of the outbound crossing leave on the mesh, an incomplete one is discarded with
its slots, and a truncation tail ends it where its earlier flits have left; the packets of the inbound crossing are answered and what
remains of them is consumed; the welt's halves are reset, and the close is counted and recorded. -/
def State.forcedClose (s : State) (t : TileId) : State :=
  let x := s.tiles.get t
  let cause := if x.island.fenced then 0x1 else 0x2
  let cut := x.router.unfinished
  let s := { s with fabric := { s.fabric with
    truncated := s.fabric.truncated + BitVec.ofNat 32 (cut.filter fun e => decide (0 < e.sent) && !e.drop).length } }
  let s := (x.island.outPackets ++ (cut.filter fun e => e.sent == 0).map (·.packet)).foldl (fun (s : State) p => s.take p) s
  let s := (x.island.inPackets.filter fun z => !z.cut).foldl (fun (s : State) z => (s.take z.packet).nack t z.packet cause) s
  let s := s.modTile t fun x =>
    let x := (x.router.bufs.filter (·.won)).foldl (fun (x : Tile) e => x.discard e) x
    let x := x.goStopped
    { x with
      island := { x.island with forcedCloses := x.island.forcedCloses + 1 }
      power := { x.power with estimateUntil := s.time + 1000000 } }
  s.report (.welt t) { s.mkReport 0x0506 0 0 (s.partOfTile t) (epTile t) 0 with detailA := BitVec.ofNat 32 (cut.map (·.slots)).sum }

end Sys2Proof.Machine
end

