-- ==== Sys2Proof/Machine/Recovery.lean ====
section
/-! DEFINITION. The responses that every family of faults shares: the module state, cancelled transfers, generation advances, step retries,
partition resets, fences and substitutions (R153, R217, R241 to R244, R263, R459 to R472, R513, R543, R552, R564). -/

namespace Sys2Proof.Machine

/-! ### Health, free tiles and the module state -/

/-- A tile is healthy (R220). -/
def Tile.healthy (x : Tile) : Bool := !x.island.fenced && !x.island.weltFailed && x.test.last == .passed

/-- A tile holds a home of a partition's Buckle (R255). -/
def State.holdsHome (s : State) (t : TileId) : Bool :=
  s.parts.toList.any fun p => p.place.homes.any fun h => h.2 == .welt t

/-- A tile has been chosen by a substitution or a migration, or by the re-bind request in service (R223, R243). -/
def State.chosen (s : State) (t : TileId) : Bool :=
  (s.parts.toList.any fun p => p.moves.any fun m => m.target == t) || ((s.placer.service.map fun v => v.tiles.contains t).getD false)

/-- Free tiles in ascending number (R220). -/
def State.freeTiles (s : State) : List TileId :=
  (allFin 288).filter fun t =>
    (s.tiles.get t).healthy && (s.partOfTile t).isNone && !s.holdsHome t && !s.chosen t && !(s.tiles.get t).island.scrubDue

/-- Working converters (R407). -/
def State.workingConverters (s : State) : Nat :=
  ((allFin 32).filter fun i => s.input.converters.get i == .working && !s.input.disable.get i).length

/-- The degraded conditions, OD 0x2000.02 (R547). -/
def State.degradedBits (s : State) : Nat :=
  (if s.freeTiles.length < s.placer.spareReserve.toNat then 1 else 0) +
  (if s.workingConverters < 30 then 2 else 0) +
  (if s.stackDies.toList.any fun k => k.power == .failed then 4 else 0) +
  (if s.linkDies.toList.any fun l => l.failed then 8 else 0) +
  (if s.tiles.toList.any fun t => t.island.weltFailed then 16 else 0)

/-- Put the module in a state (R547). -/
def State.enter (s : State) (m : ModuleState) : State :=
  if s.module.state = m then s
  else ({ s with module := { s.module with state := m, since := s.time } }).refreshAlert

/-- Follow the table of R552: Configured, Running or Degraded by the Loaded partitions and the degraded conditions. -/
def State.refreshModule (s : State) : State :=
  match s.module.state with
  | .configured | .running | .degraded =>
    if s.parts.toList.any fun p => p.state == .loaded || p.state == .resetting then
      s.enter (if s.degradedBits = 0 then .running else .degraded)
    else s.enter .configured
  | _ => s

/-! ### Streams and generations -/

/-- Transfers of an arming that have not completed and have not been cancelled. -/
def Arming.open_ (a : Arming) : Nat := a.desc.transfers - a.completed - a.cancelled

/-- The armings of a queue, those that a layer re-run ended among them. -/
def Queue.all (q : Queue) : List Arming := q.active.toList ++ q.shadow.toList ++ q.ending

/-- No transfer of a queue waits for an answer. -/
def Queue.quiet (q : Queue) : Bool := q.all.all fun a => a.outstanding.isEmpty

/-- Clear every queue: every transfer that has not completed is cancelled, every queue is Empty and no queue is Faulted (R153). The
second component is the count of cancelled transfers. -/
def StreamUnit.clear (u : StreamUnit) (counts : Bool) : StreamUnit × Nat :=
  let n := (u.queues.toList.map fun q => (q.all.map (·.open_)).sum).sum
  ({ u with
      queues := u.queues.map fun q => { q with active := none, shadow := none, ending := [], faulted := false, armCount := if counts then q.armCount else 0 }
      cancelled := u.cancelled + BitVec.ofNat 64 n
      passOf := [] }, n)

/-- Refused transfers and unissued ones of an arming are cancelled; issued ones wait for their answers (R153). The second component is the count. -/
def Arming.cancel (a : Arming) : Arming × Nat :=
  let dead := a.outstanding.filter fun k => k.asked.any fun z => z.refused.isSome
  let n := dead.length + (a.desc.transfers - a.next)
  ({ a with outstanding := a.outstanding.filter (fun k => !dead.contains k), next := a.desc.transfers, cancelled := a.cancelled + n }, n)

/-- The refused and the unissued transfers of every queue are cancelled (R153). -/
def StreamUnit.cancel (u : StreamUnit) : StreamUnit × Nat :=
  let n := (u.queues.toList.map fun q => ((q.active.map (·.cancel.2)).getD 0) + ((q.shadow.map (·.cancel.2)).getD 0)).sum
  ({ u with
      queues := u.queues.map fun q => { q with active := q.active.map (·.cancel.1), shadow := q.shadow.map (·.cancel.1) }
      cancelled := u.cancelled + BitVec.ofNat 64 n }, n)

/-- Clear the queues of a tile and count the cancelled transfers in the audit. -/
def State.clearStreams (s : State) (t : TileId) (counts : Bool) : State :=
  let (u, n) := (s.tiles.get t).stream.clear counts
  let s := s.modTile t fun x => { x with stream := u }
  { s with audit := { s.audit with cancelled := s.audit.cancelled + BitVec.ofNat 64 n } }

/-- Clear the sent maps of a tile (R267). -/
def Tile.clearSent (x : Tile) : Tile := { x with router := { x.router with sentMaps := Vector.replicate 4 ⟨[], none⟩ } }

/-- The physical tiles behind the logical tiles of a partition. -/
def Partition.workers (p : Partition) : List TileId := p.place.binding.filterMap id

/-- Advance the generation of some ranges: counters read 0, watches of the ranges are removed, and the sent maps of every partition that holds one of them are
cleared (R263, R264, R267). -/
def State.advance (s : State) (rs : List (Fin 16)) : State :=
  let s := rs.foldl (fun (s : State) r => s.modRange r fun x => { x with generation := x.generation + 1 }) s
  let s := { s with tiles := s.tiles.map fun x => { x with router := { x.router with
      watches := x.router.watches.filter fun w => !rs.contains (rangeOf w.buckle) } } }
  ((allFin 16).filter fun n => (s.parts.get n).ranges.any fun r => rs.contains r).foldl (fun (s : State) n =>
    s.modTiles (s.parts.get n).workers Tile.clearSent) s

/-- Advance every range of a partition. -/
def State.advancePart (s : State) (n : PartId) : State := s.advance (s.parts.get n).ranges

/-- The numbers of Buckle messages between the partition's tiles and their welts start at 0 again, at load and after a partition reset (R259). -/
def Fabric.restartMessages (f : Fabric) (ts : List TileId) : Fabric :=
  let here := fun (e : Nat) => ts.any fun t => epTile t == e || epWelt t == e
  { f with
    buckleSeqOut := f.buckleSeqOut.filter fun e => !(here e.1.1 || here e.1.2)
    buckleSeqIn := f.buckleSeqIn.filter fun e => !(here e.1.1 || here e.1.2) }

/-- A context that stands at the start of its list. -/
def Context.atStart (i : Nat) : Context := { Context.reset with state := .issuing, pos := i }

/-- The generator counters of a snapshot, by lane and stream (R134, R465). -/
def gensOf (ws : List Word64) : Vector (Vector Word64 8) 512 :=
  Vector.ofFn fun l => Vector.ofFn fun k => ws.getD (8 * l.1 + k.1) 0

/-- The snapshot slot that a step restarts from: slot (n − 1) mod 2; both slots read 0 at load (R465). -/
def Partition.snapshot (p : Partition) (l : Nat) : List Word64 :=
  match p.snapshots.find? fun x => x.logical == l with
  | some x => (((if (p.run.step + 1) % 2 = 0 then x.slot0 else x.slot1).map (·.2)).getD [])
  | none => []

/-- A tile restarts at command index 0 of every list for a new step or attempt (R187). Generator counters are given. A context keeps the pages among its list's
first 8 (R185), and the flags of an abandoned attempt enter no phase entry (R131, R377). -/
def Tile.restart (x : Tile) (gens : Option (List Word64)) : Tile :=
  { x with
    vec := match gens with
      | some g => { x.vec with gens := gensOf g, marks := [], phaseFlags := 0 }
      | none => { x.vec with marks := [] }
    array := { x.array with loading := none, trailerSeq := [] }
    seqr := { x.seqr with
      ctxs := x.seqr.ctxs.map fun c => { Context.atStart 0 with pages := c.pages.filter fun g => decide (g.page < 8) }
      lastLayer := Vector.replicate 4 0
      stepReady := false
      counted := Vector.replicate 4 0 }
    stamp := { x.stamp with ctxs := Vector.replicate 32 none, blocks := Vector.replicate 32 [], tables := [], tableBlocks := [] }
    faults := { x.faults with perLayer := [], rerun := none, spent := [] } }

/-! ### Step retry (R217, R468, R470) -/

/-- A ring reset of a function (R513): every entry that has not completed completes with status 6, then the rings are disabled. -/
def HostFn.ringReset (h : HostFn) (up : Bool) (now : Nat) : HostFn :=
  let h := (h.entries.filter fun (e : OpenEntry) => !e.posted).foldl (fun (h : HostFn) (e : OpenEntry) => h.post up now ⟨e.kind, 6, e.tag, 0, 0⟩) h
  { h with entries := [], fed := [], held := [], submission := Ring.reset, completion := Ring.reset, record := Ring.reset }

/-- A tile that belongs to a partition which is reset: drained, with a tile reset, held in Retain; a fenced tile stays Off (R564). -/
def Tile.partReset (x : Tile) : Tile :=
  if x.island.state == .off then x.clearSent
  else
    let y := (x.scrubbed.goRetain).clearSent
    { y with
      seqr := { y.seqr with boundImage := 0 }
      faults := { y.faults with perLayer := [], rerun := none, spent := [] } }

/-- The Saddlebag settings of a partition at their defaults; its records stay (R543, R564). -/
def Replay.partReset (r : Replay) : Replay :=
  { Replay.reset with
    records := match r.closing with
      | some c => r.records ++ [(c.1, c.2.1)]
      | none => r.records
    written := r.written
    truncated := r.truncated
    refWaits := r.refWaits
    refFaults := r.refFaults
    report := r.report
    stops := r.stops
    forced := r.forced
    ignored := r.ignored }

/-- Streams of a partition leave spill mode at an input when its spilled packets are discarded (R302). -/
def Router.endSpill (r : Router) (es : List Spilled) (n : PartId) : Router :=
  { r with spilling := r.spilling.filter fun k => !es.any fun e => pktPart e.packet == n && pktSrc e.packet == k.2.src &&
      pktFlow e.packet == k.2.flow && (pktGen e.packet).toNat == k.2.gen }

/-- A tile leaves its partition, or is given back by an event that had chosen it (R224, R225, R246, R247): its wake ends; a core that holds contents is
brought to Retain and woken with a scrub, after which it enters Retain as a designated spare and Off otherwise. A core in Off holds nothing. -/
def State.leaveTile (s : State) (t : TileId) : State :=
  let s := (s.dropWake t).modTile t fun x =>
    let y := x.clearSent
    { y with
      seqr := { y.seqr with boundImage := 0 }
      faults := { y.faults with perLayer := [], rerun := none, spent := [] } }
  let x := s.tiles.get t
  let due := fun (s : State) => s.modTile t fun x => { x with island := { x.island with scrubDue := true } }
  if x.island.fenced || x.island.weltFailed then s
  else match x.island.state with
    | .off =>
      let s := s.modTile t fun x => { x with island := { x.island with held := none } }
      if s.placer.designated.contains t then s.requestCore t .retain 3 else s
    | .running =>
      ((due s).requestCore t .retain 3).modTile t fun x => { x with island := { x.island with held := some .running } }
    | .draining => (due s).modTile t fun x => { x with island := { x.island with target := some .retain, held := some .running } }
    | .waking => due s
    | .stopped | .retain => (due s).requestCore t .running 3

/-- Packets whose head has not left end in the output queue of a port; others run to their tails (R321). -/
def Port.dropWaiting (x : Port) : Port :=
  { x with outQueue := (x.outQueue.foldl (fun (a : List TxFlit × List Nat) f =>
      if f.type = 1 && (f.head || a.2.contains (3 * f.vc + f.source)) then (a.1, (3 * f.vc + f.source) :: a.2) else (a.1 ++ [f], a.2)) ([], [])).1 }

/-- Reset a partition (R471, R564): notices leave, tiles drain and are scrubbed, packets and transfers of the partition end,
generations advance, the image is discarded and the slices are clean except the Saddlebag area, open entries of the host complete
with status 6 and a kind 0x82 completion, class P entries take their defaults, and the partition is Composed. A partition that is not
Loaded sends no notice and writes no completion for an image. -/
def State.resetPartition (s : State) (n : PartId) (code : Nat) : State :=
  let p := s.parts.get n
  if p.state = .free ∨ p.state = .resetting then s else
  let loaded := p.state == .loaded
  let s := if loaded then s.sendNotice n 0xFF code else s
  let s := p.workers.foldl (fun (s : State) t => s.clearStreams t false) s
  let s := s.advancePart n
  let given := (p.moves.filter fun v => !v.own).map (·.target)
  let kept := p.tiles.filter fun t => !given.contains t
  let s := kept.foldl (fun (s : State) t => s.stopWake t) s
  let s := s.modTiles kept Tile.partReset
  let s := s.retireLost (s.fabric.inFlight.filter fun k => pktPart k == n)
  let s := { s with
    fabric := { (s.fabric.freeSlots (s.fabric.escape.filter fun e => pktPart e.packet == n)).restartMessages p.tiles with
      inFlight := s.fabric.inFlight.filter fun k => pktPart k != n
      escape := s.fabric.escape.filter fun e => pktPart e.packet != n }
    tiles := s.tiles.map fun x =>
      let x := x.dropPart n
      { x with router := x.router.endSpill s.fabric.escape n }
    stackDies := s.stackDies.map fun k => { k with current := k.current.filter fun c => c.1.1 != n.1 }
    linkDies := s.linkDies.map fun l => { l with asks := l.asks.filter fun a => a.part != n }
    faults := { s.faults with resets := s.faults.resets + 1 } }
  let s := p.ports.foldl (fun (s : State) q => s.modPort q fun x => { x.dropWaiting with rxParts := Vector.replicate 4 [] }) s
  let s := match p.func with
    | none => s
    | some f => s.modFn f fun h =>
      let h := (h.entries.filter fun (e : OpenEntry) => !e.posted).foldl (fun (h : HostFn) (e : OpenEntry) => h.post (s.linkUp f) s.time ⟨e.kind, 6, e.tag, 0, 0⟩) h
      let h := { h with entries := [], fed := [] }
      if loaded then h.post (s.linkUp f) s.time ⟨0x82, 0, 0, 0, BitVec.ofNat 32 code⟩ else h
  let s := s.modPart n fun p => { p with
    state := .composed
    tiles := kept
    settings := PartSettings.reset
    image := none
    place := { Placement.reset with stripe := stripeOf p.slices, tables := p.place.tables }
    run := StepRun.reset
    weights := { Weights.reset with rings := p.weights.rings }
    reduce := Reduce.reset
    replay := p.replay.partReset
    odd := Odd.reset
    slack := Slack.reset
    snapshots := []
    window := none
    moves := []
    closing := [] }
  let s := given.foldl (fun (s : State) t => s.leaveTile t) s
  (s.statusChanged n).refreshModule

/-- The partition stops for a retry (R468, R469): its notices leave, the odd-numbers hold ends and the event is recorded. -/
def State.stopForRetry (s : State) (n : PartId) (code attempt : Nat) : State :=
  let s := s.modPart n fun p => { p with
    run := { p.run with retry := some (BitVec.ofNat 16 code), retryTo := attempt, noticed := false }
    odd := { p.odd with held := false }
    window := none }
  let s := s.sbEvent n (mkWord [at_ 56 0x03, at_ 0 attempt]) (BitVec.ofNat 64 code) 0
  { s with faults := { s.faults with retries := s.faults.retries + 1 } }

/-- A core stops its issue for a retry (R153, R469): its contexts are Idle, but for one that has faulted, and the refused and unissued transfers are
cancelled. -/
def Tile.stopIssue (x : Tile) : Tile :=
  { x with
    stream := x.stream.cancel.1
    seqr := { x.seqr with ctxs := x.seqr.ctxs.map fun c => { c with state := if c.state = .faulted then .faulted else .idle, pageWait := false } } }

/-- The notices of a retry reach the tiles of the partition in this module (R469). -/
def State.takeNotice (s : State) (n : PartId) : State :=
  let p := s.parts.get n
  let dead := (p.workers.map fun t => (s.tiles.get t).stream.cancel.2).sum
  let s := s.modTiles p.workers Tile.stopIssue
  let s := { s with audit := { s.audit with cancelled := s.audit.cancelled + BitVec.ofNat 64 dead } }
  s.modPart n fun p => { p with run := { p.run with noticed := true }, place := { p.place with refusals := [] } }

/-- A retry's notices have stopped the issue of the partition's units (R469). -/
def StepRun.halted (r : StepRun) : Bool := r.retry.isSome && r.noticed

/-- The retry notices that are on their way arrive; they take less than 2 µs (R469), and the model has them arrive at the next tick (DESIGN CHOICE, log entry
62). -/
def State.takeNotices (s : State) : State :=
  ((allFin 16).filter fun n =>
    let r := (s.parts.get n).run
    r.retry.isSome && !r.noticed && r.record.isNone).foldl (fun (s : State) n => s.takeNotice n) s

/-- Begin a step retry (R468): notices leave, and the partition stops. -/
def State.startRetry (s : State) (n : PartId) (code : Nat) : State :=
  let attempt := (s.parts.get n).run.attempt + 1
  (s.sendNotice n attempt code).stopForRetry n code attempt

/-- A fault calls for a step retry of a Loaded partition. Between the update-complete message and the commit point, and beyond the
retry limit, the partition is reset instead (R217, R470); after the commit point the fault belongs to the next step, and the retry
waits for the commit to end. A retry already called for the attempt is the same retry. -/
def State.callRetry (s : State) (n : PartId) (code : Nat) : State :=
  let p := s.parts.get n
  if p.state ≠ .loaded ∨ p.run.retry.isSome then s
  else if p.run.record.isSome then s.modPart n fun p => { p with run := { p.run with retry := some (BitVec.ofNat 16 code) } }
  else if p.run.updateSent then s.resetPartition n code
  else if s.faults.retryLimit.toNat < p.run.attempt + 1 then s.resetPartition n code
  else s.startRetry n code

/-! ### Spares, fences and substitutions -/

/-- Coverage excess some bound tiles with some designated spares (R241); none when there is no designated spare. -/
def coverage (bound spares : List TileId) : Option Nat :=
  if spares.isEmpty then none
  else some ((bound.map fun b => (spares.map fun d => hops b d).foldl min 99).foldl max 0)

/-- Bound, healthy tiles. -/
def State.boundTiles (s : State) : List TileId := (allFin 288).filter fun t => (s.partOfTile t).isSome && (s.tiles.get t).healthy

/-- Designate spares after a binding change (R241): tiles that are no longer free and healthy are no spares; while coverage exceeds 3,
free tiles are designated in ascending number, keeping each that lowers coverage. -/
def State.designate (s : State) : State :=
  let free := s.freeTiles
  let bound := s.boundTiles
  let now := s.placer.designated.filter fun t => free.contains t
  let excess : List TileId → Nat := fun ds => (coverage bound ds).getD 100
  let add : List TileId → TileId → List TileId := fun ds t =>
    if 3 < excess ds && !ds.contains t && excess (t :: ds) < excess ds then insertBy (fun x : TileId => x.1) t ds else ds
  let ds := if bound.isEmpty then now else free.foldl add now
  let fresh := ds.filter fun t => !now.contains t
  let s := { s with placer := { s.placer with designated := ds } }
  fresh.foldl (fun (s : State) t => s.requestCore t .retain 2) s

/-- The tile that takes excess a logical tile (R243): an idle tile of the partition, a designated spare, any other free tile; within a
class the least distance and then the lowest number. -/
def State.chooseTile (s : State) (n : PartId) (old : TileId) (dieFault : Bool) : Option TileId :=
  let p := s.parts.get n
  let ok := fun (t : TileId) => (s.tiles.get t).healthy && !s.chosen t && t != old && !(dieFault && dieOf t == dieOf old)
  let best := fun (ts : List TileId) => (sortBy (fun t => 288 * hops t old + t.1) (ts.filter ok)).head?
  let idle := p.tiles.filter fun t => (p.logicalOf t).isNone
  match best idle with
  | some t => some t
  | none => match best (s.placer.designated.filter fun t => (s.partOfTile t).isNone) with
    | some t => some t
    | none => best s.freeTiles

/-- The earliest layer whose range holds an issued command that has not completed, or the layer at whose entry indices the contexts
stand (R463). -/
def State.failingLayer (s : State) (n : PartId) (t : TileId) : Option Nat :=
  let p := s.parts.get n
  match p.image, p.logicalOf t with
  | some m, some l =>
    let x := s.tiles.get t
    if x.island.state == .off then some ((x.seqr.lastLayer.toList).foldl min ((x.seqr.lastLayer.toList).headD 0))
    else
      let open_ := (allFin 4).flatMap fun c => (x.seqr.ctxs.get c).outstanding.map fun i => m.layerOf l c.1 i
      let at_ := (allFin 4).map fun c => m.layerOf l c.1 (x.seqr.ctxs.get c).pos
      let pick := fun (ls : List (Option Nat)) => ls.foldl (fun a b => match a, b with
        | some x, some y => some (min x y)
        | _, _ => none) (ls.headD none)
      if open_.isEmpty then pick at_ else pick open_
  | _, _ => none

/-- The restart layer of a logical tile for a failing layer, computed at load (R463); the preamble restarts as layer 0. -/
def Partition.restartOf (p : Partition) (l : Nat) (layer : Option Nat) : Option Nat := Assoc.get (l, layer.getD 0) p.place.restart

/-- Conditions 3 and 4 of R464 fail for a restart at a layer: an EXPECT arming started there has received a transfer, or a PUT-TILE arming
started there has completed in part. For a core that died the image and the last layer entered decide. -/
def Tile.blocksRestart (x : Tile) (m : Image) (l r : Nat) : Bool :=
  let first := m.entry l r 2
  let kindOf := fun (d : Nat) => ((m.descriptor l d).map fun ws => (descOf ws).kind).getD 0
  let as := m.armings l (m.cmds l 2).length
  if x.island.state == .off then
    as.any fun a => match a.start with
      | some i => decide (first ≤ i) && (kindOf a.desc == 1 || kindOf a.desc == 5) &&
          decide (((m.layerOf l 2 i).getD 0) ≤ x.seqr.lastLayer.get 2)
      | none => false
  else
    let live := x.stream.queues.toList.flatMap fun q => q.active.toList ++ q.shadow.toList
    (live.any fun a => a.started && decide (first ≤ a.startCmd) &&
      ((a.desc.kind == 5 && decide (0 < a.received + a.completed)) || (a.desc.kind == 1 && decide (0 < a.completed)))) ||
    x.faults.spent.any fun z => decide (first ≤ z.2) && as.any fun a => a.arm == z.1 && kindOf a.desc == 5

/-- Begin a substitution (R244 steps 1 and 2): the tile leaves the partition, the logical tile is unbound in every stream unit, and the
chosen tile is woken; without a tile the partition is reset with a no-spare fault (R471). -/
def State.startSubstitution (s : State) (n : PartId) (t : TileId) (l : Nat) (layer : Option Nat) (dieFault : Bool) : State :=
  let p := s.parts.get n
  match s.chooseTile n t dieFault with
  | none =>
    let s := s.recordOwn { s.mkReport 0x0509 3 4 (some n) (epTile t) 0 with detailA := BitVec.ofNat 32 l }
    let s := s.modPart n fun p => { p with tiles := p.tiles.erase t }
    s.resetPartition n 0x0509
  | some u =>
    let blocked := match p.image, p.restartOf l layer with
      | some m, some r => (s.tiles.get t).blocksRestart m l r
      | _, _ => true
    let s := (s.clearStreams t true).modPart n fun p => { p with
      tiles := (p.tiles.erase t) ++ (if p.tiles.contains u then [] else [u])
      place := { p.place with binding := p.place.binding.set l none }
      moves := p.moves ++ [⟨false, l, t, u, layer, s.time, blocked, p.tiles.contains u⟩] }
    let s := { s with placer := { s.placer with designated := s.placer.designated.filter (· != u) } }
    let s := (p.workers.filter (· != t)).foldl (fun (s : State) w => s.modTile w fun x =>
      { x with stream := { x.stream with binding := x.stream.binding.set l none } }) s
    (s.requestCore u .running 1).designate.refreshModule

/-- Abandon a migration: the hold is released, and the chosen tile is scrubbed and freed; an idle tile of the partition goes back to Retain (R246). -/
def State.abandonMigration (s : State) (n : PartId) (v : Move) : State :=
  let s := s.modPart n fun p => { p with moves := p.moves.filter (· != v) }
  let s := s.modTile v.source fun x => { x with
    island := { x.island with ingressOpen := x.island.ingressOpen || (x.island.state == .running && !x.island.fenced) }
    power := { x.power with heatOff := false } }
  let s := (({ s with placer := { s.placer with abandoned := s.placer.abandoned + 1 } } : State).dropWake v.target)
  let x := s.tiles.get v.target
  let s := if !v.own then s.leaveTile v.target
    else if x.island.state == .off || x.island.state == .retain then s else s.requestCore v.target .retain 2
  s.designate.refreshModule

/-- The chosen tile of a substitution or a migration has faulted: a new tile is chosen, and the sequence restarts at its wake. Without one a
substitution resets the partition and a migration is abandoned (R243, R247). -/
def State.replaceTarget (s : State) (n : PartId) (m : Move) (dieFault : Bool) : State :=
  let s := s.modPart n fun p => { p with tiles := p.tiles.erase m.target }
  match s.chooseTile n m.source dieFault with
  | none =>
    if m.migration then s.abandonMigration n m
    else (s.recordOwn { s.mkReport 0x0509 3 4 (some n) (epTile m.target) 0 with detailA := BitVec.ofNat 32 m.logical }).resetPartition n 0x0509
  | some u =>
    let s := s.modPart n fun p => { p with
      tiles := if m.migration || p.tiles.contains u then p.tiles else p.tiles ++ [u]
      moves := p.moves.map fun k => if k = m then { m with target := u, own := p.tiles.contains u } else k }
    let s := { s with placer := { s.placer with designated := s.placer.designated.filter (· != u) } }
    (s.requestCore u .running (if m.migration then 2 else 1)).designate.refreshModule

/-- Every move whose chosen tile has faulted gets another one. -/
def State.replaceTargets (s : State) (t : TileId) (dieFault : Bool) : State :=
  (allFin 16).foldl (fun (s : State) n =>
    match (s.parts.get n).moves.find? fun m => m.target == t with
    | some m => s.replaceTarget n m dieFault
    | none => s) s

/-- A tile is fenced (R43, R47) and, when it stands behind a logical tile, replaced; where it was chosen by a move, that move gets another tile; otherwise it is
driven Off and the placer redesignates spares (R247, R459 action 7). -/
def State.fenceTile (s : State) (t : TileId) (layer : Option Nat) (dieFault : Bool) : State :=
  let s := (s.requestCore t .fence 1).replaceTargets t dieFault
  match s.partOfTile t with
  | none =>
    ({ s with placer := { s.placer with designated := s.placer.designated.filter (· != t) } }).designate.refreshModule
  | some n =>
    let p := s.parts.get n
    match p.moves.find? fun m => m.migration && m.source == t with
    | some m =>
      -- the migration becomes a substitution with the same chosen tile (R247)
      let blocked := match p.image, p.restartOf m.logical layer with
        | some i, some r => (s.tiles.get t).blocksRestart i m.logical r
        | _, _ => true
      let s := (s.clearStreams t true).modPart n fun p => { p with
        tiles := (p.tiles.erase t) ++ (if p.tiles.contains m.target then [] else [m.target])
        place := { p.place with binding := p.place.binding.set m.logical none }
        moves := p.moves.map fun k => if k = m then { k with migration := false, layer := layer, blocked := blocked } else k }
      let s := (p.workers.filter (· != t)).foldl (fun (s : State) w => s.modTile w fun x =>
        { x with stream := { x.stream with binding := x.stream.binding.set m.logical none } }) s
      s.designate.refreshModule
    | none =>
      match p.logicalOf t with
      | some l => s.startSubstitution n t l layer dieFault
      | none =>
        let s := s.modPart n fun p => { p with tiles := p.tiles.erase t }
        s.designate.refreshModule

/-- The action code of a fault that calls for fence and substitute on a tile (R459). -/
def State.fenceAction (s : State) (t : TileId) : Nat :=
  match s.partOfTile t with
  | some n => if ((s.parts.get n).logicalOf t).isSome then 2 else 7
  | none => 7

/-- A test of the unit is pending or running, a deferred one among them. -/
def State.testPending (s : State) (scope unit : Nat) : Bool :=
  (s.selfTest.tests.any fun k => k.scope == scope && k.unit == unit) || (scope == 1 && (s.tiles.get (Fin.ofNat 288 unit)).test.waiting.isSome)

/-- The module queues a test of its own, with both tests of the field set (R490, R492). -/
def State.queueTest (s : State) (t : TileId) : State :=
  if s.testPending 1 t.1 then s
  else { s with selfTest := { s.selfTest with
    tests := s.selfTest.tests ++ [⟨1, t.1, true, true, true, false, false, .never, none⟩] } }

/-- The bytes of OD 0x2D00.0A (R494). -/
def PendingTest.resultBytes (k : PendingTest) (r : TestResult) (code now : Nat) : List Byte :=
  let exp := fun (on memory : Bool) => if on then (Config.signature k.scope memory k.production).toNat else 0
  let obs := fun (v : Option (BitVec 32)) => (v.map (·.toNat)).getD 0
  wordsBytes [mkWord [at_ 56 k.scope, at_ 46 k.unit, at_ 45 k.memory.toNat, at_ 44 k.logic.toNat, at_ 40 code],
    BitVec.ofNat 64 now,
    mkWord [at_ 32 (obs r.logic), at_ 0 (exp k.logic false)],
    mkWord [at_ 32 (obs r.memory), at_ 0 (exp k.memory true)],
    mkWord [at_ 32 (r.failing % 2 ^ 32), at_ 0 (r.firstFail % 2 ^ 32)]]

/-- Close a test: its result is written and counted (R489). -/
def State.closeTest (s : State) (k : PendingTest) (r : TestResult) (code : Nat) : State :=
  let z := s.selfTest
  { s with selfTest := { z with
    tests := z.tests.filter (· != k)
    passed := if code = 2 then z.passed + 1 else z.passed
    failed := if code = 3 then z.failed + 1 else z.failed
    aborted := if code = 4 then z.aborted + 1 else z.aborted
    lastResult := k.resultBytes r code s.time } }

/-- The running test of a unit. -/
def State.runningTest (s : State) (scope unit : Nat) : Option PendingTest :=
  s.selfTest.tests.find? fun k => k.running && k.scope == scope && k.unit == unit

/-- A tile under test is lost: the test fails, without a signature (R489, R493). -/
def State.failTest (s : State) (t : TileId) : State :=
  match s.runningTest 1 t.1 with
  | none => s
  | some k => (s.closeTest k ⟨none, none, 0, 0, k.production, true, false⟩ 3).modTile t fun x => { x with test := { x.test with
      last := .failed
      run := x.test.run + 1
      failed := x.test.failed + 1 } }

/-- Every test ends unrecorded: the units keep their previous results (R493). -/
def State.endTests (s : State) : State :=
  let s := s.selfTest.tests.foldl (fun (s : State) k =>
    if k.running && k.scope == 1 then s.modTile (Fin.ofNat 288 k.unit) fun x => { x with test := { x.test with last := k.previous } }
    else s) s
  { s with
    selfTest := { s.selfTest with tests := [] }
    tiles := s.tiles.map fun (x : Tile) => { x with test := { x.test with waiting := none } } }

/-- A tile dies (R463): its core goes dark, its contents are lost, and it is fenced and replaced. The report carries the failing
layer; where a retry takes the place of the restart (R268), its action is the step retry. -/
def State.tileDeath (s : State) (t : TileId) (code detailA : Nat) (dieFault retry : Bool) : State :=
  let n := s.partOfTile t
  let layer := n.bind fun n => s.failingLayer n t
  let dead := (s.tiles.get t).seqr.lastLayer
  let action := if retry && s.fenceAction t == 2 then 3 else s.fenceAction t
  let r := { s.mkReport code 2 action n (epTile t) 0 with
    detailA := BitVec.ofNat 32 detailA
    detailB := BitVec.ofNat 64 (layer.getD 0) }
  let s := ((s.report (.welt t) r).clearStreams t true).failTest t
  let s := s.modTile t fun x =>
    let y := x.goOff
    { y with island := { y.island with fenced := true } }
  let s := s.stopWake t
  let s := s.fenceTile t (some ((dead.toList).foldl min ((dead.toList).headD 0))) dieFault
  match retry, n with
  | true, some n => if action = 3 then s.callRetry n code else s
  | _, _ => s

/-! ### Failed dies (R467) -/

/-- The slices of a failed base die leave a partition, and with them the Saddlebag records, which lie in every slice (R195, R467). -/
def Partition.loseStack (p : Partition) (k : StackId) : Partition :=
  let left := p.slices.filter fun c => stackOf c != k
  if left.length = p.slices.length then p
  else { p with
    slices := left
    replay := { p.replay with records := [] }
    place := { p.place with stripe := stripeOf left } }

/-- Fail a base die: state 2, every partition bound to any of its slices is reset, and its slices are bound to no partition. -/
def State.failStack (s : State) (k : StackId) : State :=
  if (s.stackDies.get k).power = .failed then s else
  let s := s.modStack k fun x => { x with power := .failed }
  let ns := (allFin 16).filter fun n => (s.parts.get n).slices.any fun c => stackOf c == k
  let s := s.report .entry (s.mkReport 0x0511 3 4 none (epStack k) 0)
  (ns.foldl (fun (s : State) n => (s.resetPartition n 0x0511).modPart n fun p => p.loseStack k) s).refreshModule

end Sys2Proof.Machine
end

