-- ==== Sys2Proof/Machine/Spell.lean ====
section
/-! DEFINITION. The commands that the words of a list spell: class and opcode pick the command, a VEC's function code picks its function, and the fields are its
operands (R116, R117, R172 to R180). -/

namespace Sys2Proof.Machine

/-- The LOADW that two words spell. -/
def loadwOf (w0 w1 : Nat) : LoadwOp where
  fmt := BitVec.ofNat 8 (bits w0 55 48)
  record := BitVec.ofNat 16 (bits w0 47 32)
  span := BitVec.ofNat 16 (bits w0 31 16)
  panel := BitVec.ofNat 12 (bits w0 15 4)
  addr := BitVec.ofNat 32 (bits w1 63 32)
  depth := BitVec.ofNat 10 (bits w1 31 22)
  width := BitVec.ofNat 9 (bits w1 21 13)

/-- The MMUL that two words spell. -/
def mmulOf (w0 w1 : Nat) : MmulOp where
  mode := BitVec.ofNat 2 (bits w0 55 54)
  group := BitVec.ofNat 2 (bits w0 53 52)
  base := BitVec.ofNat 12 (bits w0 51 40)
  rows := BitVec.ofNat 12 (bits w0 39 28)
  span := BitVec.ofNat 16 (bits w0 27 12)
  panel := BitVec.ofNat 12 (bits w0 11 0)
  addr := BitVec.ofNat 32 (bits w1 63 32)
  record := BitVec.ofNat 16 (bits w1 31 16)
  carry := BitVec.ofNat 16 (bits w1 15 0)

/-- The DRAIN that two words spell. -/
def drainOf (w0 w1 : Nat) : DrainOp where
  toStore := bitAt w0 55
  reg := BitVec.ofNat 3 (bits w0 54 52)
  firstReg := BitVec.ofNat 6 (bits w0 51 46)
  first := BitVec.ofNat 12 (bits w0 45 34)
  rows := BitVec.ofNat 12 (bits w0 33 22)
  addr := BitVec.ofNat 32 (bits w1 63 32)
  record := BitVec.ofNat 16 (bits w1 31 16)

/-- The VEC that two words spell, below its function. -/
def vecOf (w0 w1 : Nat) : VecOp where
  d := BitVec.ofNat 4 (bits w1 55 52)
  a := BitVec.ofNat 4 (bits w1 51 48)
  b := BitVec.ofNat 4 (bits w1 47 44)
  c := BitVec.ofNat 4 (bits w1 43 40)
  bcast := BitVec.ofNat 2 (bits w1 39 38)
  brow := BitVec.ofNat 6 (bits w1 37 32)
  blane := BitVec.ofNat 9 (bits w1 31 23)
  axis := BitVec.ofNat 2 (bits w1 22 21)
  prec := BitVec.ofNat 2 (bits w1 20 19)
  first := BitVec.ofNat 6 (bits w1 18 13)
  count := BitVec.ofNat 6 (bits w1 12 7)
  opts := BitVec.ofNat 7 (bits w1 6 0)
  record := BitVec.ofNat 16 (bits w0 55 40)
  addr := BitVec.ofNat 32 (bits w0 39 8)

/-- The ARRIVE, WAIT or ARRWAIT that two words spell. -/
def buckleOf (w0 w1 : Nat) : BuckleOp where
  buckle := BitVec.ofNat 16 (bits w0 55 40)
  count := BitVec.ofNat 16 (bits w0 39 24)
  covers := BitVec.ofNat 2 (bits w0 23 22)
  target := BitVec.ofNat 32 (bits w1 63 32)

/-- The vector command that a function code picks (R117). -/
def vecSpelled (t : TileId) (f : Nat) (o : VecOp) : Option Instr :=
  match f with
  | 0x01 => some (.add t o)
  | 0x02 => some (.sub t o)
  | 0x03 => some (.mul t o)
  | 0x04 => some (.fma t o)
  | 0x05 => some (.max t o)
  | 0x06 => some (.min t o)
  | 0x07 => some (.abs t o)
  | 0x08 => some (.neg t o)
  | 0x09 => some (.cmp t o)
  | 0x0A => some (.sel t o)
  | 0x0B => some (.icvt t o)
  | 0x0C => some (.wid t o)
  | 0x0D => some (.nar t o)
  | 0x10 => some (.div t o)
  | 0x11 => some (.recip t o)
  | 0x12 => some (.sqrt t o)
  | 0x13 => some (.rsqrt t o)
  | 0x14 => some (.exp t o)
  | 0x15 => some (.exp2 t o)
  | 0x16 => some (.log t o)
  | 0x17 => some (.log2 t o)
  | 0x20 => some (.rsum t o)
  | 0x21 => some (.rsumsq t o)
  | 0x22 => some (.rmax t o)
  | 0x23 => some (.rmin t o)
  | 0x28 => some (.trn t o)
  | 0x30 => some (.ld t o)
  | 0x31 => some (.st t o)
  | 0x38 => some (.rngu t o)
  | 0x39 => some (.rngr t o)
  | 0x3A => some (.rngsv t o)
  | 0x3B => some (.rngrs t o)
  | 0x3C => some (.flags t o)
  | _ => none

/-- The command of list `c` of a tile that two words spell (R172 to R180); none for a pair of class and opcode, or a function, that is reserved. -/
def spelled (t : TileId) (c : CtxId) (w : Word64 × Word64) : Option Instr :=
  let w0 := w.1.toNat
  let w1 := w.2.toNat
  match bits w0 63 60, bits w0 59 56 with
  | 0x1, 0x1 => some (.loadw t (loadwOf w0 w1))
  | 0x1, 0x2 => some (.mmul t (mmulOf w0 w1))
  | 0x1, 0x3 => some (.drain t (drainOf w0 w1))
  | 0x2, 0x1 => vecSpelled t (bits w1 63 56) (vecOf w0 w1)
  | 0x3, 0x1 => some (.arm t (Fin.ofNat 32 (bits w0 55 51)) (BitVec.ofNat 32 (bits w1 63 32)))
  | 0x3, 0x2 => some (.send t (Fin.ofNat 32 (bits w0 55 51)))
  | 0x3, 0x3 => some (.recv t (Fin.ofNat 32 (bits w0 55 51)))
  | 0x4, 0x1 => some (.arrive t c (buckleOf w0 w1))
  | 0x4, 0x2 => some (.wait t c (buckleOf w0 w1))
  | 0x4, 0x3 => some (.arrwait t c (buckleOf w0 w1))
  | 0x5, 0x1 => some (.hintHeavy t (BitVec.ofNat 8 (bits w0 55 48)) (BitVec.ofNat 16 (bits w0 47 32)) (BitVec.ofNat 16 (bits w0 31 16)))
  | 0x5, 0x2 => some (.hintLight t (BitVec.ofNat 8 (bits w0 55 48)) (BitVec.ofNat 16 (bits w0 47 32)) (BitVec.ofNat 16 (bits w0 31 16)))
  | 0x6, 0x1 => some (.mark t (BitVec.ofNat 4 (bits w0 55 52)) (BitVec.ofNat 16 (bits w0 51 36)) (BitVec.ofNat 32 (bits w1 63 32)))
  | 0x7, 0x1 => some (.step t c)
  | _, _ => none

/-- The two words at the position of a context, in the page of its list that it holds; none while that page is not present (R171, R182, R185). -/
def Context.nextWords (x : Context) : Option (Word64 × Word64) :=
  (x.pages.findSome? fun g => if g.page = x.pos / 255 then g.bytes else none).map fun bs => pageCmd bs (x.pos % 255)

/-- The command that a context issues next (R182). -/
def Context.nextCommand (x : Context) (t : TileId) (c : CtxId) : Option Instr := x.nextWords.bind (spelled t c)

end Sys2Proof.Machine
end

