-- ==== Sys2Proof/Machine/Issue.lean ====
section
/-! DEFINITION. How a context issues, completes and faults a command; the arrivals that commands and armings send; and the counts that a
command adds to the step's record (R37, R71, R107, R110, R156, R178, R182 to R184, R256 to R258, R267). -/

namespace Sys2Proof.Machine

/-! ### Check status (R114, R156) -/

/-- The worse of two check statuses: failed, then not yet final, then passed. -/
def CheckStatus.worst : CheckStatus → CheckStatus → CheckStatus
  | .failed, _ | _, .failed => .failed
  | .pending a, .pending b => .pending (a ++ b.filter fun i => !a.contains i)
  | .pending a, .passed | .passed, .pending a => .pending a
  | .passed, .passed => .passed

/-- The status after the operations that it awaits have become final with one outcome. -/
def CheckStatus.settle (ops : List Nat) (ok : Bool) : CheckStatus → CheckStatus
  | .pending ps =>
    if ps.any ops.contains then
      if ok then
        let rest := ps.filter fun i => !ops.contains i
        if rest.isEmpty then .passed else .pending rest
      else .failed
    else .pending ps
  | c => c

/-- The operations that a status awaits. -/
def CheckStatus.ops : CheckStatus → List Nat
  | .pending ps => ps
  | _ => []

/-- The first and the last 64-byte word of a run of bytes. -/
def wordsOfRun (addr n : Nat) : List Nat := if n = 0 then [] else (List.range ((addr + n - 1) / 64 - addr / 64 + 1)).map (addr / 64 + ·)

/-- The worst status of the words of a run of bytes of the store (R156). -/
def Tile.storeWorst (x : Tile) (addr n : Nat) : CheckStatus :=
  x.storeStatus.foldl (fun c e => if addr / 64 ≤ e.1 ∧ e.1 < ceilDiv (addr + n) 64 ∧ 0 < n then c.worst e.2 else c) .passed

/-- Write bytes into the activation store with a status (R156); the status of each written word is replaced. -/
def Tile.storeWrite (x : Tile) (addr : Nat) (bs : List Byte) (st : CheckStatus) : Tile :=
  let ws := wordsOfRun addr bs.length
  let kept := x.storeStatus.filter fun e => !ws.contains e.1
  { x with
    store := Cells.write x.store addr bs
    storeStatus := if st = .passed then kept else kept ++ ws.map fun w => (w, st) }

/-- Bytes of the activation store. -/
def Tile.storeRead (x : Tile) (addr n : Nat) : List Byte := Cells.readList x.store addr n

/-! ### The seat of a tile -/

/-- What a tile works for: its partition, the bound image and its logical tile. -/
structure Seat where
  part : PartId
  image : Image
  logical : Nat
  deriving DecidableEq, Repr

/-- The seat of a tile that stands behind a logical tile of a Loaded partition. -/
def State.seat (s : State) (t : TileId) : Option Seat :=
  match s.partOfTile t with
  | none => none
  | some n =>
    let p := s.parts.get n
    match p.image, p.logicalOf t with
    | some m, some l => if p.state = .loaded then some ⟨n, m, l⟩ else none
    | _, _ => none

/-- The partition holds a context at a layer's entry index for a migration (R246). -/
def Partition.holds (p : Partition) (m : Image) (l c pos : Nat) : Bool :=
  p.moves.any fun k => k.migration && k.logical == l && (match k.layer with
    | some n => m.entry l n c == pos
    | none => false)

/-- A registered READ of the step before holds the contexts at its gate layer's entry indices until it has completed (R508). -/
def State.readHolds (s : State) (p : Partition) (m : Image) (l c pos : Nat) : Bool :=
  match p.func with
  | none => false
  | some f => (s.fns.get f).entries.any fun e => e.kind == 5 && e.registered && e.arg.toNat + 1 == p.run.step && (match e.gate with
    | some g => m.entry l g c == pos
    | none => false)

/-- The page of a context's next command is present (R182, R185). -/
def Context.pageHere (x : Context) : Bool := x.pages.any fun g => g.page == x.pos / 255 && g.bytes.isSome

/-- A context may take a command: its core is Running and not quiesced, no retry has stopped its issue (R469), the context is neither at
STEP nor faulted nor idle, every transfer of an arming that a layer re-run ended has been answered (R461), and neither a migration nor a READ holds it. -/
def State.live (s : State) (t : TileId) (c : CtxId) : Bool :=
  let x := s.tiles.get t
  let k := x.seqr.ctxs.get c
  x.island.state == .running && !x.island.quiesced && (x.stream.queues.toList.all fun q => q.ending.isEmpty) &&
  (k.state == .issuing || k.state == .atBuckle || k.state == .waiting) &&
  (match s.seat t with
    | some e => !(s.parts.get e.part).run.halted && (s.parts.get e.part).run.running && !(s.parts.get e.part).holds e.image e.logical c.1 k.pos &&
      !s.readHolds (s.parts.get e.part) e.image e.logical c.1 k.pos
    | none => false)

/-- Change one context. -/
def State.modCtx (s : State) (t : TileId) (c : CtxId) (f : Context → Context) : State :=
  s.modTile t fun x => { x with seqr := { x.seqr with ctxs := vmod x.seqr.ctxs c f } }

/-- A context waits for a page, a tag or a unit (R189). -/
def State.waitCtx (s : State) (t : TileId) (c : CtxId) : State := s.modCtx t c fun k => { k with state := .waiting }

/-- Run a command of a context: it is taken when the context is live, its page is present, the words at its position spell it, and a tag is free (R182). Otherwise
the context waits, and the sender presents the command again; a command that is not the list's next one has no effect. -/
def State.command (s : State) (t : TileId) (c : CtxId) (i : Instr) (f : Seat → State → State) : State :=
  if !s.live t c then s else
  let k := (s.tiles.get t).seqr.ctxs.get c
  if !k.pageHere then s.modCtx t c fun k => { k with state := .waiting, pageWait := true }
  else if k.nextCommand t c ≠ some i then s
  else if 16 ≤ k.outstanding.length then s.waitCtx t c
  else match s.seat t with
    | some e => f e s
    | none => s

/-! ### Arrivals (R178, R256 to R258, R267) -/

/-- Apply tokens to the counter of a physical Buckle at its home (R256); they are counted as applied (R275). -/
def State.applyTokens (s : State) (b n : Nat) : State :=
  (s.setBuckle b (s.buckle b + n)).countTokens b (s.ranges.get (rangeOf b)).generation 0 n 0 0

/-- Send an arrival of a tile to a logical Buckle (R257, R258, R267): to the tile's own counter for tile scope; for partition scope as a
message to the home, unless the sent map already holds the command, when it is counted as suppressed. -/
def State.sendArrival (s : State) (t : TileId) (e : Seat) (c cmd logicalBuckle count kind target : Nat) : State :=
  let p := s.parts.get e.part
  let b := p.physBuckle logicalBuckle
  match p.homeOf b with
  | some (.welt w) =>
    let list : Fin 4 := Fin.ofNat 4 c
    let map := (s.tiles.get t).router.sentMaps.get list
    if map.sent.contains cmd then
      { s with audit := { s.audit with suppressed := s.audit.suppressed + 1 } }
    else
      let s := s.modTile t fun x => { x with router := { x.router with sentMaps := vmod x.router.sentMaps list fun m =>
        { sent := m.sent ++ [cmd], high := some (max cmd (m.high.getD 0)) } } }
      (s.countTokens b (s.ranges.get (rangeOf b)).generation count 0 0 0).sendBuckle (epTile t) (epWelt w) e.part
        ⟨kind, c, false, e.logical, b, count, (s.ranges.get (rangeOf b)).generation, target, cmd⟩
  | _ =>
    (s.countTokens b (s.ranges.get (rangeOf b)).generation count 0 0 0).applyTokens b count

/-- An arrival may leave: no command that it covers is outstanding (R178). Other ARRIVEs that still wait for theirs count as commands. -/
def HeldArrival.due (h : HeldArrival) (outstanding : List Nat) : Bool :=
  if h.all then !outstanding.any fun i => decide (i < h.cmd) else !outstanding.contains (h.cmd - 1) || h.cmd == 0

/-- Send the held arrivals of a context that are due, each completing its ARRIVE; `n` bounds the count. -/
def State.flushArrivals (s : State) (t : TileId) (c : CtxId) (e : Seat) : Nat → State
  | 0 => s
  | n + 1 =>
    let k := (s.tiles.get t).seqr.ctxs.get c
    match k.arrivals.find? fun h => h.due k.outstanding with
    | none => s
    | some h =>
      let s := s.sendArrival t e c.1 h.cmd h.buckle h.count 1 0
      let s := s.modTile t fun x => { x with seqr := { x.seqr with
        ctxs := vmod x.seqr.ctxs c fun k => { k with outstanding := k.outstanding.erase h.cmd, arrivals := k.arrivals.erase h }
        completed := x.seqr.completed + 1 } }
      s.flushArrivals t c e n

/-- A command of a context completes: its tag is free, it is counted, and arrivals that covered it leave (R178, R183). -/
def State.complete (s : State) (t : TileId) (c : CtxId) (e : Seat) (i : Nat) : State :=
  let s := s.modTile t fun x => { x with seqr := { x.seqr with
    ctxs := vmod x.seqr.ctxs c fun k => { k with outstanding := k.outstanding.erase i }
    completed := x.seqr.completed + 1 } }
  s.flushArrivals t c e 16

/-- The layer in whose range a command stands becomes the last layer entered of its list (R463), and the counted mark moves on. -/
def Sequencer.entered (q : Sequencer) (m : Image) (l : Nat) (c : CtxId) (pos : Nat) : Sequencer :=
  { q with
    lastLayer := match m.layerOf l c.1 pos with
      | some n => vmod q.lastLayer c fun _ => n
      | none => q.lastLayer
    counted := vmod q.counted c fun k => max k (pos + 1) }

/-- A context issues its next command (R182): the position moves on, and the pages that it leaves are dropped (R185). A command that
completes on issue completes here; any other holds its tag. -/
def State.issue (s : State) (t : TileId) (c : CtxId) (e : Seat) (completes : Bool) : State :=
  let i := ((s.tiles.get t).seqr.ctxs.get c).pos
  let s := s.modTile t fun x =>
    let q := x.seqr.entered e.image e.logical c i
    { x with seqr := { q with ctxs := vmod q.ctxs c fun k => { k with
      state := .issuing
      pos := i + 1
      outstanding := k.outstanding ++ [i]
      pages := k.pages.filter fun g => decide ((i + 1) / 255 ≤ g.page)
      arrwaitSent := false
      pageWait := false } } }
  if completes then s.complete t c e i else s

/-- The command index that a context is about to issue. -/
def State.posOf (s : State) (t : TileId) (c : CtxId) : Nat := ((s.tiles.get t).seqr.ctxs.get c).pos

/-- The first number of an operation's rows, for the check statuses that await them: 8,192 for each command that the tile has completed (R189 counts them), so
that no two rows of a tile's operations share a number. -/
def State.opOf (s : State) (t : TileId) : Nat := 8192 * (s.tiles.get t).seqr.completed.toNat

/-! ### Command faults (R184) -/

/-- A command fault: the context stops, the fault is kept in OD 0x3000 + t.25 and reported with the command's names, and the partition
retries the step (R459). -/
def State.commandFault (s : State) (t : TileId) (c : CtxId) (e : Seat) (cmd classOp code detailA : Nat) (detailB : Nat)
    (queue gen desc : Option Nat) : State :=
  let s := s.modTile t fun x => { x with seqr := { x.seqr with
    ctxs := vmod x.seqr.ctxs c fun k => { k with state := .faulted }
    lastFault := mkWord [at_ 62 c.1, at_ 54 classOp, at_ 0 cmd] } }
  let r := { s.mkReport code 2 3 (some e.part) (epTile t) (queue.getD 0) with
    list := some (BitVec.ofNat 2 c.1)
    cmdClass := BitVec.ofNat 4 (classOp / 16)
    opcode := BitVec.ofNat 4 classOp
    cmd := some (BitVec.ofNat 32 cmd)
    queue := queue.map (BitVec.ofNat 5 ·)
    gen := gen.map (BitVec.ofNat 8 ·)
    desc := desc.map (BitVec.ofNat 32 ·)
    detailA := BitVec.ofNat 32 detailA
    detailB := BitVec.ofNat 64 detailB }
  (s.report (.welt t) r).callRetry e.part code

/-- An order fault of the command that a context is about to issue. -/
def State.orderFault (s : State) (t : TileId) (c : CtxId) (e : Seat) (classOp : Nat) : State :=
  s.commandFault t c e (s.posOf t c) classOp 0x0302 0 0 none none none

/-- A malformed command (R14). -/
def State.malformed (s : State) (t : TileId) (c : CtxId) (e : Seat) (classOp offset : Nat) : State :=
  s.commandFault t c e (s.posOf t c) classOp 0x0301 offset 0 none none none

/-! ### Control structures that fail their check (R457) -/

/-- Two failures name the same structure. -/
def sameStruct (f g : StructFail) : Bool := f.part == g.part && f.tile == g.tile && f.kind == g.kind && f.handle == g.handle

/-- A control structure failed its check (R457): one held in the stacks is fetched again, and its second failure in the attempt calls for a
step retry; any other calls for a step retry at once. `names` adds to the report what the failure's own rule has it name. -/
def State.structFailAs (s : State) (f : StructFail) (names : ErrorReport → ErrorReport) : State :=
  let run := (s.parts.get f.part).run
  let origin := match f.tile with
    | some t => epTile t
    | none => epControl
  let pt := match f.tile with
    | some t => CoalescePoint.welt t
    | none => .entry
  let again := run.structFails.any (sameStruct f)
  let code := if f.held then 0x0203 else 0x0204
  let action := if f.held && !again then 8 else 3
  let s := s.modPart f.part fun p => { p with run := { p.run with structFails := p.run.structFails ++ [f] } }
  let s := s.report pt (names { s.mkReport code 2 action (some f.part) origin 0 with
    detailA := f.handle
    detailB := mkWord [at_ 56 f.kind.toNat, at_ 0 f.seq.toNat] })
  if action = 3 then s.callRetry f.part code else s

/-- A control structure failed its check, and its failure names no more than R457 does. -/
def State.structFail (s : State) (f : StructFail) : State := s.structFailAs f id

/-- A structure that a command needs failed its check (R184, R457): at its second failure the context faults, the fault is the tile's last one, and the record names
list, command index, class and opcode. -/
def State.structFault (s : State) (t : TileId) (c : CtxId) (f : StructFail) (cmd classOp : Nat) (names : ErrorReport → ErrorReport) : State :=
  let second := (s.parts.get f.part).run.structFails.any (sameStruct f)
  let s := if second then s.modTile t fun x => { x with seqr := { x.seqr with
      ctxs := vmod x.seqr.ctxs c fun k => { k with state := .faulted }
      lastFault := mkWord [at_ 62 c.1, at_ 54 classOp, at_ 0 cmd] } } else s
  s.structFailAs f fun r => names { r with
    list := some (BitVec.ofNat 2 c.1)
    cmdClass := BitVec.ofNat 4 (classOp / 16)
    opcode := BitVec.ofNat 4 classOp
    cmd := some (BitVec.ofNat 32 cmd) }

/-! ### Broken sums (R272, R274, R472) -/

/-- A sum fails its check: it is counted, kept as the last one, and reported with the unit's origin; tokens and transfers reset the partition that owns them. -/
def State.brokenSum (s : State) (quantity unit id origin expected observed : Nat) (part : Option PartId) (action : Nat) : State :=
  let s := { s with audit := { s.audit with
    broken := s.audit.broken + 1
    lastBroken := wordsBytes [mkWord [at_ 56 quantity, at_ 40 unit, at_ 0 id], BitVec.ofNat 64 expected, BitVec.ofNat 64 observed,
      BitVec.ofNat 64 s.time] } }
  s.report .entry { s.mkReport 0x0401 3 action part origin 0 with
    detailA := mkWord [at_ 28 quantity, at_ 0 (id % 2 ^ 28)] |>.setWidth 32
    detailB := mkWord [at_ 32 (expected % 2 ^ 32), at_ 0 (observed % 2 ^ 32)] }

/-- The transfers of an arming at its end: completed and cancelled must make up what was planned (R270, R272). A broken sum resets the partition (R472). -/
def State.checkArming (s : State) (t : TileId) (n : PartId) (q : Fin 32) (a : Arming) : State :=
  let s := { s with audit := { s.audit with checks := s.audit.checks + 1 } }
  let sum := a.completed + a.cancelled
  if sum = a.desc.transfers then s
  else (s.brokenSum 4 (epTile t) q.1 (epTile t) a.desc.transfers sum (some n) 4).resetPartition n 0x0401

/-! ### Counts of the step's record (R71, R107, R372) -/

/-- No counts. -/
def Counts.zero : Counts := ⟨Vector.replicate 8 0, Vector.replicate 12 0, 0, 0⟩

/-- Change the counts of a tensor. -/
def Replay.modCounts (r : Replay) (h : Nat) (f : Counts → Counts) : Replay :=
  { r with counts := Assoc.put h (f ((Assoc.get h r.counts).getD Counts.zero)) r.counts }

/-- A count saturates at what its 32 bits hold. -/
def count32 (n : Nat) : Nat := min n (2 ^ 32 - 1)

/-- Add conversion counts for a tensor: overflows and non-finite events in a column, 0 forward, 1 recompute, 2 backward, 3 update. A command
that a re-run repeats counts in the re-run total only; counts of a later attempt enter both (R71). -/
def State.countConv (s : State) (n : PartId) (h col overflows nonfinite : Nat) (again : Bool) : State :=
  let att := (s.parts.get n).run.attempt
  s.modPart n fun p => { p with replay := p.replay.modCounts h fun k =>
    let k := if again = true then k else { k with
      conv := vmod (vmod k.conv (Fin.ofNat 8 (2 * col)) fun v => count32 (v + overflows)) (Fin.ofNat 8 (2 * col + 1)) fun v => count32 (v + nonfinite) }
    if again = true ∨ 0 < att then { k with rerunConv := count32 (k.rerunConv + overflows + nonfinite) } else k }

/-- Add flag counts for a tensor: SAT, OVF, INV and NIN in a column (R107). -/
def State.countFlags (s : State) (n : PartId) (h col sat ovf inv nin : Nat) (again : Bool) : State :=
  let att := (s.parts.get n).run.attempt
  s.modPart n fun p => { p with replay := p.replay.modCounts h fun k =>
    let put := fun (v : Vector Nat 12) (i d : Nat) => vmod v (Fin.ofNat 12 (4 * col + i)) fun x => count32 (x + d)
    let k := if again = true then k else { k with flags := put (put (put (put k.flags 0 sat) 1 ovf) 2 inv) 3 nin }
    if again = true ∨ 0 < att then { k with rerunFlags := count32 (k.rerunFlags + sat + ovf + inv + nin) } else k }

/-- Whether the command at a position repeats one whose counts stand already. -/
def State.again (s : State) (t : TileId) (c : CtxId) : Bool :=
  decide (s.posOf t c < (s.tiles.get t).seqr.counted.get c)

/-- The layer and the column of the command that a context is about to issue. -/
def State.layerNow (s : State) (t : TileId) (c : CtxId) (e : Seat) : Option Nat := e.image.layerOf e.logical c.1 (s.posOf t c)

/-- The operand record that a command names (R169). -/
def Tile.recordAt (x : Tile) (i : Nat) : Option OperandRecord := x.seqr.records[i]?

/-- The scale table of a tensor that is present in a tile for the current step (R68, R89). -/
def Tile.tableOf (x : Tile) (h step : Nat) : Option ScaleTable := (Assoc.get h x.seqr.tables).bind fun k => if k.step = step then some k else none

/-- The fill table holds bytes of a run (R157): an inbound arming has started, or waits in a shadow slot with its start recorded, whose region takes them in, and
the transfers that write them, or for EXPECT the arming, have not completed. -/
def Arming.fills (a : Arming) (addr n : Nat) : Bool :=
  let touches := fun (r : Nat × Nat) => decide (r.1 < addr + n ∧ addr < r.1 + r.2)
  (a.started || a.startRecorded) &&
  (if a.desc.kind = 0x05 then (List.range a.desc.rows).any fun r => touches (a.desc.addr + r * a.desc.stride, a.desc.rowLen)
  else if a.desc.kind = 0x03 ∨ a.desc.kind = 0x04 then
    (List.range a.desc.transfers).any fun i =>
      (decide (a.next ≤ i) || a.outstanding.any fun k => k.idx == i) && touches (a.desc.piece i)
  else false)

/-- An inbound arming withholds a run of bytes of the store (R157). -/
def Tile.filling (x : Tile) (addr n : Nat) : Bool :=
  x.stream.queues.toList.any fun q =>
    ((q.active.map fun a => a.fills addr n).getD false) || ((q.shadow.map fun a => a.fills addr n).getD false)

end Sys2Proof.Machine
end

