-- ==== Sys2Proof/Machine/Float.lean ====
section
/-! DEFINITION. Floating-point numbers as exact dyadic values, decoding of a code, and one rounding per result
(R57, R59, R60, R69, R70, R119). -/

namespace Sys2Proof.Machine

/-- A binary floating-point format: exponent and fraction widths, the code of its largest finite value, and whether its
codes above that are an infinity followed by NaNs (`ieee`), only the all-ones NaN (`nanTop`), or neither. -/
structure FloatFmt where
  ebits : Nat
  mbits : Nat
  bias : Nat
  maxCode : Nat
  ieee : Bool
  nanTop : Bool
  nanCode : Nat
  deriving DecidableEq, Repr

/-- FP4 E2M1 (R56). -/
def fmtE2M1 : FloatFmt := ⟨2, 1, 1, 7, false, false, 0⟩
/-- FP8 E4M3 (R56). -/
def fmtE4M3 : FloatFmt := ⟨4, 3, 7, 0x7E, false, true, 0x7F⟩
/-- FP8 E5M2 (R56). -/
def fmtE5M2 : FloatFmt := ⟨5, 2, 15, 0x7B, true, false, 0x7F⟩
/-- BF16 (R56). -/
def fmtBF16 : FloatFmt := ⟨8, 7, 127, 0x7F7F, true, false, 0x7FC0⟩
/-- FP32, IEEE 754 binary32. -/
def fmtFP32 : FloatFmt := ⟨8, 23, 127, 0x7F7FFFFF, true, false, 0x7FC00000⟩
/-- FP64, IEEE 754 binary64. -/
def fmtFP64 : FloatFmt := ⟨11, 52, 1023, 0x7FEFFFFFFFFFFFFF, true, false, 0x7FF8000000000000⟩

/-- The code of +Infinity of an IEEE format. -/
def FloatFmt.infCode (f : FloatFmt) : Nat := f.maxCode + 1
/-- The sign bit's weight. -/
def FloatFmt.signBit (f : FloatFmt) : Nat := 2 ^ (f.ebits + f.mbits)

/-- A decoded value: a NaN, an infinity, or `(-1)^neg * m * 2^e` (`m = 0` is a zero of that sign). -/
inductive FVal where
  | nan
  | inf (neg : Bool)
  | fin (neg : Bool) (m : Nat) (e : Int)
  deriving DecidableEq, Repr

/-- The value of a code (R57). -/
def FloatFmt.decode (f : FloatFmt) (code : Nat) : FVal :=
  let neg := code.testBit (f.ebits + f.mbits)
  let mag := code % f.signBit
  if f.ieee && mag = f.infCode then .inf neg
  else if (f.ieee && f.infCode < mag) || (f.nanTop && f.maxCode < mag) then .nan
  else
    let e := mag / 2 ^ f.mbits
    let fr := mag % 2 ^ f.mbits
    if e = 0 then .fin neg fr (1 - (f.bias : Int) - f.mbits)
    else .fin neg (2 ^ f.mbits + fr) ((e : Int) - f.bias - f.mbits)

/-- Rounding directions that the manual uses. -/
inductive Rounding where
  /-- Nearest, ties to even. -/
  | nearest
  /-- Toward zero (R83, and the master's high half, R79). -/
  | zero
  /-- Away from zero: upward for magnitudes (R72, R73). -/
  | up
  deriving DecidableEq, Repr

/-- Divide a magnitude by `2^k`, rounding. -/
def shiftRound (rm : Rounding) (m k : Nat) : Nat :=
  let q := m / 2 ^ k
  let r := m % 2 ^ k
  match rm with
  | .zero => q
  | .up => if r = 0 then q else q + 1
  | .nearest =>
    if 2 * r < 2 ^ k then q
    else if 2 ^ k < 2 * r then q + 1
    else if r = 0 then q            -- only for k = 0
    else if q % 2 = 0 then q else q + 1

/-- The magnitude code nearest to `m * 2^e` in the format with unbounded exponent range upward (R70): a code above `maxCode`
says that the rounded magnitude exceeds the largest finite value. -/
def FloatFmt.roundMag (f : FloatFmt) (rm : Rounding) (m : Nat) (e : Int) : Nat :=
  if m = 0 then 0
  else
    let emin : Int := 1 - (f.bias : Int) - f.mbits
    let q0 : Int := (Nat.log2 m : Int) + e - f.mbits
    let q := if q0 < emin then emin else q0
    let n := if e ≤ q then shiftRound rm m (q - e).toNat else m * 2 ^ (e - q).toNat
    (q - emin).toNat * 2 ^ f.mbits + n

/-- What happens to a magnitude beyond the largest finite value. -/
inductive OnOverflow where
  | toInf
  | toMax
  deriving DecidableEq, Repr

/-- The code of `m * 2^e` with a sign, rounded once, and whether it overflowed. -/
def FloatFmt.round (f : FloatFmt) (rm : Rounding) (ov : OnOverflow) (neg : Bool) (m : Nat) (e : Int) : Nat × Bool :=
  let c := f.roundMag rm m e
  let s := if neg then f.signBit else 0
  if f.maxCode < c then
    (s + (match ov with | .toInf => f.infCode | .toMax => f.maxCode), true)
  else (s + c, false)

/-- The exact sum of two finite values, as a sign, a magnitude and an exponent; a zero sum takes the sign of R60. -/
def addExact (n1 : Bool) (m1 : Nat) (e1 : Int) (n2 : Bool) (m2 : Nat) (e2 : Int) : Bool × Nat × Int :=
  let e := if e1 < e2 then e1 else e2
  let a : Int := (m1 * 2 ^ (e1 - e).toNat : Nat)
  let b : Int := (m2 * 2 ^ (e2 - e).toNat : Nat)
  let s : Int := (if n1 then -a else a) + (if n2 then -b else b)
  if s = 0 then (n1 && n2, 0, e) else (decide (s < 0), s.natAbs, e)

/-- A dyadic number: an integer times a power of two. -/
structure DyNum where
  n : Int
  e : Int
  deriving DecidableEq, Repr

/-- The sum of two dyadic numbers. -/
def DyNum.add (a b : DyNum) : DyNum :=
  let e := if a.e < b.e then a.e else b.e
  ⟨a.n * (2 ^ (a.e - e).toNat : Nat) + b.n * (2 ^ (b.e - e).toNat : Nat), e⟩

/-- The product of two dyadic numbers. -/
def DyNum.mul (a b : DyNum) : DyNum := ⟨a.n * b.n, a.e + b.e⟩

/-- The negative of a dyadic number. -/
def DyNum.neg (a : DyNum) : DyNum := ⟨-a.n, a.e⟩

/-- Whether the first of two dyadic numbers is less than the second. -/
def DyNum.lt (a b : DyNum) : Bool := (a.add b.neg).n < 0

/-- Zero. -/
def DyNum.zero : DyNum := ⟨0, 0⟩

/-- The dyadic number of a finite value; a NaN and an infinity have none. -/
def FVal.dyadic : FVal → Option DyNum
  | .fin neg m e => some ⟨if neg then -(m : Int) else m, e⟩
  | _ => none

/-- Round a dyadic number to a format; zero takes the sign `zneg`. -/
def FloatFmt.ofDyNum (f : FloatFmt) (rm : Rounding) (ov : OnOverflow) (d : DyNum) (zneg : Bool := false) : Nat × Bool :=
  if d.n = 0 then ((if zneg then f.signBit else 0), false)
  else f.round rm ov (d.n < 0) d.n.natAbs d.e

/-- `floor (log2 x)` of a positive dyadic number. -/
def DyNum.floorLog2 (d : DyNum) : Int := (Nat.log2 d.n.natAbs : Int) + d.e

/-- The lane flags of R106 as one operation raises them: SAT, OVF, INV, NIN at bits 0 to 3. -/
structure FlagSet where
  sat : Bool := false
  ovf : Bool := false
  inv : Bool := false
  nin : Bool := false
  deriving DecidableEq, Repr

/-- The 4-bit value of a flag set: SAT 3, OVF 2, INV 1, NIN 0 (R106). -/
def FlagSet.toBits (f : FlagSet) : BitVec 4 :=
  BitVec.ofNat 4 ((if f.sat then 8 else 0) + (if f.ovf then 4 else 0) + (if f.inv then 2 else 0) + (if f.nin then 1 else 0))

/-- The flag set of a 4-bit value. -/
def FlagSet.ofBits (b : BitVec 4) : FlagSet := ⟨b.getLsbD 3, b.getLsbD 2, b.getLsbD 1, b.getLsbD 0⟩

/-- The union of two flag sets. -/
def FlagSet.or (a b : FlagSet) : FlagSet := ⟨a.sat || b.sat, a.ovf || b.ovf, a.inv || b.inv, a.nin || b.nin⟩

/-- A result code with the flags that it raises. -/
structure FRes where
  code : Nat
  flags : FlagSet := {}
  deriving DecidableEq, Repr

/-- A NaN result from a NaN operand (NIN). -/
def FloatFmt.ninRes (f : FloatFmt) : FRes := ⟨f.nanCode, { nin := true }⟩
/-- A NaN result from operands that held no NaN (INV). -/
def FloatFmt.invRes (f : FloatFmt) : FRes := ⟨f.nanCode, { inv := true }⟩
/-- An infinity of a sign, with no flag. -/
def FloatFmt.infRes (f : FloatFmt) (neg : Bool) : FRes := ⟨(if neg then f.signBit else 0) + f.infCode, {}⟩
/-- An infinity of a sign that a finite operand gives (OVF). -/
def FloatFmt.ovfRes (f : FloatFmt) (neg : Bool) : FRes := ⟨(if neg then f.signBit else 0) + f.infCode, { ovf := true }⟩

/-- Round to nearest with overflow to infinity and OVF. -/
def FloatFmt.rne (f : FloatFmt) (neg : Bool) (m : Nat) (e : Int) : FRes :=
  let r := f.round .nearest .toInf neg m e
  ⟨r.1, { ovf := r.2 }⟩

/-- The sum of two values, correctly rounded (R119, R120). -/
def FloatFmt.add (f : FloatFmt) (a b : FVal) : FRes :=
  match a, b with
  | .nan, _ => f.ninRes
  | _, .nan => f.ninRes
  | .inf n1, .inf n2 => if n1 = n2 then f.infRes n1 else f.invRes
  | .inf n1, .fin _ _ _ => f.infRes n1
  | .fin _ _ _, .inf n2 => f.infRes n2
  | .fin n1 m1 e1, .fin n2 m2 e2 =>
    let s := addExact n1 m1 e1 n2 m2 e2
    f.rne s.1 s.2.1 s.2.2

/-- The value with its sign turned. -/
def FVal.negate : FVal → FVal
  | .nan => .nan
  | .inf n => .inf (!n)
  | .fin n m e => .fin (!n) m e

/-- The difference of two values, correctly rounded. -/
def FloatFmt.sub (f : FloatFmt) (a b : FVal) : FRes := f.add a b.negate

/-- The exact product of two values; `none` where it is invalid (0 times an infinity). -/
def FVal.mulExact (a b : FVal) : Option FVal :=
  match a, b with
  | .nan, _ => some .nan
  | _, .nan => some .nan
  | .inf n1, .inf n2 => some (.inf (n1 != n2))
  | .inf n1, .fin n2 m _ => if m = 0 then none else some (.inf (n1 != n2))
  | .fin n1 m _, .inf n2 => if m = 0 then none else some (.inf (n1 != n2))
  | .fin n1 m1 e1, .fin n2 m2 e2 => some (.fin (n1 != n2) (m1 * m2) (e1 + e2))

/-- Round an exact value to the format. -/
def FloatFmt.ofFVal (f : FloatFmt) : FVal → FRes
  | .nan => f.ninRes
  | .inf n => f.infRes n
  | .fin n m e => f.rne n m e

/-- The product of two values, correctly rounded. -/
def FloatFmt.mul (f : FloatFmt) (a b : FVal) : FRes :=
  match a.mulExact b with
  | none => f.invRes
  | some v => f.ofFVal v

/-- `a * b + c` with one rounding (R119). -/
def FloatFmt.fma (f : FloatFmt) (a b c : FVal) : FRes :=
  if a = .nan ∨ b = .nan ∨ c = .nan then f.ninRes
  else match a.mulExact b with
    | none => f.invRes
    | some p => f.add p c

/-- The quotient of two values, correctly rounded; division by zero as R120 gives it. -/
def FloatFmt.div (f : FloatFmt) (a b : FVal) : FRes :=
  match a, b with
  | .nan, _ => f.ninRes
  | _, .nan => f.ninRes
  | .inf _, .inf _ => f.invRes
  | .inf n1, .fin n2 _ _ => f.infRes (n1 != n2)
  | .fin n1 _ _, .inf n2 => ⟨if n1 != n2 then f.signBit else 0, {}⟩
  | .fin n1 m1 e1, .fin n2 m2 e2 =>
    if m2 = 0 then (if m1 = 0 then f.invRes else f.ovfRes (n1 != n2))
    else
      let k := 2 * f.mbits + 8
      let q := (m1 * 2 ^ k) / m2
      let r := (m1 * 2 ^ k) % m2
      f.rne (n1 != n2) (2 * q + if r = 0 then 0 else 1) (e1 - e2 - k - 1)

/-- The integer square root, bit by bit from bit `k`: the largest `r` below `2^(k+1)` with `acc ≤ r` on the bits above and
`r * r ≤ n`. -/
def isqrtFrom (n : Nat) : Nat → Nat → Nat
  | 0, acc => if (acc + 1) * (acc + 1) ≤ n then acc + 1 else acc
  | k + 1, acc =>
    let c := acc + 2 ^ (k + 1)
    isqrtFrom n k (if c * c ≤ n then c else acc)

/-- The integer square root. -/
def isqrt (n : Nat) : Nat := isqrtFrom n (Nat.log2 n / 2 + 1) 0

/-- The square root of a value, correctly rounded (R119, R120). -/
def FloatFmt.sqrt (f : FloatFmt) (a : FVal) : FRes :=
  match a with
  | .nan => f.ninRes
  | .inf neg => if neg then f.invRes else f.infRes false
  | .fin neg m e =>
    if m = 0 then ⟨if neg then f.signBit else 0, {}⟩
    else if neg then f.invRes
    else
      -- m * 2^e = n * 2^(2h), n with at least 2 * mbits + 8 bits
      let k := 4 * f.mbits + 16 + (if (e % 2 = 0) then 0 else 1)
      let n := m * 2 ^ k
      let h := (e - k) / 2
      let r := isqrt n
      f.rne false (2 * r + if r * r = n then 0 else 1) (h - 1)

/-- The reciprocal square root of a value, correctly rounded (R119, R120). -/
def FloatFmt.rsqrt (f : FloatFmt) (a : FVal) : FRes :=
  match a with
  | .nan => f.ninRes
  | .inf neg => if neg then f.invRes else ⟨0, {}⟩
  | .fin neg m e =>
    if m = 0 then f.ovfRes neg
    else if neg then f.invRes
    else
      -- 1/sqrt(m * 2^e) = sqrt(2^K / m) * 2^(-(K + e)/2), K + e even
      let k0 := 4 * f.mbits + 16 + 2 * Nat.log2 m
      let k := if ((k0 : Int) + e) % 2 = 0 then k0 else k0 + 1
      let n := 2 ^ k / m
      let r := isqrt n
      let exact := r * r * m = 2 ^ k
      f.rne false (2 * r + if exact then 0 else 1) (-((k : Int) + e) / 2 - 1)

/-! ### Exponentials and logarithms by enclosing intervals

A real result is enclosed between two dyadic numbers with 320 fraction bits; both ends round to one code. -/

/-- Fraction bits of the enclosing intervals. -/
def ivBits : Nat := 320

/-- One in fixed point. -/
def ivOne : Nat := 2 ^ ivBits

/-- Floor of a fixed-point product. -/
def fxMulLo (a b : Nat) : Nat := a * b / ivOne
/-- Ceiling of a fixed-point product. -/
def fxMulHi (a b : Nat) : Nat := ceilDiv (a * b) ivOne

/-- Lower Taylor sum of `e^r` for `0 ≤ r < 1` from term `k` on: `term` is a lower bound of `r^k / k!`. -/
def expLoSum (r : Nat) : Nat → Nat → Nat → Nat
  | 0, _, _ => 0
  | fuel + 1, k, term => term + expLoSum r fuel (k + 1) (fxMulLo term r / (k + 1))

/-- Upper Taylor sum of `e^r`; the tail after the last term is below that term (`r < 1/2`). -/
def expHiSum (r : Nat) : Nat → Nat → Nat → Nat
  | 0, _, term => term
  | fuel + 1, k, term => term + expHiSum r fuel (k + 1) (ceilDiv (fxMulHi term r) (k + 1))

/-- Square a fixed-point lower bound `n` times. -/
def sqLo : Nat → Nat → Nat
  | 0, x => x
  | n + 1, x => sqLo n (fxMulLo x x)

/-- Square a fixed-point upper bound `n` times. -/
def sqHi : Nat → Nat → Nat
  | 0, x => x
  | n + 1, x => sqHi n (fxMulHi x x)

/-- Bounds of `e^x` for a fixed-point interval `0 ≤ lo ≤ x ≤ hi < 128`. -/
def expBounds (lo hi : Nat) : Nat × Nat :=
  (sqLo 8 (expLoSum (lo / 2 ^ 8) 70 0 ivOne), sqHi 8 (expHiSum (ceilDiv hi (2 ^ 8)) 70 0 ivOne))

/-- Bounds of `2 * atanh(p/q)` for `0 ≤ p/q ≤ 1/3`: term `z^(2k+1)/(2k+1)`. -/
def atanhSumLo (z2 : Nat) : Nat → Nat → Nat → Nat
  | 0, _, _ => 0
  | fuel + 1, k, p => p / (2 * k + 1) + atanhSumLo z2 fuel (k + 1) (fxMulLo p z2)

/-- Upper sum; the tail is below the next power (`z^2 ≤ 1/9`). -/
def atanhSumHi (z2 : Nat) : Nat → Nat → Nat → Nat
  | 0, _, p => p
  | fuel + 1, k, p => ceilDiv p (2 * k + 1) + atanhSumHi z2 fuel (k + 1) (fxMulHi p z2)

/-- Bounds of `ln((1+z)/(1-z))` with `z = p/q`, `0 ≤ z ≤ 1/3`. -/
def lnRatioBounds (p q : Nat) : Nat × Nat :=
  let zl := p * ivOne / q
  let zh := ceilDiv (p * ivOne) q
  (2 * atanhSumLo (fxMulLo zl zl) 110 0 zl, 2 * atanhSumHi (fxMulHi zh zh) 110 0 zh)

/-- Bounds of `ln 2`. -/
def ln2Bounds : Nat × Nat := lnRatioBounds 1 3

/-- Round a positive real that lies between two dyadic bounds with 320 fraction bits times `2^s`; the two ends round to one
code, and the lower end's is taken. -/
def FloatFmt.rneInterval (f : FloatFmt) (neg : Bool) (lo hi : Nat) (s : Int) : FRes :=
  -- a sticky half-unit marks that the value is not exactly the lower end
  f.rne neg (if lo = hi then 2 * lo else 2 * lo + 1) (s - ivBits - 1)

/-- Fixed-point interval of the magnitude `m * 2^e`, which is below `2^8`. -/
def fixBounds (m : Nat) (e : Int) : Nat × Nat :=
  if 0 ≤ e + ivBits then (m * 2 ^ (e + ivBits).toNat, m * 2 ^ (e + ivBits).toNat)
  else (m / 2 ^ (-(e + ivBits)).toNat, m / 2 ^ (-(e + ivBits)).toNat + 1)

/-- Whether a finite magnitude `m * 2^e` is at least `2^k` (`m` positive). -/
def magGe (m : Nat) (e k : Int) : Bool := k ≤ (Nat.log2 m : Int) + e

/-- `e^a` in FP32, correctly rounded (R117, R119, R120). -/
def expFP32 (a : FVal) : FRes :=
  let f := fmtFP32
  match a with
  | .nan => f.ninRes
  | .inf neg => if neg then ⟨0, {}⟩ else f.infRes false
  | .fin neg m e =>
    if m = 0 then ⟨0x3F800000, {}⟩
    else if magGe m e 7 then (if neg then ⟨0, {}⟩ else f.ovfRes false)
    else
      let x := fixBounds m e
      let b := expBounds x.1 x.2
      if neg then
        f.rneInterval false (ivOne * ivOne / b.2) (ceilDiv (ivOne * ivOne) b.1) 0
      else f.rneInterval false b.1 b.2 0

/-- `2^a` in FP32, correctly rounded: the integer part scales, the fraction part is `e^(f ln 2)`. -/
def exp2FP32 (a : FVal) : FRes :=
  let f := fmtFP32
  match a with
  | .nan => f.ninRes
  | .inf neg => if neg then ⟨0, {}⟩ else f.infRes false
  | .fin neg m e =>
    if m = 0 then ⟨0x3F800000, {}⟩
    else if magGe m e 8 then (if neg then ⟨0, {}⟩ else f.ovfRes false)
    else
      let x := fixBounds m e
      let ip : Int := (x.1 / ivOne : Nat)
      let fr := x.1 % ivOne
      if fr = 0 && x.1 = x.2 then f.rne false 1 (if neg then -ip else ip)
      else
        let l2 := ln2Bounds
        let b := expBounds (fxMulLo fr l2.1) (fxMulHi (fr + (x.2 - x.1)) l2.2)
        if neg then f.rneInterval false (ivOne * ivOne / b.2) (ceilDiv (ivOne * ivOne) b.1) (-ip)
        else f.rneInterval false b.1 b.2 ip

/-- A signed fixed-point interval of `ln (m * 2^e)`, `m` positive. -/
def lnBounds (m : Nat) (e : Int) : Int × Int :=
  -- m * 2^e = y * 2^k with 1 ≤ y < 2, y = m / 2^L
  let L := Nat.log2 m
  let k := e + L
  let b := lnRatioBounds (m - 2 ^ L) (m + 2 ^ L)
  let l2 := ln2Bounds
  if 0 ≤ k then (k * l2.1 + b.1, k * l2.2 + b.2) else (k * l2.2 + b.1, k * l2.1 + b.2)

/-- Round a signed fixed-point interval that does not hold zero. -/
def FloatFmt.rneSigned (f : FloatFmt) (lo hi : Int) : FRes :=
  if 0 ≤ lo then f.rneInterval false lo.natAbs hi.natAbs 0 else f.rneInterval true hi.natAbs lo.natAbs 0

/-- `ln a` in FP32, correctly rounded (R120 for the special operands). -/
def logFP32 (a : FVal) : FRes :=
  let f := fmtFP32
  match a with
  | .nan => f.ninRes
  | .inf neg => if neg then f.invRes else f.infRes false
  | .fin neg m e =>
    if m = 0 then f.ovfRes true
    else if neg then f.invRes
    else if m = 2 ^ Nat.log2 m && (Nat.log2 m : Int) + e = 0 then ⟨0, {}⟩
    else
      let b := lnBounds m e
      f.rneSigned b.1 b.2

/-- `log2 a` in FP32, correctly rounded: an exact power of two gives its exponent. -/
def log2FP32 (a : FVal) : FRes :=
  let f := fmtFP32
  match a with
  | .nan => f.ninRes
  | .inf neg => if neg then f.invRes else f.infRes false
  | .fin neg m e =>
    if m = 0 then f.ovfRes true
    else if neg then f.invRes
    else
      let k : Int := (Nat.log2 m : Int) + e
      if m = 2 ^ Nat.log2 m then f.rne (k < 0) k.natAbs 0
      else
        let b := lnBounds m e
        let l2 := ln2Bounds
        if 0 ≤ b.1 then
          f.rneInterval false (b.1.natAbs * ivOne / l2.2) (ceilDiv (b.2.natAbs * ivOne) l2.1) 0
        else
          f.rneInterval true (b.2.natAbs * ivOne / l2.2) (ceilDiv (b.1.natAbs * ivOne) l2.1) 0

end Sys2Proof.Machine
end

