-- ==== Sys2Proof/Machine/Formats.lean ====
section
/-! DEFINITION. The element formats, block scales, conversions, the running estimate and the split master of the chapter
Number Formats and Scaling (R56 to R84). -/

namespace Sys2Proof.Machine

/-- Code of FP4 E2M1 (R56). -/
def codeE2M1 : Nat := 1
/-- Code of INT4. -/
def codeINT4 : Nat := 2
/-- Code of FP8 E4M3. -/
def codeE4M3 : Nat := 3
/-- Code of FP8 E5M2. -/
def codeE5M2 : Nat := 4
/-- Code of INT8. -/
def codeINT8 : Nat := 5
/-- Code of BF16. -/
def codeBF16 : Nat := 6
/-- Code of FP32. -/
def codeFP32 : Nat := 7
/-- Code of FP64. -/
def codeFP64 : Nat := 8

/-- Whether a format code is one of R56. -/
def fmtValid (c : Nat) : Bool := 1 ≤ c && c ≤ 8

/-- The bits of one element (R56). -/
def fmtBits : Nat → Nat
  | 1 | 2 => 4
  | 3 | 4 | 5 => 8
  | 6 => 16
  | 7 => 32
  | _ => 64

/-- The floating-point format of a code; the integer codes have none. -/
def fmtFloat : Nat → FloatFmt
  | 1 => fmtE2M1
  | 3 => fmtE4M3
  | 4 => fmtE5M2
  | 6 => fmtBF16
  | 7 => fmtFP32
  | _ => fmtFP64

/-- Whether a code names an integer format. -/
def fmtIsInt (c : Nat) : Bool := c = 2 || c = 5

/-- Whether a code names a narrow format, which a block format scales (R61, R63). -/
def fmtNarrow (c : Nat) : Bool := 1 ≤ c && c ≤ 5

/-- Whether a code's elements are floating-point with subnormals that Aferarel-exact mode reads as zero (BF16 and FP8). -/
def fmtFlushes (c : Nat) : Bool := c = 3 || c = 4 || c = 6

/-- The value of an element code (R57); `aferarel` reads subnormal BF16 and FP8 as zero of the same sign (R83). -/
def elemValue (fmt : Nat) (aferarel : Bool) (code : Nat) : FVal :=
  if fmt = codeINT4 then
    let i := signed 4 code
    .fin (i < 0) i.natAbs (-2)
  else if fmt = codeINT8 then
    let i := signed 8 code
    .fin (i < 0) i.natAbs (-6)
  else
    let f := fmtFloat fmt
    match f.decode code with
    | .fin neg m e =>
      if aferarel && fmtFlushes fmt && m < 2 ^ f.mbits then .fin neg 0 e else .fin neg m e
    | v => v

/-- Block kind 0 is MX (32 elements, E8M0), 1 is SB16 (16 elements, E4M3) (R68). -/
def blockSize (kind : Nat) : Nat := if kind = 1 then 16 else 32

/-- The value of a block's scale byte: `none` for a NaN scale (R62, R63, R64). -/
def scaleValue (kind : Nat) (shift : Int) (byte : Nat) : Option DyNum :=
  if kind = 1 then
    if 128 ≤ byte then none
    else match fmtE4M3.decode byte with
      | .fin _ m e => some ⟨m, e + shift⟩
      | _ => none
  else if byte = 0xFF then none
  else some ⟨1, (byte : Int) - 127⟩

/-- Whether a scale byte is an SB16 byte with its sign bit set, counted once for each operation that reads it (R64). -/
def scaleSignBad (kind byte : Nat) : Bool := kind = 1 && 128 ≤ byte

/-- The value of an element times its block's scale; a NaN scale makes every element a NaN (R64). -/
def scaledValue (fmt : Nat) (aferarel : Bool) (code : Nat) (scale : Option DyNum) : FVal :=
  match scale with
  | none => .nan
  | some s =>
    match elemValue fmt aferarel code with
    | .fin neg m e => .fin neg (m * s.n.natAbs) (e + s.e)
    | v => v

/-- What one narrowing conversion gives (R69, R70, R71): the code, whether it overflowed, and whether its source was a NaN or
an infinity. -/
structure Narrowed where
  code : Nat
  overflow : Bool := false
  nonfinite : Bool := false
  deriving DecidableEq, Repr

/-- A rational magnitude `n / d * 2^e` as a dyadic magnitude with a sticky bit, enough for any rounding of the module. -/
def ratMag (n d : Nat) (e : Int) : Nat × Int :=
  let k := 80 + Nat.log2 d
  let q := n * 2 ^ k / d
  let r := n * 2 ^ k % d
  (2 * q + if r = 0 then 0 else 1, e - k - 1)

/-- The nearest integer to a dyadic magnitude, ties to even. -/
def rneInteger (m : Nat) (e : Int) : Nat :=
  if 0 ≤ e then m * 2 ^ e.toNat else shiftRound .nearest m (-e).toNat

/-- The code of an integer format of `n` bits for a signed magnitude, saturated to the largest magnitude `2^(n-1) - 1`. -/
def intCode (n : Nat) (neg : Bool) (mag : Nat) : Nat × Bool :=
  let mx := 2 ^ (n - 1) - 1
  let m := if mx < mag then mx else mag
  (ofSigned n (if neg then -(m : Int) else m), mx < mag)

/-- Narrow a value into a block with a positive finite scale under the narrowing rows of R69: the quotient is taken exactly
and rounded once, nearest with ties to even, saturating (R70). -/
def narrow (fmt : Nat) (v : FVal) (scale : DyNum) : Narrowed :=
  let f := fmtFloat fmt
  match v with
  | .nan => ⟨if fmt = codeE4M3 || fmt = codeE5M2 then 0x7F else 0, false, true⟩
  | .inf neg =>
    if fmt = codeINT4 then ⟨(intCode 4 neg 255).1, false, true⟩
    else if fmt = codeINT8 then ⟨(intCode 8 neg 255).1, false, true⟩
    else ⟨(if neg then f.signBit else 0) + f.maxCode, false, true⟩
  | .fin neg m e =>
    let q := ratMag m scale.n.natAbs (e - scale.e)
    if fmt = codeINT4 then
      let c := intCode 4 neg (rneInteger q.1 (q.2 + 2))
      ⟨c.1, c.2, false⟩
    else if fmt = codeINT8 then
      let c := intCode 8 neg (rneInteger q.1 (q.2 + 6))
      ⟨c.1, c.2, false⟩
    else
      let c := f.round .nearest .toMax neg q.1 q.2
      ⟨c.1, c.2, false⟩

/-- Narrow an FP32 or FP64 value to BF16 (R69, activation to BF16): an overflow gives an infinity and is counted. -/
def narrowBF16 (v : FVal) : Narrowed :=
  match v with
  | .nan => ⟨0x7FC0, false, true⟩
  | .inf neg => ⟨(if neg then 0x8000 else 0) + 0x7F80, false, true⟩
  | .fin neg m e =>
    let c := fmtBF16.round .nearest .toInf neg m e
    ⟨c.1, c.2, false⟩

/-- Widen a value exactly to FP32 or FP64 (R69): beyond the range it is an infinity, counted as non-finite. -/
def widen (f : FloatFmt) (v : FVal) : Narrowed :=
  match v with
  | .nan => ⟨f.nanCode, false, false⟩
  | .inf neg => ⟨(if neg then f.signBit else 0) + f.infCode, false, false⟩
  | .fin neg m e =>
    let c := f.round .nearest .toInf neg m e
    ⟨c.1, false, c.2⟩

/-- Gradient to wire (R69): an `n`-bit signed code of `v / 2^x`, saturating; a NaN gives code 0. -/
def toWire (n : Nat) (v : FVal) (x : Int) : Narrowed :=
  match v with
  | .nan => ⟨0, false, true⟩
  | .inf neg => ⟨(intCode n neg (2 ^ n)).1, false, true⟩
  | .fin neg m e =>
    let c := intCode n neg (rneInteger m (e - x))
    ⟨c.1, c.2, false⟩

/-- The error-feedback residual of R69: the exact `v - q * 2^x` rounded to BF16, with the IEEE 754 sign of a zero (R60). -/
def wireResidual (n : Nat) (v : FVal) (q : Nat) (x : Int) : Narrowed :=
  match v with
  | .nan => ⟨0x7FC0, false, false⟩
  | .inf neg => ⟨(if neg then 0x8000 else 0) + 0x7F80, false, false⟩
  | .fin neg m e =>
    let qi := signed n q
    let s := addExact neg m e (decide (0 ≤ qi)) qi.natAbs x
    let c := fmtBF16.round .nearest .toInf s.1 s.2.1 s.2.2
    ⟨c.1, c.2, false⟩

/-- An elements' byte region: element `i` of a row of a format (R67): 4-bit elements low nibble first. -/
def elemAt (fmt : Nat) (row : List Byte) (i : Nat) : Nat :=
  match fmtBits fmt with
  | 4 => if i % 2 = 0 then (row.getD (i / 2) 0).toNat % 16 else (row.getD (i / 2) 0).toNat / 16
  | b => field row (i * (b / 8)) (b / 8)

/-- The bytes of a row of element codes of a format (R67). -/
def elemBytes (fmt : Nat) : List Nat → List Byte
  | [] => []
  | c :: cs =>
    if fmtBits fmt = 4 then
      match cs with
      | [] => [BitVec.ofNat 8 (c % 16)]
      | c2 :: cs2 => BitVec.ofNat 8 (c % 16 + 16 * (c2 % 16)) :: elemBytes fmt cs2
    else leBytes (fmtBits fmt / 8) c ++ elemBytes fmt cs

/-! ### Scale tables (R66, R68) -/

/-- The bytes of a scale table (R68): four header words, then one byte a slot, padded to a multiple of 8. -/
def scaleTableBytes (handle fmt kind headroom : Nat) (shift : Int) (step seq : Nat) (scales : List Byte) : List Byte :=
  let w0 := handle * 2 ^ 32 + fmt * 2 ^ 24 + kind * 2 ^ 20 + headroom * 2 ^ 18 + ofSigned 8 shift * 2 ^ 8
  let w2 := seq % 2 ^ 32 * 2 ^ 32 + scales.length
  let pad := List.replicate ((8 - scales.length % 8) % 8) (0 : Byte)
  let body := leBytes 8 w0 ++ leBytes 8 step ++ leBytes 8 w2
  let crc := crc32c (body ++ List.replicate 8 0 ++ scales ++ pad)
  body ++ leBytes 8 (crc * 2 ^ 32) ++ scales ++ pad

/-- The number of scale bytes padded to a multiple of 8, plus the header (R68). -/
def scaleTableLength (slots : Nat) : Nat := 32 + roundUp 8 slots

/-- The scale index of an element of a weight, or of a derived operand used as the stationary operand (R66). -/
def weightSlot (kLen k n : Nat) : Nat := (n / 512) * ceilDiv kLen 32 + k / 32

/-- The scale index of an element of an activation-like tensor (R66). -/
def rowSlot (kind k : Nat) : Nat := k / blockSize kind

/-! ### The running estimate (R72 to R75) -/

/-- The empty ring entry (R72). -/
def ringEmpty : Nat := 0xFFFF

/-- The estimate of a slot, a non-negative BF16 code (R73): the largest entry that is not empty, else the seed. Codes of
non-negative finite BF16 values rise with their values. -/
def ringEstimate (ring : List Half) (seed : Nat) : Nat :=
  match (ring.map BitVec.toNat).filter (fun e => e ≠ ringEmpty) with
  | [] => seed
  | e :: es => es.foldl Nat.max e

/-- The exponent of the largest finite element, `ef` of R73. -/
def fmtTopExp : Nat → Int
  | 1 => 2
  | 2 => 0
  | 3 => 8
  | 4 => 15
  | _ => 0

/-- The magnitude of a non-negative finite BF16 code. -/
def bf16Mag (code : Nat) : DyNum :=
  match fmtBF16.decode code with
  | .fin _ m e => ⟨m, e⟩
  | _ => DyNum.zero

/-- `mx_scale` of R73. -/
def mxScale (est headroom fmt : Nat) : Nat :=
  let a := bf16Mag est
  if a.n = 0 then 0
  else (clampInt (-127) 127 (a.floorLog2 + headroom - fmtTopExp fmt) + 127).toNat

/-- The largest finite element of an SB16 tensor's format: 6 or 448 (R73). -/
def sb16Max (fmt : Nat) : Nat := if fmt = codeE4M3 then 448 else 6

/-- `floor (log2 (n / d * 2^e))` of a positive rational. -/
def ratFloorLog2 (n d : Nat) (e : Int) : Int :=
  let k := 80 + Nat.log2 d
  (Nat.log2 (n * 2 ^ k / d) : Int) + e - k

/-- The tensor shift and the scale bytes of an SB16 tensor (R73) from its slots' estimates. -/
def sb16Scales (ests : List Nat) (headroom fmt : Nat) : Int × List Nat :=
  let m := sb16Max fmt
  let top := ests.foldl Nat.max 0
  let mag (e : Nat) : DyNum := bf16Mag e
  let shift : Int :=
    if (mag top).n = 0 then -127
    else clampInt (-127) 127 (ratFloorLog2 (mag top).n.natAbs m ((mag top).e + headroom) - 7)
  (shift, ests.map fun e =>
    let d := mag e
    if d.n = 0 then 1                     -- 2^-9, the smallest positive code
    else
      let q := ratMag d.n.natAbs m (d.e + headroom - shift)
      let c := fmtE4M3.roundMag .up q.1 q.2
      let c := if 0x7E < c then 0x7E else c
      if c = 0 then 1 else c)

/-- A maximum rounded toward +∞ to BF16, at most 0x7F7F (R72, R75), of an FP32 magnitude code. -/
def maxToBF16 (maxCode : Nat) : Nat :=
  match fmtFP32.decode maxCode with
  | .fin _ m e =>
    let c := fmtBF16.roundMag .up m e
    if 0x7F7F < c then 0x7F7F else c
  | _ => 0x7F7F

/-- Twice a BF16 code, at most 0x7F7F (the overflow correction of R75). -/
def bf16Double (code : Nat) : Nat :=
  let d := bf16Mag code
  let c := fmtBF16.roundMag .up d.n.natAbs (d.e + 1)
  if 0x7F7F < c then 0x7F7F else c

/-- The ring entry that the commit writes for a slot converted in the step (R75). -/
def ringEntry (maxCode : Nat) (overflow : Bool) : Nat :=
  if overflow then bf16Double (maxToBF16 maxCode) else maxToBF16 maxCode

/-! ### Split masters (R79, R80) -/

/-- The high half of a master weight. -/
def masterHigh (w : Word32) : Half := w.extractLsb' 16 16
/-- The low half of a master weight. -/
def masterLow (w : Word32) : Half := w.extractLsb' 0 16
/-- The master weight of its halves. -/
def masterJoin (hi lo : Half) : Word32 := hi ++ lo

/-- Weight narrowing of the Skiver (R69): a BF16 high half to a narrow format under a power-of-two scale; BF16 passes through. -/
def narrowWeight (fmt : Nat) (hi : Half) (scaleByte : Nat) : Narrowed :=
  if fmt = codeBF16 then ⟨hi.toNat, false, false⟩
  else match scaleValue 0 0 scaleByte with
    | some s => narrow fmt (fmtBF16.decode hi.toNat) s
    | none => ⟨hi.toNat, false, false⟩      -- the module writes no NaN scale byte (R64)

end Sys2Proof.Machine
end

