-- ==== Sys2Proof/Machine/VecFn.lean ====
section
/-! DEFINITION. The functions of the vector engine on one lane, its reduction trees and its generators, as pure functions of
codes (R117 to R133). -/

namespace Sys2Proof.Machine

/-- A function of one lane: the format, the codes of a, b and c, and the result with its flags. -/
abbrev LaneFn := FloatFmt → Nat → Nat → Nat → FRes

/-- The order of R124 on codes that are not NaN: −Infinity < … < −0 < +0 < … < +Infinity. -/
def FloatFmt.key (f : FloatFmt) (code : Nat) : Int :=
  if code.testBit (f.ebits + f.mbits) then -((code % f.signBit : Nat) : Int) - 1 else ((code % f.signBit : Nat) : Int)

/-- Whether a code is a NaN. -/
def FloatFmt.isNaN (f : FloatFmt) (code : Nat) : Bool := f.decode code = .nan

/-- Whether two codes that are not NaN are equal as numbers (−0 equals +0). -/
def FloatFmt.numEq (f : FloatFmt) (a b : Nat) : Bool :=
  a = b || (a % f.signBit = 0 && b % f.signBit = 0)

/-- Whether a number's code is less than another's (R117, CMP). -/
def FloatFmt.numLt (f : FloatFmt) (a b : Nat) : Bool := f.key a < f.key b && !f.numEq a b

/-- ADD: a + b. -/
def laneAdd : LaneFn := fun f a b _ => f.add (f.decode a) (f.decode b)
/-- SUB: a − b. -/
def laneSub : LaneFn := fun f a b _ => f.sub (f.decode a) (f.decode b)
/-- MUL: a × b. -/
def laneMul : LaneFn := fun f a b _ => f.mul (f.decode a) (f.decode b)
/-- FMA: a × b + c with one rounding. -/
def laneFma : LaneFn := fun f a b c => f.fma (f.decode a) (f.decode b) (f.decode c)
/-- MAX: the greater of a and b; a NaN operand gives a NaN; of +0 and −0, +0 (R120). -/
def laneMax : LaneFn := fun f a b _ =>
  if f.isNaN a || f.isNaN b then f.ninRes else if f.key a < f.key b then ⟨b, {}⟩ else ⟨a, {}⟩
/-- MIN: the lesser of a and b; of +0 and −0, −0 (R120). -/
def laneMin : LaneFn := fun f a b _ =>
  if f.isNaN a || f.isNaN b then f.ninRes else if f.key b < f.key a then ⟨b, {}⟩ else ⟨a, {}⟩
/-- ABS: the magnitude. -/
def laneAbs : LaneFn := fun f a _ _ => if f.isNaN a then f.ninRes else ⟨a % f.signBit, {}⟩
/-- NEG: the negative. -/
def laneNeg : LaneFn := fun f a _ _ =>
  if f.isNaN a then f.ninRes
  else ⟨if a.testBit (f.ebits + f.mbits) then a - f.signBit else a + f.signBit, {}⟩
/-- The code of 1.0. -/
def FloatFmt.oneCode (f : FloatFmt) : Nat := f.bias * 2 ^ f.mbits
/-- CMP: 1.0 if the comparison of options [2:0] holds, else +0 (R117, R120). -/
def laneCmp (rel : Nat) : LaneFn := fun f a b _ =>
  if f.isNaN a || f.isNaN b then ⟨if rel = 1 then f.oneCode else 0, { nin := true }⟩
  else
    let eq := f.numEq a b
    let lt := f.numLt a b
    let holds := match rel with
      | 0 => eq
      | 1 => !eq
      | 2 => lt
      | 3 => lt || eq
      | 4 => !(lt || eq)
      | _ => !lt
    ⟨if holds then f.oneCode else 0, {}⟩
/-- SEL: a if any bit of c other than the sign is 1, else b; a selected NaN is written canonically (R120). -/
def laneSel : LaneFn := fun f a b c =>
  let v := if c % f.signBit = 0 then b else a
  if f.isNaN v then f.ninRes else ⟨v, {}⟩
/-- DIV: a / b. -/
def laneDiv : LaneFn := fun f a b _ => f.div (f.decode a) (f.decode b)
/-- RECIP: 1 / a. -/
def laneRecip : LaneFn := fun f a _ _ => f.div (f.decode f.oneCode) (f.decode a)
/-- SQRT. -/
def laneSqrt : LaneFn := fun f a _ _ => f.sqrt (f.decode a)
/-- RSQRT. -/
def laneRsqrt : LaneFn := fun f a _ _ => f.rsqrt (f.decode a)
/-- EXP (FP32 only). -/
def laneExp : LaneFn := fun f a _ _ => expFP32 (f.decode a)
/-- EXP2 (FP32 only). -/
def laneExp2 : LaneFn := fun f a _ _ => exp2FP32 (f.decode a)
/-- LOG (FP32 only). -/
def laneLog : LaneFn := fun f a _ _ => logFP32 (f.decode a)
/-- LOG2 (FP32 only). -/
def laneLog2 : LaneFn := fun f a _ _ => log2FP32 (f.decode a)
/-- ICVT: the INT32 word times `2^E`, rounded to FP32 (R121). -/
def laneIcvt (e : Int) (w : Nat) : FRes :=
  let i := signed 32 w
  fmtFP32.rne (i < 0) i.natAbs e
/-- WID: FP32 to FP64, exact. -/
def laneWid (a : Nat) : FRes := fmtFP64.ofFVal (fmtFP32.decode a)
/-- NAR: FP64 to FP32, nearest, ties to even. -/
def laneNar (a : Nat) : FRes := fmtFP32.ofFVal (fmtFP64.decode a)

/-- In Aferarel-exact mode every NaN written in FP32 is 0x7FFF_FFFF (R138). -/
def aferarelNaN (aferarel : Bool) (code : Nat) : Nat :=
  if aferarel && fmtFP32.isNaN code then 0x7FFFFFFF else code

/-! ### Reductions (R122 to R126) -/

/-- The tree of R122 over a list: split at the largest power of two below the length. `fuel` bounds the depth (512 elements
need 10). An empty list has no result. -/
def redTree {α : Type} (node : α → α → α) : Nat → List α → Option α
  | _, [] => none
  | _, [x] => some x
  | 0, x :: _ => some x
  | fuel + 1, xs =>
    let m := 2 ^ Nat.log2 (xs.length - 1)
    match redTree node fuel (xs.take m), redTree node fuel (xs.drop m) with
    | some l, some r => some (node l r)
    | some l, none => some l
    | none, r => r

/-- A partial result of a sum: the value, its error term (precision 1), and the flags raised. -/
structure SumAcc where
  s : Nat
  e : Nat := 0
  flags : FlagSet := {}
  deriving DecidableEq, Repr

/-- Whether a code is finite. -/
def FloatFmt.isFinite (f : FloatFmt) (code : Nat) : Bool := (f.decode code).dyadic.isSome

/-- `twosum_err(a, b)` of R123 in FP32: the exact error of the rounded sum, +0 where an operand or the sum is not finite. -/
def twosumErr (a b : Nat) : Nat :=
  let f := fmtFP32
  let s := (laneAdd f a b 0).code
  match (f.decode a).dyadic, (f.decode b).dyadic, (f.decode s).dyadic with
  | some x, some y, some z => (f.ofDyNum .nearest .toInf ((x.add y).add z.neg)).1
  | _, _, _ => 0

/-- The node of a sum: precision 0, 1 or 2 (R123). -/
def sumNode (prec : Nat) (l r : SumAcc) : SumAcc :=
  let f := if prec = 2 then fmtFP64 else fmtFP32
  let s := laneAdd f l.s r.s 0
  let fl := (l.flags.or r.flags).or { inv := s.flags.inv, ovf := s.flags.ovf }
  if prec = 1 then
    let ee := (laneAdd f l.e r.e 0).code
    ⟨s.code, (laneAdd f ee (twosumErr l.s r.s) 0).code, fl⟩
  else ⟨s.code, 0, fl⟩

/-- The leaf of RSUM (R123): `wide` says that the source is read as FP64. -/
def sumLeaf (prec : Nat) (wide : Bool) (v : Nat) : SumAcc :=
  if prec = 2 && !wide then
    let w := laneWid v
    ⟨w.code, 0, w.flags⟩
  else ⟨v, 0, { nin := (if wide then fmtFP64 else fmtFP32).isNaN v }⟩

/-- The leaf of RSUMSQ (R123). -/
def sumSqLeaf (prec : Nat) (wide : Bool) (v : Nat) : SumAcc :=
  if prec = 2 then
    let w : FRes := if wide then ⟨v, {}⟩ else laneWid v
    let p := laneMul fmtFP64 w.code w.code 0
    ⟨p.code, 0, w.flags.or p.flags⟩
  else
    let p := laneMul fmtFP32 v v 0
    if prec = 1 then
      ⟨p.code, (laneFma fmtFP32 v v (laneNeg fmtFP32 p.code 0 0).code).code, p.flags⟩
    else ⟨p.code, 0, p.flags⟩

/-- The final value of a compensated pair, `rne(s + e)`; where s is an infinity or a NaN it is s (R123). -/
def sumFinal (prec : Nat) (a : SumAcc) : FRes :=
  if prec = 1 && fmtFP32.isFinite a.s then
    let r := laneAdd fmtFP32 a.s a.e 0
    ⟨r.code, a.flags.or r.flags⟩
  else ⟨a.s, a.flags⟩

/-- A candidate of RMAX or RMIN: a code and its index. -/
structure ExtAcc where
  code : Nat
  idx : Nat
  deriving DecidableEq, Repr

/-- The order key of R124: a NaN stands above all values for RMAX and below all for RMIN. -/
def extKey (isMax : Bool) (code : Nat) : Int :=
  if fmtFP32.isNaN code then (if isMax then 2 ^ 40 else -(2 ^ 40)) else fmtFP32.key code

/-- The node of RMAX or RMIN: the left value when the two compare equal (R124). -/
def extNode (isMax : Bool) (l r : ExtAcc) : ExtAcc :=
  let kl := extKey isMax l.code
  let kr := extKey isMax r.code
  if isMax then (if kl < kr then r else l) else (if kr < kl then r else l)

/-- The value of an extreme and the flag it raises: a NaN is written as 0x7FC0_0000 with NIN (R124). -/
def extFinal (a : ExtAcc) : FRes := if fmtFP32.isNaN a.code then fmtFP32.ninRes else ⟨a.code, {}⟩

/-! ### Generators (R132, R133) -/

/-- `mix` of R133, modulo 2^64. -/
def rngMix (z : Word64) : Word64 :=
  let z := (z ^^^ (z >>> 30)) * 0xBF58476D1CE4E5B9
  let z := (z ^^^ (z >>> 27)) * 0x94D049BB133111EB
  z ^^^ (z >>> 31)

/-- `word` of R133: the word of a run seed, a logical lane, a stream and a counter. -/
def rngWord (seed : Word64) (lane g : Nat) (c : Word64) : Word32 :=
  let key := rngMix (seed + 0x9E3779B97F4A7C15 * BitVec.ofNat 64 (8 * lane + g + 1))
  (rngMix (key ^^^ c)).extractLsb' 32 32

/-- RNGU's value of a drawn word: `(w >> 8) * 2^-24` in FP32, exact. -/
def rngUniform (w : Word32) : Word32 :=
  BitVec.ofNat 32 (fmtFP32.round .nearest .toInf false (w.toNat / 256) (-24)).1

end Sys2Proof.Machine
end

