-- ==== Sys2Proof/Machine/Flags.lean ====
section
/-! DEFINITION. Flag computations: the flags of an exact group and of an addition in the array, the counts of flagged elements, and the
lane flags with the phase flag word of the vector engine (R97 to R100, R106, R107, R130, R131). -/

namespace Sys2Proof.Machine

/-! ### The array (R97 to R100, R106) -/

/-- An element of the array is infinite or a NaN, or its block scale is a NaN (bit NIN of R106). -/
def FVal.odd : FVal → Bool
  | .fin _ _ _ => false
  | _ => true

/-- The exact sum of a group of products and the flags that it raises (R97, R98, R106). A NaN operand makes the sum a NaN with NIN; an
infinite one sets NIN; 0 times an infinity, and infinities of both signs, make it a NaN with INV. -/
def groupSum (ps : List (FVal × FVal)) : FVal × FlagSet :=
  let nin := ps.any fun p => p.1.odd || p.2.odd
  if ps.any fun p => decide (p.1 = .nan ∨ p.2 = .nan) then (.nan, { nin := true })
  else
    let prods := ps.map fun p => p.1.mulExact p.2
    let pos := prods.contains (some (.inf false))
    let neg := prods.contains (some (.inf true))
    if prods.contains none || (pos && neg) then (.nan, { inv := true, nin := nin })
    else if pos then (.inf false, { nin := nin })
    else if neg then (.inf true, { nin := nin })
    else
      let sum := fun (a : FVal) (p : Option FVal) =>
        match a, p with
        | .fin n1 m1 e1, some (.fin n2 m2 e2) => let r := addExact n1 m1 e1 n2 m2 e2; FVal.fin r.1 r.2.1 r.2.2
        | a, _ => a
      match prods with
      | some p :: rest => (rest.foldl sum p, { nin := nin })
      | _ => (.fin false 0 0, { nin := nin })

/-- The group conversion of R69 and R83: to FP32, nearest with ties to even; in Aferarel-exact mode toward zero, saturating with OVF, with
subnormal results flushed. There an infinite sum saturates too, with OVF (R83, R106), and a sum between the largest finite value and 2^128, which rounds
to that value, sets no OVF (DESIGN CHOICE, log entry 24). -/
def groupConvert (aferarel : Bool) (v : FVal) : FRes :=
  match v with
  | .nan => ⟨fmtFP32.nanCode, {}⟩
  | .inf n => if aferarel then ⟨(fmtFP32.infRes n).code - 1, { ovf := true }⟩ else fmtFP32.infRes n
  | .fin neg m e =>
    if aferarel then
      let r := fmtFP32.round .zero .toMax neg m e
      let code := if r.1 % fmtFP32.signBit < 2 ^ fmtFP32.mbits then r.1 - r.1 % fmtFP32.signBit else r.1
      ⟨code, { ovf := r.2 }⟩
    else fmtFP32.rne neg m e

/-- An FP32 addition of the array (R99): OVF for finite operands and INV for infinities of both signs; a NaN that enters sets nothing
again. -/
def arrayAdd (a b : FRes) : FRes :=
  let r := laneAdd fmtFP32 a.code b.code 0
  ⟨r.code, (a.flags.or b.flags).or { inv := r.flags.inv, ovf := r.flags.ovf }⟩

/-- The largest magnitude of an INT32 element (R100). -/
def int32Max : Int := 2 ^ 31 - 1

/-- Saturate to 32 bits with SAT (R100). -/
def satInt (v : Int) : Int × Bool := (clampInt (-int32Max) int32Max v, decide (v < -int32Max ∨ int32Max < v))

/-! ### Counts of flagged elements -/

/-- How many flag words of a list have a bit set. -/
def countFlag (i : Nat) (fs : List (BitVec 4)) : Nat := (fs.filter fun f => f.getLsbD i).length

/-- SAT, OVF, INV and NIN counts of some elements (R104, R107). -/
def flagCounts (fs : List (BitVec 4)) : Nat × Nat × Nat × Nat := (countFlag 3 fs, countFlag 2 fs, countFlag 1 fs, countFlag 0 fs)

/-- The union of some flag words. -/
def orFlags (fs : List (BitVec 4)) : BitVec 4 := fs.foldl (· ||| ·) 0

/-! ### Lane flags (R130, R131) -/

/-- Raise flags in lanes: they are sticky, and every one enters the phase flag word. -/
def VectorEngine.raise (v : VectorEngine) (fs : Vector (BitVec 4) 512) : VectorEngine :=
  { v with
    laneFlags := Vector.ofFn fun j => v.laneFlags.get j ||| fs.get j
    phaseFlags := v.phaseFlags ||| orFlags fs.toList }

end Sys2Proof.Machine
end

