-- ==== Sys2Proof/WellFormed.lean ====
section
/-! DEFINITION. Which commands are well formed: the ranges and the reserved fields that the manual gives their fields (R14, R88, R90, R116,
R117, R173 to R181), and the lengths of the structures that they carry. The meanings check the same fields again, and a tile command
that breaks them is malformed. -/

namespace Sys2Proof

/-! ### Array commands (R88, R90, R173) -/

/-- The fields of a LOADW: a format that the array takes, a staged address on a 4 KiB boundary, and valid extents within the block. -/
def LoadwOp.ok (o : LoadwOp) : Bool :=
  decide (1 ≤ o.fmt.toNat ∧ o.fmt.toNat ≤ 6 ∧ o.addr.toNat % 4096 = 0) &&
  (decide (o.fmt.toNat ≤ 2) || decide (o.depth.toNat < 512)) && (decide (o.fmt.toNat ≠ 6) || decide (o.width.toNat < 256))

/-- The fields of an MMUL: a mode that is not reserved, rows within the buffer, an address on a 64-byte boundary, and the null record
except in mode 2. -/
def MmulOp.ok (o : MmulOp) : Bool :=
  decide (o.mode ≠ 3 ∧ o.base.toNat + o.rows.toNat + 1 ≤ 4096 ∧ o.addr.toNat % 64 = 0) && (decide (o.mode = 2) || decide (o.carry = 0))

/-- The fields of a DRAIN: rows within the buffer, and each destination's fields with the other's 0. -/
def DrainOp.ok (o : DrainOp) : Bool :=
  decide (o.first.toNat + o.rows.toNat + 1 ≤ 4096) &&
  (if o.toStore then decide (o.reg = 0 ∧ o.firstReg = 0 ∧ o.addr.toNat % 64 = 0)
   else decide (o.firstReg.toNat + o.rows.toNat + 1 ≤ 64 ∧ o.addr = 0 ∧ o.record = 0))

/-! ### Vector commands (R116 to R118, R125, R126, R129, R131, R134, R175) -/

/-- The selected rows lie in the register. -/
def VecOp.rowsOk (o : VecOp) : Bool := decide (o.first.toNat + o.count.toNat + 1 ≤ 64)

/-- Fields that serve LD, ST, RNGSV and RNGRS only are 0. -/
def VecOp.plain (o : VecOp) : Bool := decide (o.record = 0 ∧ o.addr = 0)

/-- The fields that name B are those of its broadcast, and 0 where B is not read; in FP64 only full and row with an even row. -/
def VecOp.bOk (o : VecOp) (readsB : Bool) : Bool :=
  if readsB then
    decide (o.b.toNat < 8) &&
    (match o.bcast.toNat with
      | 0 => decide (o.brow = 0 ∧ o.blane = 0)
      | 1 => decide (o.blane = 0)
      | 2 => decide (o.brow = 0)
      | _ => true) &&
    (decide (o.prec ≠ 2) || decide (o.bcast.toNat ≤ 1 ∧ o.brow.toNat % 2 = 0))
  else decide (o.b = 0 ∧ o.bcast = 0 ∧ o.brow = 0 ∧ o.blane = 0)

/-- An elementwise function: registers, precision and rows; `wide` says that precision 2 is offered. -/
def VecOp.elemOk (o : VecOp) (readsB readsC wide : Bool) : Bool :=
  decide (o.d.toNat < 8 ∧ o.a.toNat < 8 ∧ o.axis = 0) && o.plain && o.rowsOk && o.bOk readsB &&
  (if readsC then decide (o.c.toNat < 8) else decide (o.c = 0)) &&
  (decide (o.prec = 0) || (wide && decide (o.prec = 2 ∧ o.first.toNat % 2 = 0 ∧ o.count.toNat % 2 = 1)))

/-- WID and NAR (R117): precision 2, with the FP64 row of every selected row in the register unless NAR reads lane pairs. -/
def VecOp.convertOk (o : VecOp) (lanePair : Bool) : Bool :=
  decide (o.d.toNat < 8 ∧ o.a.toNat < 8 ∧ o.c = 0 ∧ o.axis = 0 ∧ o.prec = 2) && o.plain && o.bOk false &&
  (if lanePair then o.rowsOk else decide (o.first.toNat + o.count.toNat + 1 ≤ 32))

/-- RSUM and RSUMSQ (R117, R125, R126). -/
def VecOp.sumOk (o : VecOp) : Bool :=
  decide (o.d.toNat < 8 ∧ o.a.toNat < 8 ∧ o.b = 0 ∧ o.c = 0 ∧ o.bcast = 0 ∧ o.axis ≠ 0 ∧ o.prec ≠ 3 ∧ o.opts.toNat < 16) && o.plain && o.rowsOk &&
  (decide (o.prec = 1) || decide (o.opts.toNat / 2 % 4 = 0)) &&
  (decide (o.opts.toNat < 8) || decide (o.prec = 2 ∧ o.axis = 1 ∧ o.first.toNat % 2 = 0 ∧ o.count.toNat % 2 = 1)) &&
  (let two := decide (o.prec = 2 ∨ (o.prec = 1 ∧ o.opts.toNat / 2 % 4 ≠ 0))
   match o.axis.toNat with
    | 1 => decide (o.brow = 0) && (!two || decide (o.blane.toNat % 2 = 0))
    | 2 => decide (o.blane = 0) && (!two || decide (o.brow.toNat % 2 = 0))
    | _ => !two || decide (o.blane.toNat % 2 = 0))

/-- RMAX and RMIN (R117, R124 to R126), with any broadcast code for the index base that the B fields name (DESIGN CHOICE, log entry 68). -/
def VecOp.extremeOk (o : VecOp) : Bool :=
  decide (o.d.toNat < 8 ∧ o.a.toNat < 8 ∧ o.b.toNat < 8 ∧ o.c = 0 ∧ o.axis ≠ 0 ∧ o.prec = 0 ∧ o.opts.toNat < 2) && o.plain && o.rowsOk &&
  (if o.axis = 2 then decide (o.brow.toNat % 2 = 0) else decide (o.blane.toNat % 2 = 0))

/-- TRN (R129). -/
def VecOp.trnOk (o : VecOp) : Bool :=
  decide (o.d.toNat < 8 ∧ o.a.toNat < 8 ∧ o.d ≠ o.a ∧ o.c = 0 ∧ o.axis = 0 ∧ o.prec = 0 ∧ o.opts = 0 ∧ o.first = 0 ∧ o.count = 63) && o.plain &&
  o.bOk false

/-- LD and ST below their record (R116, R127, R128): `reg` is the register read or written, the other register fields are 0. -/
def VecOp.moveOk (o : VecOp) (load : Bool) : Bool :=
  (if load then decide (o.d.toNat < 8 ∧ o.a = 0) else decide (o.a.toNat < 8 ∧ o.d = 0)) &&
  decide (o.c = 0 ∧ o.axis = 0 ∧ o.opts = 0) && o.bOk false && o.rowsOk &&
  (decide (o.prec = 0) || decide (o.prec = 2 ∧ o.first.toNat % 2 = 0 ∧ o.count.toNat % 2 = 1))

/-- RNGU and RNGR (R133). -/
def VecOp.drawOk (o : VecOp) : Bool :=
  decide (o.d.toNat < 8 ∧ o.a = 0 ∧ o.c = 0 ∧ o.axis = 0 ∧ o.prec = 0 ∧ o.opts.toNat < 8) && o.plain && o.bOk false && o.rowsOk

/-- RNGSV and RNGRS (R134). -/
def VecOp.countersOk (o : VecOp) : Bool :=
  decide (o.d = 0 ∧ o.a = 0 ∧ o.c = 0 ∧ o.axis = 0 ∧ o.prec = 0 ∧ o.opts = 0 ∧ o.first = 0 ∧ o.count = 0 ∧ o.record = 0 ∧ o.addr.toNat % 4096 = 0) &&
  o.bOk false

/-- FLAGS (R131). -/
def VecOp.flagsOk (o : VecOp) : Bool :=
  decide (o.d.toNat < 8 ∧ o.a = 0 ∧ o.c = 0 ∧ o.axis = 0 ∧ o.prec = 0 ∧ o.opts = 0 ∧ o.count = 0) && o.plain && o.bOk false

/-! ### Buckle commands (R177) -/

/-- ARRIVE: a count and no target. -/
def BuckleOp.arriveOk (o : BuckleOp) : Bool := decide (o.count ≠ 0 ∧ o.covers.toNat ≤ 1 ∧ o.target = 0)
/-- WAIT: a target only. -/
def BuckleOp.waitOk (o : BuckleOp) : Bool := decide (o.count = 0 ∧ o.covers = 0)
/-- ARRWAIT: both. -/
def BuckleOp.arrwaitOk (o : BuckleOp) : Bool := decide (o.count ≠ 0 ∧ o.covers.toNat ≤ 1)

/-! ### Datagrams (R519) -/

/-- The reserved fields of a datagram's header are 0, its address mode is not the reserved one, and its length field is that of its data. -/
def Datagram.ok (g : Datagram) : Bool :=
  let w := g.h0.toNat
  decide (w / 2 ^ 54 % 4 ≠ 3 ∧ w / 2 ^ 48 % 64 = 0 ∧ w % 2 ^ 16 = 0 ∧ g.h1.toNat % 2 ^ 32 = 0 ∧ w / 2 ^ 16 % 2 ^ 16 = g.data.length ∧ g.data.length ≤ 1468)

/-! ### All commands -/

/-- A command is well formed: its fields hold values that the manual gives them, and a structure that it carries has the structure's length. A command that
carries no such field is well formed whatever its operands are. -/
def Instr.wf (i : Instr) : Bool :=
  match i with
  | .loadw _ o => o.ok
  | .blockLoaded _ => true
  | .mmul _ o => o.ok
  | .drain _ o => o.ok
  | .checkStatusFinal _ _ _ => true
  | .residueMismatch _ _ => true
  | .add _ o => o.elemOk true false true && o.opts == 0
  | .sub _ o => o.elemOk true false true && o.opts == 0
  | .mul _ o => o.elemOk true false true && o.opts == 0
  | .fma _ o => o.elemOk true true true && o.opts == 0
  | .max _ o => o.elemOk true false true && o.opts == 0
  | .min _ o => o.elemOk true false true && o.opts == 0
  | .abs _ o => o.elemOk false false true && o.opts == 0
  | .neg _ o => o.elemOk false false true && o.opts == 0
  | .cmp _ o => o.elemOk true false true && decide (o.opts.toNat ≤ 5)
  | .sel _ o => o.elemOk true true true && o.opts == 0
  | .icvt _ o => o.elemOk false false false && o.opts == 0
  | .wid _ o => o.convertOk false && o.opts == 0
  | .nar _ o => o.convertOk (o.opts.getLsbD 0) && decide (o.opts.toNat ≤ 1)
  | .div _ o => o.elemOk true false true && o.opts == 0
  | .recip _ o => o.elemOk false false false && o.opts == 0
  | .sqrt _ o => o.elemOk false false true && o.opts == 0
  | .rsqrt _ o => o.elemOk false false false && o.opts == 0
  | .exp _ o => o.elemOk false false false && o.opts == 0
  | .exp2 _ o => o.elemOk false false false && o.opts == 0
  | .log _ o => o.elemOk false false false && o.opts == 0
  | .log2 _ o => o.elemOk false false false && o.opts == 0
  | .rsum _ o => o.sumOk
  | .rsumsq _ o => o.sumOk
  | .rmax _ o => o.extremeOk
  | .rmin _ o => o.extremeOk
  | .trn _ o => o.trnOk
  | .ld _ o => o.moveOk true
  | .st _ o => o.moveOk false
  | .rngu _ o => o.drawOk
  | .rngr _ o => o.drawOk
  | .rngsv _ o => o.countersOk
  | .rngrs _ o => o.countersOk
  | .flags _ o => o.flagsOk
  | .arm _ _ _ => true
  | .send _ _ => true
  | .recv _ _ => true
  | .arrive _ _ o => o.arriveOk
  | .wait _ _ o => o.waitOk
  | .arrwait _ _ o => o.arrwaitOk
  | .hintHeavy _ _ _ _ => true
  | .hintLight _ _ _ _ => true
  | .mark _ phase _ _ => decide (1 ≤ phase.toNat ∧ phase.toNat ≤ 5)
  | .step _ _ => true
  | .stepReady _ => true
  | .transferIssue _ => true
  | .transferComplete _ _ => true
  | .transferRefused _ _ => true
  | .bindingRepublish _ _ => true
  | .pageFetch _ _ _ => true
  | .pageArrival _ _ _ => true
  | .putTileReceive _ _ => true
  | .stackWriteReceive _ _ => true
  | .stackReadRequest _ _ => true
  | .getWeightPart _ _ => true
  | .coreStateRequest _ _ _ => true
  | .quiesceRequest _ => true
  | .finalPointers _ => true
  | .quiesceAck _ => true
  | .coreClockStop _ => true
  | .quiesceTimeout _ => true
  | .coreRailLoss _ => true
  | .localPortHead _ _ _ => true
  | .wakeRequest _ _ => true
  | .softStartEnd _ _ => true
  | .readyWord _ _ => true
  | .weltFault _ => true
  | .dieRailLoss _ => true
  | .buckleArriveMsg words => words.length == 4
  | .buckleWatchMsg words => words.length == 4
  | .buckleArriveWatchMsg words => words.length == 4
  | .buckleSatisfyMsg _ words => words.length == 4
  | .closingWindowExpiry _ => true
  | .auditMarker _ _ _ => true
  | .auditNow v => v == 1
  | .buckleProbe _ => true
  | .headFlitRoute _ _ _ _ _ => true
  | .historyEntryExpiry _ _ _ _ => true
  | .agingWaitExpiry _ _ => true
  | .neighbourSilent _ _ => true
  | .stuckOutput _ _ _ _ => true
  | .stuckProbe _ _ => true
  | .probeReturn _ => true
  | .spillOrder _ _ => true
  | .escapeSpill _ _ => true
  | .reinjection _ => true
  | .cablePresence _ present identity_ => identity_.length == 32 || !present
  | .trainingAttempt _ _ => true
  | .trainingRetryTimer _ => true
  | .viletFlitReceive _ _ => true
  | .nakReceive _ _ => true
  | .replayTimeout _ => true
  | .retrain _ _ _ => true
  | .downTimeout _ => true
  | .laneSignalLoss _ => true
  | .identity _ _ => true
  | .drainRequest _ => true
  | .drainDone _ => true
  | .probe _ _ => true
  | .echo _ _ => true
  | .retrainNotice _ _ => true
  | .viletDrainLimit _ => true
  | .portEnable _ => true
  | .portDisable _ => true
  | .portRetrain _ _ => true
  | .vauxOvercurrent _ => true
  | .portTable _ _ table => decide (264 ≤ table.length)
  | .portMatchConfirm _ _ => true
  | .gradientPacket _ _ _ => true
  | .contributionTrailer _ _ => true
  | .segmentProcess _ _ _ _ => true
  | .markList _ _ => true
  | .passRequest _ _ _ => true
  | .passResend _ _ _ _ => true
  | .bucketDeadline _ _ => true
  | .omissionNotice _ _ _ => true
  | .accumulationDelivery _ _ _ => true
  | .nodeCopy _ _ _ => true
  | .gatherRequest _ _ _ _ => true
  | .normTrailer _ _ _ => true
  | .permuteBlockMove _ _ _ _ => true
  | .ringTimeout _ _ _ => true
  | .scaleFragment _ _ => true
  | .scaleTableCompute _ _ => true
  | .scaleTableReceive _ _ => true
  | .sweepBegin _ _ => true
  | .ringMaxima _ _ _ _ _ _ => true
  | .burnisherUpdate _ _ => true
  | .engineMismatch _ _ _ => true
  | .updateCompleteSend _ => true
  | .updateCompleteReceive _ words => words.length == 4
  | .commitPoint _ => true
  | .commitFlip _ _ => true
  | .commitAcksIn _ => true
  | .layerStampTable _ _ => true
  | .compareStep _ => true
  | .compareContinue _ => true
  | .compareRetry _ => true
  | .compareLeave _ => true
  | .cinchEdge _ _ => true
  | .holdWindowExpiry _ => true
  | .cinchTestPulse v => v == 1
  | .inputSample millivolts => decide (millivolts ≤ 1000000)
  | .converterFailure _ => true
  | .phaseCheck _ _ _ => true
  | .verticalStagePhaseLoss _ _ => true
  | .boost _ => true
  | .shunt _ => true
  | .measurementInterval _ => true
  | .governorLoop _ => true
  | .slopeInterval _ => true
  | .wakeDeferralTimeout _ => true
  | .rampStart _ => true
  | .rampReleaseTimeout _ => true
  | .droopRecovery _ => true
  | .temperatureSample _ _ => true
  | .edgeDieOvertemp _ _ => true
  | .coolantSample inlet _ _ => decide (inlet ≤ 500)
  | .slackNoticeReceive _ words => words.length == 4
  | .coefficientRefit _ _ => true
  | .errorReport _ _ => true
  | .coalescingWindowEnd _ _ => true
  | .recordPublish _ => true
  | .uncorrectableWord _ => true
  | .patrolRead _ _ _ _ => true
  | .controlStructureFail _ => true
  | .stepRetry _ _ => true
  | .retryNotice _ words => words.length == 4
  | .retryQuiesced _ => true
  | .retryQuiesceTimeout _ => true
  | .partitionReset _ _ => true
  | .resetNotice _ words => words.length == 4
  | .oddNumbersCheck _ => true
  | .oddContinue _ => true
  | .oddRetry _ => true
  | .oddContinueClear _ => true
  | .alertAcknowledge v => v == 1
  | .readoutSequence _ => true
  | .readoutStep _ _ => true
  | .rebindAdd words => words.length == 3
  | .rebindRemove words => words.length == 3
  | .rebindDissolve words => words.length == 3
  | .substitution _ _ => true
  | .migration _ => true
  | .migrationQuiesced _ => true
  | .migrationAbandon _ => true
  | .testRequest words => words.length == 2
  | .tileTest _ _ => true
  | .stackBaseTest _ _ => true
  | .linkDieTest _ _ => true
  | .fieldTestDue _ => true
  | .deferredTestRetry _ => true
  | .submissionTail _ _ entries => entries.all fun e => e.length == 8
  | .load _ _ => true
  | .release _ => true
  | .run _ => true
  | .write _ => true
  | .writeGateOpen _ _ _ => true
  | .read _ => true
  | .readBegin _ _ => true
  | .stateOut _ => true
  | .stateIn _ _ => true
  | .reference _ _ => true
  | .recordOut _ => true
  | .stepStart _ => true
  | .completionHead _ _ => true
  | .recordHead _ _ => true
  | .functionLevelReset _ => true
  | .hostAccessFail _ _ => true
  | .reinFrame _ => true
  | .nop g => g.ok
  | .scan g => g.ok
  | .addr g => g.ok
  | .cyc g => g.ok
  | .commandImageApply _ => true
  | .mbxW g => g.ok
  | .mbxR g => g.ok
  | .link g _ _ => g.ok
  | .time g _ _ => g.ok
  | .reset g => g.ok
  | .mailboxRead _ => true
  | .mailboxWrite _ => true
  | .segmentRead _ => true
  | .segmentWrite _ => true
  | .reinReset _ => true
  | .store _ => true
  | .restoreFactory _ => true
  | .odWrite _ _ _ _ => true
  | .faultEntry code => decide (code = 0x0514 ∨ code = 0x0601 ∨ code = 0x0604)
  | .powerOn c _ => decide (c.inlet ≤ 500)
  | .coolantRecheck c _ => decide (c.inlet ≤ 500)
  | .droopDetect _ => true
  | .edgeDieRailFailure _ => true
  | .laneErrorRatioAlarm _ _ _ => true
  | .nakRepeatTimeout _ => true
  | .pcieLinkTrained _ _ _ => true
  | .ringControlWrite _ off _ => decide (off.toNat % 4 = 0)
  | .interruptIntervalExpiry _ _ => true
  | .hostTransferComplete _ _ => true
  | .auditPeriod => true
  | .alternateSetInForce => true
  | .inputLoss => true
  | .epoAssert => true
  | .epoRelease => true
  | .coolantFault => true
  | .reinLinkLoss => true
  | .syncWatchExpiry => true
  | .moduleReset => true
  | .enterStandby => true
  | .leaveStandby => true
  | .leaveFault => true
  | .cinchInFall => true

end Sys2Proof
end

