-- ==== Sys2Proof/Machine/Operands.lean ====
section
/-! DEFINITION. The operand forms: cells and row operands of the array, register rows in row-pair and lane-pair form with the broadcast of
B, and rows of the store with their scales (R66, R67, R85, R88, R113 to R118, R127, R128, R169). -/

namespace Sys2Proof.Machine

/-! ### Blocks (R85, R88) -/

/-- K indices of a span. -/
def spanDepth (fmt : Nat) : Nat := if fmtBits fmt = 4 then 1024 else 512
/-- Columns of a panel. -/
def panelWidth (fmt : Nat) : Nat := if fmt = codeBF16 then 256 else 512
/-- Scale bytes of a block. -/
def blockScales (fmt : Nat) : Nat := if fmtBits fmt = 4 then 32 else if fmtBits fmt = 8 then 16 else 0
/-- Bytes of a staged block: the scale area and the element data. -/
def stagedBytes : Nat := 64 + 512 * 512

/-- Where the element of a staged block for K index `k` of the span and column `j` lies: its byte offset, and which nibble (R88). -/
def cellOffset (fmt k j : Nat) : Nat :=
  if fmtBits fmt = 4 then 64 + 512 * (k / 2) + j
  else if fmt = codeBF16 then 64 + 512 * k + 2 * j
  else 64 + 512 * k + j

/-- The element code of a block for K index `k` of the span and column `j`. -/
def cellCode (fmt : Nat) (data : List Host.Cell) (k j : Nat) : Nat :=
  let b := (Cells.read data (cellOffset fmt k j)).toNat
  if fmtBits fmt = 4 then (if k % 2 = 0 then b % 16 else b / 16)
  else if fmt = codeBF16 then b + 256 * (Cells.read data (cellOffset fmt k j + 1)).toNat
  else b

/-- Products in a group (R96, R111). -/
def groupLen (code : Nat) : Nat := 4 * 2 ^ code

/-- Cut a list into pieces; `fuel` bounds their number. -/
def pieces {α : Type} (n : Nat) : Nat → List α → List (List α)
  | 0, _ => []
  | fuel + 1, xs => if xs.isEmpty then [] else xs.take n :: pieces n fuel (xs.drop n)

/-- What the array reads for one MMUL: the block, the row operand's format and scale table, its mode and its group size. -/
structure ArrayOperands where
  block : Block
  rowFmt : Nat
  table : Option ScaleTable
  aferarel : Bool
  group : Nat

/-- The row operand's scale byte at a K index of the span (R66). -/
def ArrayOperands.rowScaleByte (o : ArrayOperands) (k : Nat) : Nat :=
  match o.table with
  | some t => ((t.scales.getD (rowSlot t.kind (o.block.span * spanDepth o.block.fmt + k)) 0).toNat)
  | none => 0

/-- The row operand's scale at a K index of the span: 1 for BF16 (R97), with 2^T for SB16 (R63). -/
def ArrayOperands.rowScale (o : ArrayOperands) (k : Nat) : Option DyNum :=
  match o.table with
  | some t => scaleValue t.kind t.shift (o.rowScaleByte k)
  | none => some ⟨1, 0⟩

/-- The stationary scale at a K index of the span. -/
def ArrayOperands.cellScale (o : ArrayOperands) (k : Nat) : Option DyNum :=
  if o.block.fmt = codeBF16 then some ⟨1, 0⟩ else scaleValue 0 0 ((o.block.scales.getD (k / 32) 0).toNat)

/-- The value at a K index of the span of a row of the row operand; beyond the valid depth a padding +0 (R65). -/
def ArrayOperands.rowValue (o : ArrayOperands) (row : List Byte) (k : Nat) : FVal :=
  if k < o.block.depth then scaledValue o.rowFmt o.aferarel (elemAt o.rowFmt row k) (o.rowScale k) else .fin false 0 0

/-- The value held for a K index of the span and a column; beyond the valid depth a padding +0. -/
def ArrayOperands.cellValue (o : ArrayOperands) (k j : Nat) : FVal :=
  if k < o.block.depth then scaledValue o.block.fmt o.aferarel (cellCode o.block.fmt o.block.data k j) (o.cellScale k) else .fin false 0 0

/-- The distinct SB16 scale bytes with their sign bit set that an MMUL reads (R64). -/
def ArrayOperands.badScales (o : ArrayOperands) : Nat :=
  match o.table with
  | some t =>
    if t.kind = 1 then
      (((List.range o.block.depth).map fun k => rowSlot 1 (o.block.span * spanDepth o.block.fmt + k)).eraseDups.filter fun i =>
        scaleSignBad 1 (t.scales.getD i 0).toNat).length
    else 0
  | none => 0

/-! ### The value of one element (R99, R100) -/

/-- The groups of a span's products for one row and one column, in K order. -/
def ArrayOperands.groups (o : ArrayOperands) (row : List Byte) (j : Nat) : List (List (FVal × FVal)) :=
  let d := spanDepth o.block.fmt
  pieces (groupLen o.group) d ((List.range d).map fun k => (o.rowValue row k, o.cellValue k j))

/-- `span_value` of R99. -/
def spanValue (aferarel : Bool) (gs : List (List (FVal × FVal))) : FRes :=
  let conv := fun (g : List (FVal × FVal)) =>
    let s := groupSum g
    let c := groupConvert aferarel s.1
    FRes.mk c.code (s.2.or c.flags)
  match gs with
  | [] => ⟨0, {}⟩
  | g :: rest => rest.foldl (fun a g => arrayAdd a (conv g)) (conv g)

/-- An FP32 element after the span (R99, R102, R106): `start` is the value carried in with its flags. -/
def ArrayOperands.elementFp (o : ArrayOperands) (row : List Byte) (j : Nat) (start : Option (Word32 × BitVec 4)) : Word32 × BitVec 4 :=
  let v := spanValue o.aferarel (o.groups row j)
  let r := match start with
    | none => v
    | some (w, f) => arrayAdd ⟨w.toNat, FlagSet.ofBits f⟩ v
  (BitVec.ofNat 32 (aferarelNaN o.aferarel r.code), r.flags.toBits)

/-- `x_a + x_w` of a 32-element block at a K index of the span; none where either scale is a NaN (R100). -/
def ArrayOperands.blockExp (o : ArrayOperands) (k : Nat) : Option Int :=
  let a := o.rowScaleByte k
  let w := (o.block.scales.getD (k / 32) 0).toNat
  if a = 0xFF ∨ w = 0xFF then none else some ((a : Int) + w - 254)

/-- The panel exponent (R100) over the full K of the operation, from the two scale tables. -/
def panelExponent (row stat : ScaleTable) (panel k : Nat) : Int :=
  let per := ceilDiv k 32
  let xs := (List.range per).filterMap fun i =>
    let a := (row.scales.getD i 0).toNat
    let w := (stat.scales.getD (panel * per + i) 0).toNat
    if a = 0xFF ∨ w = 0xFF then none else some ((a : Int) + w - 254)
  match xs with
  | [] => 0
  | x :: rest => rest.foldl min x

/-- One group of an INT32 element (R100): the exact integer sum times `2^d`, which enters the saturating addition as it is, so a sum with `d > 31` saturates
there in its direction. A NaN scale gives 0 with NIN. -/
def ArrayOperands.groupInt (o : ArrayOperands) (p : Int) (row : List Byte) (j k0 : Nat) : Int × FlagSet :=
  if o.block.depth ≤ k0 then (0, {}) else
  match o.blockExp k0 with
  | none => (0, { nin := true })
  | some x =>
    let n := fmtBits o.block.fmt
    let g := ((List.range (groupLen o.group)).map fun i =>
      let k := k0 + i
      if k < o.block.depth then signed n (elemAt o.rowFmt row k) * signed n (cellCode o.block.fmt o.block.data k j) else 0).sum
    (g * 2 ^ (x - p).toNat, {})

/-- A saturating addition that gathers flags. -/
def intAdd (a b : Int × FlagSet) : Int × FlagSet :=
  let r := satInt (a.1 + b.1)
  (r.1, (a.2.or b.2).or { sat := r.2 })

/-- An INT32 element after the span (R100, R102): the first group of a span is added to 0. -/
def ArrayOperands.elementInt (o : ArrayOperands) (p : Int) (row : List Byte) (j : Nat) (start : Option (Word32 × BitVec 4)) : Word32 × BitVec 4 :=
  let n := spanDepth o.block.fmt / groupLen o.group
  let v := ((List.range n).map fun i => o.groupInt p row j (groupLen o.group * i)).foldl intAdd ((0 : Int), ({} : FlagSet))
  let r := match start with
    | none => v
    | some (w, f) => intAdd (w.toInt, FlagSet.ofBits f) v
  (BitVec.ofInt 32 r.1, r.2.toBits)

/-- `f` of R101. -/
def intFactor (fmt : Nat) : Int := if fmt = codeINT4 then -4 else -12

/-! ### Registers of the vector engine (R113 to R118) -/

/-- A row of a register; row numbers beyond 63 are read modulo 64. -/
def VectorEngine.row (v : VectorEngine) (reg r : Nat) : RegRow := (v.regs.get (Fin.ofNat 8 reg)).get (Fin.ofNat 64 r)

/-- A word of a register. -/
def VectorEngine.word (v : VectorEngine) (reg r j : Nat) : Nat := ((v.row reg r).words.get (Fin.ofNat 512 j)).toNat

/-- An FP64 value in row-pair form: FP64 row `i` of a register (R115). -/
def VectorEngine.wide (v : VectorEngine) (reg i j : Nat) : Nat := v.word reg (2 * i) j + 2 ^ 32 * v.word reg (2 * i + 1) j

/-- An FP64 value in lane-pair form. -/
def VectorEngine.lanePair (v : VectorEngine) (reg r j : Nat) : Nat := v.word reg r j + 2 ^ 32 * v.word reg r (j + 1)

/-- Set a row of a register. -/
def VectorEngine.setRow (v : VectorEngine) (reg r : Nat) (x : RegRow) : VectorEngine :=
  { v with regs := vmod v.regs (Fin.ofNat 8 reg) fun g => vmod g (Fin.ofNat 64 r) fun _ => x }

/-- B as the broadcast field reads it for row `r` and lane `j` (R118): the row and the lane of B. -/
def opB (o : VecOp) (r j : Nat) : Nat × Nat :=
  match o.bcast.toNat with
  | 0 => (r, j)
  | 1 => (o.brow.toNat, j)
  | 2 => (r, o.blane.toNat)
  | _ => (o.brow.toNat, o.blane.toNat)

/-- The selected rows, in ascending order. -/
def opRows (o : VecOp) : List Nat := (List.range (o.count.toNat + 1)).map (o.first.toNat + ·)

/-! ### Scale slots of a tensor (R66) -/

/-- A tensor takes the slots of the weight row: a weight, or a derived operand that a layer names as its stationary operand. -/
def Image.weightSlots (m : Image) (h : Nat) : Bool :=
  match m.tensor h with
  | some d => d.kind == 1 || (d.kind == 0x0B && m.layers.any fun l => l.stat == h)
  | none => false

/-- The scale index of the element with K index `k` of a tensor, in the panel that a record names (R66). -/
def Image.slotOf (m : Image) (h panel kind k : Nat) : Nat :=
  if m.weightSlots h then panel * ceilDiv ((m.tensor h).map (·.k) |>.getD 0) 32 + k / 32 else rowSlot kind k

/-- The scale byte of a slot of a table. -/
def ScaleTable.byte (t : ScaleTable) (slot : Nat) : Nat := (t.scales.getD slot 0).toNat

/-- The scale of a slot of a table. -/
def ScaleTable.scale (t : ScaleTable) (slot : Nat) : Option DyNum := scaleValue t.kind t.shift (t.byte slot)

end Sys2Proof.Machine
end

