-- ==== Sys2Proof/Machine/Array.lean ====
section
/-! DEFINITION. The multiply-accumulate array: loading and swapping blocks, MMUL with its accumulate modes, DRAIN with its trailer, and check
statuses that become final (R85 to R112, R156). -/

namespace Sys2Proof.Machine

/-- The array list. -/
def arrayCtx : CtxId := 0

/-! ### LOADW and BLOCK_LOADED (R89, R93 to R95) -/

/-- A scale byte of a staged block differs from the tensor's table (R89). Bytes beyond the tensor's K are padding. -/
def State.scaleMismatch (x : Tile) (m : Image) (t : ScaleTable) (b : Block) : Bool :=
  let k := ((m.tensor b.handle).map (·.k)).getD 0
  let per := ceilDiv k 32
  let first := b.span * spanDepth b.fmt / 32
  (List.range (blockScales b.fmt)).any fun i =>
    decide (first + i < per) && (Cells.read x.store (b.addr + i)).toNat != t.byte (b.panel * per + first + i)

/-- Every byte of a staged block is present (R93, R157). -/
def Tile.staged (x : Tile) (addr : Nat) : Bool := !x.filling addr stagedBytes

/-- The LOADW's stationary tensor has its table for the step, where it is block-scaled (R89). -/
def Tile.tableReady (x : Tile) (fmt h step : Nat) : Bool := !fmtNarrow fmt || (x.tableOf h step).isSome

/-- LOADW fails with a scale mismatch (R89): its record names span and panel. -/
def State.scaleFault (s : State) (t : TileId) (e : Seat) (cmd : Nat) (b : Block) : State :=
  let s := s.modTile t fun x => { x with array := { x.array with loading := none } }
  s.commandFault t arrayCtx e cmd 0x11 0x0303 b.span b.panel none none none

/-- LOADW (R89, R93, R95, R173): waits while a block is waiting or its scale table is absent; otherwise the block is taken for loading.
Scale bytes that are present are compared now, the others when the block is loaded. -/
def execLoadw (t : TileId) (o : LoadwOp) (s : State) : Host.Outcome State Fault Refusal :=
  .next (s.command t arrayCtx (.loadw t o) fun e s =>
    let x := s.tiles.get t
    match x.recordAt o.record.toNat with
    | none => s.malformed t arrayCtx e 0x11 0
    | some r =>
      let fmt := o.fmt.toNat
      if !o.ok then s.malformed t arrayCtx e 0x11 0
      else if x.array.shadow.isSome || x.array.loading.isSome || !x.tableReady fmt r.handle (s.parts.get e.part).run.step then
        s.waitCtx t arrayCtx
      else
        let cmd := s.posOf t arrayCtx
        let b : Block := { handle := r.handle, fmt := fmt, span := o.span.toNat, panel := o.panel.toNat, depth := o.depth.toNat + 1,
                           width := o.width.toNat + 1, addr := o.addr.toNat, scales := [], data := [], cmd := cmd, status := .passed, parity := [] }
        let s := s.issue t arrayCtx e false
        let s := s.modTile t fun x => { x with array := { x.array with loading := some b } }
        match x.tableOf r.handle (s.parts.get e.part).run.step with
        | some k => if fmtNarrow fmt && x.staged b.addr && State.scaleMismatch x e.image k b then s.scaleFault t e cmd b else s
        | none => s)

/-- The offsets of the bytes whose parity bit is 1 (R109). -/
def parityOf (data : List Host.Cell) : List Nat := (data.filter fun c => (List.range 8).countP c.2.getLsbD % 2 == 1).map (·.1)

/-- The parity bits of the slots agree with their bytes (R109). -/
def Block.parityOk (b : Block) : Bool := b.parity == parityOf b.data

/-- BLOCK_LOADED (R89, R93, R109): the last byte of the staged block is present and its scale bytes agree with the table, so the transfer wave
copies it into the free slots with the parity of each byte and the LOADW completes. -/
def execBlockLoaded (t : TileId) (s : State) : Host.Outcome State Fault Refusal :=
  .next (match s.seat t, (s.tiles.get t).array.loading with
    | some e, some b =>
      let x := s.tiles.get t
      if x.island.state != .running || !x.staged b.addr then s
      else
        let bad := match x.tableOf b.handle (s.parts.get e.part).run.step with
          | some k => fmtNarrow b.fmt && State.scaleMismatch x e.image k b
          | none => false
        if bad then s.scaleFault t e b.cmd b
        else
          let data := (x.store.filter fun c => decide (b.addr ≤ c.1 ∧ c.1 < b.addr + stagedBytes)).map fun c => (c.1 - b.addr, c.2)
          let b' := { b with
            scales := x.storeRead b.addr (blockScales b.fmt)
            data := data
            parity := parityOf data
            status := x.storeWorst b.addr stagedBytes }
          let s := s.modTile t fun x => { x with array := { x.array with loading := none, shadow := some b' } }
          s.complete t arrayCtx e b.cmd
    | _, _ => s)

/-! ### Drain trailers (R104) -/

/-- A drain trailer. -/
structure Trailer where
  handle : Nat
  panel : Nat
  lastSpan : Nat
  exponent : BitVec 16
  flags : BitVec 4
  isInt : Bool
  group : Nat
  rows : Nat
  sat : Nat
  ovf : Nat
  inv : Nat
  nin : Nat
  step : Nat
  attempt : Nat
  seq : Nat
  deriving DecidableEq, Repr

/-- The words of a drain trailer. -/
def trailerWords (r : Trailer) : List Word64 :=
  sealCrc
    [ mkWord [at_ 32 r.handle, at_ 16 r.panel, at_ 0 r.lastSpan],
      mkWord [at_ 48 r.exponent.toNat, at_ 44 r.flags.toNat, at_ 40 r.isInt.toNat, at_ 32 r.group, at_ 0 r.rows],
      mkWord [at_ 32 r.sat, at_ 0 r.ovf],
      mkWord [at_ 32 r.inv, at_ 0 r.nin],
      BitVec.ofNat 64 r.step,
      at_ 56 (r.attempt % 256),
      at_ 32 (r.seq % 2 ^ 32),
      0 ] 7

/-- The trailer that eight words spell; none where its CRC fails or a reserved field is not 0. -/
def trailerOf (ws : List Word64) : Option Trailer :=
  if !crcOk ws 7 || 1 < bits (wordAt ws 1) 43 40 || !zeroField ws 5 55 0 || !zeroField ws 6 31 0 || !zeroField ws 7 31 0 then none
  else some {
    handle := bits (wordAt ws 0) 63 32
    panel := bits (wordAt ws 0) 31 16
    lastSpan := bits (wordAt ws 0) 15 0
    exponent := BitVec.ofNat 16 (bits (wordAt ws 1) 63 48)
    flags := BitVec.ofNat 4 (bits (wordAt ws 1) 47 44)
    isInt := bits (wordAt ws 1) 43 40 == 1
    group := bits (wordAt ws 1) 39 32
    rows := bits (wordAt ws 1) 31 0
    sat := bits (wordAt ws 2) 63 32
    ovf := bits (wordAt ws 2) 31 0
    inv := bits (wordAt ws 3) 63 32
    nin := bits (wordAt ws 3) 31 0
    step := wordAt ws 4
    attempt := bits (wordAt ws 5) 63 56
    seq := bits (wordAt ws 6) 63 32 }

/-! ### MMUL (R94 to R107) -/

/-- The row stride that a drained region needs for a valid width (R174). -/
def minStride (width : Nat) : Nat := roundUp 64 (4 * width)

/-- The block that an MMUL selects (R94). -/
inductive Selected where
  /-- The active block, or the waiting block, whose first row makes the swap. -/
  | block (b : Block) (swap : Bool)
  /-- The named block is still being loaded. -/
  | wait
  | none
  deriving DecidableEq, Repr

/-- The block with a span and a panel: a block that waits to be swapped in comes before the active one (DEDUCED, log entry 7). -/
def MacArray.select (a : MacArray) (span panel : Nat) : Selected :=
  let is := fun (b : Block) => b.span == span && b.panel == panel
  if a.shadow.any is then match a.shadow with
    | some b => .block b true
    | none => .none
  else if a.loading.any is then .wait
  else if a.active.any is then match a.active with
    | some b => .block b false
    | none => .none
  else .none

/-- The command of a mode other than 2 that meets the mode's condition for a row (R102). -/
def AccRow.modeOk (r : AccRow) (mode : Nat) (o : MmulOp) (isInt : Bool) : Bool :=
  if mode = 0 then o.span == 0
  else r.panel == o.panel.toNat && r.group == o.group && r.isInt == isInt && r.lastSpan + 1 == o.span.toNat && r.status != .failed

/-- The trailer of a carry-in region meets the condition of mode 2 (R102, R104). -/
def Trailer.carryOk (r : Trailer) (handle : Nat) (o : MmulOp) (isInt : Bool) (run : StepRun) : Bool :=
  r.step == run.step && r.attempt == run.attempt % 256 && r.handle == handle && r.panel == o.panel.toNat && r.group == o.group.toNat &&
  r.isInt == isInt && r.lastSpan + 1 == o.span.toNat

/-- One accumulator row after an MMUL (R99 to R102, R106): `carry` is the carried-in row of mode 2. The flags of a carried-in trailer wait for the next trailer
of the row; once one has passed them on, only an MMUL of mode 1 keeps them (DESIGN CHOICE, log entry 65). -/
def AccRow.mmul (r : AccRow) (o : MmulOp) (a : ArrayOperands) (isInt : Bool) (p : Int) (row : List Byte) (carry : Option (List Byte × BitVec 4))
    (st : CheckStatus) : AccRow :=
  let cols := panelWidth a.block.fmt
  let start := fun (j : Nat) => match o.mode.toNat, carry with
    | 0, _ => none
    | 1, _ => some (r.vals.get (Fin.ofNat 512 j), r.flags.get (Fin.ofNat 512 j))
    | _, some (bs, _) =>
      if j < a.block.width then some (BitVec.ofNat 32 (field bs (4 * j) 4), r.flags.get (Fin.ofNat 512 j)) else some (0, 0)
    | _, none => none
  let elem := fun (j : Nat) => if isInt then a.elementInt p row j (start j) else a.elementFp row j (start j)
  let out := Vector.ofFn fun (j : Fin 512) => if j.1 < cols then elem j.1 else (r.vals.get j, r.flags.get j)
  { vals := out.map (·.1)
    flags := out.map (·.2)
    panel := o.panel.toNat
    lastSpan := o.span.toNat
    group := o.group
    isInt := isInt
    exponent := if isInt then BitVec.ofInt 16 (p + intFactor a.block.fmt) else 0
    status := st
    carried :=
      let kept := if r.drained && o.mode != 1 then 0 else r.carried
      match carry with
      | some (_, f) => kept ||| f
      | none => kept
    drained := r.drained && o.mode == 1
    width := a.block.width }

/-- Count the flags of an MMUL's elements for its layer's output, and the scale bytes that read as NaN for its row operand (R64, R107). Only the columns below the
block's valid width are counted (DESIGN CHOICE, log entry 66). -/
def State.countMmul (s : State) (t : TileId) (e : Seat) (o : MmulOp) (width rowHandle bad : Nat) (again : Bool) (layer : Option Nat) : State :=
  let a := (s.tiles.get t).array
  let fs := (List.range (o.rows.toNat + 1)).flatMap fun i => ((a.acc.get (Fin.ofNat 4096 (o.base.toNat + i))).flags.toList).take width
  let k := flagCounts fs
  let out := ((layer.bind e.image.layer).map (·.out)).getD 0
  let col := e.image.column layer
  let s := s.countFlags e.part out col k.1 k.2.1 k.2.2.1 k.2.2.2 again
  if bad = 0 then s else s.countConv e.part rowHandle col 0 bad again

/-- MMUL (R90, R94 to R107, R109 to R111, R157, R173, R174): the checks of its fields, its block, its mode and its operands; then every row, the swap, the
counts and the statuses. -/
def execMmul (t : TileId) (o : MmulOp) (s : State) : Host.Outcome State Fault Refusal :=
  .next (s.command t arrayCtx (.mmul t o) fun e s =>
    let x := s.tiles.get t
    let n := o.rows.toNat + 1
    let run := (s.parts.get e.part).run
    match x.recordAt o.record.toNat with
    | none => s.malformed t arrayCtx e 0x12 8
    | some r =>
      if !o.ok || decide (o.group = 3) != e.image.exact_ then s.malformed t arrayCtx e 0x12 0
      else match x.array.select o.span.toNat o.panel.toNat with
        | .none => s.orderFault t arrayCtx e 0x12
        | .wait => s.waitCtx t arrayCtx
        | .block b swap =>
          let isInt := fmtIsInt b.fmt
          let rowLen := ceilDiv (b.depth * fmtBits r.fmt) 8
          let table := if fmtNarrow r.fmt then x.tableOf r.handle run.step else none
          let stat := x.tableOf b.handle run.step
          if (fmtNarrow r.fmt && table.isNone) || (isInt && stat.isNone) then s.waitCtx t arrayCtx
          else if (List.range n).any fun i => x.filling (o.addr.toNat + i * r.stride) rowLen then s.waitCtx t arrayCtx
          else
            let carry := if o.mode = 2 then x.recordAt o.carry.toNat else none
            let short := match carry with
              | some k => decide (k.stride < minStride b.width)
              | none => decide (o.mode = 2)
            if short then s.malformed t arrayCtx e 0x12 8
            else
              let from_ := (carry.map (·.carryAddr)).getD 0
              let stride := (carry.map (·.stride)).getD 0
              let trailer := if carry.isSome then trailerOf (bytesWords (x.storeRead (from_ + n * stride) 64)) else none
              let ok := match carry with
                | some k => (trailer.map fun tr => tr.carryOk k.handle o isInt run).getD false
                | none => (List.range n).all fun i => (x.array.acc.get (Fin.ofNat 4096 (o.base.toNat + i))).modeOk o.mode.toNat o isInt
              if !ok then s.orderFault t arrayCtx e 0x12
              else
                let a : ArrayOperands := { block := b, rowFmt := r.fmt, table := table, aferarel := e.image.exact_, group := o.group.toNat }
                let p := match isInt, table, stat with
                  | true, some tr, some ts => panelExponent tr ts o.panel.toNat (((e.image.tensor b.handle).map (·.k)).getD 0)
                  | _, _, _ => 0
                let op := fun (i : Nat) => if b.parityOk then CheckStatus.pending [s.opOf t + i] else .failed
                let region := fun (i : Nat) =>
                  if carry.isSome then (x.storeWorst (from_ + i * stride) (4 * b.width)).worst (x.storeWorst (from_ + n * stride) 64) else .passed
                let acc := (List.range n).foldl (fun (v : Vector AccRow 4096) i =>
                  vmod v (Fin.ofNat 4096 (o.base.toNat + i)) fun row =>
                    let at0 := o.addr.toNat + i * r.stride
                    let inherit := if o.mode = 1 then row.status else region i
                    row.mmul o a isInt p (x.storeRead at0 rowLen)
                      (carry.map fun _ => (x.storeRead (from_ + i * stride) (4 * b.width), (trailer.map (·.flags)).getD 0))
                      ((((op i).worst inherit).worst (x.storeWorst at0 rowLen)).worst b.status)) x.array.acc
                let again := s.again t arrayCtx
                let layer := s.layerNow t arrayCtx e
                let s := s.modTile t fun x => { x with array := { x.array with
                  acc := acc
                  active := some b
                  shadow := if swap then none else x.array.shadow } }
                let s := s.countMmul t e o b.width r.handle a.badScales again layer
                s.issue t arrayCtx e true)

/-! ### DRAIN (R103, R104, R174) -/

/-- DRAIN to a tile register (R103, R114, R130): values, kind, exponent and status of each row; the flags enter the lanes. -/
def Tile.drainReg (x : Tile) (o : DrainOp) : Tile :=
  let n := o.rows.toNat + 1
  let rowAt := fun (i : Nat) => x.array.acc.get (Fin.ofNat 4096 (o.first.toNat + i))
  let v := (List.range n).foldl (fun (v : VectorEngine) i =>
    let r := rowAt i
    v.setRow o.reg.toNat (o.firstReg.toNat + i)
      { words := r.vals, kind := if r.isInt then 1 else 0, exponent := r.exponent, status := r.status }) x.vec
  let fs := Vector.ofFn fun (j : Fin 512) => orFlags ((List.range n).map fun i => (rowAt i).flags.get j)
  { x with vec := v.raise fs }

/-- The trailer that a DRAIN to the store writes (R104). -/
def Tile.drainTrailer (x : Tile) (o : DrainOp) (handle : Nat) (run : StepRun) : Trailer :=
  let n := o.rows.toNat + 1
  let rows := (List.range n).map fun i => x.array.acc.get (Fin.ofNat 4096 (o.first.toNat + i))
  let r := x.array.acc.get (Fin.ofNat 4096 o.first.toNat)
  let fs := rows.flatMap fun k => k.flags.toList.take r.width
  let c := flagCounts fs
  { handle := handle
    panel := r.panel
    lastSpan := r.lastSpan
    exponent := r.exponent
    flags := orFlags (fs ++ rows.map (·.carried))
    isInt := r.isInt
    group := r.group.toNat
    rows := n
    sat := c.1
    ovf := c.2.1
    inv := c.2.2.1
    nin := c.2.2.2
    step := run.step
    attempt := run.attempt
    seq := (Assoc.get handle x.array.trailerSeq).getD 0 }

/-- DRAIN to the store (R103, R104, R110, R174): the valid columns of each row, then the trailer. The trailer and the region that it describes have the worst
status of its rows. -/
def Tile.drainStore (x : Tile) (o : DrainOp) (r : OperandRecord) (run : StepRun) : Tile :=
  let n := o.rows.toNat + 1
  let rowAt := fun (i : Nat) => x.array.acc.get (Fin.ofNat 4096 (o.first.toNat + i))
  let tr := x.drainTrailer o r.handle run
  let worst := (List.range n).foldl (fun c i => c.worst (rowAt i).status) CheckStatus.passed
  let y := (List.range n).foldl (fun (y : Tile) i =>
    let row := rowAt i
    y.storeWrite (o.addr.toNat + i * r.stride) ((row.vals.toList.take (rowAt 0).width).flatMap fun w => leBytes 4 w.toNat) worst) x
  let y := y.storeWrite (o.addr.toNat + n * r.stride) (wordsBytes (trailerWords tr)) worst
  { y with array := { y.array with
    trailerSeq := Assoc.put r.handle (tr.seq + 1) y.array.trailerSeq
    acc := (List.range n).foldl (fun (v : Vector AccRow 4096) i => vmod v (Fin.ofNat 4096 (o.first.toNat + i)) fun k => { k with drained := true }) y.array.acc } }

/-- DRAIN (R103, R104, R174): an order fault where its rows differ in panel, last span, group size or kind. -/
def execDrain (t : TileId) (o : DrainOp) (s : State) : Host.Outcome State Fault Refusal :=
  .next (s.command t arrayCtx (.drain t o) fun e s =>
    let x := s.tiles.get t
    let n := o.rows.toNat + 1
    let row0 := x.array.acc.get (Fin.ofNat 4096 o.first.toNat)
    if !o.ok then s.malformed t arrayCtx e 0x13 0
    else if !(List.range n).all fun i =>
        let r := x.array.acc.get (Fin.ofNat 4096 (o.first.toNat + i))
        r.panel == row0.panel && r.lastSpan == row0.lastSpan && r.group == row0.group && r.isInt == row0.isInt then
      s.orderFault t arrayCtx e 0x13
    else if o.toStore then
      match x.recordAt o.record.toNat with
      | none => s.malformed t arrayCtx e 0x13 8
      | some r =>
        if r.stride < minStride row0.width then s.malformed t arrayCtx e 0x13 8
        else (s.modTile t fun x => x.drainStore o r (s.parts.get e.part).run).issue t arrayCtx e true
    else (s.modTile t fun x => x.drainReg o).issue t arrayCtx e true)

/-! ### Check statuses (R110, R137, R156) -/

/-- The status of what a CHECK_STATUS_FINAL names. -/
def Tile.statusOf (x : Tile) : StatusTarget → CheckStatus
  | .accRow r => (x.array.acc.get r).status
  | .regRow g r => ((x.vec.regs.get g).get r).status
  | .storeWord w => (Assoc.get w x.storeStatus).getD .passed

/-- Operations become final with one outcome, wherever a status awaits them. -/
def Tile.settle (x : Tile) (ops : List Nat) (ok : Bool) : Tile :=
  let blk := fun (b : Option Block) => b.map fun b => { b with status := b.status.settle ops ok }
  { x with
    array := { x.array with
      active := blk x.array.active
      shadow := blk x.array.shadow
      acc := x.array.acc.map fun r => { r with status := r.status.settle ops ok } }
    vec := { x.vec with regs := x.vec.regs.map fun g => g.map fun r => { r with status := r.status.settle ops ok } }
    storeStatus := (x.storeStatus.map fun e => (e.1, e.2.settle ops ok)).filter fun e => decide (e.2 ≠ .passed) }

/-- The operations that one outcome makes final: for a pass all that the row or word awaits, and for a failure its own last operation, which has the highest
number; the others stay open for the rows that they wrote (DEDUCED, log entry 67). -/
def outcomeOps (ops : List Nat) (passed : Bool) : List Nat := if passed then ops else (ops.max?).toList

/-- CHECK_STATUS_FINAL (R110, R137, R156): what the named row or word awaits becomes final, passed or failed, on the row or the word and
on everything derived from it. A status that awaits nothing is final already. -/
def execCheckStatusFinal (t : TileId) (w : StatusTarget) (passed : Bool) (s : State) : Host.Outcome State Fault Refusal :=
  .next (s.modTile t fun x => x.settle (outcomeOps (x.statusOf w).ops passed) passed)

end Sys2Proof.Machine
end

