-- ==== Sys2Proof/Machine/Regions.lean ====
section
/-! DEFINITION. Where a partition's tensors lie in its stack slices: element order, shards, regions with their buffers, the slice and the
offset of every byte, and the bytes themselves with their clean map and tags (R192 to R197, R226, R231, R232, R235, R236, R353). -/

namespace Sys2Proof.Machine

/-! ### Elements and shards (R192, R193, R235, R236) -/

/-- The number of elements of a weight in element order, padding included (R192). -/
def TensorDecl.elements (d : TensorDecl) : Nat := roundUp 32 d.k * roundUp (panelWidth d.fmt) d.n

/-- The index of element (k, n) of a weight in element order (R192). -/
def TensorDecl.elementIndex (d : TensorDecl) (k n : Nat) : Nat :=
  let w := panelWidth d.fmt
  n / w * (roundUp 32 d.k * w) + k * w + n % w

/-- Shard units of a weight (R235). -/
def TensorDecl.shardUnits (d : TensorDecl) : Nat := ceilDiv d.elements 16384

/-- The shard width D, at least 1. -/
def Partition.width (p : Partition) : Nat := max 1 p.settings.shardWidth.toNat
/-- The shard index d of a logical module number (R235). -/
def Partition.shardOf (p : Partition) (m : Nat) : Nat := m % p.width
/-- This module's shard index. -/
def Partition.shard (p : Partition) : Nat := p.shardOf p.settings.logical.toNat
/-- The member of this module's shard group that has a shard index. -/
def Partition.memberOf (p : Partition) (d : Nat) : Nat := p.settings.logical.toNat - p.shard + d
/-- The node size Q, at least 1. -/
def Partition.node (p : Partition) : Nat := max 1 p.settings.nodeSize.toNat

/-- A weight is held by nodes: its master-high region is at most the small-tensor threshold (R236). -/
def Partition.byNodes (p : Partition) (d : TensorDecl) : Bool := decide (2 * d.elements ≤ p.settings.threshold.toNat)

/-- The units that a shard index holds, as first and end (R235, R236). -/
def Partition.unitsOf (p : Partition) (d : TensorDecl) (i : Nat) : Nat × Nat :=
  let u := d.shardUnits
  if p.byNodes d then
    let nodes := ceilDiv p.width p.node
    (u * (i / p.node) / nodes, u * (i / p.node + 1) / nodes)
  else (u * i / p.width, u * (i + 1) / p.width)

/-- The first element of this module's part of a weight, and the number of its elements. -/
def Partition.part (p : Partition) (d : TensorDecl) : Nat × Nat :=
  let (lo, hi) := p.unitsOf d p.shard
  (16384 * lo, min (16384 * hi) d.elements - 16384 * lo)

/-- The lowest shard index that holds an element: its owner, or the lead of the owning node (R235, R236, R336). -/
def Partition.ownerOf (p : Partition) (d : TensorDecl) (i : Nat) : Nat :=
  ((List.range p.width).find? fun x => decide (16384 * (p.unitsOf d x).1 ≤ i ∧ i < 16384 * (p.unitsOf d x).2)).getD 0

/-- This module holds an element. -/
def Partition.holdsElement (p : Partition) (d : TensorDecl) (i : Nat) : Bool :=
  let (lo, n) := p.part d
  decide (lo ≤ i ∧ i < lo + n)

/-- Element groups of this module's part of a weight (R193). -/
def Partition.groupsOf (p : Partition) (d : TensorDecl) : Nat := ceilDiv (p.part d).2 2048

/-! ### Regions (R194, R196, R232) -/

/-- An exchange window of a tensor: its length per module and its class (R353). -/
def Image.window (m : Image) (h : Nat) : Option (Nat × Nat) :=
  (m.decls.find? fun d => d.kind == 2 && bits (wordAt d.words 0) 63 32 == h).map fun d =>
    (wordAt d.words 1, bits (wordAt d.words 0) 31 30)

/-- The bytes of a tensor that lie in this module: its window, or its whole length. -/
def Image.localLength (m : Image) (d : TensorDecl) : Nat := ((m.window d.handle).map (·.1)).getD d.length

/-- The update rule of a weight: 0 where no program updates it. -/
def Image.ruleOf (m : Image) (d : TensorDecl) : Nat :=
  if d.program = 0 then 0 else ((m.programs[d.program - 1]?).map (·.rule)).getD 0

/-- Bytes that an element group takes in the narrowed image: none in BF16 (R194). -/
def imageBytes (fmt : Nat) : Nat := if fmt = codeBF16 then 0 else 2048 * fmtBits fmt / 8

/-- The regions of a tensor with the bytes of their units; moments and accumulation buffer stand under the weight (DESIGN CHOICE, log entry 13). -/
def Image.regionsOf (m : Image) (d : TensorDecl) : List (RegionKey × Nat) :=
  let two := fun (k : RegionKind) (u : Nat) => [(RegionKey.mk d.handle k false, u), (RegionKey.mk d.handle k true, u)]
  match d.kind with
  | 1 =>
    two .masterHigh 4096 ++ two .masterLow 4096 ++
    (if imageBytes d.fmt = 0 then [] else [(⟨d.handle, .image, false⟩, imageBytes d.fmt)]) ++
    (if m.ruleOf d = 0 then [] else two .moment1 8192) ++ (if m.ruleOf d = 2 then two .moment2 8192 else []) ++
    [(⟨d.handle, .accumulation, false⟩, 8192)]
  | 5 => [(⟨d.handle, .checkpoint, false⟩, 4096)]
  | 6 => two .data 4096
  | 2 | 3 | 8 | 9 | 10 => if d.residency = 0 then [(⟨d.handle, .data, false⟩, 4096)] else []
  | _ => []

/-- Units of each region of a tensor in this module: element groups of a weight, 4 KiB blocks otherwise (R232). -/
def Partition.unitsIn (p : Partition) (m : Image) (d : TensorDecl) : Nat :=
  if d.kind = 1 then p.groupsOf d else if (m.regionsOf d).isEmpty then 0 else ceilDiv (m.localLength d) 4096

/-- A region's place: its units, their bytes, its start position and its offset in every slice (R232, DESIGN CHOICE, log entry 12). -/
structure Extent where
  key : RegionKey
  unit : Nat
  units : Nat
  start : Nat
  base : Nat
  deriving DecidableEq, Repr

/-- Length of the stripe list; 1 for an empty one, which holds nothing. -/
def Partition.stripes (p : Partition) : Nat := max 1 p.place.stripe.length

/-- The places of all regions in ascending handle order, each from a 4 KiB boundary, after the pages of the image (R67, R81, R232, DESIGN CHOICE, log entry 12), and the bytes that they take in
each slice. -/
def Partition.extents (p : Partition) (m : Image) : List Extent × Nat :=
  let n := p.stripes
  let (es, _, base) := m.tensors.foldl (fun (acc : List Extent × Nat × Nat) d =>
    let (es, o, base) := acc
    let units := p.unitsIn m d
    let (es, base) := (m.regionsOf d).foldl (fun (a : List Extent × Nat) r =>
      (a.1 ++ [⟨r.1, r.2, units, o, a.2⟩], a.2 + roundUp 4096 (ceilDiv units n * r.2))) (es, base)
    (es, (o + units) % n, base)) ([], 0, 4096 * ceilDiv m.pages.length n)
  (es, base)

/-- The slice at a position of the stripe list. -/
def Partition.sliceAt (p : Partition) (i : Nat) : SliceId := p.place.stripe.getD i 0

/-- Slice and offset of a byte of a region (R232). -/
def Partition.locate (p : Partition) (m : Image) (k : RegionKey) (b : Nat) : Option (SliceId × Nat) :=
  ((p.extents m).1.find? fun e => e.key == k).map fun e =>
    let j := b / e.unit
    (p.sliceAt ((e.start + j) % p.stripes), e.base + j / p.stripes * e.unit + b % e.unit)

/-- Slice and offset of a page of the image. -/
def Partition.locatePage (p : Partition) (g : Nat) : SliceId × Nat := (p.sliceAt (g % p.stripes), 4096 * (g / p.stripes))

/-- What a place in a slice holds: a page of the image, or a byte of a region. -/
inductive Placed where
  | page (g : Nat)
  | byte (k : RegionKey) (b : Nat)
  deriving DecidableEq, Repr

/-- What lies at an offset of a slice. -/
def Partition.placedAt (p : Partition) (m : Image) (c : SliceId) (off : Nat) : Option Placed :=
  match p.place.stripe.findIdx? (· == c) with
  | none => none
  | some i =>
    let n := p.stripes
    if off < 4096 * ceilDiv m.pages.length n then some (.page (off / 4096 * n + i))
    else
      ((p.extents m).1.find? fun e => decide (e.base ≤ off ∧ off < e.base + ceilDiv e.units n * e.unit)).map fun e =>
        let j := (off - e.base) / e.unit * n + (i + n - e.start % n) % n
        .byte e.key (j * e.unit + (off - e.base) % e.unit)

/-! ### Bytes, clean map and tags (R196, R197, R226) -/

/-- A region of clean blocks. -/
def Region.clean : Region := ⟨[], [], []⟩

/-- A region of a partition; one that was never written is clean. -/
def Weights.region (w : Weights) (k : RegionKey) : Region := (Assoc.get k w.regions).getD Region.clean

/-- Bytes of a region. -/
def Weights.read (w : Weights) (k : RegionKey) (off n : Nat) : List Byte := Cells.readList (w.region k).cells off n

/-- The 4 KiB blocks that a run of bytes touches. -/
def blocksOf (off n : Nat) : List Nat := if n = 0 then [] else (List.range ((off + n - 1) / 4096 - off / 4096 + 1)).map (off / 4096 + ·)

/-- Write bytes into a region: the blocks are no longer clean, and they take the tag of the write (R197, R226). -/
def Region.write (r : Region) (off : Nat) (bs : List Byte) (tag : Option Tag) : Region where
  cells := Cells.write r.cells off bs
  written := (blocksOf off bs.length).foldl (fun (ws : List Nat) b => if ws.contains b then ws else insertBy id b ws) r.written
  tags := match tag with
    | none => r.tags
    | some g => (blocksOf off bs.length).foldl (fun (ts : List (Nat × Tag)) b => Assoc.put b g ts) r.tags

/-- Write bytes into a region of a partition. -/
def Weights.write (w : Weights) (k : RegionKey) (off : Nat) (bs : List Byte) (tag : Option Tag) : Weights :=
  { w with regions := Assoc.put k ((w.region k).write off bs tag) w.regions }

/-- Every block of a run carries a tag. -/
def Region.tagged (r : Region) (off n : Nat) (g : Tag) : Bool :=
  (blocksOf off n).all fun b => (Assoc.get b r.tags) == some g

/-- The current (step, attempt) of a partition (R197). -/
def Partition.tag (p : Partition) : Tag := ⟨p.run.step, p.run.attempt⟩

/-- The current bit of a double-buffered tensor (R196). -/
def Weights.bit (w : Weights) (h : Nat) : Bool := (Assoc.get h w.current).getD false

/-- Bytes of an accumulation buffer: a block whose tag differs from the current (step, attempt) reads zeros (R197). -/
def Partition.readAcc (p : Partition) (h off n : Nat) : List Byte :=
  let r := p.weights.region ⟨h, .accumulation, false⟩
  (List.range n).map fun i => if Assoc.get ((off + i) / 4096) r.tags = some p.tag then Cells.read r.cells (off + i) else 0

/-- The region that a transfer names by a tensor handle, for reading or for writing (R194, R196); none where no transfer reaches the tensor. -/
def Partition.transferKey (p : Partition) (m : Image) (h : Nat) (write : Bool) : Option RegionKey :=
  match m.tensor h with
  | none => none
  | some d =>
    match d.kind with
    | 5 => some ⟨h, .checkpoint, false⟩
    | 6 => some ⟨h, .data, p.weights.bit h != write⟩
    | 2 | 3 | 8 | 9 => if d.residency = 0 then some ⟨h, .data, false⟩ else none
    | _ => none

/-- Whether writes into a region carry the tag of the step and the attempt (R197). -/
def RegionKind.isTagged : RegionKind → Bool
  | .masterHigh | .masterLow | .moment1 | .moment2 | .accumulation | .residual | .checkpoint => true
  | .image | .data => false

/-- A piece of a transfer that lies in one 4 KiB block of a tensor: the member that holds it when it is another one, the offset in that
member's part, and the length. -/
structure Piece where
  member : Option Nat
  off : Nat
  len : Nat
  deriving DecidableEq, Repr

/-- The pieces of a run of tensor bytes (R232, R353). -/
def Partition.pieces (p : Partition) (m : Image) (h off n : Nat) : List Piece :=
  (blocksOf off n).map fun b =>
    let lo := max off (4096 * b)
    let hi := min (off + n) (4096 * b + 4096)
    match m.window h with
    | some (l, _) =>
      let owner := if l = 0 then 0 else lo / l
      ⟨if owner = p.settings.logical.toNat then none else some owner, lo - owner * l, hi - lo⟩
    | none => ⟨none, lo, hi - lo⟩

/-- The weight whose optimizer state an optimizer-state tensor holds: the n-th such tensor goes with the n-th weight that a program updates (DESIGN CHOICE, log entry 17). -/
def Image.stateWeight (m : Image) (h : Nat) : Option TensorDecl :=
  match ((m.tensors.filter fun d => d.kind == 7).findIdx? fun d => d.handle == h) with
  | some i => (m.tensors.filter fun d => d.kind == 1 && m.ruleOf d != 0)[i]?
  | none => none

/-- The tensor whose current bit the moments of a weight follow: its optimizer-state tensor, or the weight itself where the image declares none. -/
def Image.stateHandle (m : Image) (w : TensorDecl) : Nat :=
  ((m.tensors.find? fun d => d.kind == 7 && (m.stateWeight d.handle) == some w).map (·.handle)).getD w.handle

/-- The regions that hold a tensor's bytes in this module, one after the other, with their lengths: high halves and then low halves of a weight, the
moments of an optimizer-state tensor, the bytes themselves otherwise (DESIGN CHOICE, log entry 17). `alt` selects the alternate buffers (R196). -/
def Partition.tensorRegions (p : Partition) (m : Image) (h : Nat) (alt : Bool) : List (RegionKey × Nat) :=
  match m.tensor h with
  | none => []
  | some d =>
    match d.kind with
    | 1 =>
      let b := p.weights.bit h != alt
      let n := 4096 * p.groupsOf d
      [(⟨h, .masterHigh, b⟩, n), (⟨h, .masterLow, b⟩, n)]
    | 7 => match m.stateWeight h with
      | some w =>
        let b := p.weights.bit h != alt
        let n := 8192 * p.groupsOf w
        [(⟨w.handle, .moment1, b⟩, n)] ++ (if m.ruleOf w = 2 then [(⟨w.handle, .moment2, b⟩, n)] else [])
      | none => []
    | _ => match p.transferKey m h alt with
      | some k => [(k, roundUp 4096 (m.localLength d))]
      | none => []

/-- The runs of region bytes that a run of a tensor's bytes takes: region, offset, length. -/
def regionRuns : List (RegionKey × Nat) → Nat → Nat → List (RegionKey × Nat × Nat)
  | [], _, _ => []
  | (k, len) :: rest, off, n =>
    if n = 0 then []
    else if len ≤ off then regionRuns rest (off - len) n
    else
      let here := min n (len - off)
      (k, off, here) :: regionRuns rest 0 (n - here)

/-- Bytes of a run of the bytes that some regions hold one after the other. -/
def Weights.readRuns (w : Weights) (rs : List (RegionKey × Nat)) (off n : Nat) : List Byte :=
  (regionRuns rs off n).flatMap fun r => w.read r.1 r.2.1 r.2.2

/-- Write a run of the bytes that some regions hold; blocks of tagged regions take the tag that is given (R197). -/
def Weights.writeRuns (w : Weights) (rs : List (RegionKey × Nat)) (off : Nat) (bs : List Byte) (tag : RegionKey → Option Tag) : Weights :=
  ((regionRuns rs off bs.length).foldl (fun (a : Weights × List Byte) r =>
    (a.1.write r.1 r.2.1 (a.2.take r.2.2) (tag r.1), a.2.drop r.2.2)) (w, bs)).1

/-- Bytes of a tensor as this module holds it. -/
def Partition.tensorRead (p : Partition) (m : Image) (h off n : Nat) (alt : Bool) : List Byte :=
  p.weights.readRuns (p.tensorRegions m h alt) off n

/-- The tag of a write into a region: tagged regions and residuals carry the current (step, attempt) (R197, R213). -/
def Partition.writeTag (p : Partition) (m : Image) (k : RegionKey) : Option Tag :=
  if k.kind.isTagged || ((m.tensor k.handle).map (·.kind)) == some 6 then some p.tag else none

/-- Write bytes of a tensor as this module holds it; blocks of alternate buffers take the tag of the write (R197). -/
def Partition.tensorWrite (p : Partition) (m : Image) (h off : Nat) (bs : List Byte) (alt : Bool) : Partition :=
  { p with weights := p.weights.writeRuns (p.tensorRegions m h alt) off bs fun k => if alt then p.writeTag m k else none }

/-- The regions of a tensor that a permute moves: no low half, which only the Burnisher of its stack reads and writes (R82, R354, DEDUCED, log entry 25). -/
def Partition.movedRegions (p : Partition) (m : Image) (h : Nat) (alt : Bool) : List (RegionKey × Nat) :=
  (p.tensorRegions m h alt).filter fun r => r.1.kind != .masterLow

/-- Transfers may write a region, or read it where `write` is false: checkpoint shadows, residuals in the alternate or the current buffer, and other tensors of
residency 0; every other region belongs to the base die's engines or to the reduction (R82, R194, R196). -/
def Partition.open_ (p : Partition) (m : Image) (k : RegionKey) (write : Bool) : Bool :=
  match k.kind with
  | .checkpoint => true
  | .data => ((m.tensor k.handle).map (·.kind)) != some 6 || k.buffer == (p.weights.bit k.handle != write)
  | _ => false

/-- The address word of a packet to a stack slice (R280). -/
def sliceAddr (c : SliceId) (off : Nat) : Word64 := mkWord [at_ 56 c.1, at_ 0 (off % 2 ^ 34)]

/-- The payload of a read request: tensor handle and length or part, then the store address to which the answer goes, or the number of the page
that is fetched, and the element group (R350, DESIGN CHOICE, log entry 12). -/
def requestBody (h part back group : Nat) : List Byte := wordsBytes [mkWord [at_ 32 h, at_ 0 part], mkWord [at_ 32 back, at_ 0 group]]

/-- The address word of the answer to a read request: the store address that the request names (R280). -/
def answerAddr (p : Packet) : Word64 := BitVec.ofNat 64 (bits (wordAt (bytesWords p.payload) 1) 63 32)

/-! ### Bucket ranges (R328, R329) -/

/-- A bucket range (R328): its declaration number, bucket, weight, residual, range of elements, offset and the bucket's settings. -/
structure BucketRange where
  number : Nat
  bucket : Nat
  headroom : Nat
  reverse : Bool
  seed : Nat
  weight : Nat
  residual : Nat
  first : Nat
  count : Nat
  offset : Nat
  deadline : Nat
  done : Nat
  deriving DecidableEq, Repr

/-- The bucket ranges of an image in ascending declaration number (R328). -/
def Image.ranges_ (m : Image) : List BucketRange :=
  m.decls.zipIdx.filterMap fun (d, i) =>
    let w := fun j => wordAt d.words j
    if d.kind = 1 then
      some ⟨i + 1, bits (w 0) 63 32, bits (w 0) 27 26, bitAt (w 0) 25, bits (w 0) 24 17, bits (w 1) 63 32, bits (w 1) 31 0, w 2,
        bits (w 3) 63 32, bits (w 3) 31 0, bits (w 4) 63 48, d.done⟩
    else none

/-- The ranges of one bucket. -/
def Image.rangesOf (m : Image) (bucket : Nat) : List BucketRange := m.ranges_.filter fun r => r.bucket == bucket

/-- The bucket handles of an image, ascending. -/
def Image.bucketHandles (m : Image) : List Nat := sortBy id (m.ranges_.map (·.bucket)).eraseDups

/-- The weights that some bucket range names: those that a step updates (R214). -/
def Image.updatedWeights (m : Image) : List Nat := sortBy id (m.ranges_.map (·.weight)).eraseDups

/-- Wire blocks of a bucket: its covered length over 32 (R330). -/
def Image.bucketBlocks (m : Image) (bucket : Nat) : Nat :=
  ceilDiv ((m.rangesOf bucket).foldl (fun a r => max a (r.offset + r.count)) 0) 32

/-- The weight and the element index of a wire byte (R328). -/
def Image.wireElement (m : Image) (bucket o : Nat) : Option (Nat × Nat) :=
  ((m.rangesOf bucket).find? fun r => decide (r.offset ≤ o ∧ o < r.offset + r.count)).map fun r => (r.weight, r.first + (o - r.offset))

/-- A bucket of a partition in the present attempt. -/
def Partition.bucket (p : Partition) (h : Nat) : Option Bucket := p.reduce.buckets.find? fun b => b.handle == h

/-- A wire block of a bucket. -/
def Bucket.block (b : Bucket) (i : Nat) : Option WireBlock := b.blocks.find? fun w => w.index == i

/-- The accumulation-buffer elements of a run are final: every bucket range that covers any of them has delivered its wire blocks (R205,
R348). -/
def Partition.accFinal (p : Partition) (m : Image) (weight first count : Nat) : Bool :=
  (m.ranges_.filter fun r => r.weight == weight).all fun r =>
    let lo := max first r.first
    let hi := min (first + count) (r.first + r.count)
    if hi ≤ lo then true
    else
      let b0 := (r.offset + (lo - r.first)) / 32
      let b1 := (r.offset + (hi - 1 - r.first)) / 32
      (List.range (b1 + 1 - b0)).all fun j =>
        (((p.bucket r.bucket).bind fun b => b.block (b0 + j)).map (·.delivered)).getD false

end Sys2Proof.Machine
end

