-- ==== Sys2Proof/Machine/Stream.lean ====
section
/-! DEFINITION. The stream unit: arming and starting queues, issuing, completing, refusing and re-sending transfers, the gradient quantizer,
the Stamp unit of a tile, and the receipt of PUT-TILE packets (R139 to R162, R331, R333, R350, R353, R361 to R366). -/

namespace Sys2Proof.Machine

/-- The stream list's context. -/
def streamCtx : CtxId := 2

/-! ### Descriptors (R142, R143) -/

/-- The VC of a transfer kind (R140). -/
def transferVc (kind : Nat) : Nat := if kind = 6 then 1 else 2

/-- A transfer kind is outbound (R140). -/
def outbound (kind : Nat) : Bool := kind == 1 || kind == 2 || kind == 6

/-- The checks of R143 on the words of a descriptor, each with the byte offset of its field. -/
def descriptorChecks (e : Seat) (idx : Nat) (ws : List Word64) : List (Bool × Nat) :=
  let d := descOf ws
  let gw := d.kind == 4
  let stackKind := d.kind == 2 || d.kind == 3 || d.kind == 4
  let fmt := bits d.position 31 24
  [ (ws.length == 8 && crcOk ws 7, 56),
    (d.index == idx, 40),
    (1 ≤ d.kind && d.kind ≤ 6, 0), (zeroField ws 0 55 48, 0), (d.vc == transferVc d.kind, 0), (d.poly ≤ 4, 0), (zeroField ws 0 41 40, 0),
    (1 ≤ d.depth && d.depth ≤ 64, 0),
    (d.addr % (if gw then 4096 else 64) == 0, 8),
    (if gw then d.rowLen == 0 else d.rowLen % 64 == 0 && 64 ≤ d.rowLen, 8),
    (1 ≤ d.rows, 16),
    (if d.rows = 1 then d.stride == 0 else if gw then d.stride % 4096 == 0 && 266240 ≤ d.stride else d.stride % 64 == 0 && d.rowLen ≤ d.stride, 16),
    (match d.kind with
      | 1 => bits d.target 55 53 == 0 && bits d.target 47 32 == 0 && bits d.target 31 0 % 64 == 0 && bits d.target 63 56 < e.image.tiles
      | 2 | 3 | 4 => bits d.target 31 0 == 0
      | 5 => d.target == 0
      | _ => true, 24),
    (match d.kind with
      | 1 | 5 => d.position == 0
      | 4 => fmtValid fmt && (fmtNarrow fmt || fmt == codeBF16) && 1 ≤ bits d.position 23 13 && bits d.position 23 13 ≤ spanDepth fmt &&
          1 ≤ bits d.position 12 2 && bits d.position 12 2 ≤ panelWidth fmt && bits d.position 1 0 == 0
      | _ => d.position % 64 == 0, 32),
    (!stackKind || d.kind != 4 || ((e.image.tensor (d.target / 2 ^ 32)).map (·.fmt)) == some fmt, 32),
    (zeroField ws 5 31 0, 40), (wordAt ws 6 == 0, 48), (zeroField ws 7 31 0, 56) ]

/-- The byte offset of the first field of a descriptor that fails its check; none when it passes them all. -/
def descriptorBad (e : Seat) (idx : Nat) (ws : List Word64) : Option Nat :=
  ((descriptorChecks e idx ws).find? fun c => !c.1).map (·.2)

/-! ### The Stamp unit of a tile (R361 to R366) -/

/-- The modulus 2^w of a stamp polynomial. -/
def stampModulus (poly : Nat) : Nat := if poly = 3 then 2 ^ 64 else if poly = 4 then 2 ^ 16 else 2 ^ 32

/-- Add a block stamp to a fingerprint (R365). -/
def Fingerprint.add (f : Fingerprint) (a n : Nat) : Fingerprint :=
  { f with a := (f.a + a) % stampModulus f.poly, n := (f.n + n) % 2 ^ 32 }

/-- A key of R363. -/
def stampKey (kind region low : Nat) : Nat := kind * 2 ^ 56 + region * 2 ^ 48 + low % 2 ^ 32

/-- Stamp one block into the context of a queue (R362 to R365); polynomial 0 stamps nothing. -/
def StampUnit.stampBlock (u : StampUnit) (q : Fin 32) (key poly fold layer logical : Nat) (bs : List Byte) : StampUnit :=
  if poly = 0 ∨ bs.isEmpty = true then u else
  let v := stamp poly fold bs
  let f := (u.ctxs.get q).getD ⟨key, poly, 0, 0⟩
  { u with
    ctxs := vmod u.ctxs q fun _ => some (f.add v 1)
    blocks := vmod u.blocks q fun b => b ++ [⟨key, layer, fold, v, logical⟩] }

/-- Add a fingerprint to a list of them, under its key. -/
def addFinger (fs : List Fingerprint) (f : Fingerprint) : List Fingerprint :=
  match fs.findIdx? fun g => g.key == f.key with
  | some i => fs.modify i fun g => g.add f.a f.n
  | none => fs ++ [f]

/-- The layer under which the preamble's stamps stand: it sorts after every layer, and no restart at a layer discards it (DESIGN CHOICE, log entry 14). -/
def preambleLayer : Nat := 0x10003

/-- An arming has completed: its running value goes into the layer stamp table of the command that started it (R365). -/
def StampUnit.close (u : StampUnit) (q : Fin 32) (layer : Nat) : StampUnit :=
  match u.ctxs.get q with
  | none => u
  | some f =>
    { u with
      ctxs := vmod u.ctxs q fun _ => none
      blocks := vmod u.blocks q fun _ => []
      tables := Assoc.put layer (addFinger ((Assoc.get layer u.tables).getD []) f) u.tables
      tableBlocks := Assoc.put layer ((Assoc.get layer u.tableBlocks).getD [] ++ u.blocks.get q) u.tableBlocks }

/-- The number under which the stamps of a stream command's layer stand. -/
def Seat.stampLayer (e : Seat) (cmd : Nat) : Nat := (e.image.layerOf e.logical 2 cmd).getD preambleLayer

/-! ### Allowances (R158, R234) -/

/-- The stack share S of a partition in MB/s (R234). -/
def Partition.shareMB (p : Partition) : Nat :=
  let n := match p.image with
    | some m => m.tiles
    | none => p.tiles.length
  if n = 0 then 0 else min (300000 * p.slices.length / n) 900000

/-- The read allowance, which equals the write allowance, in transfers: floor(S × 3.0 µs / 4,096) of the exact share (R158, R234). -/
def Partition.allowance (p : Partition) : Nat :=
  let n := match p.image with
    | some m => m.tiles
    | none => p.tiles.length
  if n = 0 then 0 else min (900000 * p.slices.length / (4096 * n)) (2700000 / 4096)

/-- Outstanding transfers of the armings of some kinds. -/
def StreamUnit.outstanding (u : StreamUnit) (kinds : List Nat) : Nat :=
  (u.queues.toList.map fun q => (q.all.map fun a => if kinds.contains a.desc.kind then a.outstanding.length else 0).sum).sum

/-- Pages requested and not yet present; a page request is a stack read (R185). -/
def Sequencer.pageReads (q : Sequencer) : Nat := (q.ctxs.toList.map fun k => (k.pages.filter fun g => g.bytes.isNone).length).sum

/-! ### ARM (R143, R145, R147, R461) -/

/-- The report of a fault of a queue (R184). -/
def State.queueReport (s : State) (t : TileId) (e : Seat) (code cls action : Nat) (q : Fin 32) (a : Arming) : ErrorReport :=
  { s.mkReport code cls action (some e.part) (epTile t) q.1 with
    list := some 2
    cmdClass := 3
    opcode := 1
    queue := some (BitVec.ofNat 5 q.1)
    gen := some a.gen
    cmd := some (BitVec.ofNat 32 a.cmd)
    desc := some (BitVec.ofNat 32 a.desc.index) }

/-- Change one queue. -/
def State.modQueue (s : State) (t : TileId) (q : Fin 32) (f : Queue → Queue) : State :=
  s.modTile t fun x => { x with stream := { x.stream with queues := vmod x.stream.queues q f } }

/-- Count transfers that have been planned, completed or cancelled (R275). -/
def State.countTransfers (s : State) (planned completed cancelled : Nat) : State :=
  { s with audit := { s.audit with
    planned := s.audit.planned + BitVec.ofNat 64 planned
    completed := s.audit.completed + BitVec.ofNat 64 completed
    cancelled := s.audit.cancelled + BitVec.ofNat 64 cancelled } }

/-- A re-arm overrun (R147): the queue is Faulted; the active arming issues no more, and its unissued transfers and those of the discarded
shadow arming are cancelled. -/
def State.rearmOverrun (s : State) (t : TileId) (e : Seat) (q : Fin 32) (act sh new : Arming) : State :=
  let unissued := act.desc.transfers - act.next
  let dead := unissued + sh.desc.transfers
  let s := s.modQueue t q fun k => { k with
    active := some { act with next := act.desc.transfers, cancelled := act.cancelled + unissued }
    shadow := none
    faulted := true }
  let s := s.modTile t fun x => { x with stream := { x.stream with
    rearmOverruns := x.stream.rearmOverruns + 1
    cancelled := x.stream.cancelled + BitVec.ofNat 64 dead } }
  let s := s.countTransfers 0 0 dead
  (s.report (.welt t) (s.queueReport t e 0x0304 2 3 q new)).callRetry e.part 0x0304

/-- The arming that an ARM makes. -/
def newArming (d : Descriptor) (gen : BitVec 8) (cmd : Nat) (started again : Bool) : Arming where
  desc := d
  gen := gen
  started := started
  startRecorded := d.startOnArm
  next := 0
  outstanding := []
  completed := 0
  received := 0
  withheld := false
  cancelled := 0
  cmd := cmd
  startCmd := cmd
  kept := false
  keptStarted := false
  again := again

/-- An ARM command repeats a kept arming (R461). -/
def Queue.keptArm (k : Queue) (cmd : Nat) : Bool :=
  ((k.active.map fun a => a.kept && a.cmd == cmd).getD false) || ((k.shadow.map fun a => a.kept && a.cmd == cmd).getD false)

/-- A SEND or RECV command repeats the start of a kept arming that had started (R461). -/
def Queue.keptStart (k : Queue) (cmd : Nat) : Bool :=
  let f := fun (a : Arming) => a.keptStarted && a.startCmd == cmd
  ((k.active.map f).getD false) || ((k.shadow.map f).getD false)

/-- A descriptor that fails its CRC or its sequence number is fetched again from the partition's stacks; a second failure in the attempt faults the
context and calls for a step retry (R184, R457). -/
def State.refetchDescriptor (s : State) (t : TileId) (e : Seat) (q : Fin 32) (idx : BitVec 32) (ws : List Word64) : State :=
  let f : StructFail := { part := e.part, tile := some t, held := true, kind := 2, handle := idx, seq := BitVec.ofNat 32 (bits (wordAt ws 5) 63 32) }
  let s := s.modTile t fun x => { x with seqr := { x.seqr with descriptors := e.image.descriptorsOf e.logical } }
  (s.waitCtx t streamCtx).structFault t streamCtx f (s.posOf t streamCtx) 0x31 fun r => { r with
    queue := some (BitVec.ofNat 5 q.1)
    desc := some idx }

/-- ARM (R143, R145 to R147, R461). -/
def execArm (t : TileId) (q : Fin 32) (idx : BitVec 32) (s : State) : Host.Outcome State Fault Refusal :=
  .next (s.command t streamCtx (.arm t q idx) fun e s =>
    let x := s.tiles.get t
    let k := x.stream.queues.get q
    let cmd := s.posOf t streamCtx
    let bad := match x.seqr.descriptors[idx.toNat]? with
      | none => some 8
      | some ws => descriptorBad e idx.toNat ws
    let ws := (x.seqr.descriptors[idx.toNat]?).getD []
    if !ws.isEmpty && !(crcOk ws 7 && bits (wordAt ws 5) 63 32 == idx.toNat) then s.refetchDescriptor t e q idx ws
    else match bad with
    | some off => s.commandFault t streamCtx e cmd 0x31 0x0301 off 0 (some q.1) none (some idx.toNat)
    | none =>
      let d := descOf ((x.seqr.descriptors[idx.toNat]?).getD [])
      if k.keptArm cmd then s.issue t streamCtx e true
      else match x.faults.spent.find? fun z => z.1 == cmd with
      | some z => (s.issue t streamCtx e true).sendArrival t e 2 z.2 d.buckle 1 1 0
      | none =>
        if k.faulted then
          (s.modTile t fun x => { x with stream := { x.stream with ignoredArms := x.stream.ignoredArms + 1 } }).issue t streamCtx e true
        else
          let again := s.again t streamCtx
          let count := k.armCount + 1
          let a := newArming d (BitVec.ofNat 8 count.toNat) cmd (d.startOnArm && k.active.isNone) again
          let s := s.modQueue t q fun k => { k with armCount := count }
          match k.active, k.shadow with
          | none, _ => ((s.modQueue t q fun k => { k with active := some a }).countTransfers d.transfers 0 0).issue t streamCtx e true
          | some _, none => ((s.modQueue t q fun k => { k with shadow := some a }).countTransfers d.transfers 0 0).issue t streamCtx e true
          | some act, some sh => (s.issue t streamCtx e true).rearmOverrun t e q act sh a)

/-! ### SEND and RECV (R146, R461) -/

/-- The queue after a start command takes effect on its oldest arming that has not started; none where there is no such arming, it goes the
other way, it has a start recorded already, or the queue is Faulted, where the manual says nothing of an active arming that has not started (R146, DESIGN CHOICE, log entry 73). -/
def Queue.start (k : Queue) (out : Bool) (cmd : Nat) : Option Queue :=
  if k.faulted then none else
  match k.active with
  | none => none
  | some a =>
    if !a.started then
      if outbound a.desc.kind == out then some { k with active := some { a with started := true, startCmd := cmd } } else none
    else match k.shadow with
      | some b =>
        if !b.startRecorded && outbound b.desc.kind == out then some { k with shadow := some { b with startRecorded := true, startCmd := cmd } }
        else none
      | none => none

/-- SEND and RECV: start an arming, complete without effect for a kept or spent one, or fail with an order fault. -/
def State.startQueue (s : State) (t : TileId) (i : Instr) (q : Fin 32) (out : Bool) (classOp : Nat) : State :=
  s.command t streamCtx i fun e s =>
    let x := s.tiles.get t
    let k := x.stream.queues.get q
    let cmd := s.posOf t streamCtx
    if k.keptStart cmd || x.faults.spent.any (fun z => z.2 == cmd && z.1 != cmd) then s.issue t streamCtx e true
    else match k.start out cmd with
      | some k' => (s.modQueue t q fun _ => k').issue t streamCtx e true
      | none => s.commandFault t streamCtx e cmd classOp 0x0302 0 0 (some q.1) (k.active.map (·.gen.toNat)) (k.active.map (·.desc.index))

/-- SEND (R146). -/
def execSend (t : TileId) (q : Fin 32) (s : State) : Host.Outcome State Fault Refusal := .next (s.startQueue t (.send t q) q true 0x32)

/-- RECV (R146). -/
def execRecv (t : TileId) (q : Fin 32) (s : State) : Host.Outcome State Fault Refusal := .next (s.startQueue t (.recv t q) q false 0x33)

/-! ### The gradient quantizer (R331) -/

/-- What converting a run of gradient elements gives: wire codes, BF16 residuals, one magnitude per wire block, and the counts of R71. -/
structure Quantized where
  codes : List Nat
  residuals : List Nat
  mags : List Nat
  overflows : Nat
  nonfinite : Nat
  deriving DecidableEq, Repr

/-- ceil(|v| / 2^x) of a finite value, an infinity as the cap and a NaN as 0 (R331). -/
def wireMag (v : FVal) (x : Int) (cap : Nat) : Nat :=
  match v with
  | .nan => 0
  | .inf _ => cap
  | .fin _ m e =>
    let k := e - x
    min cap (if 0 ≤ k then m * 2 ^ k.toNat else ceilDiv m (2 ^ (-k).toNat))

/-- v = rn32(g + r) of an element (R331). -/
def wireValue (g r : Nat) : FVal := fmtFP32.decode (fmtFP32.add (fmtFP32.decode g) (fmtBF16.decode r)).code

/-- Convert gradient elements of whole wire blocks: FP32 codes, BF16 residuals of the current buffer, the exponent X + e of each block, in
a pass (R331). An overflow of the code and one of the residual are counted (R69). -/
def quantize (gs rs : List Nat) (exps : List Int) (pass : Nat) : Quantized :=
  let n := if pass = 4 then 16 else 8
  let cap := if pass = 4 then 65535 else 255
  let vs := gs.zipWith wireValue rs
  let xs := vs.zipIdx.map fun (v, i) => (v, exps.getD (i / 32) 0)
  let cs := xs.map fun (v, x) => toWire n v x
  let es := (xs.zip cs).map fun (vx, c) => wireResidual n vx.1 c.code vx.2
  { codes := cs.map (·.code)
    residuals := es.map (·.code)
    mags := (List.range (ceilDiv vs.length 32)).map fun b =>
      (((xs.drop (32 * b)).take 32).map fun (v, x) => wireMag v x cap).foldl max 0
    overflows := cs.countP (·.overflow) + es.countP (·.overflow)
    nonfinite := (cs.filter (·.nonfinite)).length }

/-- The bytes of wire codes in a pass. -/
def codeBytes (pass : Nat) (cs : List Nat) : List Byte := cs.flatMap fun c => leBytes (if pass = 4 then 2 else 1) c

/-- The 4-byte fields of a byte list. -/
def words32 (bs : List Byte) : List Nat := (List.range (bs.length / 4)).map fun i => field bs (4 * i) 4
/-- The 2-byte fields of a byte list. -/
def halves (bs : List Byte) : List Nat := (List.range (bs.length / 2)).map fun i => field bs (2 * i) 2

/-- A contribution trailer (R331, DESIGN CHOICE, log entry 15): bucket handle and first block; pass, attempt, logical tile and block count; step; sequence number and
CRC; then one magnitude per block, two bytes each in pass 4. -/
def contributionTrailer (logical bucket first pass attempt step seq : Nat) (mags : List Nat) : List Byte :=
  let body := mags.flatMap fun v => leBytes (if pass = 4 then 2 else 1) v
  let ws := [mkWord [at_ 32 bucket, at_ 0 first], mkWord [at_ 56 pass, at_ 48 attempt, at_ 32 logical, at_ 0 mags.length], BitVec.ofNat 64 step,
    at_ 0 (seq % 2 ^ 32)] ++ bytesWords body
  wordsBytes (sealCrc ws 3)

/-- The first bucket-range declaration of a bucket, with its declaration number (R328). -/
def Image.bucketDecl (m : Image) (bucket : Nat) : Option (Nat × CollDecl) :=
  ((m.decls.zipIdx.find? fun d => d.1.kind == 1 && bits (wordAt d.1.words 0) 63 32 == bucket).map fun d => (d.2 + 1, d.1))

/-- The bucket engine of a bucket in this module (R336): the link die at which the ring edge from its predecessor, in the bucket's direction,
enters; with one member in the shard group, the link die of the lowest bound port (DESIGN CHOICE, log entry 16). -/
def Partition.bucketLink (p : Partition) (d : CollDecl) : LinkId :=
  let reverse := bitAt (wordAt d.words 0) 25
  let ring := p.place.ring
  let n := ring.length
  let here := (ring.findIdx? (· == p.shard)).getD 0
  let pred := ring.getD ((here + (if reverse then 1 else n - 1)) % max 1 n) 0
  let low := ((sortBy (fun q : PortId => q.1) p.ports).head?).getD 0
  if n ≤ 1 then linkOf low else linkOf ((p.portTo (p.memberOf pred)).getD low)

/-- The wire exponents of a bucket for the step, when they are complete (R335). -/
def Partition.wireExps (p : Partition) (bucket : Nat) : Option (List Int) := Assoc.get bucket p.reduce.wireExps

/-- Send codes of a bucket with their contribution trailer to the bucket engine (R331). -/
def State.sendCodes (s : State) (t : TileId) (n : PartId) (bucket off pass : Nat) (q : Nat) (gen : BitVec 8) (codes : List Byte) (mags : List Nat) :
    State :=
  let p := s.parts.get n
  match p.image.bind fun m => m.bucketDecl bucket with
  | none => s
  | some (num, d) =>
    let l := p.bucketLink d
    let s := s.send 0x05 1 (epLink l) (epTile t) q n (linkAddr p.settings.logical.toNat pass num off) gen 0 codes
    let key := (0x100 + (p.logicalOf t).getD 0, bucket)
    let seq := (Assoc.get key p.reduce.ctlIn).getD 0
    let s := s.modPart n fun p => { p with reduce := { p.reduce with ctlIn := Assoc.put key (seq + 1) p.reduce.ctlIn } }
    s.sendControl (epLink l) (epTile t) q n (contributionTrailer ((p.logicalOf t).getD 0) bucket (off / 32) pass p.run.attempt p.run.step seq mags)

/-- Convert the gradient of a run of whole wire blocks from a tile's store, and write its residual to the alternate buffer (R331). The first
component holds the codes and the magnitudes. -/
def State.quantizeRun (s : State) (t : TileId) (n : PartId) (bucket residual off addr count pass : Nat) (incs : List Nat) : Quantized × State :=
  let p := s.parts.get n
  let x := s.tiles.get t
  let gs := words32 (x.storeRead addr (4 * count))
  let bit := p.weights.bit residual
  let rs := halves (p.weights.read ⟨residual, .data, bit⟩ (2 * off) (2 * count))
  let base := (p.wireExps bucket).getD []
  let exps := (List.range (ceilDiv count 32)).map fun b => min 127 (base.getD (off / 32 + b) 0 + ((incs.getD b 0 : Nat) : Int))
  let z := quantize gs rs exps pass
  let bs := z.residuals.flatMap fun v => leBytes 2 v
  (z, s.modPart n fun p => { p with weights := p.weights.write ⟨residual, .data, !bit⟩ (2 * off) bs (some p.tag) })

/-! ### Transfers (R139 to R141, R150 to R154) -/

/-- The row of a transfer and its byte offset in the row (R141). -/
def Descriptor.at_ (d : Descriptor) (i : Nat) : Nat × Nat :=
  let per := max 1 (ceilDiv d.rowLen 4096)
  (i / per, 4096 * (i % per))

/-- The far end of a transfer: a destination store address, a tensor offset or a wire-byte offset (R142). -/
def Descriptor.far (d : Descriptor) (i : Nat) : Nat :=
  let (r, o) := d.at_ i
  match d.kind with
  | 1 => bits d.target 31 0 + r * d.stride + o
  | 6 => d.position + 32 * r * (d.rowLen / 128) + o / 4
  | _ => d.position + r * d.rowLen + o

/-- The handle that a descriptor names. -/
def Descriptor.handle (d : Descriptor) : Nat := d.target / 2 ^ 32

/-- Element groups that one element transfer of a GET-WEIGHT covers (R200): 4,096 bytes of elements. -/
def groupsPerTransfer (fmt : Nat) : Nat := if fmt = codeBF16 then 1 else 4096 / imageBytes fmt

/-- The element index of the first element of the i-th group of element transfer t of block b of a GET-WEIGHT (R192, R200). -/
def Descriptor.groupElement (d : Descriptor) (w : TensorDecl) (b t i : Nat) : Nat :=
  let fmt := w.fmt
  let per := groupsPerTransfer fmt
  let k0 := (bits d.position 63 48 + b) * spanDepth fmt
  w.elementIndex k0 (bits d.position 47 32 * panelWidth fmt) + 2048 * (per * t + i)

/-- A group of a GET-WEIGHT transfer: its first element and its part number in the block, 0 being the scale area (R200). -/
def Descriptor.parts (d : Descriptor) (w : TensorDecl) (i : Nat) : List (Nat × Nat) :=
  let b := i / 65
  if i % 65 = 0 then [(d.groupElement w b 0 0, 0)]
  else
    let per := groupsPerTransfer w.fmt
    (List.range per).map fun j => (d.groupElement w b (i % 65 - 1) j, 1 + per * (i % 65 - 1) + j)

/-- Send one read request, with the store address of its answer, or write for a piece of a tensor: to the base die that holds it, or to the link die of the port toward the member that
does (R350, R353). -/
def State.sendPiece (s : State) (t : TileId) (e : Seat) (q : Nat) (gen : BitVec 8) (k : RegionKey) (c : Piece) (write : Bool) (back : Nat)
    (bs : List Byte) : State :=
  let p := s.parts.get e.part
  let kind := if write then 1 else 2
  let body := if write then bs else requestBody k.handle c.len back 0
  match c.member with
  | some m =>
    let decl := ((e.image.decls.findIdx? fun d => d.kind == 2 && bits (wordAt d.words 0) 63 32 == k.handle).map (· + 1)).getD 0
    match p.portTo m with
    | some port => s.send kind 2 (epLink (linkOf port)) (epTile t) q e.part (linkAddr m 1 decl c.off) gen 0 body
    | none => s
  | none =>
    match p.locate e.image k c.off with
    | some (sl, off) => s.send kind 2 (epStack (stackOf sl)) (epTile t) q e.part (sliceAddr sl off) gen 0 body
    | none => s

/-- The part field of a GET-WEIGHT request: the part, and above it the valid depth of its block (R142, R200, DESIGN CHOICE, log entry 12). -/
def partField (part depth : Nat) : Nat := depth * 2 ^ 16 + part

/-- Send the request flits of a GET-WEIGHT transfer, one for each group it covers (R200); a group in another member's shard goes to the link die of
the port toward that member (R350). -/
def State.sendParts (s : State) (t : TileId) (e : Seat) (q : Nat) (gen : BitVec 8) (d : Descriptor) (i : Nat) : State :=
  let p := s.parts.get e.part
  match e.image.tensor d.handle with
  | none => s
  | some w =>
    let b := i / 65
    let depth := if b + 1 = d.rows then bits d.position 23 13 else spanDepth w.fmt
    (d.parts w i).foldl (fun (s : State) g =>
      let back := (d.piece i).1 + (if g.2 = 0 then 0 else (g.2 - 1) % groupsPerTransfer w.fmt * imageBytes w.fmt)
      let body := requestBody w.handle (partField g.2 depth) back (g.1 / 2048)
      let own := p.ownerOf w g.1
      let m := p.memberOf own
      if p.holdsElement w g.1 || w.elements ≤ g.1 then
        let rel := (g.1 - (p.part w).1) / 2048
        let key : RegionKey := if w.fmt = codeBF16 then ⟨w.handle, .masterHigh, p.weights.bit w.handle⟩ else ⟨w.handle, .image, false⟩
        let u := if w.fmt = codeBF16 then 4096 else imageBytes w.fmt
        match p.locate e.image key (rel * u) with
        | some (sl, off) => s.send 2 2 (epStack (stackOf sl)) (epTile t) q e.part (sliceAddr sl off) gen 0 body
        | none => s
      else match p.portTo m with
        | some port => s.send 2 2 (epLink (linkOf port)) (epTile t) q e.part (linkAddr m 1 0 0) gen 0 body
        | none => s) s

/-- Send the packets of a transfer at its issue (R140). -/
def State.sendTransfer (s : State) (t : TileId) (e : Seat) (q : Fin 32) (a : Arming) (i : Nat) : State :=
  let d := a.desc
  let p := s.parts.get e.part
  let (addr, len) := d.piece i
  let far := d.far i
  match d.kind with
  | 1 =>
    match ((s.tiles.get t).stream.binding)[bits d.target 63 56]? with
    | some (some u) => s.send 1 2 (epTile u) (epTile t) q.1 e.part (BitVec.ofNat 64 far) a.gen (bits d.target 52 48) ((s.tiles.get t).storeRead addr len)
    | _ => s
  | 2 =>
    match p.transferKey e.image d.handle true with
    | some k =>
      let bs := (s.tiles.get t).storeRead addr len
      (blocksOf far len).foldl (fun (acc : State × Nat) b =>
        let lo := max far (4096 * b)
        let hi := min (far + len) (4096 * b + 4096)
        match p.pieces e.image d.handle lo (hi - lo) with
        | c :: _ => (acc.1.sendPiece t e q.1 a.gen k c true 0 (slice bs (lo - far) (hi - lo)), hi)
        | [] => acc) (s, far) |>.1
    | none => s
  | 3 =>
    match p.transferKey e.image d.handle false with
    | some k =>
      ((p.pieces e.image d.handle far len).foldl (fun (acc : State × Nat) c => (acc.1.sendPiece t e q.1 a.gen k c false acc.2 [], acc.2 + c.len))
        (s, addr)).1
    | none => s
  | 4 => s.sendParts t e q.1 a.gen d i
  | _ => s

/-- The bytes of an outbound transfer's source lie ready, pending or failed (R151). -/
def Tile.sourceStatus (x : Tile) (a : Arming) : CheckStatus :=
  if outbound a.desc.kind then
    let (addr, len) := a.desc.piece a.next
    x.storeWorst addr len
  else .passed

/-- The far end of a queue's next transfer can be reached: its logical tile is bound, its scale table or wire scale table is present, its allowance is not
used up (R139, R244, R335). -/
def State.farReady (s : State) (x : Tile) (e : Seat) (a : Arming) : Bool :=
  let p := s.parts.get e.part
  let d := a.desc
  match d.kind with
  | 1 => ((x.stream.binding)[bits d.target 63 56]?).join.isSome
  | 2 => decide (x.stream.outstanding [2] < p.allowance)
  | 3 => decide (x.stream.outstanding [3, 4] + x.seqr.pageReads < p.allowance)
  | 4 =>
    decide (x.stream.outstanding [3, 4] + x.seqr.pageReads < p.allowance) &&
    (((e.image.tensor d.handle).map fun w => w.fmt == codeBF16 || ((Assoc.get d.handle p.weights.tables).map fun k => k.step == p.run.step) == some true).getD false)
  | 6 => (p.wireExps d.handle).isSome
  | _ => false

/-- A queue has a transfer that it may issue, its source aside (R139). -/
def State.queueOpen (s : State) (x : Tile) (e : Seat) (k : Queue) : Bool :=
  match k.active with
  | none => false
  | some a => a.started && !k.faulted && decide (a.next < a.desc.transfers) && decide (a.outstanding.length < a.desc.depth) && s.farReady x e a

/-- The stream unit may issue: its core runs, and no retry has stopped it (R153, R469). -/
def State.streamLive (s : State) (t : TileId) : Option Seat :=
  let x := s.tiles.get t
  if x.island.state == .running && !x.island.quiesced then
    match s.seat t with
    | some e => if (s.parts.get e.part).run.halted then none else some e
    | none => none
  else none

/-- Queues whose next transfer would read a failed word become withheld, each transfer counted once (R151); a queue is withheld until every such
word has been rewritten with status passed, and an arming that has nothing left to issue is not withheld. -/
def State.withhold (s : State) (t : TileId) (e : Seat) : State :=
  (allFin 32).foldl (fun (s : State) q =>
    let x := s.tiles.get t
    let k := x.stream.queues.get q
    match k.active with
    | none => s
    | some a =>
      let failed := if a.withheld then decide (a.next < a.desc.transfers) && x.sourceStatus a != .passed
        else s.queueOpen x e k && x.sourceStatus a == .failed
      if failed == a.withheld then s
      else
        let s := s.modQueue t q fun k => { k with active := some { a with withheld := failed } }
        if failed then s.modTile t fun x => { x with stream := { x.stream with withheld := x.stream.withheld + 1 } } else s) s

/-- The ready queue that issued least recently; a tie goes to the lower number (R139). -/
def State.readyQueue (s : State) (t : TileId) (e : Seat) : Option (Fin 32) :=
  let x := s.tiles.get t
  (sortBy (fun q : Fin 32 => (x.stream.queues.get q).lastServed) ((allFin 32).filter fun q =>
    let k := x.stream.queues.get q
    s.queueOpen x e k && ((k.active.map fun a => x.sourceStatus a == .passed).getD false))).head?

/-- The stamps of a transfer at the egress gate (R154, R363): kinds 0x01, 0x04 and 0x05. -/
def Tile.stampOut (x : Tile) (e : Seat) (q : Fin 32) (a : Arming) (i : Nat) (codes : List Byte) : Tile :=
  let d := a.desc
  let (addr, len) := d.piece i
  let layer := e.stampLayer a.startCmd
  let put := fun (key : Nat) (bs : List Byte) => { x with stamp := x.stamp.stampBlock q key d.poly (d.far i) layer e.logical bs }
  match d.kind with
  | 1 => put (stampKey 5 0 (bits d.target 63 56)) (x.storeRead addr len)
  | 2 => put (stampKey 1 0 d.handle) (x.storeRead addr len)
  | 6 => put (stampKey 4 0 d.handle) codes
  | _ => x

/-- The contribution entry of a GRAD-OUT arming (R333). -/
def Arming.contribution (a : Arming) (logical : Nat) : Contribution :=
  ⟨logical, a.desc.handle, a.desc.addr, a.desc.rowLen, a.desc.rows, a.desc.stride, bits a.desc.target 31 0, a.desc.position⟩

/-- A transfer at its issue, with the packets that it has sent: writes, read requests and gradients await an answer each (R140). -/
def newTransfer (i now ps : Nat) (ps_ : List Packet) : Transfer where
  idx := i
  issued := now
  asked := (ps_.filter fun p => [1, 2, 5].contains (pktKind p)).map fun p => ⟨p, none⟩
  sawRefusal := false
  sawReplay := false
  sawSpill := false
  slow := ps

/-- What a transfer carries beside the store's bytes: for a GRAD-OUT the codes and the magnitudes of the gradient quantizer, which also
writes the residual, counts its conversions and enters the contribution; nothing for another kind (R331, R333). -/
def State.transferCodes (s : State) (t : TileId) (e : Seat) (a : Arming) (far addr len : Nat) : (List Byte × List Nat) × State :=
  let d := a.desc
  if d.kind = 6 then
    let (z, s) := s.quantizeRun t e.part d.handle (bits d.target 31 0) far addr (len / 4) 1 []
    let s := s.countConv e.part d.handle (e.image.column (e.image.layerOf e.logical 2 a.startCmd)) z.overflows z.nonfinite a.again
    let c := a.contribution e.logical
    let s := s.modPart e.part fun p => { p with reduce := { p.reduce with
      contributions := if p.reduce.contributions.contains c then p.reduce.contributions else p.reduce.contributions ++ [c] } }
    ((codeBytes 1 z.codes, z.mags), s)
  else (([], []), s)

/-- Issue the next transfer of a queue (R139, R140, R331, R333). -/
def State.issueTransfer (s : State) (t : TileId) (e : Seat) (q : Fin 32) (a : Arming) : State :=
  let i := a.next
  let d := a.desc
  let (addr, len) := d.piece i
  let far := d.far i
  let ((codes, mags), s) := s.transferCodes t e a far addr len
  let before := (s.tiles.get t).island.outPackets.length
  let s := if d.kind = 6 then s.sendCodes t e.part d.handle far 1 q.1 a.gen codes mags else s.sendTransfer t e q a i
  let sent := (s.tiles.get t).island.outPackets.drop before
  s.modTile t fun x =>
    let x := x.stampOut e q a i codes
    let u := x.stream
    { x with stream := { u with
      serves := u.serves + 1
      queues := vmod u.queues q fun k => { k with
        lastServed := u.serves + 1
        active := some { a with
          next := i + 1
          outstanding := a.outstanding ++ [newTransfer i s.time (periodPs x.island.clock) sent] } } } }

/-- TRANSFER_ISSUE (R139): failed sources are withheld, then the ready queue that issued least recently issues one transfer. -/
def execTransferIssue (t : TileId) (s : State) : Host.Outcome State Fault Refusal :=
  .next (match s.streamLive t with
    | none => s
    | some e =>
      let s := s.withhold t e
      match s.readyQueue t e with
      | none => s
      | some q =>
        match ((s.tiles.get t).stream.queues.get q).active with
        | some a => s.issueTransfer t e q a
        | none => s)

/-! ### Completion (R140, R148, R153, R159 to R161) -/

/-- A completion, acknowledgement or negative acknowledgement whose generation matches neither arming of its queue is a conservation fault (R153,
R274). -/
def State.generationFault (s : State) (t : TileId) (n : PartId) (q : Fin 32) (gen : BitVec 8) : State :=
  let s := s.report (.welt t) { s.mkReport 0x0402 3 4 (some n) (epTile t) q.1 with
    queue := some (BitVec.ofNat 5 q.1)
    gen := some gen
    detailB := BitVec.ofNat 64 gen.toNat }
  s.resetPartition n 0x0402

/-- Whether a generation is that of an arming of a queue. -/
def Queue.knows (k : Queue) (gen : BitVec 8) : Bool := k.all.any fun a => a.gen == gen

/-- The arming of a queue whose transfers may be answered: the active one, or one that a layer re-run ended. -/
def Queue.answered (k : Queue) (gen : BitVec 8) : Option Arming := (k.active.toList ++ k.ending).find? fun a => a.gen == gen

/-- Put back an arming that was answered; one that a layer re-run ended leaves with its last transfer. -/
def Queue.putBack (k : Queue) (a : Arming) : Queue :=
  if (k.active.map (·.gen)) = some a.gen then { k with active := some a }
  else { k with ending := (k.ending.map fun b => if b.gen = a.gen then a else b).filter fun b => !b.outstanding.isEmpty }

/-- A layer re-run ended the arming. -/
def Queue.ended (k : Queue) (a : Arming) : Bool := k.ending.any fun b => b.gen == a.gen

/-- The excess of a transfer over its budget in ns, when it overruns (R159): the measured time exceeds budget × 10 ns plus 8 of the longest core clock
periods in force. An excess that is no whole number of ns is rounded down (DESIGN CHOICE, log entry 73). -/
def Transfer.excess (k : Transfer) (budget now : Nat) : Option Nat :=
  let took := 1000 * (now - k.issued)
  let may := 10000 * budget + 8 * k.slow
  if budget = 0 ∨ took ≤ may then none else some ((took - may) / 1000)

/-- Report an overrun and count it (R160). -/
def State.overrun (s : State) (t : TileId) (e : Seat) (q : Fin 32) (a : Arming) (k : Transfer) (excess : Nat) : State :=
  let s := s.report (.welt t) { s.queueReport t e 0x0306 0 0 q a with
    detailA := BitVec.ofNat 32 excess
    detailB := mkWord [at_ 0 k.sawRefusal.toNat, at_ 1 k.sawReplay.toNat, at_ 2 k.sawSpill.toNat] }
  let s := s.modTile t fun x => { x with stream := { x.stream with
    overruns := x.stream.overruns + 1
    largestOverrun := BitVec.ofNat 32 (max x.stream.largestOverrun.toNat excess) } }
  s.modPart e.part fun p =>
    match Assoc.get e.logical p.replay.times with
    | some z =>
      if z.phase = 0 then p
      else
        let z := { z with overruns := vmod z.overruns (Fin.ofNat 5 (z.phase - 1)) (· + 1) }
        { p with replay := { p.replay with times := Assoc.put e.logical z p.replay.times } }
    | none => p

/-- The active arming of a queue has completed (R148, R272, R365, R461): its sum is checked, its arrival leaves, its running value goes into its layer's table, and the shadow
arming moves up. A Faulted queue sends no arrival. -/
def State.armingComplete (s : State) (t : TileId) (e : Seat) (q : Fin 32) (a : Arming) : State :=
  let k := (s.tiles.get t).stream.queues.get q
  let s := s.checkArming t e.part q a
  let s := s.modTile t fun x => { x with
    stamp := x.stamp.close q (e.stampLayer a.startCmd)
    faults := if a.desc.kind = 1 ∨ a.desc.kind = 5 then { x.faults with spent := x.faults.spent ++ [(a.cmd, a.startCmd)] } else x.faults
    stream := { x.stream with queues := vmod x.stream.queues q fun k => { k with
      active := k.shadow.map fun b => { b with started := b.startRecorded }
      shadow := none } } }
  if k.faulted then s else s.sendArrival t e 2 a.startCmd a.desc.buckle 1 1 0

/-- Data of a 4-bit GET-WEIGHT group as a staged block holds them: the image packs neighbours of one row of the weight in a byte, a staged byte
the elements of two rows in one column (R67, R88). -/
def stageNibbles (bs : List Byte) : List Byte :=
  let at_ := fun (r m : Nat) => ((bs.getD (256 * r + m / 2) 0).toNat / 16 ^ (m % 2)) % 16
  (List.range (bs.length / 512)).flatMap fun k => (List.range 512).map fun m => BitVec.ofNat 8 (at_ (2 * k) m + 16 * at_ (2 * k + 1) m)

/-- An inbound transfer has its last byte: its bytes, as they stand in the store, are stamped (R154, R363). -/
def Tile.stampIn (x : Tile) (e : Seat) (q : Fin 32) (a : Arming) (i : Nat) : Tile :=
  let d := a.desc
  let (addr, len) := d.piece i
  let bs := x.storeRead addr len
  let layer := e.stampLayer a.startCmd
  match d.kind with
  | 3 => { x with stamp := x.stamp.stampBlock q (stampKey 2 0 d.handle) d.poly (d.far i) layer e.logical bs }
  | 4 =>
    let off := if i % 65 = 0 then 0 else 64 + 4096 * (i % 65 - 1)
    let fold := (bits d.position 63 48 + i / 65) * 2 ^ 40 + bits d.position 47 32 * 2 ^ 24 + off
    { x with stamp := x.stamp.stampBlock q (stampKey 3 0 d.handle) d.poly fold layer e.logical bs }
  | _ => x

/-- Data of a read answer as the store takes them (R88). -/
def Arming.stored (a : Arming) (k : Asked) (bs : List Byte) : List Byte :=
  if a.desc.kind = 4 ∧ bits (wordAt (bytesWords k.packet.payload) 0) 15 0 ≠ 0 ∧ fmtBits (bits a.desc.position 31 24) = 4 then stageNibbles bs else bs

/-- The cause of a transfer's refusal, while it is refused (R152). -/
def Transfer.refused (k : Transfer) : Option (BitVec 4) := k.asked.findSome? (·.refused)

/-- The transfer of an arming by its index. -/
def Arming.transfer (a : Arming) (i : Nat) : Option Transfer := a.outstanding.find? fun k => k.idx == i

/-- The queue and the generation that an answer names. -/
def answerNames : Answer → Fin 32 × BitVec 8
  | .data p => (Fin.ofNat 32 (pktFlow p), pktGen p)
  | .ack w => (Fin.ofNat 32 (bits w.toNat 55 50), BitVec.ofNat 8 (bits w.toNat 49 42))

/-- An answer ends a packet that was sent: read data go to the store address that the request named, and an acknowledgement repeats the address of
what it acknowledges. -/
def answerEnds (r : Answer) (k : Asked) : Bool :=
  match r with
  | .data p => pktKind k.packet == 2 && answerAddr k.packet == BitVec.ofNat 64 (bits p.w1.toNat 31 0)
  | .ack w => (pktKind k.packet == 1 || pktKind k.packet == 5) && ackAddr k.packet.w1.toNat == bits w.toNat 41 0

/-- The core reads an answer: a packet that it has read whole from its inbound data crossing, or a word that stands in its inbound control crossing
(R36, R140). -/
def State.readAnswer (s : State) (t : TileId) (r : Answer) : Option State :=
  let x := s.tiles.get t
  match r with
  | .data p =>
    if x.stream.received.contains p && pktKind p == 3 then
      some ((s.take p).modTile t fun x => { x with stream := { x.stream with received := x.stream.received.erase p } })
    else none
  | .ack w =>
    if x.island.inCtl.contains w && bits w.toNat 63 56 == 5 then some (s.modTile t fun x => { x with island := x.island.takeIn w }) else none

/-- The last answer of a transfer has come: it completes, and its arming with its last one (R140, R148, R159). An arming that a layer re-run ended leaves its
queue with its last transfer and sends no arrival (R461). -/
def State.endTransfer (s : State) (t : TileId) (e : Seat) (q : Fin 32) (a : Arming) (tr : Transfer) : State :=
  let s := if outbound a.desc.kind then s else s.modTile t fun x => x.stampIn e q a tr.idx
  let s := match tr.excess a.desc.budget s.time with
    | some n => s.overrun t e q a tr n
    | none => s
  let a' := { a with outstanding := a.outstanding.filter fun k => k.idx != tr.idx, completed := a.completed + 1 }
  let ended := ((s.tiles.get t).stream.queues.get q).ended a
  let s := (s.modQueue t q fun k => k.putBack a').countTransfers 0 1 0
  if ended then (if a'.outstanding.isEmpty then s.checkArming t e.part q a' else s)
  else if a'.completed = a'.desc.transfers then s.armingComplete t e q a' else s

/-- TRANSFER_COMPLETE (R140, R148, R153, R159): the core reads an answer. Data are written into the store with status passed; the transfer completes when
none of its packets awaits an answer any more. An answer whose generation no arming of its queue has is a conservation fault. -/
def execTransferComplete (t : TileId) (answer : Answer) (s : State) : Host.Outcome State Fault Refusal :=
  .next (match s.seat t, s.readAnswer t answer with
    | some e, some s =>
      let x := s.tiles.get t
      let (q, gen) := answerNames answer
      let k := x.stream.queues.get q
      if x.island.state ≠ .running ∧ x.island.state ≠ .draining then s
      else if !k.knows gen then s.generationFault t e.part q gen
      else match k.answered gen with
      | none => s
      | some a =>
        match a.outstanding.findSome? fun tr => (tr.asked.find? (answerEnds answer)).map fun z => (tr, z) with
        | none => s
        | some (tr, z) =>
          let s := match answer with
            | .data p => s.modTile t fun x => x.storeWrite (bits p.w1.toNat 31 0) (a.stored z (p.payload.take (pktLength p))) .passed
            | .ack _ => s
          let tr' := { tr with asked := tr.asked.erase z }
          let a' := { a with outstanding := a.outstanding.map fun y => if y = tr then tr' else y }
          let s := s.modQueue t q fun k => k.putBack a'
          if tr'.asked.isEmpty then s.endTransfer t e q a' tr' else s
    | _, _ => s)

/-- The placer learns of a refusal (R152): the logical destination and the cause. -/
def State.reportRefusal (s : State) (e : Seat) (q : Fin 32) (a : Arming) (idx : Nat) (cause : BitVec 4) : State :=
  let d := a.desc
  let r : RefusedTransfer := ⟨e.logical, q, idx, d.kind == 1, if d.kind = 1 then bits d.target 63 56 else d.handle, cause⟩
  s.modPart e.part fun p => { p with place := { p.place with refusals := p.place.refusals ++ [r] } }

/-- TRANSFER_REFUSED (R144, R152, R153): a FENCED or stray-write negative acknowledgement that the core has read refuses the transfer whose packet it
answers. The transfer stays outstanding with its cause until its destination is republished, and is reported to the placer; once a step retry has been
called, or a layer re-run has ended its arming, it is cancelled (R461). -/
def execTransferRefused (t : TileId) (p : Packet) (s : State) : Host.Outcome State Fault Refusal :=
  .next (match s.seat t with
    | none => s
    | some e =>
      if !(s.tiles.get t).stream.received.contains p || !(pktKind p == 8 || pktKind p == 9) then s
      else
        let s := (s.take p).modTile t fun x => { x with stream := { x.stream with received := x.stream.received.erase p } }
        let ws := bytesWords p.payload
        let w := wordAt ws 0
        let q : Fin 32 := Fin.ofNat 32 (bits w 13 8)
        let gen := BitVec.ofNat 8 (bits w 21 14)
        let cause := BitVec.ofNat 4 (bits w 31 28)
        let hit := fun (z : Asked) => z.refused.isNone && pktSeq z.packet == bits w 63 32 && pktKind z.packet == bits w 27 22 && z.packet.w1.toNat == wordAt ws 1
        let k := (s.tiles.get t).stream.queues.get q
        if 32 ≤ bits w 13 8 then s
        else if !k.knows gen then s.generationFault t e.part q gen
        else match k.answered gen with
        | none => s
        | some a =>
          match a.outstanding.find? fun tr => tr.asked.any hit with
          | none => s
          | some tr =>
            let tr' := { tr with asked := tr.asked.map fun z => if hit z then { z with refused := some cause } else z, sawRefusal := true }
            let s := if tr.refused.isSome then s else s.modTile t fun x => { x with stream := { x.stream with refusals := x.stream.refusals + 1 } }
            if (s.parts.get e.part).run.halted || k.ended a then
              let a' := { a with outstanding := a.outstanding.erase tr, cancelled := a.cancelled + 1 }
              ((s.modQueue t q fun k => k.putBack a').modTile t fun x =>
                { x with stream := { x.stream with cancelled := x.stream.cancelled + 1 } }).countTransfers 0 0 1
            else
              let a' := { a with outstanding := a.outstanding.map fun y => if y = tr then tr' else y }
              (s.modQueue t q fun k => { k with active := some a' }).reportRefusal e q a tr.idx cause)

/-- Send a refused packet again: unchanged, with its generation and its stamp, to the tile that the binding table now names for a PUT-TILE (R152, R280).
The second component is the packet as it was sent. -/
def State.askAgain (s : State) (t : TileId) (e : Seat) (q : Fin 32) (a : Arming) (at_ : Nat) (z : Asked) : State × Asked :=
  let p := z.packet
  let to_ := if a.desc.kind = 1 then (((s.tiles.get t).stream.binding)[bits a.desc.target 63 56]?).join.map epTile else some (pktDst p)
  match to_ with
  | none => (s, z)
  | some dst =>
    let s := s.stamped at_ fun s => s.send (pktKind p) (pktVc p) dst (epTile t) q.1 e.part p.w1 a.gen (pktQueue p) p.payload
    (s, ⟨((s.tiles.get t).island.outPackets.getLast?).getD p, none⟩)

/-- Re-send the refused packets of a transfer that are released; the second component is the transfer after it. -/
def State.resendTransfer (s : State) (t : TileId) (e : Seat) (q : Fin 32) (a : Arming) (free : Asked → Bool) (tr : Transfer) : State × Transfer :=
  let z := tr.asked.foldl (fun (acc : State × List Asked) z =>
    if z.refused.isSome && free z then
      let (s, z') := acc.1.askAgain t e q a tr.issued z
      (s, acc.2 ++ [z'])
    else (acc.1, acc.2 ++ [z])) (s, [])
  (z.1, { tr with asked := z.2 })

/-- Re-send the refused transfers of a queue that a republished entry or route releases (R152, R364): unchanged, with their generation, and not stamped
again. Nothing is re-sent once a step retry has been called (R153). -/
def State.resendQueue (s : State) (t : TileId) (e : Seat) (free : Arming → Asked → Bool) (q : Fin 32) : State :=
  match ((s.tiles.get t).stream.queues.get q).active with
  | none => s
  | some a =>
    let go := fun (k : Transfer) => k.asked.any fun z => z.refused.isSome && free a z
    let rs := a.outstanding.filter go
    if rs.isEmpty || (s.parts.get e.part).run.halted then s else
    let z := a.outstanding.foldl (fun (acc : State × List Transfer) k =>
      if go k then
        let (s, k') := acc.1.resendTransfer t e q a (free a) k
        (s, acc.2 ++ [k'])
      else (acc.1, acc.2 ++ [k])) (s, [])
    let s := (z.1.modQueue t q fun k => { k with active := some { a with outstanding := z.2 } }).modTile t fun x =>
      { x with stream := { x.stream with resends := x.stream.resends + BitVec.ofNat 64 rs.length } }
    s.modPart e.part fun p => { p with place := { p.place with
      refusals := p.place.refusals.filter fun r => !(r.logical == e.logical && r.queue == q && rs.any fun k => k.idx == r.idx) } }

/-- No transfer that has not been refused is outstanding to a logical tile (R150). -/
def StreamUnit.freeOf (u : StreamUnit) (logical : Nat) : Bool :=
  u.queues.toList.all fun k => k.all.all fun a =>
    !(a.desc.kind == 1 && bits a.desc.target 63 56 == logical && a.outstanding.any fun z => z.refused.isNone)

/-! ### Receipt of PUT-TILE packets (R144) -/

/-- A run of bytes lies wholly inside the region of an EXPECT. -/
def Descriptor.covers (d : Descriptor) (addr n : Nat) : Bool :=
  (List.range (ceilDiv n 64)).all fun i => (List.range d.rows).any fun r =>
    let lo := d.addr + r * d.stride
    decide (lo ≤ addr + 64 * i ∧ addr + min n (64 * i + 64) ≤ lo + d.rowLen)

/-- A stray write (R144): nothing is written, the sender gets a stray-write negative acknowledgement, and the fault calls for a step retry. -/
def State.strayWrite (s : State) (t : TileId) (n : PartId) (p : Packet) : State :=
  let s := s.send 0x09 0 (pktSrc p) (epTile t) 0 n 0 (pktGen p) 0 (nackBody p 0)
  let s := s.report (.welt t) { s.mkReport 0x0305 2 3 (some n) (epTile t) (pktQueue p) with
    queue := some (BitVec.ofNat 5 (pktQueue p))
    gen := some (pktGen p)
    detailA := BitVec.ofNat 32 (pktSrc p)
    detailB := p.w1 }
  s.callRetry n 0x0305

/-- The body of a write acknowledgement (DESIGN CHOICE, log entry 15): that of a negative acknowledgement with cause 0. -/
def State.acknowledge (s : State) (vc src : Nat) (p : Packet) (omitted : Nat) : State :=
  s.send 0x04 vc (pktSrc p) src (pktFlow p) (pktPart p) 0 (pktGen p) 0 (nackBody p omitted)

/-- PUT_TILE_RECEIVE (R140, R144, R147): a PUT-TILE packet that the core has read is counted against the active EXPECT of its queue when that has started
and covers it; it is written, stamped and acknowledged, and the EXPECT completes when its region has received its length. An EXPECT whose transfers were
cancelled is filled, and counts none of them again. -/
def execPutTileReceive (t : TileId) (p : Packet) (s : State) : Host.Outcome State Fault Refusal :=
  .next (match s.seat t with
    | none => s
    | some e =>
      let x := s.tiles.get t
      if x.island.state ≠ .running ∧ x.island.state ≠ .draining ∨ pktKind p ≠ 1 ∨ x.stream.received.contains p = false then s
      else
        let s := (s.take p).modTile t fun x => { x with stream := { x.stream with received := x.stream.received.erase p } }
        let q : Fin 32 := Fin.ofNat 32 (pktQueue p)
        let addr := bits p.w1.toNat 31 0
        let n := p.payload.length
        match (x.stream.queues.get q).active with
        | none => s.strayWrite t e.part p
        | some a =>
          if !(a.desc.kind == 5 && a.started && a.desc.covers addr n) then s.strayWrite t e.part p
          else
            let layer := e.stampLayer a.startCmd
            let a' := { a with received := a.received + n }
            let s := s.modTile t fun x =>
              let x := x.storeWrite addr p.payload .passed
              { x with stamp := x.stamp.stampBlock q (stampKey 6 0 e.logical) a.desc.poly addr layer e.logical p.payload }
            let s := s.acknowledge 2 (epTile t) p 0
            if a'.received < a.desc.rows * a.desc.rowLen then s.modQueue t q fun k => { k with active := some a' }
            else
              let n := a.desc.transfers - a.cancelled
              let a' := { a' with completed := n }
              let s := (s.modQueue t q fun k => { k with active := some a' }).countTransfers 0 n 0
              if a.cancelled = 0 then s.armingComplete t e q a' else s)

end Sys2Proof.Machine
end

