-- ==== Sys2Proof/Machine/StackEngine.lean ====
section
/-! DEFINITION. The base die: writes and reads of its slices, the Skiver's sweep and the weight parts it serves, the ring maxima, and the
Burnisher's update rules with their stochastic rounding and norms (R190 to R213, R226, R466). -/

namespace Sys2Proof.Machine

/-! ### Writes and reads (R191, R197, R200, R226) -/

/-- A packet addresses a bound slice of a base die that is up, for a partition that holds the slice and an image (R280). -/
def State.stackSeat (s : State) (k : StackId) (p : Packet) : Option (Partition × Image × Placed × Nat) :=
  let n := pktPart p
  let q := s.parts.get n
  let slice : SliceId := Fin.ofNat 192 (bits p.w1.toNat 63 56)
  let off := bits p.w1.toNat 33 0
  if (s.stackDies.get k).power = .up ∧ stackOf slice = k ∧ q.slices.contains slice = true ∧ pktDst p = epStack k then
    match q.image with
    | some m => (q.placedAt m slice off).map fun z => (q, m, z, off)
    | none => none
  else none

/-- An exchange access of class 1 on the serving module's mesh is of kind 0x06: a read request has a 16-byte payload, a write one of whole 64-byte words (R350, R353). -/
def isRead (p : Packet) : Bool := pktKind p == 2 || (pktKind p == 6 && pktLength p == 16)

/-- STACK_WRITE_RECEIVE (R82, R194, R196, R197, R213, R226): the bytes are stored in a region that transfers may write, their blocks are no longer clean and take their tag,
and the write is acknowledged with the transfer's generation. -/
def execStackWriteReceive (k : StackId) (p : Packet) (s : State) : Host.Outcome State Fault Refusal :=
  .next (match s.stackSeat k p with
    | some (q, m, .byte key off, _) =>
      if (pktKind p ≠ 1 ∧ pktKind p ≠ 6) ∨ isRead p = true ∨ q.open_ m key true = false then s
      else
        let s := (s.take p).modPart (pktPart p) fun x => { x with weights := x.weights.write key off p.payload (q.writeTag m key) }
        s.acknowledge (pktVc p) (epStack k) p 0
    | _ => s)

/-- Read data for a request (R140, R281): on the VC of the transfer, to the store address or for the page that the request names. -/
def State.answer (s : State) (k : StackId) (p : Packet) (data : List Byte) : State :=
  if pktKind p = 6 then s.send 0x06 1 (pktSrc p) (epStack k) (pktFlow p) (pktPart p) (answerAddr p) (pktGen p) 0 data
  else s.send 0x03 2 (pktSrc p) (epStack k) (pktFlow p) (pktPart p) (answerAddr p) (pktGen p) 0 data

/-- STACK_READ_REQUEST (R185, R191, R194, R226): the base die answers with the bytes of the page or of a region that transfers may read; a clean block reads zeros. -/
def execStackReadRequest (k : StackId) (p : Packet) (s : State) : Host.Outcome State Fault Refusal :=
  .next (match s.stackSeat k p with
    | some (q, m, z, _) =>
      if isRead p = false then s
      else
        let n := bits (wordAt (bytesWords p.payload) 0) 31 0
        match z with
        | .page g => (s.take p).answer k p (m.pages.getD g [])
        | .byte key off => if q.open_ m key false then (s.take p).answer k p (q.weights.read key off n) else s
    | none => s)

/-! ### The sweep (R198, R199, R202) -/

/-- The element groups of a weight that lie on a stack, as local group numbers (R193, R232). -/
def Partition.groupsOn (p : Partition) (m : Image) (d : TensorDecl) (k : StackId) : List Nat :=
  (List.range (p.groupsOf d)).filter fun g =>
    ((p.locate m ⟨d.handle, .masterHigh, false⟩ (4096 * g)).map fun z => stackOf z.1) == some k

/-- A weight is narrowed: its format is not BF16 (R201). -/
def TensorDecl.swept (d : TensorDecl) : Bool := d.kind == 1 && d.fmt != codeBF16

/-- The weights of an image in the order of the first layer that names them as stationary tensor; those that none names follow (R198). -/
def Image.sweepOrder (m : Image) : List TensorDecl :=
  let ws := m.tensors.filter (·.swept)
  let named := (m.layers.map (·.stat)).eraseDups.filterMap fun h => ws.find? fun d => d.handle == h
  named ++ ws.filter fun d => !named.any fun x => x.handle == d.handle

/-- What the Skiver has done with a group. -/
def Weights.group (w : Weights) (h g : Nat) : GroupState := (Assoc.get (h, g) w.groups).getD .unswept

/-- The scale table of a weight is present for the current step. -/
def Partition.tableNow (p : Partition) (h : Nat) : Option ScaleTable :=
  (Assoc.get h p.weights.tables).bind fun k => if k.step = p.run.step then some k else none

/-- What the sweep of a group gives: its image bytes, the largest finite magnitude as an FP32 code, and its counts. -/
structure SweptGroup where
  bytes : List Byte
  maxCode : Nat
  overflows : Nat
  nonfinite : Nat

/-- Narrow the elements of a group of master highs with the scale of their slot (R69, R198). -/
def sweepGroup (fmt scaleByte : Nat) (highs : List Nat) : SweptGroup :=
  let ns := highs.map fun h => narrowWeight fmt (BitVec.ofNat 16 h) scaleByte
  { bytes := elemBytes fmt (ns.map (·.code))
    maxCode := (highs.map fun h => if (fmtBF16.decode h).dyadic.isSome then h % 2 ^ 15 * 2 ^ 16 else 0).foldl max 0
    overflows := (ns.filter (·.overflow)).length
    nonfinite := (ns.filter (·.nonfinite)).length }

/-- The base die that holds the first group of a slot: its ring holder (R193). -/
def Partition.ringHolder (p : Partition) (m : Image) (d : TensorDecl) (slot : Nat) : Option StackId :=
  let g := 8 * slot - (p.part d).1 / 2048
  (p.locate m ⟨d.handle, .masterHigh, false⟩ (4096 * g)).map fun z => stackOf z.1

/-- Combine a maximum into those of a slot (R74). -/
def Weights.combine (w : Weights) (h slot maxCode : Nat) (ovf : Bool) : Weights :=
  let old := (Assoc.get (h, slot) w.maxima).getD (0, false)
  { w with maxima := Assoc.put (h, slot) (BitVec.ofNat 32 (max old.1.toNat maxCode), old.2 || ovf) w.maxima }

/-- Send the maximum and the overflow of a slot to its ring holder on VC0 (R199; the words are the model's, DESIGN CHOICE, log entry 15); a die that holds the ring
combines at once. -/
def State.sendMaxima (s : State) (k : StackId) (n : PartId) (m : Image) (d : TensorDecl) (slot maxCode : Nat) (ovf : Bool) : State :=
  match (s.parts.get n).ringHolder m d slot with
  | some r =>
    if r = k then s.modPart n fun p => { p with weights := p.weights.combine d.handle slot maxCode ovf }
    else s.sendControl (epStack r) (epStack k) 0 n
      (wordsBytes (sealCrc [mkWord [at_ 32 d.handle, at_ 0 slot], mkWord [at_ 32 maxCode, at_ 0 ovf.toNat], 0, 0] 3))
  | none => s

/-- Sweep one group of a weight from the current master-high buffer into the narrowed image (R198, R199). A group swept again in a step, after a mismatch or in a later
attempt, counts as a re-run. -/
def State.sweepOne (s : State) (k : StackId) (n : PartId) (m : Image) (d : TensorDecl) (g : Nat) : State :=
  let p := s.parts.get n
  match p.tableNow d.handle with
  | none => s
  | some tab =>
    let first := (p.part d).1 + 2048 * g
    let slot := first / 16384
    let z := sweepGroup d.fmt (tab.byte slot) (halves (p.weights.read ⟨d.handle, .masterHigh, p.weights.bit d.handle⟩ (4096 * g) 4096))
    let again := p.weights.sweptOnce.contains (d.handle, g)
    let s := s.modPart n fun p => { p with weights :=
      { (p.weights.write ⟨d.handle, .image, false⟩ (imageBytes d.fmt * g) z.bytes none) with
        groups := Assoc.put (d.handle, g) .swept p.weights.groups
        sweptOnce := if again then p.weights.sweptOnce else p.weights.sweptOnce ++ [(d.handle, g)] } }
    let s := s.countConv n d.handle 0 z.overflows z.nonfinite again
    let s := s.modStack k fun x => { x with
      narrowed := x.narrowed + 2048
      overflows := x.overflows + BitVec.ofNat 64 z.overflows }
    s.sendMaxima k n m d slot z.maxCode (decide (0 < z.overflows))

/-- A group awaits its sweep. -/
def GroupState.due : GroupState → Bool
  | .unswept | .sweepFailed => true
  | _ => false

/-- SWEEP_BEGIN (R198, R469): with the scale tables of the step present and no retry under way, the Skiver sweeps every group of the module's shard on its stack that is due,
in order. -/
def execSweepBegin (k : StackId) (n : PartId) (s : State) : Host.Outcome State Fault Refusal :=
  .next (
    let p := s.parts.get n
    match p.image with
    | none => s
    | some m =>
      let ws := m.sweepOrder
      if p.state ≠ .loaded ∨ p.run.halted = true ∨ (s.stackDies.get k).power ≠ .up ∨ ws.any (fun d => (p.tableNow d.handle).isNone) = true then s
      else
        let s := ws.foldl (fun (s : State) d =>
          ((p.groupsOn m d k).filter fun g => (p.weights.group d.handle g).due).foldl (fun (s : State) g => s.sweepOne k n m d g) s) s
        let s := s.modPart n fun p => { p with weights := { p.weights with sweeping := true } }
        s.modStack k fun x => { x with lastSweep := BitVec.ofNat 64 p.run.step })

/-- RING_MAXIMA (R74, R199): the ring holder of a slot combines what a Skiver's sweep found. -/
def execRingMaxima (k : StackId) (n : PartId) (handle : BitVec 32) (slot : Nat) (maxCode : BitVec 32) (overflow : Bool) (s : State) :
    Host.Outcome State Fault Refusal :=
  .next (
    let p := s.parts.get n
    match p.image.bind fun m => (m.tensor handle.toNat).map fun d => (m, d) with
    | some (m, d) =>
      if p.ringHolder m d slot = some k then
        s.modPart n fun p => { p with weights := p.weights.combine handle.toNat slot maxCode.toNat overflow }
      else s
    | none => s)

/-! ### Weight parts (R200 to R202) -/

/-- The scale area of a staged block: its scale bytes in ascending K order, padded with zeros to 64 bytes (R88, R200). -/
def Partition.scaleArea (p : Partition) (w : TensorDecl) (span panel depth : Nat) : List Byte :=
  let bs := match Assoc.get w.handle p.weights.tables with
    | some tab => (List.range (min (blockScales w.fmt) (ceilDiv depth 32))).map fun i =>
        BitVec.ofNat 8 (tab.byte (weightSlot w.k (span * spanDepth w.fmt + 32 * i) (panel * panelWidth w.fmt)))
    | none => []
  (bs ++ List.replicate 64 0).take 64

/-- What a request for a weight part asks (R200, R350): the weight, the part of its block, the valid depth of the block, and the element group. -/
structure PartAsk where
  handle : Nat
  part : Nat
  depth : Nat
  group : Nat
  deriving DecidableEq, Repr

/-- The fields of a request (DESIGN CHOICE, log entry 12). -/
def partAsk (p : Packet) : PartAsk :=
  let ws := bytesWords p.payload
  ⟨bits (wordAt ws 0) 63 32, bits (wordAt ws 0) 15 0, bits (wordAt ws 0) 31 16, bits (wordAt ws 1) 31 0⟩

/-- A part lies wholly beyond the valid depth of its block (R200). -/
def PartAsk.beyond (a : PartAsk) (d : TensorDecl) : Bool := decide (0 < a.part ∧ a.depth ≤ 2048 / panelWidth d.fmt * (a.part - 1))

/-- The region that a weight's parts are read from: the current high halves in BF16, the narrowed image otherwise (R200, R201). -/
def Partition.partKey (p : Partition) (d : TensorDecl) : RegionKey :=
  if d.fmt = codeBF16 then ⟨d.handle, .masterHigh, p.weights.bit d.handle⟩ else ⟨d.handle, .image, false⟩

/-- Bytes of a part. -/
def partBytes (d : TensorDecl) : Nat := if d.fmt = codeBF16 then 4096 else imageBytes d.fmt

/-- The data of a part whose group is swept (R200, R201). -/
def Partition.partData (p : Partition) (d : TensorDecl) (group : Nat) : List Byte :=
  p.weights.read (p.partKey d) (partBytes d * (group - (p.part d).1 / 2048)) (partBytes d)

/-- The stack that holds a group of a weight in this module, or would hold it beyond the weight's end (R200, R232). -/
def Partition.partStack (p : Partition) (m : Image) (d : TensorDecl) (group : Nat) : Option StackId :=
  if p.holdsElement d (2048 * group) || decide (d.elements ≤ 2048 * group) then
    (p.locate m (p.partKey d) (partBytes d * (group - (p.part d).1 / 2048))).map fun z => stackOf z.1
  else none

/-- The Skiver of a stack serves a part (R198, R200 to R202): the scale area from the step's table, zeros beyond the valid depth, and the data of a group on this stack. A
group not yet swept is swept first and counted as a wait; nothing is served from a group marked failed, or while the step's table is absent. -/
def State.servePart (s : State) (k : StackId) (n : PartId) (m : Image) (d : TensorDecl) (a : PartAsk) : Option (List Byte) × State :=
  let p := s.parts.get n
  let g := a.group - (p.part d).1 / 2048
  let wd := panelWidth d.fmt
  let kp := roundUp 32 d.k
  if p.state ≠ .loaded ∨ d.kind ≠ 1 ∨ (s.stackDies.get k).power ≠ .up ∨ p.partStack m d a.group ≠ some k then (none, s)
  else
    let give := fun (s : State) (bs : List Byte) => (some bs, s.modStack k fun x => { x with parts := x.parts + 1 })
    if a.part = 0 then
      if d.swept && (p.tableNow d.handle).isNone then (none, s)
      else give s (p.scaleArea d (2048 * a.group % (kp * wd) / wd / spanDepth d.fmt) (2048 * a.group / (kp * wd)) a.depth)
    else if a.beyond d then give s (List.replicate (partBytes d) 0)
    else if p.weights.group d.handle g = .updateFailed then (none, s)
    else if !d.swept then give s (p.partData d a.group)
    else
      let wait := (p.weights.group d.handle g).due
      let s := if wait then (s.modStack k fun x => { x with sweepWaits := x.sweepWaits + 1 }).sweepOne k n m d g else s
      let p := s.parts.get n
      if (p.weights.group d.handle g).due then (none, s) else give s (p.partData d a.group)

/-- GET_WEIGHT_PART (R198, R200 to R202): a request for a part reaches the base die that holds its element group, and the Skiver serves it from the narrowed image. -/
def execGetWeightPart (k : StackId) (p : Packet) (s : State) : Host.Outcome State Fault Refusal :=
  .next (
    let n := pktPart p
    let a := partAsk p
    match (s.parts.get n).image.bind fun m => (m.tensor a.handle).map fun d => (m, d) with
    | some (m, d) =>
      if pktKind p ≠ 2 ∨ pktDst p ≠ epStack k then s
      else
        match s.servePart k n m d a with
        | (some bs, s) => (s.take p).answer k p bs
        | (none, s) => s
    | none => s)

/-! ### Update constants (R203, R204) -/

/-- The FP64 code of a natural number, rounded to nearest. -/
def f64OfNat (n : Nat) : Nat := (fmtFP64.ofFVal (.fin false n 0)).code
/-- The FP32 code of an FP64 code, rounded to nearest. -/
def f32OfF64 (c : Nat) : Nat := (fmtFP32.ofFVal (fmtFP64.decode c)).code

/-- The rate of a schedule step in FP64 (R204). -/
def UpdateProgram.rate (u : UpdateProgram) (q : Nat) : Nat :=
  let d := fun c => fmtFP64.decode c
  match u.points with
  | [] => 0
  | (q0, r0) :: _ =>
    let last := u.points.getLastD (q0, r0)
    if q ≤ q0 then r0.toNat
    else if last.1 ≤ q then last.2.toNat
    else
      let j := (u.points.filter fun z => decide (z.1 ≤ q)).length - 1
      let a := u.points.getD j (q0, r0)
      let b := u.points.getD (j + 1) last
      let part := (fmtFP64.div (d (f64OfNat (q - a.1))) (d (f64OfNat (b.1 - a.1)))).code
      let diff := (fmtFP64.sub (d b.2.toNat) (d a.2.toNat)).code
      (fmtFP64.add (d a.2.toNat) (d (fmtFP64.mul (d diff) (d part)).code)).code

/-- rn32(1 / (1 - β^n)) of an FP32 code β in [0, 1), with exact real arithmetic (R204). -/
def biasFactor (beta n : Nat) : Nat :=
  match fmtFP32.decode beta with
  | .fin _ m e =>
    let k := (-e).toNat * n
    let num := 2 ^ k
    let r := ratMag num (num - m ^ n) 0
    (fmtFP32.rne false r.1 r.2).code
  | _ => 0

/-- The constants of a step (R204), as FP32 codes. -/
structure UpdateConsts where
  rule : Nat
  lr : Nat
  beta1 : Nat
  beta2 : Nat
  c1 : Nat
  c2 : Nat
  a1 : Nat
  a2 : Nat
  eps : Nat
  lam : Nat
  factor : Nat

/-- The constants of a program at a schedule step. -/
def UpdateProgram.consts (u : UpdateProgram) (q : Nat) : UpdateConsts :=
  let one := fmtFP32.decode fmtFP32.oneCode
  let inv := fun (b : Word32) => (fmtFP32.sub one (fmtFP32.decode b.toNat)).code
  { rule := u.rule
    lr := f32OfF64 (u.rate q)
    beta1 := u.beta1.toNat
    beta2 := u.beta2.toNat
    c1 := inv u.beta1
    c2 := inv u.beta2
    a1 := if u.rule = 2 then biasFactor u.beta1.toNat (q + 1) else 0
    a2 := if u.rule = 2 then biasFactor u.beta2.toNat (q + 1) else 0
    eps := u.eps.toNat
    lam := u.lam.toNat
    factor := u.factor.toNat }

/-! ### Update rules (R206) and stochastic rounding (R207, R208) -/

/-- FP32 product of codes. -/
def mul32 (a b : Nat) : Nat := (fmtFP32.mul (fmtFP32.decode a) (fmtFP32.decode b)).code
/-- FP32 sum of codes. -/
def add32 (a b : Nat) : Nat := (fmtFP32.add (fmtFP32.decode a) (fmtFP32.decode b)).code
/-- FP32 fused multiply-add of codes. -/
def fma32 (a b c : Nat) : Nat := (fmtFP32.fma (fmtFP32.decode a) (fmtFP32.decode b) (fmtFP32.decode c)).code
/-- FP32 quotient of codes. -/
def div32 (a b : Nat) : Nat := (fmtFP32.div (fmtFP32.decode a) (fmtFP32.decode b)).code
/-- FP32 square root of a code. -/
def sqrt32 (a : Nat) : Nat := (fmtFP32.sqrt (fmtFP32.decode a)).code

/-- sign of R206: ±1, +0 for either zero, a NaN for a NaN. -/
def sign32 (a : Nat) : Nat :=
  match fmtFP32.decode a with
  | .nan => fmtFP32.nanCode
  | .inf n => (if n then fmtFP32.signBit else 0) + fmtFP32.oneCode
  | .fin n m _ => if m = 0 then 0 else (if n then fmtFP32.signBit else 0) + fmtFP32.oneCode

/-- What a rule gives for an element before the master is rounded: gradient, moments and update, as FP32 codes. -/
structure RuleResult where
  g : Nat
  m : Nat
  v : Nat
  s : Nat
  deriving DecidableEq, Repr

/-- The rule's sequence of FP32 operations for an element (R206). -/
def UpdateConsts.apply (c : UpdateConsts) (acc w m v : Nat) : RuleResult :=
  let g := mul32 c.factor acc
  match c.rule with
  | 1 =>
    let m := fma32 c.beta1 m (fma32 c.lam w g)
    ⟨g, m, v, mul32 c.lr m⟩
  | 2 =>
    let m := fma32 c.beta1 m (mul32 c.c1 g)
    let v := fma32 c.beta2 v (mul32 c.c2 (mul32 g g))
    let u := div32 (mul32 m c.a1) (add32 (sqrt32 (mul32 v c.a2)) c.eps)
    ⟨g, m, v, mul32 c.lr (fma32 c.lam w u)⟩
  | _ =>
    let u := sign32 (fma32 c.beta1 m (mul32 c.c1 g))
    let m := fma32 c.beta2 m (mul32 c.c2 g)
    ⟨g, m, v, mul32 c.lr (fma32 c.lam w u)⟩

/-- The word of the stochastic rounding of an element (R207). -/
def srWord (seed : Word64) (handle i q : Nat) : Nat :=
  let k := rngMix (seed + 0xD1B54A32D192ED03 * (BitVec.ofNat 64 handle + 1))
  let k := rngMix (k ^^^ BitVec.ofNat 64 i)
  ((rngMix (k + BitVec.ofNat 64 q)).extractLsb' 32 32).toNat

/-- sr(w, s) of R207 with its word: the FP32 code, and whether it moved away from zero (R208 for NaNs and infinities). -/
def stochasticRound (w s r : Nat) : Nat × Bool :=
  match fmtFP32.decode w, (fmtFP32.decode s).negate with
  | .nan, _ => (fmtFP32.nanCode, false)
  | _, .nan => (fmtFP32.nanCode, false)
  | .inf a, .inf b => if a = b then ((fmtFP32.infRes a).code, false) else (fmtFP32.nanCode, false)
  | .inf a, _ => ((fmtFP32.infRes a).code, false)
  | _, .inf b => ((fmtFP32.infRes b).code, false)
  | .fin n1 m1 e1, .fin n2 m2 e2 =>
    let x := addExact n1 m1 e1 n2 m2 e2
    let sgn := if x.1 then fmtFP32.signBit else 0
    if x.2.1 = 0 then (sgn, false)
    else
      let t := min fmtFP32.maxCode (fmtFP32.roundMag .zero x.2.1 x.2.2)
      let te : Int := (max (t / 2 ^ 23) 1 : Nat) - 127 - 23
      let tm := if t / 2 ^ 23 = 0 then t else 2 ^ 23 + t % 2 ^ 23
      let low := min x.2.2 (te - 32)
      let diff := x.2.1 * 2 ^ (x.2.2 - low).toNat - tm * 2 ^ (te - low).toNat
      let d := diff / 2 ^ (te - 32 - low).toNat
      if 2 ^ 32 ≤ d + r then (sgn + t + 1, true) else (sgn + t, false)

/-! ### The update of an element group (R205, R208, R210, R211) -/

/-- The square of a finite FP32 value in units of 2^-298; 0 for any other (R211). -/
def squareUnits (c : Nat) : Nat :=
  match fmtFP32.decode c with
  | .fin _ m e => (m * 2 ^ (e + 149).toNat) ^ 2
  | _ => 0

/-- An element index is padding (R192). -/
def TensorDecl.padding (d : TensorDecl) (i : Nat) : Bool :=
  let w := panelWidth d.fmt
  let kp := roundUp 32 d.k
  let r := i % (kp * w)
  decide (d.k ≤ r / w ∨ d.n ≤ i / (kp * w) * w + r % w)

/-- The new words of an element: master, moments, and what they add to the norms and the counts. -/
structure NewElement where
  master : Nat
  m : Nat
  v : Nat
  norms : NormSums
  nonfinite : Bool
  moved : Bool
  counted : Bool

/-- A code with every NaN written as 0x7FC0_0000 (R208). -/
def nan32 (c : Nat) : Nat := if fmtFP32.isNaN c then fmtFP32.nanCode else c

/-- Update one element (R206 to R208, R211); padding stays +0 (R192). -/
def updateElement (c : UpdateConsts) (d : TensorDecl) (seed : Word64) (q i acc w m v : Nat) : NewElement :=
  if d.padding i then ⟨0, 0, 0, ⟨0, 0, 0⟩, false, false, false⟩
  else
    let r := c.apply acc w m v
    let z := stochasticRound w r.s (srWord seed d.handle i q)
    let fin := fun x => fmtFP32.isFinite x
    ⟨z.1, nan32 r.m, nan32 r.v, ⟨squareUnits r.g, squareUnits z.1, squareUnits r.s⟩,
      !(fin z.1 && fin r.m && (c.rule != 2 || fin r.v)), z.2, true⟩

/-- Add norm sums. -/
def NormSums.add (a b : NormSums) : NormSums := ⟨a.g + b.g, a.w + b.w, a.u + b.u⟩

/-- Add a fingerprint into a die's stamp context of its key (R365, DESIGN CHOICE, log entry 14). -/
def addContext (cs : List (Nat × Fingerprint)) (die : Nat) (f : Fingerprint) : List (Nat × Fingerprint) :=
  match cs.findIdx? fun c => c.1 == die && c.2.key == f.key with
  | some i => cs.modify i fun c => (c.1, c.2.add f.a f.n)
  | none => cs ++ [(die, f)]

/-- Stamp a block of a base die or a link die (R363, R367): a block stamped again in the attempt has its old stamp subtracted. -/
def Replay.stampBlock (r : Replay) (die key poly fold layer : Nat) (bs : List Byte) : Replay :=
  if poly = 0 then r else
  let v := stamp poly fold bs
  let old := r.blocks.find? fun b => b.key == key && b.f == fold && b.layer == layer
  let f : Fingerprint := match old with
    | some b => ⟨key, poly, (v + stampModulus poly - b.s % stampModulus poly) % stampModulus poly, 0⟩
    | none => ⟨key, poly, v, 1⟩
  { r with
    fingers := addContext r.fingers die f
    blocks := (r.blocks.filter fun b => !(b.key == key && b.f == fold && b.layer == layer)) ++ [⟨key, layer, fold, v, 0⟩] }

/-- Stamp each 4 KiB block of a run of a region. -/
def Replay.stampRegion (r : Replay) (die key poly off layer : Nat) (bs : List Byte) : Replay :=
  (List.range (bs.length / 4096)).foldl (fun (r : Replay) i => r.stampBlock die key poly (off + 4096 * i) layer (slice bs (4096 * i) 4096)) r

/-- The order layers of the kinds that are not a tile's (R371). -/
def orderReduced : Nat := 0x10000
/-- Gradient reads. -/
def orderGradient : Nat := 0x10001
/-- Updates. -/
def orderUpdate : Nat := 0x10002

/-- The conditions of R205 for a group that has not been updated in the attempt, or that a mismatch sends back (R466); no retry has stopped the engine (R469). -/
def Partition.updatable (p : Partition) (m : Image) (d : TensorDecl) (g : Nat) : Bool :=
  let st := p.weights.group d.handle g
  !p.run.halted && (m.updatedWeights.contains d.handle) && m.ruleOf d != 0 && decide (g < p.groupsOf d) &&
  (st == .swept || st == .updateFailed || (d.fmt == codeBF16 && st == .unswept)) &&
  p.accFinal m d.handle ((p.part d).1 + 2048 * g) 2048

/-- Update an element group from the current buffers and the accumulation buffer into the alternate buffers (R205 to R211). -/
def State.updateGroup (s : State) (k : StackId) (n : PartId) (m : Image) (d : TensorDecl) (u : UpdateProgram) (g : Nat) : State :=
  let p := s.parts.get n
  let w := p.weights
  let cur := w.bit d.handle
  let curM := w.bit (m.stateHandle d)
  let q := p.run.step + u.offset
  let c := u.consts q
  let first := (p.part d).1 + 2048 * g
  let his := halves (w.read ⟨d.handle, .masterHigh, cur⟩ (4096 * g) 4096)
  let los := halves (w.read ⟨d.handle, .masterLow, cur⟩ (4096 * g) 4096)
  let m1 := words32 (w.read ⟨d.handle, .moment1, curM⟩ (8192 * g) 8192)
  let m2 := words32 (w.read ⟨d.handle, .moment2, curM⟩ (8192 * g) 8192)
  let accBytes := p.readAcc d.handle (8192 * g) 8192
  let accs := words32 accBytes
  let es := (List.range 2048).map fun j =>
    updateElement c d m.seed q (first + j) (accs.getD j 0) (his.getD j 0 * 2 ^ 16 + los.getD j 0) (m1.getD j 0) (m2.getD j 0)
  let hiB := es.flatMap fun x => leBytes 2 (x.master / 2 ^ 16)
  let loB := es.flatMap fun x => leBytes 2 (x.master % 2 ^ 16)
  let m1B := es.flatMap fun x => leBytes 4 x.m
  let m2B := es.flatMap fun x => leBytes 4 x.v
  let redo := w.group d.handle g == .updateFailed
  let bad := (es.filter (·.nonfinite)).length
  let s := s.modPart n fun p =>
    let tag := some p.tag
    let w := p.weights.write ⟨d.handle, .masterHigh, !cur⟩ (4096 * g) hiB tag
    let w := w.write ⟨d.handle, .masterLow, !cur⟩ (4096 * g) loB tag
    let w := w.write ⟨d.handle, .moment1, !curM⟩ (8192 * g) m1B tag
    let w := if c.rule = 2 then w.write ⟨d.handle, .moment2, !curM⟩ (8192 * g) m2B tag else w
    let sums := es.foldl (fun (a : NormSums) x => a.add x.norms) ((Assoc.get d.handle w.norms).getD ⟨0, 0, 0⟩)
    let key := fun (kind region : Nat) => stampKey kind region d.handle
    let r := p.replay.stampRegion (epStack k) (key 9 0) u.poly (8192 * g) orderGradient accBytes
    let r := r.stampRegion (epStack k) (key 7 1) u.poly (4096 * g) orderUpdate hiB
    let r := r.stampRegion (epStack k) (key 7 2) u.poly (4096 * g) orderUpdate loB
    let r := r.stampRegion (epStack k) (key 7 3) u.poly (8192 * g) orderUpdate m1B
    let r := if c.rule = 2 then r.stampRegion (epStack k) (key 7 4) u.poly (8192 * g) orderUpdate m2B else r
    { p with
      weights := { w with
        groups := Assoc.put (d.handle, g) .updated w.groups
        norms := if redo then w.norms else Assoc.put d.handle sums w.norms }
      replay := r }
  let s := s.countConv n d.handle 3 0 bad redo
  s.modStack k fun x => { x with
    updated := x.updated + BitVec.ofNat 64 (es.filter (·.counted)).length
    increments := x.increments + BitVec.ofNat 64 (es.filter (·.moved)).length
    nonfinite := x.nonfinite + BitVec.ofNat 64 bad }

/-- The weight of a group reference, in this module's part and on the stack. -/
def State.groupSeat (s : State) (k : StackId) (r : GroupRef) : Option (Image × TensorDecl) :=
  let p := s.parts.get r.part
  match p.image.bind fun m => (m.tensor r.handle.toNat).map fun d => (m, d) with
  | some (m, d) => if p.state = .loaded ∧ d.kind = 1 ∧ (p.groupsOn m d k).contains r.group = true then some (m, d) else none
  | none => none

/-- BURNISHER_UPDATE (R205 to R211). -/
def execBurnisherUpdate (k : StackId) (r : GroupRef) (s : State) : Host.Outcome State Fault Refusal :=
  .next (match s.groupSeat k r with
    | some (m, d) =>
      match m.programs[d.program - 1]? with
      | some u =>
        if (s.stackDies.get k).power = .up ∧ (s.parts.get r.part).updatable m d r.group = true then s.updateGroup k r.part m d u r.group else s
      | none => s
    | none => s)

/-- ENGINE_MISMATCH (R202, R210, R466): a mismatch of the Skiver or the Burnisher in a group marks the group, whose work is done again; a second one in the
same group and attempt fails the base die. -/
def execEngineMismatch (k : StackId) (r : GroupRef) (burnisher : Bool) (s : State) : Host.Outcome State Fault Refusal :=
  .next (match s.groupSeat k r with
    | none => s
    | some (_, d) =>
      let p := s.parts.get r.part
      let st := p.weights.group d.handle r.group
      let mark : GroupState := if burnisher then .updateFailed else .sweepFailed
      let fits := if burnisher then st == .updated || st == .updateFailed else st == .swept || st == .sweepFailed
      if !fits then s
      else
        let key := (d.handle, r.group, burnisher)
        let second := p.weights.mismatched.contains key
        let s := s.modStack k fun x => { x with mismatches := x.mismatches + 1 }
        let s := s.modPart r.part fun p => { p with weights := { p.weights with
          groups := Assoc.put (d.handle, r.group) mark p.weights.groups
          mismatched := p.weights.mismatched ++ [key] } }
        let s := s.report .entry { s.mkReport (if burnisher then 0x0113 else 0x0112) 2 (if second then 4 else 9) (some r.part) (epStack k) 0 with
          detailA := r.handle
          detailB := BitVec.ofNat 64 r.group }
        if second then s.failStack k else s)

end Sys2Proof.Machine
end

