-- ==== Sys2Proof/Machine/Records.lean ====
section
/-! DEFINITION. Saddlebag records: how a step's record is written, how a reference record is read and checked, and how two records are
compared (R369 to R378, R380, R382, R383). -/

namespace Sys2Proof.Machine

/-! ### Norms across modules (R211, R352) -/

/-- The FP64 code of an exact norm sum: one rounding, to nearest (R211). -/
def normCode (v : Nat) : Nat := (fmtFP64.ofFVal (.fin false v (-298))).code

/-- Members whose norm trailers a weight's global norms need: the other shards, or the leads of the other nodes (R352). -/
def Partition.normMembers (p : Partition) (d : TensorDecl) : List Nat :=
  let others := (List.range p.width).filter fun i => p.unitsOf d i != p.unitsOf d p.shard
  let leads := if p.byNodes d then others.filter fun i => i % p.node == 0 else others
  leads.map p.memberOf

/-- The global norms of the previous step, when every trailer has brought them; none above 64 modules (R352). -/
def Partition.globalNorms (p : Partition) (d : TensorDecl) : Option NormSums :=
  if 64 < p.settings.modules.toNat then none
  else match Assoc.get d.handle p.reduce.prevNorms with
    | none => none
    | some own =>
      (p.normMembers d).foldl (fun (a : Option NormSums) m =>
        match a, p.reduce.trailers.find? fun t => t.1 == d.handle && t.2.1 == m with
        | some x, some t => some (x.add t.2.2)
        | _, _ => none) (some own)

/-! ### Fingerprints of a step (R365, R371) -/

/-- The order layer of a stamp: the preamble counts as layer 0 (DESIGN CHOICE, log entry 14). -/
def orderOf (layer : Nat) : Nat := if layer = preambleLayer then 0 else layer

/-- The step's fingerprints, ascending by key: those of the module's units and of every layer stamp table, added per key. -/
def Replay.allFingers (r : Replay) : List Fingerprint :=
  sortBy (·.key) ((r.fingers.map (fun c => c.2) ++ r.tables.flatMap fun t => t.2.2).foldl addFinger [])

/-- The order layer of a key: the least of its blocks and tables. -/
def Replay.keyOrder (r : Replay) (key : Nat) : Nat :=
  let ls := (r.tables.filter fun t => t.2.2.any fun f => f.key == key).map (fun t => orderOf t.2.1) ++
    (r.blocks.filter fun b => b.key == key).map (fun b => orderOf b.layer)
  ls.foldl min (ls.headD 0)

/-- The block stamps of a key sorted by F, then by S (R371). -/
def Replay.keyBlocks (r : Replay) (key : Nat) : List (Nat × Nat) :=
  sortBy (·.1) (sortBy (·.2) ((r.blocks.filter fun b => b.key == key).map fun b => (b.f, b.s)))

/-! ### Writing a record (R369 to R377) -/

/-- A list of bytes padded with zeros to a multiple of `n`. -/
def padTo (n : Nat) (bs : List Byte) : List Byte := bs ++ List.replicate (roundUp n bs.length - bs.length) 0

/-- Bytes of the identity section (R370). -/
def identityBytes (p : Partition) (late : Nat) : List Byte :=
  let t := p.settings
  padTo 32 (leBytes 2 t.shardWidth.toNat ++ leBytes 2 t.expertWidth.toNat ++ leBytes 2 t.depth.toNat ++ leBytes 2 t.nodeSize.toNat ++ leBytes 2 0 ++
    leBytes 4 t.threshold.toNat ++ leBytes 1 late)

/-- A norm entry (R372). -/
def normEntry (p : Partition) (d : TensorDecl) : List Byte :=
  let units := fun i => (p.unitsOf d i).2 - (p.unitsOf d i).1
  let all := (List.range p.width).map units
  let own := (Assoc.get d.handle p.weights.norms).getD ⟨0, 0, 0⟩
  let absent := 0x7FF8000000000000
  let g := p.globalNorms d
  let glob := fun (f : NormSums → Nat) => (g.map fun z => normCode (f z)).getD absent
  wordsBytes [mkWord [at_ 32 d.handle, at_ 0 (units p.shard)], mkWord [at_ 32 (all.foldl min (all.headD 0)), at_ 0 (all.foldl max 0)],
    BitVec.ofNat 64 (normCode own.g), BitVec.ofNat 64 (normCode own.w), BitVec.ofNat 64 (normCode own.u),
    BitVec.ofNat 64 (glob (·.g)), BitVec.ofNat 64 (glob (·.w)), BitVec.ofNat 64 (glob (·.u))]

/-- A counts entry (R372). -/
def countsEntry (h : Nat) (k : Counts) : List Byte :=
  padTo 128 (leBytes 8 h ++ (k.conv.toList.flatMap (leBytes 4)) ++ (k.flags.toList.flatMap (leBytes 4)) ++ leBytes 4 k.rerunConv ++ leBytes 4 k.rerunFlags)

/-- A reduction entry (R373). -/
def reductionEntry (p : Partition) (b : Bucket) : List Byte :=
  let divs := (List.range p.width).flatMap fun i => leBytes 2 ((Assoc.get i b.divisors).getD 0)
  padTo 64 (
    wordsBytes [mkWord [at_ 32 b.handle, at_ 16 p.width, at_ 0 b.omitted.length],
      mkWord [at_ 0 (b.finals.get 0), at_ 32 (b.finals.get 1)], mkWord [at_ 0 (b.finals.get 2), at_ 32 (b.finals.get 3)],
      mkWord [at_ 32 b.carried, at_ 0 b.passResends], BitVec.ofNat 64 b.rewritten] ++
    padTo 8 divs ++
    b.omitted.flatMap fun o => leBytes 8 o.1 ++ leBytes 8 o.2.1 ++ leBytes 8 o.2.2)

/-- A tile entry (R374): times in ns are written rounded down to µs. -/
def tileEntry (l t : Nat) (k : TileTimes) : List Byte :=
  let flags := (k.phaseFlags.toList.zipIdx.map fun (f, i) => f.toNat * 16 ^ i).sum
  padTo 96 (wordsBytes [mkWord [at_ 56 l, at_ 40 t, at_ 20 flags]] ++
    k.classes.toList.flatMap (fun v => leBytes 4 (v / 1000)) ++ k.throttled.toList.flatMap (fun v => leBytes 4 (v / 1000)) ++
    k.overruns.toList.flatMap (leBytes 2))

/-- An event entry (R376). -/
def eventEntry (e : Event) : List Byte := wordsBytes [e.w0, e.w1, e.w2, e.w3]

/-- Bytes of the Saddlebag area that one kind of record may use: 128 MiB a slice, half of it in Replay and Compare modes (R195, R369). -/
def Partition.area (p : Partition) : Nat :=
  let a := p.slices.length * 2 ^ 27
  if p.replay.inForce = .replay ∨ p.replay.inForce = .compare then a / 2 else a

/-- The mode code of a record. -/
def RunMode.code : RunMode → Nat
  | .off => 0 | .record => 1 | .replay => 2 | .compare => 3

/-- The keys whose block stamps are listed, in ascending order layer and then key, up to the share of the area (R371), each with the index of its first
entry; the second component says that a key was left out. -/
def listedKeys (keys : List (Nat × Nat × Nat)) (room : Nat) : List (Nat × Nat) × Bool :=
  let (ls, _, cut) := keys.foldl (fun (a : List (Nat × Nat) × Nat × Bool) k =>
    if a.2.2 then a
    else if a.2.1 + k.2.2 ≤ room then (a.1 ++ [(k.2.1, a.2.1)], a.2.1 + k.2.2, false) else (a.1, a.2.1, true)) ([], 0, false)
  (ls, cut)

/-- The sections of a record by kind, and whether the block stamps were cut off (R370 to R376). -/
def State.recordSections (s : State) (n : PartId) (m : Image) : List (Nat × List Byte) × Bool :=
  let p := s.parts.get n
  let r := p.replay
  let fingers := r.allFingers
  let on := r.blockStamps
  let keys := sortBy (·.1) ((fingers.map fun f => (r.keyOrder f.key, f.key, (r.keyBlocks f.key).length)))
  let room := (s.parts.get n).slices.length * 2 ^ 26 * s.links.stampShare.toNat / 100 / 16
  let (listed, cut) := if on then listedKeys keys room else ([], false)
  let fb := fingers.flatMap fun f =>
    let at0 := Assoc.get f.key listed
    wordsBytes [BitVec.ofNat 64 f.key, BitVec.ofNat 64 f.a, mkWord [at_ 32 f.n, at_ 24 f.poly, at_ 0 (r.keyOrder f.key % 2 ^ 24)],
      mkWord [at_ 32 (at0.getD 0), at_ 0 (if at0.isSome then (r.keyBlocks f.key).length else 0)]]
  let bb := listed.flatMap fun k => (r.keyBlocks k.1).flatMap fun b => leBytes 8 b.1 ++ leBytes 8 b.2
  let ws := m.tensors.filter fun d => d.kind == 1
  let cs := m.tensors.flatMap fun d => countsEntry d.handle ((Assoc.get d.handle r.counts).getD Counts.zero)
  let bs := (sortBy (·.handle) p.reduce.buckets).flatMap (reductionEntry p)
  let ts := (List.range m.tiles).flatMap fun l =>
    tileEntry l (((p.physOf l).map (·.1)).getD 0xFFFF) ((Assoc.get l r.times).getD ⟨Vector.replicate 8 0, Vector.replicate 8 0, Vector.replicate 5 0, Vector.replicate 5 0, 0, []⟩)
  ([(1, identityBytes p s.collective.late.toNat), (2, fb)] ++ (if on then [(3, bb)] else []) ++
    (if ws.isEmpty then [] else [(4, ws.flatMap (normEntry p))]) ++ [(5, cs)] ++ (if p.reduce.buckets.isEmpty then [] else [(6, bs)]) ++
    [(7, ts), (8, r.events.flatMap eventEntry)], cut)

/-- Put bytes into a byte list at an offset. -/
def putAt (bs : List Byte) (off : Nat) (v : List Byte) : List Byte := bs.take off ++ v ++ bs.drop (off + v.length)

/-- The record of the present step (R369 to R377), its chain value, and whether its block stamps were cut off. The attempt, the times and the chain are
those of the commit. -/
def State.buildRecord (s : State) (n : PartId) (m : Image) (commit : Nat) : List Byte × Nat × Bool :=
  let p := s.parts.get n
  let (secs, cut) := s.recordSections n m
  let dirEnd := 64 + 16 * secs.length
  let (entries, body) := secs.foldl (fun (a : List Byte × List Byte) sec =>
    let off := (roundUp 64 dirEnd + a.2.length) / 64
    let data := padTo 64 sec.2
    (a.1 ++ wordsBytes [mkWord [at_ 56 sec.1, at_ 0 off], mkWord [at_ 32 (data.length / 64), at_ 0 (crc32c data)]], a.2 ++ data)) ([], [])
  let pages := ceilDiv (roundUp 64 dirEnd + body.length + 64) 4096
  let absent := (m.tensors.filter fun d => d.kind == 1).any fun d => (p.globalNorms d).isNone
  let head := sealCrc [
    mkWord [at_ 48 1, at_ 44 p.replay.inForce.code, at_ 40 n.1, at_ 32 p.run.attempt, at_ 0 pages],
    BitVec.ofNat 64 p.run.step, BitVec.ofNat 64 p.replay.stepStart, BitVec.ofNat 64 commit,
    mkWord [at_ 32 m.build, at_ 0 m.crc], m.seed,
    mkWord [at_ 48 p.settings.logical.toNat, at_ 32 p.settings.modules.toNat, at_ 16 m.tiles, at_ 8 secs.length,
      at_ 0 (cut.toNat + 2 * (!p.replay.blockStamps).toNat + 4 * absent.toNat)], 0] 7
  let front := putAt (List.replicate (4096 * pages - 64) 0) 0 (padTo 64 (wordsBytes head ++ entries) ++ body)
  let chain := stamp 3 p.replay.chain front
  (front ++ wordsBytes (sealCrc [BitVec.ofNat 64 p.run.step, BitVec.ofNat 64 chain, 0, 0, 0, 0, 0, 0] 7), chain, cut)

/-! ### Reading a record -/

/-- A section of a record by its kind; none where the record has none. -/
def recordSection (rec_ : List Byte) (kind : Nat) : Option (List Byte) :=
  ((List.range (field rec_ (6 * 8 + 1) 1)).find? fun i => field rec_ (64 + 16 * i + 7) 1 == kind).map fun i =>
    slice rec_ (64 * field rec_ (64 + 16 * i) 4) (64 * field rec_ (64 + 16 * i + 12) 4)

/-- The step of a record. -/
def recordStep (rec_ : List Byte) : Nat := field rec_ 8 8
/-- The chain value of a record. -/
def recordChain (rec_ : List Byte) : Nat := field rec_ (rec_.length - 56) 8

/-- A reference record passes its own checks: length, header and trailer CRCs, step in the trailer, section CRCs and the chain value that follows from the
record before it, where that one is known (R377, R380). -/
def recordSound (rec_ : List Byte) (prevChain : Option Nat) : Bool :=
  let head := bytesWords (slice rec_ 0 64)
  let tail := bytesWords (rec_.drop (rec_.length - 64))
  decide (4096 ≤ rec_.length) && rec_.length == 4096 * bits (wordAt head 0) 31 0 && crcOk head 7 && crcOk tail 7 && wordAt tail 0 == wordAt head 1 &&
  (match prevChain with
    | some c => wordAt tail 1 == stamp 3 c (rec_.take (rec_.length - 64))
    | none => true) &&
  (List.range (field rec_ 49 1)).all fun i =>
    crc32c (slice rec_ (64 * field rec_ (64 + 16 * i) 4) (64 * field rec_ (64 + 16 * i + 12) 4)) == field rec_ (64 + 16 * i + 8) 4

/-- A reference record belongs to the same image and layout: the header fields that R378 checks before comparison, and the identity section (R380). -/
def State.recordFits (s : State) (n : PartId) (m : Image) (rec_ : List Byte) : Bool :=
  let p := s.parts.get n
  let head := bytesWords (slice rec_ 0 64)
  bits (wordAt head 0) 63 48 == 1 && bits (wordAt head 0) 43 40 == n.1 && wordAt head 4 == (mkWord [at_ 32 m.build, at_ 0 m.crc]).toNat &&
  wordAt head 5 == m.seed.toNat &&
  bits (wordAt head 6) 63 16 == (mkWord [at_ 48 p.settings.logical.toNat, at_ 32 p.settings.modules.toNat, at_ 16 m.tiles]).toNat / 2 ^ 16 &&
  recordSection rec_ 1 == some (padTo 64 (identityBytes p s.collective.late.toNat))

/-- One reduction entry of a reduction section: its handle and its bytes. -/
def splitReductions : Nat → List Byte → List (Nat × List Byte)
  | 0, _ => []
  | k + 1, bs =>
    let w0 := field bs 0 8
    if bs.isEmpty ∨ w0 = 0 then []
    else
      let len := roundUp 64 (40 + roundUp 8 (2 * bits w0 31 16) + 24 * bits w0 15 0)
      (bits w0 63 32, bs.take len) :: splitReductions k (bs.drop len)

/-- The reduction entries of a record. -/
def recordReductions (rec_ : List Byte) : List (Nat × List Byte) :=
  match recordSection rec_ 6 with
  | some bs => splitReductions (bs.length / 64) bs
  | none => []

/-- The shard indices that a reduction entry omits (R373). -/
def omittedIn (e : List Byte) : List Nat :=
  let w0 := field e 0 8
  let off := 40 + roundUp 8 (2 * bits w0 31 16)
  (List.range (bits w0 15 0)).map fun i => field e (off + 24 * i) 2

/-- The reference record omits a shard index from a bucket (R346, R381). -/
def recordOmits (rec_ : List Byte) (bucket shard : Nat) : Bool :=
  (recordReductions rec_).any fun e => e.1 == bucket && (omittedIn e.2).contains shard

/-- The reference record of the present step. -/
def Partition.referenceNow (p : Partition) : Option (List Byte) := Assoc.get p.run.step p.replay.references

/-! ### Comparison (R382, R383) -/

/-- A fingerprint entry as it stands in a record. -/
structure FingerEntry where
  key : Nat
  a : Nat
  n : Nat
  poly : Nat
  order : Nat
  first : Nat
  count : Nat
  deriving DecidableEq, Repr

/-- The fingerprint entries of a record. -/
def recordFingers (rec_ : List Byte) : List FingerEntry :=
  match recordSection rec_ 2 with
  | none => []
  | some bs => ((List.range (bs.length / 32)).map fun i =>
      let w := fun j => field bs (32 * i + 8 * j) 8
      (⟨w 0, w 1, bits (w 2) 63 32, bits (w 2) 31 24, bits (w 2) 23 0, bits (w 3) 63 32, bits (w 3) 31 0⟩ : FingerEntry)).filter fun e => e.key != 0

/-- The block stamps of a fingerprint entry. -/
def recordBlocks (rec_ : List Byte) (e : FingerEntry) : List (Nat × Nat) :=
  match recordSection rec_ 3 with
  | none => []
  | some bs => (List.range e.count).map fun i => (field bs (16 * (e.first + i)) 8, field bs (16 * (e.first + i) + 8) 8)

/-- The first place at which two sorted block lists differ: F, and the two stamps (all ones where a list has none). -/
def blocksPart : List (Nat × Nat) → List (Nat × Nat) → Option (Nat × Nat × Nat)
  | [], [] => none
  | (f, v) :: _, [] => some (f, v, 2 ^ 64 - 1)
  | [], (f, v) :: _ => some (f, 2 ^ 64 - 1, v)
  | (f, v) :: xs, (g, w) :: ys =>
    if f = g then (if v = w then blocksPart xs ys else some (f, v, w))
    else if f < g then some (f, v, 2 ^ 64 - 1) else some (g, 2 ^ 64 - 1, w)

/-- A divergence as the report of R383 holds it, after the step: key, class and order layer, F, the two values, the two stamps. -/
structure Divergence where
  key : Nat
  cls : Nat
  order : Nat
  f : Nat
  ref : Nat
  own : Nat
  refS : Nat
  ownS : Nat
  deriving DecidableEq, Repr

/-- The divergence of a key between a reference and an own record, if any; where either list is cut off only the fingerprints are compared. -/
def keyDivergence (ref own : List Byte) (key : Nat) : Option Divergence :=
  let a := (recordFingers ref).find? fun e => e.key == key
  let b := (recordFingers own).find? fun e => e.key == key
  let ones := 2 ^ 64 - 1
  match a, b with
  | some x, some y =>
    let listed := x.count != 0 && y.count != 0
    let part := if listed then blocksPart (recordBlocks ref x) (recordBlocks own y) else none
    if x.a = y.a ∧ x.n = y.n ∧ x.poly = y.poly ∧ part.isNone = true then none
    else
      let (f, v, w) := part.getD (ones, ones, ones)
      some ⟨key, 1, min x.order y.order, f, x.a, y.a, v, w⟩
  | some x, none => some ⟨key, 1, x.order, ones, x.a, ones, ones, ones⟩
  | none, some y => some ⟨key, 1, y.order, ones, ones, y.a, ones, ones⟩
  | none, none => none

/-- The first field that differs between two sections made of entries of `size` bytes whose handle stands in some bytes of the entry; fields are `w` bytes wide
and those whose offset in the entry is listed are not compared. -/
def fieldDivergence (cls size hoff w : Nat) (skip : List Nat) (ref own : List Byte) : Option Divergence :=
  let n := max ref.length own.length / w
  ((List.range n).find? fun i => !skip.contains (w * i % size) && field ref (w * i) w != field own (w * i) w).map fun i =>
    let e := w * i / size * size
    ⟨field own (e + hoff) 4, cls, 0, 2 ^ 64 - 1, field ref (w * i) w, field own (w * i) w, 2 ^ 64 - 1, 2 ^ 64 - 1⟩

/-- The contract fields of a reduction entry as words: everything but the starts and deadlines (R378). -/
def reductionFields (e : List Byte) : List Nat :=
  let w0 := field e 0 8
  let divs := roundUp 8 (2 * bits w0 31 16)
  ((List.range ((40 + divs) / 8)).map fun i => field e (8 * i) 8) ++ omittedIn e

/-- The first difference between the reduction sections. -/
def reductionDivergence (ref own : List Byte) : Option Divergence :=
  let a := recordReductions ref
  let b := recordReductions own
  let hs := sortBy id ((a.map (·.1)) ++ (b.map (·.1))).eraseDups
  (hs.filterMap fun h =>
    let x := ((a.find? fun e => e.1 == h).map fun e => reductionFields e.2).getD []
    let y := ((b.find? fun e => e.1 == h).map fun e => reductionFields e.2).getD []
    ((List.range (max x.length y.length)).find? fun i => x[i]? != y[i]?).map fun i =>
      (⟨h, 4, 0, 2 ^ 64 - 1, x.getD i (2 ^ 64 - 1), y.getD i (2 ^ 64 - 1), 2 ^ 64 - 1, 2 ^ 64 - 1⟩ : Divergence)).head?

/-- The first divergence of a record from its reference (R383); none when every contract field agrees. -/
def firstDivergence (ref own : List Byte) : Option Divergence :=
  let keys := ((recordFingers ref).map (·.key) ++ (recordFingers own).map (·.key)).eraseDups
  let ds := keys.filterMap (keyDivergence ref own)
  match (sortBy (·.order) (sortBy (·.key) ds)).head? with
  | some d => some d
  | none =>
    let sec := fun (r : List Byte) k => (recordSection r k).getD []
    match fieldDivergence 2 64 4 8 [] (sec ref 4) (sec own 4) with
    | some d => some d
    | none => match fieldDivergence 3 128 0 4 [88, 92] (sec ref 5) (sec own 5) with
      | some d => some d
      | none => reductionDivergence ref own

/-- The report of R383. -/
def divergenceReport (step : Nat) (d : Divergence) : List Byte :=
  wordsBytes [BitVec.ofNat 64 step, BitVec.ofNat 64 d.key, mkWord [at_ 56 d.cls, at_ 0 d.order], BitVec.ofNat 64 d.f, BitVec.ofNat 64 d.ref,
    BitVec.ofNat 64 d.own, BitVec.ofNat 64 d.refS, BitVec.ofNat 64 d.ownS]

end Sys2Proof.Machine
end

