-- ==== Sys2Proof/Machine/Scales.lean ====
section
/-! DEFINITION. The running estimate at work: the scale tables and wire exponents of a step, the fragments that members exchange, the tables
that tiles receive, and what a commit writes into the rings (R66, R68, R72 to R78, R330, R334, R335). -/

namespace Sys2Proof.Machine

/-! ### Sequence numbers of control structures without a copy (R457) -/

/-- The next sequence number of a channel of control structures of the partition. -/
def Partition.ctl (p : Partition) (k : Nat × Nat) : Nat := (Assoc.get k p.reduce.ctlIn).getD 0

/-- Set the next sequence number of a channel. -/
def State.setCtl (s : State) (n : PartId) (k : Nat × Nat) (v : Nat) : State :=
  s.modPart n fun p => { p with reduce := { p.reduce with ctlIn := Assoc.put k (v % 2 ^ 32) p.reduce.ctlIn } }

/-- Take a control structure whose word 3 holds its CRC and its sequence number: check both, and call for a step retry when either fails
(R457, DESIGN CHOICE, log entry 15). The channel goes on after the number received. -/
def State.takeCtl (s : State) (n : PartId) (k : Nat × Nat) (ws : List Word64) (kind source : Nat) : State × Bool :=
  let want := (s.parts.get n).ctl k
  let seq := bits (wordAt ws 3) 31 0
  let sound := crcOk ws 3
  let s := s.setCtl n k (if sound then seq + 1 else want + 1)
  if sound && seq == want then (s, true)
  else (s.structFail { part := n, tile := none, held := false, kind := BitVec.ofNat 8 kind, handle := BitVec.ofNat 32 source, seq := BitVec.ofNat 32 seq }, false)

/-- Channels of control structures (DESIGN CHOICE, log entry 15): fragments, mark lists, norm trailers and node copies, sent and received. -/
def chanFragOut : Nat := 0x10000
/-- Fragments received from a member. -/
def chanFragIn (m : Nat) : Nat := 0x20000 + m
/-- Mark lists sent. -/
def chanMarkOut : Nat := 0x40000
/-- Mark lists received from the owner of a shard index. -/
def chanMarkIn (m : Nat) : Nat := 0x50000 + m
/-- Norm trailers sent to a member. -/
def chanNormOut (m : Nat) : Nat := 0x70000 + m
/-- Norm trailers received from a member. -/
def chanNormIn (m : Nat) : Nat := 0x90000 + m
/-- Node copies sent. -/
def chanCopyOut : Nat := 0xB0000
/-- Node copies received from a member. -/
def chanCopyIn (m : Nat) : Nat := 0xC0000 + m

/-! ### Slots, rings and owners (R66, R72, R330, R334, R336) -/

/-- A tensor has block scales: its format is narrow and its kind is a weight, an activation, an activation gradient, a checkpoint or a derived
operand (R63, R66). -/
def TensorDecl.scaled (d : TensorDecl) : Bool :=
  fmtNarrow d.fmt && (d.kind == 1 || d.kind == 2 || d.kind == 3 || d.kind == 5 || d.kind == 0x0B)

/-- A declared tensor other than a bucket: a bucket is declared too, and its table is that of its wire blocks (R166, R330). -/
def Image.slotTensor (m : Image) (h : Nat) : Option TensorDecl := (m.tensor h).bind fun d => if d.kind = 10 then none else some d

/-- The number of scale slots of a tensor (R66). -/
def Image.slotCount (m : Image) (d : TensorDecl) : Nat :=
  if m.weightSlots d.handle then ceilDiv d.n 512 * ceilDiv d.k 32 else ceilDiv d.k (blockSize d.blockKind)

/-- The ring of a slot; one that was never written is empty (R72). -/
def Weights.ring (w : Weights) (h slot : Nat) : List (BitVec 16) := (Assoc.get (h, slot) w.rings).getD (List.replicate 16 0xFFFF)

/-- The wire ring of a block; one that was never written is empty (R334). -/
def Reduce.ring (r : Reduce) (bucket block : Nat) : List Byte := (Assoc.get (bucket, block) r.wireRings).getD (List.replicate 16 0xFF)

/-- The chunk of a wire block: the shard index that holds the weight element of its first wire byte (R336). -/
def Partition.chunkOf (p : Partition) (m : Image) (bucket block : Nat) : Nat :=
  match m.wireElement bucket (32 * block) with
  | some (w, i) => ((m.tensor w).map fun d => p.ownerOf d i).getD 0
  | none => 0

/-- The wire exponent of a block from its ring (R334). -/
def wireExponent (ring : List Byte) (seed headroom : Nat) : Int :=
  let es := (ring.map (·.toNat)).filter (· != 0xFF)
  let c := if es.isEmpty then seed else es.foldl max 0
  clampInt (-127) 127 ((c : Int) - 127 + headroom - 7)

/-- The seed and the headroom of a bucket (R328). -/
def Image.bucketSeed (m : Image) (bucket : Nat) : Nat × Nat := (((m.rangesOf bucket).head?).map fun r => (r.seed, r.headroom)).getD (127, 0)

/-! ### Tables of a step (R68, R73, R78, R335) -/

/-- The scale bytes and the tensor shift of all slots of a tensor, computed from the rings (R73). -/
def Partition.slotScales (p : Partition) (m : Image) (d : TensorDecl) : Int × List Nat :=
  let ests := (List.range (m.slotCount d)).map fun i => ringEstimate (p.weights.ring d.handle i) d.seed
  if d.blockKind = 1 then sb16Scales ests d.headroom d.fmt else (0, ests.map fun a => mxScale a d.headroom d.fmt)

/-- The runs of scale bytes that this module contributes to the table of a weight or of a bucket: the slots of its shard, and the wire blocks
that it owns; each with its first slot or block (R335). A weight held by nodes is sent by the node's lead and known to every member of it. -/
def Partition.ownScales (p : Partition) (m : Image) (h : Nat) : List (Nat × Nat) :=
  match m.slotTensor h with
  | some d =>
    let (lo, hi) := p.unitsOf d p.shard
    let all := (p.slotScales m d).2
    (List.range (hi - lo)).map fun i => (lo + i, all.getD (lo + i) 0)
  | none =>
    let (seed, headroom) := m.bucketSeed h
    ((List.range (m.bucketBlocks h)).filter fun b => p.chunkOf m h b == p.shard).map fun b =>
      (b, (wireExponent (p.reduce.ring h b) seed headroom + 127).toNat)

/-- Cut scale bytes into runs of consecutive slots of at most 256 bytes (R335). -/
def fragmentRuns (xs : List (Nat × Nat)) : List (Nat × List Byte) :=
  xs.foldl (fun (acc : List (Nat × List Byte)) x =>
    match acc.getLast? with
    | some (f, bs) =>
      if x.1 = f + bs.length ∧ bs.length < 256 then acc.dropLast ++ [(f, bs ++ [BitVec.ofNat 8 x.2])] else acc ++ [(x.1, [BitVec.ofNat 8 x.2])]
    | none => [(x.1, [BitVec.ofNat 8 x.2])]) []

/-- A scale fragment (R335, DESIGN CHOICE, log entry 15): handle and first slot or block; sender and count; step; sequence number and CRC; then the bytes. -/
def scaleFragment (handle first sender step seq : Nat) (bs : List Byte) : List Byte :=
  wordsBytes (sealCrc ([mkWord [at_ 32 handle, at_ 0 first], mkWord [at_ 48 sender, at_ 0 bs.length], BitVec.ofNat 64 step, at_ 0 (seq % 2 ^ 32)] ++
    bytesWords bs) 3)

/-- The sequence number of a handle's next table: 0 at load, then one more for each table written (R68). -/
def Partition.nextTableSeq (p : Partition) (h : Nat) : Nat := ((Assoc.get h p.weights.tables).map fun k => k.seq + 1).getD 0

/-- Deliver a table of the partition to a tile (R68, R73). -/
def State.deliverTable (s : State) (n : PartId) (k : ScaleTable) (t : TileId) : State :=
  s.sendControl (epTile t) epControl 0 n (scaleTableBytes k.handle k.fmt k.kind k.headroom k.shift k.step k.seq k.scales)

/-- A table of the step is complete: the partition holds it, and every bound tile is sent it; that of a bucket gives its wire exponents (R330,
R335). -/
def State.completeTable (s : State) (n : PartId) (k : ScaleTable) : State :=
  let bucket := match (s.parts.get n).image with
    | some m => (m.slotTensor k.handle).isNone
    | none => false
  let s := s.modPart n fun p => { p with
    weights := { p.weights with tables := Assoc.put k.handle k p.weights.tables }
    reduce := { p.reduce with
      wireExps := if bucket then Assoc.put k.handle (k.scales.map fun b => (b.toNat : Int) - 127) p.reduce.wireExps else p.reduce.wireExps
      fragments := p.reduce.fragments.filter fun f => !(f.1 == k.step && f.2.1 == k.handle) } }
  (s.parts.get n).workers.foldl (fun (s : State) t => s.deliverTable n k t) s

/-- Assemble a table from the fragments of the step, once they cover every slot or block (R335). -/
def State.assembleTable (s : State) (n : PartId) (m : Image) (h : Nat) : State :=
  let p := s.parts.get n
  let fs := p.reduce.fragments.filter fun f => f.1 == p.run.step && f.2.1 == h
  let count := match m.slotTensor h with
    | some d => m.slotCount d
    | none => m.bucketBlocks h
  let at_ := fun i => (fs.find? fun f => decide (f.2.2.1 ≤ i ∧ i < f.2.2.1 + f.2.2.2.length)).map fun f => f.2.2.2.getD (i - f.2.2.1) 0
  let bytes := (List.range count).map at_
  if bytes.any (·.isNone) then s
  else
    let fmt := ((m.slotTensor h).map (·.fmt)).getD codeINT8
    let headroom := ((m.slotTensor h).map (·.headroom)).getD (m.bucketSeed h).2
    s.completeTable n ⟨h, fmt, 0, headroom, 0, p.run.step, p.nextTableSeq h, bytes.map (·.getD 0)⟩

/-- The other members of this module's shard group. -/
def Partition.shardGroup (p : Partition) : List Nat := ((List.range p.width).filter (· != p.shard)).map p.memberOf

/-- This module sends the scales of a weight: it is not held by nodes, or this module is the lead of its node (R335, R336). -/
def Partition.sendsScales (p : Partition) (m : Image) (h : Nat) : Bool :=
  match m.slotTensor h with
  | some d => !p.byNodes d || p.shard % p.node == 0
  | none => true

/-- SCALE_TABLE_COMPUTE (R73, R78, R334, R335): the table of a tensor, or the wire exponents of a bucket, for the step that runs next, from the rings as the
last commit left them. The scales of weights and wire blocks are exchanged as fragments among the members of the shard group; the table is complete
when the fragments cover it. -/
def execScaleTableCompute (n : PartId) (handle : BitVec 32) (s : State) : Host.Outcome State Fault Refusal :=
  .next (
    let p := s.parts.get n
    let h := handle.toNat
    match p.image with
    | none => s
    | some m =>
      let known := ((m.slotTensor h).map (·.scaled)).getD (m.bucketHandles.contains h)
      let mine := p.reduce.fragments.any fun f => f.1 == p.run.step && f.2.1 == h && (p.ownScales m h).any fun x => x.1 == f.2.2.1
      if p.state ≠ .loaded ∨ p.run.record.isSome ∨ !known ∨ (p.tableNow h).isSome ∨ mine then s
      else
        let local_ := match m.slotTensor h with
          | some d => d.kind != 1
          | none => false
        if local_ then
          match m.slotTensor h with
          | some d =>
            let (t, bs) := p.slotScales m d
            s.completeTable n ⟨h, d.fmt, d.blockKind, d.headroom, t, p.run.step, p.nextTableSeq h, bs.map (BitVec.ofNat 8)⟩
          | none => s
        else
          let runs := fragmentRuns (p.ownScales m h)
          let s := runs.foldl (fun (s : State) r =>
            let s := s.modPart n fun p => { p with reduce := { p.reduce with fragments := p.reduce.fragments ++ [(p.run.step, h, r.1, r.2)] } }
            if p.sendsScales m h then
              let seq := (s.parts.get n).ctl (chanFragOut, h)
              let s := p.shardGroup.foldl (fun (s : State) x =>
                s.sendMember n x 2 0x0A 0 (scaleFragment h r.1 p.settings.logical.toNat p.run.step seq r.2)) s
              s.setCtl n (chanFragOut, h) (seq + 1)
            else s) s
          s.assembleTable n m h)

/-- SCALE_FRAGMENT (R335): a member's fragment of a table of the present step, or of the one after it, is kept; a complete table is assembled. One
that covers slots that the module knows already brings the same bytes. -/
def execScaleFragment (n : PartId) (bytes : List Byte) (s : State) : Host.Outcome State Fault Refusal :=
  .next (
    let p := s.parts.get n
    let ws := bytesWords bytes
    let h := bits (wordAt ws 0) 63 32
    let first := bits (wordAt ws 0) 31 0
    let sender := bits (wordAt ws 1) 63 48
    let step := wordAt ws 2
    let count := bits (wordAt ws 1) 15 0
    match p.image with
    | none => s
    | some m =>
      if p.state ≠ .loaded then s
      else
        let (s, ok) := s.takeCtl n (chanFragIn sender, h) ws 0x0A epControl
        if !ok ∨ (step ≠ p.run.step ∧ step ≠ p.run.step + 1) ∨ (step = p.run.step ∧ (p.tableNow h).isSome) then s
        else
          let s := s.modPart n fun p => { p with reduce := { p.reduce with
            fragments := p.reduce.fragments ++ [(step, h, first, slice bytes 32 count)] } }
          if step = p.run.step ∧ p.run.record.isNone then s.assembleTable n m h else s)

/-- The table that bytes spell (R68). -/
def tableOfBytes (bs : List Byte) : ScaleTable :=
  let ws := bytesWords bs
  { handle := bits (wordAt ws 0) 63 32
    fmt := bits (wordAt ws 0) 31 24
    kind := bits (wordAt ws 0) 23 20
    headroom := bits (wordAt ws 0) 19 18
    shift := signed 8 (bits (wordAt ws 0) 15 8)
    step := wordAt ws 1
    seq := bits (wordAt ws 2) 63 32
    scales := slice bs 32 (bits (wordAt ws 2) 31 0) }

/-- The bytes of a table pass the checks of R68: a format and a block kind that are not reserved (R56), a tensor shift in range, which is 0 for block kind 0
(R63), the length of their slot count, zeros in the reserved fields and the padding, and the CRC. -/
def tableSound (bs : List Byte) : Bool :=
  let ws := bytesWords bs
  let count := bits (wordAt ws 2) 31 0
  decide (32 ≤ bs.length) && bs.length == scaleTableLength count && crcOk ws 3 && zeroField ws 0 17 16 && zeroField ws 0 7 0 && zeroField ws 3 31 0 &&
  fmtValid (bits (wordAt ws 0) 31 24) && decide (bits (wordAt ws 0) 23 20 ≤ 1) && bits (wordAt ws 0) 15 8 != 0x80 &&
  (bits (wordAt ws 0) 23 20 == 1 || zeroField ws 0 15 8) && (bs.drop (32 + count)).all fun b => b == 0

/-- SCALE_TABLE_RECEIVE (R68, R457): a tile checks the CRC and the sequence number of a table before it uses it. A table that fails is fetched again from the
partition's copy; a second failure in the attempt calls for a step retry. -/
def execScaleTableReceive (t : TileId) (bytes : List Byte) (s : State) : Host.Outcome State Fault Refusal :=
  .next (match s.seat t with
    | none => s
    | some e =>
      let p := s.parts.get e.part
      let k := tableOfBytes bytes
      let copy := Assoc.get k.handle p.weights.tables
      let due := (copy.map fun c => c.seq == k.seq && c.step == k.step).getD false
      if tableSound bytes && due then
        s.modTile t fun x => { x with seqr := { x.seqr with tables := Assoc.put k.handle k x.seqr.tables } }
      else
        let f : StructFail := { part := e.part, tile := some t, held := true, kind := 5, handle := BitVec.ofNat 32 k.handle, seq := BitVec.ofNat 32 k.seq }
        let second := p.run.structFails.any (sameStruct f)
        let s := s.structFail f
        match copy with
        | some c => if second then s else s.deliverTable e.part c t
        | none => s)

/-! ### What a commit writes into the rings (R75, R334) -/

/-- The rings after the commit of a step: the entry of every slot that was converted in it (R75, R76). -/
def Weights.commitRings (w : Weights) (step : Nat) : Weights :=
  { w with
    rings := w.maxima.foldl (fun (rs : List ((Nat × Nat) × List (BitVec 16))) x =>
      Assoc.put x.1 ((w.ring x.1.1 x.1.2).set (step % 16) (BitVec.ofNat 16 (ringEntry x.2.1.toNat x.2.2))) rs) w.rings
    maxima := [] }

/-- `ring_entry` of R334 for a block that this module owns, in the state in which the step leaves it. -/
def WireBlock.ringEntry (b : WireBlock) : Nat :=
  if b.fate = .carried then (clampInt 0 254 (min 254 (b.exponent + 16 + 127))).toNat
  else
    let c : Nat := if b.maxSum = 0 then 0 else (clampInt 1 254 ((Nat.log2 b.maxSum : Int) + b.exponent + 1 + 127)).toNat
    if 1 < b.pass then min (c + 1) 254 else c

/-- The wire rings after the commit of a step: the entry of every block that this module owns and reduced. -/
def Reduce.commitRings (r : Reduce) (owned : Nat → Nat → Bool) (step : Nat) : Reduce :=
  { r with wireRings := r.buckets.foldl (fun (rs : List ((Nat × Nat) × List Byte)) k =>
      (k.blocks.filter fun b => owned k.handle b.index && (b.fate == .final || b.fate == .carried)).foldl (fun (rs : List ((Nat × Nat) × List Byte)) b =>
        Assoc.put (k.handle, b.index) ((r.ring k.handle b.index).set (step % 16) (BitVec.ofNat 8 b.ringEntry)) rs) rs) r.wireRings }

end Sys2Proof.Machine
end

