-- ==== Sys2Proof/Machine/Buckets.lean ====
section
/-! DEFINITION. Bucket reduction: contributions at the bucket engine, segments along the ring, the owner's decision, scale-exceeded passes, deadlines
and late members (R326 to R347, R355). -/

namespace Sys2Proof.Machine

/-- A run of a list. -/
def cut {α : Type} (xs : List α) (off n : Nat) : List α := (xs.drop off).take n

/-! ### Buckets and their engines (R327, R330, R336) -/

/-- A wire block of a step whose contribution has not been written. -/
def freshBlock (i : Nat) : WireBlock where
  index := i
  codes := []
  mu := 0
  muKnown := false
  increase := 0
  pass := 1
  fate := .open_
  sums := []
  count := 0
  delivered := false
  exponent := 0
  maxSum := 0
  rewriteDue := false
  asked := false

/-- A bucket at the start of an attempt, with the number of its wire blocks. -/
def freshBucket (h n : Nat) : Bucket where
  handle := h
  coveredWritten := []
  full := false
  start := none
  late := false
  deadlineAt := 0
  held := []
  blocks := (List.range n).map freshBlock
  rewrites := []
  passResends := 0
  rewritten := 0
  chunksDone := []
  active := []
  divisors := []
  finals := Vector.replicate 4 0
  carried := 0
  omitted := []
  doneSent := false

/-- A bucket of the partition as the attempt has left it. -/
def Partition.bucketOr (p : Partition) (m : Image) (h : Nat) : Bucket := (p.bucket h).getD (freshBucket h (m.bucketBlocks h))

/-- Change a bucket of a partition. -/
def State.modBucket (s : State) (n : PartId) (m : Image) (h : Nat) (f : Bucket → Bucket) : State :=
  s.modPart n fun p =>
    let b := f (p.bucketOr m h)
    let bs := p.reduce.buckets
    { p with reduce := { p.reduce with
      buckets := if bs.any (fun x => x.handle == h) then bs.map (fun x => if x.handle = h then b else x) else bs ++ [b] } }

/-- Change one wire block of a bucket. -/
def Bucket.modBlock (b : Bucket) (i : Nat) (f : WireBlock → WireBlock) : Bucket :=
  { b with blocks := b.blocks.map fun w => if w.index = i then f w else w }

/-- A Loaded partition, its image and a bucket of it, with the engine's link die. -/
def State.bucketSeat (s : State) (n : PartId) (h : Nat) : Option (Partition × Image × LinkId) :=
  let p := s.parts.get n
  match p.image with
  | none => none
  | some m => if p.state ≠ .loaded then none else (m.bucketDecl h).map fun d => (p, m, p.bucketLink d.2)

/-- The chunks of a bucket, by owner shard index (R336). -/
def Partition.chunks (p : Partition) (m : Image) (h : Nat) : List Nat := ((List.range (m.bucketBlocks h)).map (p.chunkOf m h)).eraseDups

/-- A bucket's direction is reverse. -/
def Image.bucketReverse (m : Image) (h : Nat) : Bool := (((m.rangesOf h).head?).map (·.reverse)).getD false

/-- The shard index that stands `j` places after this module's in the ring, in a bucket's direction (R336). -/
def Partition.ringStep (p : Partition) (reverse : Bool) (back : Bool) : Nat :=
  let ring := p.place.ring
  let n := max 1 ring.length
  let here := (ring.findIdx? (· == p.shard)).getD 0
  ring.getD ((here + (if reverse == back then 1 else n - 1)) % n) p.shard

/-- The chunk that starts at this module: that of its predecessor in the bucket's direction (R336). -/
def Partition.ownStart (p : Partition) (m : Image) (h : Nat) : Nat := p.ringStep (m.bucketReverse h) true

/-- The members' exponents X_b of a bucket's blocks. -/
def Partition.wireX (p : Partition) (h b : Nat) : Int := ((p.wireExps h).getD []).getD b 0

/-- Operations of a link die's engine in flight (R327). -/
def State.operations (s : State) (l : LinkId) : Nat :=
  ((allFin 16).map fun n =>
    let p := s.parts.get n
    ((p.reduce.buckets.filter fun b => ((s.bucketSeat n b.handle).map fun z => z.2.2) == some l).map fun b => b.active.length).sum).sum

/-- Segments that a link die's engine holds in its segment buffers (R327). -/
def State.heldSegments (s : State) (l : LinkId) : Nat :=
  ((allFin 16).map fun n =>
    let p := s.parts.get n
    ((p.reduce.buckets.filter fun b => ((s.bucketSeat n b.handle).map fun z => z.2.2) == some l).map fun b => b.held.length).sum).sum

/-! ### Contribution entries (R333) -/

/-- A contribution entry covers a wire block. -/
def Contribution.covers (c : Contribution) (h b : Nat) : Bool :=
  c.bucket == h && decide (c.offset ≤ 32 * b ∧ 32 * b < c.offset + c.rows * (c.rowLen / 4))

/-- The store address of a wire block's elements under a contribution entry (R329). -/
def Contribution.addrOf (c : Contribution) (b : Nat) : Nat :=
  let o := 32 * b - c.offset
  let per := max 1 (c.rowLen / 4)
  c.addr + o / per * c.stride + 4 * (o % per)

/-- The logical tiles whose contribution entries cover any of some blocks. -/
def Partition.coveringTiles (p : Partition) (h : Nat) (bs : List Nat) : List Nat :=
  ((p.reduce.contributions.filter fun c => bs.any fun b => c.covers h b).map (·.logical)).eraseDups

/-- Send a one-unit control structure about a bucket to logical tiles (DESIGN CHOICE, log entry 15): a pass request or an omission notice. -/
def State.sendBucketNotice (s : State) (n : PartId) (l : LinkId) (kind h pass : Nat) (tiles : List Nat) : State :=
  let p := s.parts.get n
  tiles.foldl (fun (s : State) x =>
    match p.physOf x with
    | some t => s.sendControl (epTile t) (epLink l) 0 n (wordsBytes (sealCrc
        [mkWord [at_ 32 h, at_ 16 kind, at_ 8 pass], BitVec.ofNat 64 p.run.step, at_ 0 p.run.attempt, 0] 3))
    | none => s) s

/-! ### Start, deadline and lateness (R342 to R346) -/

/-- Replay or Compare mode is in force: no deadline is observed (R346). -/
def Replay.replaying (r : Replay) : Bool := r.inForce == .replay || r.inForce == .compare

/-- A contribution became full after its member was late: the tiles rewrite their residuals, and the last omission keeps how late it was when it is the one of this bucket (R345, R357). -/
def State.lateFull (s : State) (n : PartId) (m : Image) (l : LinkId) (h : Nat) : State :=
  let b := (s.parts.get n).bucketOr m h
  let tiles := (s.parts.get n).coveringTiles h (List.range (m.bucketBlocks h))
  let s := s.modBucket n m h fun b => { b with rewrites := tiles }
  let s := s.sendBucketNotice n l 2 h 0 tiles
  let head := wordsBytes [mkWord [at_ 32 h, at_ 16 n.1], BitVec.ofNat 64 (s.parts.get n).run.step, BitVec.ofNat 64 b.deadlineAt]
  if s.collective.lastOmission.take 24 = head then
    { s with collective := { s.collective with lastOmission := head ++ leBytes 8 (s.time - b.deadlineAt) } }
  else s

/-- This member becomes late for a bucket at a deadline (R342, R346). -/
def State.makeLate (s : State) (n : PartId) (m : Image) (l : LinkId) (h deadline : Nat) : State :=
  let p := s.parts.get n
  let b := p.bucketOr m h
  let s := s.modBucket n m h fun b => { b with
    late := true
    deadlineAt := deadline
    omitted := [(p.shard, b.start.getD s.time, deadline)] }
  let s := { s with collective := { s.collective with
    omissions := s.collective.omissions + 1
    lastOmission := wordsBytes [mkWord [at_ 32 h, at_ 16 n.1], BitVec.ofNat 64 p.run.step, BitVec.ofNat 64 deadline, 0] } }
  if b.full then s.lateFull n m l h else s

/-- A member's start for a bucket (R342); in Replay and Compare modes an omission of the record takes effect at it (R346). -/
def State.startBucket (s : State) (n : PartId) (m : Image) (l : LinkId) (h : Nat) : State :=
  let p := s.parts.get n
  if (p.bucketOr m h).start.isSome then s
  else
    let s := s.modBucket n m h fun b => { b with start := some s.time }
    let forced := p.replay.replaying && ((p.referenceNow.map fun r => recordOmits r h p.shard).getD false)
    if forced then
      let s := s.sbEvent n (mkWord [at_ 56 9]) (BitVec.ofNat 64 h) (BitVec.ofNat 64 p.shard)
      let s := s.modPart n fun p => { p with replay := { p.replay with forced := p.replay.forced + 1 } }
      s.makeLate n m l h s.time
    else s

/-! ### Segments (R337, R338, R343) -/

/-- A segment as the engine works on it: its chunk, pass, blocks in ascending order, codes, bounds and contributions. -/
structure Seg where
  chunk : Nat
  pass : Nat
  first : Nat
  blocks : List Nat
  codes : List Int
  bounds : List Nat
  count : Nat
  deriving DecidableEq, Repr

/-- The blocks of a chunk that a pass carries, ascending (R337, R340). -/
def Bucket.passBlocks (b : Bucket) (chunkOf : Nat → Nat) (chunk pass : Nat) : List Nat :=
  (b.blocks.filter fun w => chunkOf w.index == chunk && w.pass == pass).map (·.index)

/-- Blocks of a segment in a pass. -/
def segmentBlocks (pass : Nat) : Nat := if pass = 4 then 64 else 128

/-- The limit of a pass's codes. -/
def codeLimit (pass : Nat) : Int := if pass = 4 then 32767 else 127

/-- The segment trailer (R337). -/
def segmentTrailer (h attempt step seq : Nat) (g : Seg) : List Word64 :=
  let bw := (List.range 32).map fun i => mkWord [at_ 0 (g.bounds.getD (4 * i) 0), at_ 16 (g.bounds.getD (4 * i + 1) 0),
    at_ 32 (g.bounds.getD (4 * i + 2) 0), at_ 48 (g.bounds.getD (4 * i + 3) 0)]
  sealCrc ([mkWord [at_ 32 h, at_ 16 g.chunk, at_ 12 g.pass, at_ 0 g.blocks.length], mkWord [at_ 32 g.first, at_ 0 g.count], BitVec.ofNat 64 step,
    mkWord [at_ 56 attempt]] ++ bw ++ [mkWord [at_ 32 (seq % 2 ^ 32)], 0]) 37

/-- The codes that bytes spell in a pass. -/
def codesOf (pass : Nat) (bs : List Byte) : List Int :=
  if pass = 4 then (halves bs).map (signed 16) else bs.map fun b => signed 8 b.toNat

/-- The bytes of codes in a pass. -/
def bytesOfCodes (pass : Nat) (cs : List Int) : List Byte :=
  cs.flatMap fun c => leBytes (if pass = 4 then 2 else 1) (ofSigned (if pass = 4 then 16 else 8) c)

/-- This member's codes and magnitudes of some blocks are all written (R332, R338, R342). -/
def Bucket.ready (b : Bucket) (pass : Nat) (blocks : List Nat) : Bool :=
  b.full && blocks.all fun i => match b.block i with
    | some w => w.pass == pass && !w.codes.isEmpty && w.muKnown
    | none => false

/-- Add this member's contribution to a segment (R338). -/
def Seg.addOwn (g : Seg) (b : Bucket) : Seg :=
  let own := g.blocks.map fun i => b.block i
  { g with
    codes := g.codes.zipIdx.map fun (c, j) => c + (((own.getD (j / 32) none).map fun w => w.codes.getD (j % 32) 0).getD 0)
    bounds := g.bounds.zipIdx.map fun (v, i) => min (v + (((own.getD i none).map (·.mu)).getD 0)) 65535
    count := g.count + 1 }

/-- Send a segment to the next engine of its path (R337, R338). -/
def State.forwardSeg (s : State) (n : PartId) (m : Image) (h : Nat) (g : Seg) : State :=
  let p := s.parts.get n
  let lim := codeLimit g.pass
  let key := (m.bucketReverse h).toNat
  let seq := (Assoc.get key p.reduce.segOut).getD 0
  let next := p.memberOf (p.ringStep (m.bucketReverse h) false)
  let num := ((m.bucketDecl h).map (·.1)).getD 0
  let s := s.sendVia n next 2 0x06 1 (linkAddr next g.pass num (32 * g.first)) (bytesOfCodes g.pass (g.codes.map (clampInt (-lim) lim)))
  let s := s.sendMember n next 2 0x0A 0 (wordsBytes (segmentTrailer h p.run.attempt p.run.step seq g))
  s.modPart n fun p => { p with reduce := { p.reduce with segOut := Assoc.put key ((seq + 1) % 2 ^ 32) p.reduce.segOut } }

/-- The least e of at least 1 with B ≤ 127 × 2^e (R339); B is below 2^16. -/
def increaseFor (bound : Nat) : Nat := ((List.range 16).find? fun e => decide (bound ≤ 127 * 2 ^ (e + 1))).map (· + 1) |>.getD 16

/-- The owner's decision on one block (R339): `x` is the wire exponent X_b. -/
def WireBlock.decide_ (w : WireBlock) (x : Int) (sums : List Int) (bound count : Nat) : WireBlock :=
  if bound ≤ (codeLimit w.pass).toNat then { w with
    fate := .final
    sums := sums
    count := count
    exponent := x + w.increase
    maxSum := (sums.map Int.natAbs).foldl max 0 }
  else if w.pass = 4 then { w with
    fate := .carried
    sums := []
    count := 0
    exponent := x + w.increase
    maxSum := 0 }
  else { w with fate := .marked, increase := min (w.increase + increaseFor bound) (127 - x).toNat }

/-- The owner decides the blocks of a segment that has reached it (R339). -/
def State.decideSeg (s : State) (n : PartId) (m : Image) (h : Nat) (g : Seg) : State :=
  let p := s.parts.get n
  let f := fun (w : WireBlock) => match g.blocks.findIdx? (· == w.index) with
    | some i => w.decide_ (p.wireX h w.index) (cut g.codes (32 * i) 32) (g.bounds.getD i 0) g.count
    | none => w
  s.modBucket n m h fun b => { b with blocks := b.blocks.map f, divisors := Assoc.put g.chunk g.count b.divisors }

/-! ### Mark lists (R340, R341) -/

/-- A marked block in a mark list: its index, and its new increase or none for carried. -/
structure Mark where
  block : Nat
  increase : Option Nat
  deriving DecidableEq, Repr

/-- A mark list (R340, DESIGN CHOICE, log entry 15): bucket, chunk and pass; step; attempt, divisor and number of marks; sequence number and CRC; one word for each mark. -/
def markListWords (h chunk pass step attempt divisor seq : Nat) (ms : List Mark) : List Word64 :=
  sealCrc ([mkWord [at_ 32 h, at_ 16 chunk, at_ 8 pass], BitVec.ofNat 64 step, mkWord [at_ 56 attempt, at_ 32 divisor, at_ 0 ms.length],
    at_ 0 (seq % 2 ^ 32)] ++ ms.map fun k => mkWord [at_ 32 k.block, at_ 31 k.increase.isNone.toNat, at_ 0 (k.increase.getD 0)]) 3

/-- The marks of a mark list. -/
def marksOf (ws : List Word64) : List Mark :=
  (List.range (bits (wordAt ws 2) 31 0)).map fun i =>
    let w := wordAt ws (4 + i)
    ⟨bits w 63 32, if bitAt w 31 then none else some (bits w 15 0)⟩

/-- Stamp the exact sums of a chunk at its owner (R363): each aligned run of 1,024 wire bytes whose blocks are all final. -/
def Replay.stampSums (r : Replay) (die poly h : Nat) (owned : List WireBlock) : Replay :=
  ((owned.map fun w => w.index / 32).eraseDups).foldl (fun (r : Replay) j =>
    let ws := owned.filter fun w => w.index / 32 == j
    if ws.all (fun w => w.fate == .final) then
      r.stampBlock die (stampKey 8 0 h) poly (1024 * j) orderReduced (ws.flatMap fun w => w.sums.flatMap fun v => leBytes 4 (ofSigned 32 v))
    else r) r

/-- A marked block goes on to the next pass at its increase, or is carried over; a late member rewrites its whole residual anyway (R345). -/
def WireBlock.mark (w : WireBlock) (k : Mark) (pass : Nat) (late : Bool) : WireBlock :=
  match k.increase with
  | some e => { w with
      increase := e
      pass := pass + 1
      codes := []
      muKnown := false
      asked := false
      fate := .open_ }
  | none => { w with fate := .carried, rewriteDue := !late }

/-- A block whose pass has ended under a mark list; the owner has decided its final blocks already. -/
def WireBlock.endPass (w : WireBlock) (ms : List Mark) (pass : Nat) (late mine : Bool) : WireBlock :=
  match ms.find? fun k => k.block == w.index with
  | some k => w.mark k pass late
  | none => if mine then w else { w with fate := .final }

/-- Apply a mark list at this member (R340, R341): the pass of the chunk has ended; marked blocks go on to the next pass at their increase, carried ones are
carried over, the others are final, and every member counts them (R347, R357). The tiles that cover marked blocks are sent pass requests and those that cover carried ones omission
notices; a late member takes no part in later passes. -/
def State.applyMarks (s : State) (n : PartId) (m : Image) (l : LinkId) (h chunk pass divisor : Nat) (ms : List Mark) : State :=
  let p := s.parts.get n
  let mine := chunk == p.shard
  let total := ((p.bucketOr m h).passBlocks (p.chunkOf m h) chunk pass).length
  let car := (ms.filter fun k => k.increase.isNone).length
  let fin := total - ms.length
  let k : Fin 4 := Fin.ofNat 4 (pass - 1)
  let s := { s with collective := { s.collective with
    finals := vmod s.collective.finals k (· + BitVec.ofNat 64 fin)
    carried := s.collective.carried + BitVec.ofNat 64 car } }
  let s := s.modBucket n m h fun b =>
    let bs := b.blocks.map fun w => if p.chunkOf m h w.index = chunk ∧ w.pass = pass then w.endPass ms pass b.late mine else w
    let more := ms.any fun k => k.increase.isSome
    { b with
      blocks := bs
      finals := vmod b.finals k (· + fin)
      carried := b.carried + car
      active := b.active.erase (chunk, pass)
      divisors := Assoc.put chunk divisor b.divisors
      chunksDone := if more ∨ b.chunksDone.contains chunk = true then b.chunksDone else b.chunksDone ++ [chunk] }
  let b := (s.parts.get n).bucketOr m h
  let r := p.replay.stampSums (epLink l) s.links.sumPoly.toNat h (b.blocks.filter fun w => p.chunkOf m h w.index == chunk)
  let s := if mine then s.modPart n fun p => { p with replay := r } else s
  if b.late then s
  else
    let p := s.parts.get n
    let again := p.coveringTiles h ((ms.filter fun k => k.increase.isSome).map (·.block))
    let carry := p.coveringTiles h ((ms.filter fun k => k.increase.isNone).map (·.block))
    let s := s.sendBucketNotice n l 1 h (pass + 1) again
    let s := s.modBucket n m h fun b => { b with rewrites := b.rewrites ++ carry.filter fun x => !b.rewrites.contains x }
    s.sendBucketNotice n l 2 h pass carry

/-- A pass of a chunk has reached its owner in full: the mark list goes to every other member, and is applied here (R340). A list without marks says that the
chunk is final (DESIGN CHOICE, log entry 15). -/
def State.endPass (s : State) (n : PartId) (m : Image) (l : LinkId) (h chunk pass : Nat) : State :=
  let p := s.parts.get n
  let b := p.bucketOr m h
  let ws := b.blocks.filter fun w => p.chunkOf m h w.index == chunk && w.pass == pass
  if ws.isEmpty ∨ ws.any (fun w => w.fate == .open_) = true then s
  else
    let ms := (ws.filter fun w => w.fate != .final).map fun w => (⟨w.index, if w.fate = .carried then none else some w.increase⟩ : Mark)
    let divisor := (Assoc.get chunk b.divisors).getD 0
    let seq := p.ctl (chanMarkOut, h)
    let bs := wordsBytes (markListWords h chunk pass p.run.step p.run.attempt divisor seq ms)
    let s := p.shardGroup.foldl (fun (s : State) x => s.sendMember n x 2 0x0A 0 bs) s
    let s := if p.shardGroup.isEmpty then s else s.setCtl n (chanMarkOut, h) (seq + 1)
    s.applyMarks n m l h chunk pass divisor ms

/-- Run a segment at this module's engine (R338, R343): a member that is not late adds its own codes; the owner decides, any other member forwards. -/
def State.runSeg (s : State) (n : PartId) (m : Image) (l : LinkId) (h : Nat) (g : Seg) : State :=
  let p := s.parts.get n
  let b := p.bucketOr m h
  let g := if b.late then g else g.addOwn b
  let s := s.modBucket n m h fun b => { b with active := if b.active.contains (g.chunk, g.pass) then b.active else b.active ++ [(g.chunk, g.pass)] }
  if g.chunk = p.shard then (s.decideSeg n m h g).endPass n m l h g.chunk g.pass
  else s.forwardSeg n m h g

/-- A segment as its two parts spell it (R337): its blocks are those of the chunk's pass from its first block on. -/
def Partition.segOf (p : Partition) (m : Image) (h : Nat) (x : SegmentIn) : Seg :=
  let w := wordAt x.trailer
  let pass := bits (w 0) 15 12
  let chunk := bits (w 0) 31 16
  let first := bits (w 1) 63 32
  let k := bits (w 0) 7 0
  let all := (p.bucketOr m h).passBlocks (p.chunkOf m h) chunk pass
  { chunk := chunk
    pass := pass
    first := first
    blocks := (all.filter fun b => decide (first ≤ b)).take k
    codes := codesOf pass x.codes
    bounds := (List.range k).map fun i => bits (w (4 + i / 4)) (16 * (i % 4) + 15) (16 * (i % 4))
    count := bits (w 1) 31 0 }

/-- A held segment can run: this member is late, or its codes and magnitudes of the blocks are written, and the segment's pass has begun here. -/
def Bucket.canRun (b : Bucket) (g : Seg) (k : Nat) : Bool := b.late || (g.blocks.length == k && b.ready g.pass g.blocks)

/-- Run the held segments that can run, in the order of their arrival. -/
def State.runHeld (s : State) (n : PartId) (m : Image) (l : LinkId) (h : Nat) : State :=
  ((s.parts.get n).bucketOr m h).held.foldl (fun (s : State) x =>
    let p := s.parts.get n
    let g := p.segOf m h x
    if (p.bucketOr m h).canRun g (bits (wordAt x.trailer 0) 7 0) then
      (s.modBucket n m h fun b => { b with held := b.held.erase x }).runSeg n m l h g
    else s) s

/-- Start the chunk that starts at this module, in its present pass, once the contribution is ready or the member late (R338, R340, R343). -/
def State.startOwn (s : State) (n : PartId) (m : Image) (l : LinkId) (h : Nat) : State :=
  let p := s.parts.get n
  let b := p.bucketOr m h
  let chunk := p.ownStart m h
  let open_ := b.blocks.filter fun w => p.chunkOf m h w.index == chunk && w.fate == .open_
  let pass := (open_.map (·.pass)).foldl max 0
  let blocks := (open_.filter fun w => w.pass == pass).map (·.index)
  if blocks.isEmpty ∨ b.active.contains (chunk, pass) = true ∨ b.chunksDone.contains chunk = true ∨ (b.late || b.ready pass blocks) = false ∨
      64 ≤ s.operations l then s
  else
    let per := segmentBlocks pass
    let s := s.modBucket n m h fun b => { b with active := b.active ++ [(chunk, pass)] }
    (List.range (ceilDiv blocks.length per)).foldl (fun (s : State) i =>
      let bs := cut blocks (per * i) per
      s.runSeg n m l h ⟨chunk, pass, bs.headD 0, bs, List.replicate (32 * bs.length) 0, List.replicate bs.length 0, 0⟩) s

/-- What the engine can do for a bucket after an event: start its own chunk, and run what it holds. -/
def State.progress (s : State) (n : PartId) (m : Image) (l : LinkId) (h : Nat) : State :=
  let b := (s.parts.get n).bucketOr m h
  if b.start.isNone then s else (s.startOwn n m l h).runHeld n m l h

/-! ### The done arrival (R348) -/

/-- A wire block lies in this module's shard of its weight. -/
def Partition.holdsBlock (p : Partition) (m : Image) (h block : Nat) : Bool :=
  match m.wireElement h (32 * block) with
  | some (x, i) => ((m.tensor x).map fun d => p.holdsElement d i).getD false
  | none => false

/-- A collective has completed in this module: its done Buckle receives one arrival of count 1 from a link die (R258, R328, R348). -/
def State.sendDone (s : State) (n : PartId) (l : LinkId) (logicalBuckle : Nat) : State :=
  let p := s.parts.get n
  let b := p.physBuckle logicalBuckle
  let dst := match p.homeOf b with
    | some (.welt w) => some (epWelt w)
    | _ => none
  match dst with
  | some d =>
    (s.countTokens b (s.ranges.get (rangeOf b)).generation 1 0 0 0).sendBuckle (epLink l) d n ⟨1, 0, true, l.1, b, 1, (s.ranges.get (rangeOf b)).generation, 0, 0⟩
  | none => s

/-- Every chunk of a bucket has been delivered in this module and every rewrite acknowledged: the done arrival is sent, and the contribution entries end
(R333, R348). -/
def State.tryDone (s : State) (n : PartId) (m : Image) (l : LinkId) (h : Nat) : State :=
  let p := s.parts.get n
  let b := p.bucketOr m h
  let held := b.blocks.filter fun w => p.holdsBlock m h w.index
  let done := (p.chunks m h).all (fun c => b.chunksDone.contains c) && held.all (·.delivered) && b.rewrites.isEmpty &&
    b.full && !b.doneSent
  if !done then s
  else
    let s := s.modBucket n m h fun b => { b with doneSent := true }
    let s := s.modPart n fun p => { p with reduce := { p.reduce with contributions := p.reduce.contributions.filter fun c => c.bucket != h } }
    let s := s.sendDone n l ((((m.rangesOf h).head?).map (·.done)).getD 0)
    { s with collective := { s.collective with reduced := s.collective.reduced + 1 } }

/-! ### Contributions (R331, R332) -/

/-- GRADIENT_PACKET (R332, R345): the codes of pass 1 are written into the bucket tensor, and the transfer is acknowledged; the packets of a late member are
acknowledged as omitted. The last covered byte makes the bucket full. -/
def execGradientPacket (l : LinkId) (n : PartId) (p : Packet) (s : State) : Host.Outcome State Fault Refusal :=
  .next (
    let num := bits p.w1.toNat 45 32
    let off := bits p.w1.toNat 31 0
    match ((s.parts.get n).image.bind fun m => m.decls[num - 1]?) with
    | none => s
    | some d =>
      let h := bits (wordAt d.words 0) 63 32
      match s.bucketSeat n h with
      | none => s
      | some (q, m, e) =>
        if e ≠ l ∨ pktKind p ≠ 5 ∨ pktPart p ≠ n ∨ pktDst p ≠ epLink l ∨ bits p.w1.toNat 47 46 ≠ 0 ∨ d.kind ≠ 1 ∨ q.run.running = false then s
        else
          let s := s.take p
          let cs := codesOf 1 p.payload
          let was := (q.bucketOr m h).full
          let blocks := (List.range (cs.length / 32)).map (off / 32 + ·)
          let s := s.modBucket n m h fun b =>
            let seen := b.coveredWritten ++ blocks.filter fun i => !b.coveredWritten.contains i
            { b with
              coveredWritten := seen
              full := (List.range (m.bucketBlocks h)).all fun i => seen.contains i
              blocks := b.blocks.map fun w =>
                if blocks.contains w.index && w.pass == 1 then { w with codes := cut cs (32 * w.index - off) 32 } else w }
          let s := s.acknowledge 1 (epLink l) p (if (q.bucketOr m h).late then 1 else 0)
          let b := (s.parts.get n).bucketOr m h
          if was ∨ !b.full then s
          else if b.late then s.lateFull n m l h
          else (s.startBucket n m l h).progress n m l h)

/-- CONTRIBUTION_TRAILER (R331): the magnitudes of this module's contribution to some blocks in a pass. -/
def execContributionTrailer (n : PartId) (bytes : List Byte) (s : State) : Host.Outcome State Fault Refusal :=
  .next (
    let ws := bytesWords bytes
    let h := bits (wordAt ws 0) 63 32
    let first := bits (wordAt ws 0) 31 0
    let pass := bits (wordAt ws 1) 63 56
    let attempt := bits (wordAt ws 1) 55 48
    let logical := bits (wordAt ws 1) 47 32
    let count := bits (wordAt ws 1) 31 0
    match s.bucketSeat n h with
    | none => s
    | some (q, m, l) =>
      let (s, ok) := s.takeCtl n (0x200 + logical, h) ws 0x0A (((q.physOf logical).map epTile).getD epControl)
      if !ok ∨ wordAt ws 2 ≠ q.run.step ∨ attempt ≠ q.run.attempt then s
      else
        let mus := (List.range count).map fun i => if pass = 4 then field bytes (32 + 2 * i) 2 else field bytes (32 + i) 1
        let s := s.modBucket n m h fun b => { b with blocks := b.blocks.map fun w =>
          if first ≤ w.index ∧ w.index < first + count ∧ w.pass = pass then { w with mu := mus.getD (w.index - first) 0, muKnown := true } else w }
        s.progress n m l h)

/-- SEGMENT_PROCESS (R337, R338, R342, R343): with no segment, the chunk that starts at this module starts; a segment from the predecessor is checked, held
until this member's contribution is ready or the member late, and then run. Segments of an old attempt are consumed (R356). -/
def execSegmentProcess (n : PartId) (bucket : BitVec 32) (chunk : BitVec 16) (seg : Option SegmentIn) (s : State) : Host.Outcome State Fault Refusal :=
  .next (
    let h := bucket.toNat
    match s.bucketSeat n h with
    | none => s
    | some (q, m, l) =>
      match seg with
      | none => if chunk.toNat = q.ownStart m h then s.progress n m l h else s
      | some x =>
        let key := (m.bucketReverse h).toNat
        let want := (Assoc.get key q.reduce.segIn).getD 0
        let seq := bits (wordAt x.trailer 36) 63 32
        let sound := x.trailer.length == 38 && crcOk x.trailer 37
        let put := fun (s : State) (v : Nat) => s.modPart n fun p => { p with reduce := { p.reduce with segIn := Assoc.put key (v % 2 ^ 32) p.reduce.segIn } }
        if 4096 ≤ s.heldSegments l then s
        else if !(sound && seq == want && bits (wordAt x.trailer 0) 63 32 == h && bits (wordAt x.trailer 0) 31 16 == chunk.toNat) then
          (put s (if sound then seq + 1 else want + 1)).structFail
            { part := n, tile := none, held := false, kind := 0x0A, handle := BitVec.ofNat 32 epControl, seq := BitVec.ofNat 32 seq }
        else
          let s := put s (seq + 1)
          if wordAt x.trailer 2 ≠ q.run.step ∨ bits (wordAt x.trailer 3) 63 56 ≠ q.run.attempt ∨ q.run.running = false then s
          else
            let s := s.startBucket n m l h
            (s.modBucket n m h fun b => { b with held := b.held ++ [x] }).progress n m l h)

/-- MARK_LIST (R340, R341): an engine applies the owner's mark list of a chunk's pass. -/
def execMarkList (n : PartId) (bytes : List Byte) (s : State) : Host.Outcome State Fault Refusal :=
  .next (
    let ws := bytesWords bytes
    let h := bits (wordAt ws 0) 63 32
    let chunk := bits (wordAt ws 0) 31 16
    let pass := bits (wordAt ws 0) 15 8
    match s.bucketSeat n h with
    | none => s
    | some (q, m, l) =>
      let (s, ok) := s.takeCtl n (chanMarkIn chunk, h) ws 0x0A epControl
      if !ok ∨ wordAt ws 1 ≠ q.run.step ∨ bits (wordAt ws 2) 63 56 ≠ q.run.attempt ∨ chunk = q.shard then s
      else ((s.applyMarks n m l h chunk pass (bits (wordAt ws 2) 47 32) (marksOf ws)).progress n m l h).tryDone n m l h)

/-! ### Passes and rewrites at the tiles (R331, R340, R345) -/

/-- The blocks of a bucket that a logical tile has to convert again. -/
def Bucket.resendDue (b : Bucket) (cs : List Contribution) (logical : Nat) : List (WireBlock × Contribution) :=
  if b.late then [] else
  b.blocks.filterMap fun w =>
    if 1 < w.pass ∧ w.fate = .open_ ∧ w.codes.isEmpty = true ∧ w.asked = false then
      ((cs.find? fun c => c.logical == logical && c.covers b.handle w.index).map fun c => (w, c))
    else none

/-- A logical tile runs: it is bound to a tile whose core is Running. -/
def State.runningTile (s : State) (n : PartId) (logical : Nat) : Option TileId :=
  match (s.parts.get n).physOf logical with
  | some t => if (s.tiles.get t).island.state = .running then some t else none
  | none => none

/-- PASS_REQUEST (R331, R340): the stream unit converts the marked blocks that its contribution entries cover again at their new increase, rewrites their
residuals, and sends them with their contribution trailers. A tile that does not run is sent the request again (R356). -/
def execPassRequest (n : PartId) (logical : BitVec 8) (bucket : BitVec 32) (s : State) : Host.Outcome State Fault Refusal :=
  .next (
    let h := bucket.toNat
    match s.bucketSeat n h, s.runningTile n logical.toNat with
    | some (q, m, _), some t =>
      ((q.bucketOr m h).resendDue q.reduce.contributions logical.toNat).foldl (fun (s : State) x =>
        let (w, c) := x
        let off := 32 * w.index
        let (z, s) := s.quantizeRun t n h c.residual off (c.addrOf w.index) 32 w.pass [w.increase]
        let s := s.countConv n h 2 z.overflows z.nonfinite false
        let s := s.sendCodes t n h off w.pass 0 (BitVec.ofNat 8 q.run.attempt) (codeBytes w.pass z.codes) z.mags
        let s := s.modBucket n m h fun b => { (b.modBlock w.index fun w => { w with asked := true }) with
          passResends := b.passResends + 1 }
        { s with collective := { s.collective with passResends := s.collective.passResends + 1 } }) s
    | _, _ => s)

/-- The packet of a block's pass re-send, which carries the attempt as its generation (R331, R340, DESIGN CHOICE, log entry 15). -/
def State.resendPacket (s : State) (n : PartId) (m : Image) (l : LinkId) (h : Nat) (w : WireBlock) : Option Packet :=
  s.fabric.inFlight.find? fun k => pktKind k == 5 && pktPart k == n && pktDst k == epLink l && (pktGen k).toNat == (s.parts.get n).run.attempt &&
    bits k.w1.toNat 47 46 + 1 == w.pass && some (bits k.w1.toNat 45 32) == (m.bucketDecl h).map (·.1) && bits k.w1.toNat 31 0 == 32 * w.index

/-- PASS_RESEND (R331, R332, R340): the codes of a block's pass re-send are written at the engine; its magnitude comes with the contribution trailer. Once both have been
for every marked block, the chunk's next pass starts. -/
def execPassResend (n : PartId) (logical : BitVec 8) (bucket : BitVec 32) (block : Nat) (s : State) : Host.Outcome State Fault Refusal :=
  .next (
    let h := bucket.toNat
    match s.bucketSeat n h with
    | none => s
    | some (q, m, l) =>
      let b := q.bucketOr m h
      let covered := q.reduce.contributions.any fun c => c.logical == logical.toNat && c.covers h block
      match (b.block block).bind fun w => (s.resendPacket n m l h w).map fun k => (w, k) with
      | some (w, k) =>
        if !covered ∨ w.asked = false then s
        else
          let s := (s.take k).modBucket n m h fun b => b.modBlock block fun v => { v with
            codes := codesOf w.pass k.payload
            asked := false }
          s.progress n m l h
      | none => s)

/-- The deadline of a bucket in ns (R328, R342, R357). -/
def State.bucketDeadline (s : State) (m : Image) (h : Nat) : Nat :=
  let d := (((m.rangesOf h).head?).map (·.deadline)).getD 0
  if d = 0 then 1000 * s.collective.deadline.toNat else 10000 * d

/-- BUCKET_DEADLINE (R342, R343, R345, R346): a member whose contribution is not full at its deadline is late for the bucket. There is no deadline in a shard group of one
member, under setting 1, and in Replay and Compare modes. -/
def execBucketDeadline (n : PartId) (bucket : BitVec 32) (s : State) : Host.Outcome State Fault Refusal :=
  .next (
    let h := bucket.toNat
    match s.bucketSeat n h with
    | none => s
    | some (q, m, l) =>
      let b := q.bucketOr m h
      match b.start with
      | some st =>
        if b.full ∨ b.late ∨ s.collective.late ≠ 0 ∨ q.replay.replaying = true ∨ q.width ≤ 1 then s
        else (s.makeLate n m l h (st + s.bucketDeadline m h)).progress n m l h
      | none => s)

/-- v rounded to BF16 for a run of elements of one block (R345). -/
def State.rewriteBlock (s : State) (t : TileId) (n : PartId) (c : Contribution) (block : Nat) : State :=
  let p := s.parts.get n
  let off := 32 * block
  let gs := words32 ((s.tiles.get t).storeRead (c.addrOf block) 128)
  let bit := p.weights.bit c.residual
  let rs := halves (p.weights.read ⟨c.residual, .data, bit⟩ (2 * off) 64)
  let bs := (gs.zipWith wireValue rs).flatMap fun v => leBytes 2 (fmtBF16.ofFVal v).code
  s.modPart n fun p => { p with weights := p.weights.write ⟨c.residual, .data, !bit⟩ (2 * off) bs (some p.tag) }

/-- The blocks of a bucket whose residuals an omission notice has a logical tile rewrite: all that it covers when the member is late, else those
carried (R345). -/
def Bucket.rewriteList (b : Bucket) (cs : List Contribution) (logical : Nat) : List (Nat × Contribution) :=
  b.blocks.filterMap fun w =>
    if b.late ∨ w.rewriteDue = true then
      ((cs.find? fun c => c.logical == logical && c.covers b.handle w.index).map fun c => (w.index, c))
    else none

/-- OMISSION_NOTICE (R345): the tile rereads its source and writes rn_bf16(v) into the residual elements that the notice calls for, and acknowledges. -/
def execOmissionNotice (n : PartId) (logical : BitVec 8) (bucket : BitVec 32) (s : State) : Host.Outcome State Fault Refusal :=
  .next (
    let h := bucket.toNat
    match s.bucketSeat n h, s.runningTile n logical.toNat with
    | some (q, m, l), some t =>
      let b := q.bucketOr m h
      if !b.rewrites.contains logical.toNat then s
      else
        let xs := b.rewriteList q.reduce.contributions logical.toNat
        let s := xs.foldl (fun (s : State) x => s.rewriteBlock t n x.2 x.1) s
        let count := 32 * xs.length
        let s := s.modBucket n m h fun b => { b with
          rewrites := b.rewrites.erase logical.toNat
          rewritten := b.rewritten + count
          blocks := b.blocks.map fun w => if xs.any (fun x => x.1 == w.index) then { w with rewriteDue := false } else w }
        let s := { s with collective := { s.collective with rewrites := s.collective.rewrites + BitVec.ofNat 64 count } }
        s.tryDone n m l h
    | _, _ => s)

/-- The pass of an operation of a bucket at this module's engine that has not ended: one pass of a chunk, or a node copy that has not come (R327, R355). -/
def Partition.waitingPass (p : Partition) (m : Image) (h : Nat) : Option Nat :=
  let b := p.bucketOr m h
  match b.active with
  | (_, pass) :: _ => some pass
  | [] =>
    (b.blocks.find? fun w => p.holdsBlock m h w.index && p.chunkOf m h w.index != p.shard && b.chunksDone.contains (p.chunkOf m h w.index) &&
      w.fate == .final && w.sums.isEmpty).map (·.pass)

/-- RING_TIMEOUT (R355, R459): an operation of the engine received nothing for the ring timeout. -/
def execRingTimeout (l : LinkId) (n : PartId) (bucket : BitVec 32) (s : State) : Host.Outcome State Fault Refusal :=
  .next (
    let h := bucket.toNat
    match s.bucketSeat n h with
    | none => s
    | some (q, m, e) =>
      match q.waitingPass m h with
      | none => s
      | some pass =>
        if e ≠ l then s
        else
          let s := { s with collective := { s.collective with timeouts := s.collective.timeouts + 1 } }
          let s := s.report (.link l) { s.mkReport 0x0307 2 3 (some n) (epLink l) 0 with
            detailA := bucket
            detailB := BitVec.ofNat 64 pass }
          s.callRetry n 0x0307)

end Sys2Proof.Machine
end

