-- ==== Sys2Proof/Machine/VectorEngine.lean ====
section
/-! DEFINITION. The vector engine: elementwise functions, conversions, reductions, transposes, loads and stores, generators and lane flags
(R113 to R138). An operation reads every operand as earlier operations left it (DEDUCED, log entry 10). -/

namespace Sys2Proof.Machine

/-- The vector list. -/
def vecCtx : CtxId := 1
/-- Class and opcode of VEC (R172). -/
def vecClass : Nat := 0x21

/-! ### Rows read and written -/

/-- The row status of a list of rows (R137). -/
def VectorEngine.worstOf (v : VectorEngine) (rs : List (Nat × Nat)) : CheckStatus :=
  rs.foldl (fun c r => c.worst (v.row r.1 r.2).status) .passed

/-- No row of a list holds INT32 results (R119). -/
def VectorEngine.noInt (v : VectorEngine) (rs : List (Nat × Nat)) : Bool := rs.all fun r => (v.row r.1 r.2).kind != 1

/-- Write some words of a register row by lane; the row takes kind 0 and no exponent (R114). The manual names no kind for a row that takes FP64 values, pairs or the
indices of RMAX and RMIN: it takes kind 0 too (DESIGN CHOICE, log entry 68). -/
def VectorEngine.putWords (v : VectorEngine) (reg r : Nat) (ws : List (Nat × Nat)) (st : CheckStatus) : VectorEngine :=
  let x := v.row reg r
  v.setRow reg r
    { words := ws.foldl (fun (a : Vector Word32 512) w => a.set (w.1 % 512) (BitVec.ofNat 32 w.2) (Nat.mod_lt _ (by decide))) x.words
      kind := 0
      exponent := 0
      status := st }

/-- Write a whole register row. -/
def VectorEngine.putRow (v : VectorEngine) (reg r kind : Nat) (ws : Vector Word32 512) (st : CheckStatus) : VectorEngine :=
  v.setRow reg r { words := ws, kind := BitVec.ofNat 2 kind, exponent := 0, status := st }

/-- Flags of some lanes as a vector over the lanes. -/
def laneFlagsOf (fs : List (Nat × BitVec 4)) : Vector (BitVec 4) 512 :=
  fs.foldl (fun (a : Vector (BitVec 4) 512) w => vmod a (Fin.ofNat 512 w.1) fun x => x ||| w.2) (Vector.replicate 512 0)

/-- A layer's first vector command marks what a re-run of the layer restores (R461). -/
def State.markLayer (s : State) (t : TileId) (e : Seat) : State :=
  match s.layerNow t vecCtx e with
  | none => s
  | some n => s.modTile t fun x =>
    if x.vec.marks.any fun k => k.layer == n then x
    else { x with vec := { x.vec with marks := x.vec.marks ++ [⟨n, x.vec.gens, x.vec.laneFlags⟩] } }

/-- Run a vector command (R116, R119, R182): malformed fields and order faults first, then its effect, given the status that its results
await; it completes. -/
def State.vector (s : State) (t : TileId) (i : Instr) (ok : Bool) (kinds : VectorEngine → Bool) (body : Seat → CheckStatus → State → State) :
    Host.Outcome State Fault Refusal :=
  .next (s.command t vecCtx i fun e s =>
    if !ok then s.malformed t vecCtx e vecClass 8
    else if !kinds (s.tiles.get t).vec then s.orderFault t vecCtx e vecClass
    else (body e (.pending [s.opOf t]) (s.markLayer t e)).issue t vecCtx e true)

/-- Change a tile's vector engine. -/
def State.modVec (s : State) (t : TileId) (f : VectorEngine → VectorEngine) : State := s.modTile t fun x => { x with vec := f x.vec }

/-! ### Elementwise functions (R117 to R120) -/

/-- The rows that an elementwise operation reads for row `r` (R115, R118): in FP64 a broadcast row of B has its second half beside it. -/
def opReads (o : VecOp) (readsB readsC : Bool) (r : Nat) : List (Nat × Nat) :=
  [(o.a.toNat, r)] ++ (if readsB then [(o.b.toNat, (opB o r 0).1)] else []) ++
  (if readsB ∧ o.prec = 2 ∧ o.bcast = 1 then [(o.b.toNat, o.brow.toNat + 1)] else []) ++ (if readsC then [(o.c.toNat, r)] else [])

/-- The rows that the operation reads over all its selected rows. -/
def opReadsAll (o : VecOp) (readsB readsC : Bool) : List (Nat × Nat) := (opRows o).flatMap fun r => opReads o readsB readsC r

/-- One FP32 row of an elementwise function. -/
def VectorEngine.elemRow (v : VectorEngine) (o : VecOp) (aferarel : Bool) (f : LaneFn) (r : Nat) : Vector FRes 512 :=
  Vector.ofFn fun j =>
    let b := opB o r j.1
    let x := f fmtFP32 (v.word o.a.toNat r j.1) (v.word o.b.toNat b.1 b.2) (v.word o.c.toNat r j.1)
    ⟨aferarelNaN aferarel x.code, x.flags⟩

/-- One FP64 row of an elementwise function, by its FP64 row number. -/
def VectorEngine.elemWide (v : VectorEngine) (o : VecOp) (f : LaneFn) (i : Nat) : Vector FRes 512 :=
  Vector.ofFn fun j =>
    let bi := if o.bcast = 1 then o.brow.toNat / 2 else i
    f fmtFP64 (v.wide o.a.toNat i j.1) (v.wide o.b.toNat bi j.1) (v.wide o.c.toNat i j.1)

/-- The low or the high words of a row of results. -/
def resWords (rs : Vector FRes 512) (hi : Bool) : Vector Word32 512 :=
  rs.map fun r => BitVec.ofNat 32 (if hi then r.code / 2 ^ 32 else r.code)

/-- The lane flags of some rows of results. -/
def resFlags (rows : List (Vector FRes 512)) : Vector (BitVec 4) 512 :=
  rows.foldl (fun (a : Vector (BitVec 4) 512) rs => Vector.ofFn fun j => a.get j ||| (rs.get j).flags.toBits) (Vector.replicate 512 0)

/-- The engine after an elementwise function over the selected rows. -/
def VectorEngine.elementwise (v : VectorEngine) (o : VecOp) (readsB readsC aferarel : Bool) (f : LaneFn) (st : CheckStatus) : VectorEngine :=
  if o.prec = 2 then
    let is := (List.range ((o.count.toNat + 1) / 2)).map (o.first.toNat / 2 + ·)
    let outs := is.map fun i => (i, v.elemWide o f i)
    let w := outs.foldl (fun (w : VectorEngine) p =>
      let src := (opReads o readsB readsC (2 * p.1)) ++ (opReads o readsB readsC (2 * p.1 + 1))
      let c := st.worst (v.worstOf src)
      (w.putRow o.d.toNat (2 * p.1) 0 (resWords p.2 false) c).putRow o.d.toNat (2 * p.1 + 1) 0 (resWords p.2 true) c) v
    w.raise (resFlags (outs.map (·.2)))
  else
    let outs := (opRows o).map fun r => (r, v.elemRow o aferarel f r)
    let w := outs.foldl (fun (w : VectorEngine) p =>
      w.putRow o.d.toNat p.1 0 (resWords p.2 false) (st.worst (v.worstOf (opReads o readsB readsC p.1)))) v
    w.raise (resFlags (outs.map (·.2)))

/-- An elementwise command: which operands it reads, whether FP64 is offered, whether its options are valid, and its function. -/
def State.elementwise (s : State) (t : TileId) (i : Instr) (o : VecOp) (readsB readsC wide optsOk : Bool) (f : LaneFn) : Host.Outcome State Fault Refusal :=
  s.vector t i (o.elemOk readsB readsC wide && optsOk) (fun v => v.noInt (opReadsAll o readsB readsC)) fun e st s =>
    s.modVec t fun v => v.elementwise o readsB readsC e.image.exact_ f st

/-- ADD: a + b (R117). -/
def execAdd (t : TileId) (o : VecOp) (s : State) : Host.Outcome State Fault Refusal :=
  s.elementwise t (.add t o) o true false true (o.opts == 0) laneAdd
/-- SUB: a − b (R117). -/
def execSub (t : TileId) (o : VecOp) (s : State) : Host.Outcome State Fault Refusal :=
  s.elementwise t (.sub t o) o true false true (o.opts == 0) laneSub
/-- MUL: a × b (R117). -/
def execMul (t : TileId) (o : VecOp) (s : State) : Host.Outcome State Fault Refusal :=
  s.elementwise t (.mul t o) o true false true (o.opts == 0) laneMul
/-- FMA: a × b + c with one rounding (R117, R119). -/
def execFma (t : TileId) (o : VecOp) (s : State) : Host.Outcome State Fault Refusal :=
  s.elementwise t (.fma t o) o true true true (o.opts == 0) laneFma
/-- MAX: the greater of a and b (R117, R120). -/
def execMax (t : TileId) (o : VecOp) (s : State) : Host.Outcome State Fault Refusal :=
  s.elementwise t (.max t o) o true false true (o.opts == 0) laneMax
/-- MIN: the lesser of a and b (R117, R120). -/
def execMin (t : TileId) (o : VecOp) (s : State) : Host.Outcome State Fault Refusal :=
  s.elementwise t (.min t o) o true false true (o.opts == 0) laneMin
/-- ABS: the magnitude of a (R117). -/
def execAbs (t : TileId) (o : VecOp) (s : State) : Host.Outcome State Fault Refusal :=
  s.elementwise t (.abs t o) o false false true (o.opts == 0) laneAbs
/-- NEG: −a (R117). -/
def execNeg (t : TileId) (o : VecOp) (s : State) : Host.Outcome State Fault Refusal :=
  s.elementwise t (.neg t o) o false false true (o.opts == 0) laneNeg
/-- CMP: 1.0 if the comparison of options [2:0] holds, else +0 (R117, R120). -/
def execCmp (t : TileId) (o : VecOp) (s : State) : Host.Outcome State Fault Refusal :=
  s.elementwise t (.cmp t o) o true false true (decide (o.opts.toNat ≤ 5)) (laneCmp o.opts.toNat)
/-- SEL: a if any bit of c other than the sign is 1, else b (R117, R120). -/
def execSel (t : TileId) (o : VecOp) (s : State) : Host.Outcome State Fault Refusal :=
  s.elementwise t (.sel t o) o true true true (o.opts == 0) laneSel
/-- DIV: a / b (R117, R120). -/
def execDiv (t : TileId) (o : VecOp) (s : State) : Host.Outcome State Fault Refusal :=
  s.elementwise t (.div t o) o true false true (o.opts == 0) laneDiv
/-- RECIP: 1 / a (R117, R120). -/
def execRecip (t : TileId) (o : VecOp) (s : State) : Host.Outcome State Fault Refusal :=
  s.elementwise t (.recip t o) o false false false (o.opts == 0) laneRecip
/-- SQRT (R117, R120). -/
def execSqrt (t : TileId) (o : VecOp) (s : State) : Host.Outcome State Fault Refusal :=
  s.elementwise t (.sqrt t o) o false false true (o.opts == 0) laneSqrt
/-- RSQRT: 1 / √a (R117, R120). -/
def execRsqrt (t : TileId) (o : VecOp) (s : State) : Host.Outcome State Fault Refusal :=
  s.elementwise t (.rsqrt t o) o false false false (o.opts == 0) laneRsqrt
/-- EXP: e^a (R117, R120). -/
def execExp (t : TileId) (o : VecOp) (s : State) : Host.Outcome State Fault Refusal :=
  s.elementwise t (.exp t o) o false false false (o.opts == 0) laneExp
/-- EXP2: 2^a (R117, R120). -/
def execExp2 (t : TileId) (o : VecOp) (s : State) : Host.Outcome State Fault Refusal :=
  s.elementwise t (.exp2 t o) o false false false (o.opts == 0) laneExp2
/-- LOG: ln a (R117, R120). -/
def execLog (t : TileId) (o : VecOp) (s : State) : Host.Outcome State Fault Refusal :=
  s.elementwise t (.log t o) o false false false (o.opts == 0) laneLog
/-- LOG2 (R117, R120). -/
def execLog2 (t : TileId) (o : VecOp) (s : State) : Host.Outcome State Fault Refusal :=
  s.elementwise t (.log2 t o) o false false false (o.opts == 0) laneLog2

/-! ### Conversions (R117, R121) -/

/-- ICVT: the INT32 word times 2 to the row's exponent, rounded to FP32 (R121); an order fault on a row of any other kind (R119). -/
def execIcvt (t : TileId) (o : VecOp) (s : State) : Host.Outcome State Fault Refusal :=
  s.vector t (.icvt t o) (o.elemOk false false false && o.opts == 0) (fun v => (opRows o).all fun r => (v.row o.a.toNat r).kind == 1) fun _ st s =>
    s.modVec t fun v =>
      let outs := (opRows o).map fun r =>
        (r, (Vector.ofFn fun (j : Fin 512) => laneIcvt (v.row o.a.toNat r).exponent.toInt (v.word o.a.toNat r j.1)))
      (outs.foldl (fun (w : VectorEngine) p =>
        w.putRow o.d.toNat p.1 0 (resWords p.2 false) (st.worst (v.worstOf [(o.a.toNat, p.1)]))) v).raise (resFlags (outs.map (·.2)))

/-- WID: FP32 row i of A to FP64 row i of D for every selected row i (R117; DEDUCED, log entry 8). -/
def execWid (t : TileId) (o : VecOp) (s : State) : Host.Outcome State Fault Refusal :=
  s.vector t (.wid t o) (o.convertOk false && o.opts == 0) (fun v => v.noInt ((opRows o).map fun i => (o.a.toNat, i))) fun _ st s =>
    s.modVec t fun v =>
      let outs := (opRows o).map fun i => (i, (Vector.ofFn fun (j : Fin 512) => laneWid (v.word o.a.toNat i j.1)))
      (outs.foldl (fun (w : VectorEngine) p =>
        let c := st.worst (v.worstOf [(o.a.toNat, p.1)])
        (w.putRow o.d.toNat (2 * p.1) 0 (resWords p.2 false) c).putRow o.d.toNat (2 * p.1 + 1) 0 (resWords p.2 true) c) v).raise
          (resFlags (outs.map (·.2)))

/-- NAR from row pairs: FP64 row i of A to FP32 row i of D. -/
def VectorEngine.narRow (v : VectorEngine) (o : VecOp) (aferarel : Bool) (i : Nat) : Vector FRes 512 :=
  Vector.ofFn fun j => let r := laneNar (v.wide o.a.toNat i j.1); ⟨aferarelNaN aferarel r.code, r.flags⟩

/-- NAR from lane pairs: lane c of D takes the value of lanes c and c + 1 of A, with c even. The manual states no result for the odd lanes,
which an elementwise operation writes too (R118): they take free values, from draw `free` on (DESIGN CHOICE, log entry 3). -/
def VectorEngine.narPairs (v : VectorEngine) (o : VecOp) (aferarel : Bool) (free i : Nat) : Vector FRes 512 :=
  Vector.ofFn fun j =>
    if j.1 % 2 = 0 then let r := laneNar (v.lanePair o.a.toNat i j.1); ⟨aferarelNaN aferarel r.code, r.flags⟩
    else ⟨(Config.freeWord (free + 512 * i + j.1)).toNat % 2 ^ 32, {}⟩

/-- The exponent field of an FP64 code is all ones: an infinity or a NaN. -/
def oddWide (code : Nat) : Bool := code / 2 ^ 52 % 2048 == 2047

/-- NAR: FP64 to FP32 (R117; DEDUCED, log entry 8). Its overflows and its non-finite sources count for the layer's output (R69, R71; DESIGN CHOICE, log entry 69). -/
def execNar (t : TileId) (o : VecOp) (s : State) : Host.Outcome State Fault Refusal :=
  let pairs := o.opts.getLsbD 0
  let src := fun (i : Nat) => if pairs then [(o.a.toNat, i)] else [(o.a.toNat, 2 * i), (o.a.toNat, 2 * i + 1)]
  s.vector t (.nar t o) (o.convertOk pairs && decide (o.opts.toNat ≤ 1)) (fun v => v.noInt ((opRows o).flatMap src)) fun e st s =>
    let free := s.free
    let v := (s.tiles.get t).vec
    let outs := (opRows o).map fun i => (i, if pairs then v.narPairs o e.image.exact_ free i else v.narRow o e.image.exact_ i)
    let sources := (opRows o).flatMap fun i =>
      if pairs then (List.range 256).map fun j => v.lanePair o.a.toNat i (2 * j) else (List.range 512).map fun j => v.wide o.a.toNat i j
    let ovf := (outs.map fun p => p.2.toList.countP fun r => r.flags.ovf).sum
    let odd := sources.countP oddWide
    let layer := s.layerNow t vecCtx e
    let again := s.again t vecCtx
    let s := if ovf + odd = 0 then s else
      s.countConv e.part (((layer.bind e.image.layer).map (·.out)).getD 0) (e.image.column layer) ovf odd again
    let s := s.modVec t fun v =>
      (outs.foldl (fun (w : VectorEngine) p =>
        w.putRow o.d.toNat p.1 0 (resWords p.2 false) (st.worst (v.worstOf (src p.1)))) v).raise (resFlags (outs.map (·.2)))
    if pairs then { s with free := s.free + 512 * 64 } else s

/-! ### Reductions (R122 to R126) -/

/-- The second result word of a reduction at a row and a lane: the next row in row-pair form, the next lane in lane-pair form (R125). -/
def secondOf (rowPair : Bool) (p : Nat × Nat) : Nat × Nat := if rowPair then (p.1 + 1, p.2) else (p.1, p.2 + 1)

/-- A code with a NaN written canonically (R60, R138). -/
def canonNaN (f : FloatFmt) (aferarel : Bool) (code : Nat) : Nat :=
  if f.isNaN code then (if aferarel && f == fmtFP32 then 0x7FFFFFFF else f.nanCode) else code

/-- What a reduction writes: row, lane and word, with the flags of those lanes. -/
abbrev RedOut := List (Nat × Nat × Nat) × BitVec 4

/-- The result of a sum at a place (R123, R125, R126): `tree` is the tree's node. -/
def VectorEngine.sumOut (v : VectorEngine) (o : VecOp) (aferarel : Bool) (tree : SumAcc) (at0 : Nat × Nat) (rowPair : Bool) : RedOut :=
  let prec := o.prec.toNat
  let at1 := secondOf rowPair at0
  let w0 := v.word o.d.toNat at0.1 at0.2
  let w1 := v.word o.d.toNat at1.1 at1.2
  let f := if prec = 2 then fmtFP64 else fmtFP32
  let acc :=
    if o.opts.getLsbD 0 then
      let old := if prec = 2 then w0 + 2 ^ 32 * w1 else w0
      sumNode prec ⟨old, if prec = 1 ∧ o.opts.getLsbD 1 then w1 else 0, { nin := f.isNaN old }⟩ tree
    else tree
  if prec = 2 then
    let c := canonNaN f aferarel acc.s
    ([(at0.1, at0.2, c % 2 ^ 32), (at1.1, at1.2, c / 2 ^ 32)], acc.flags.toBits)
  else if prec = 1 ∧ o.opts.getLsbD 2 then
    ([(at0.1, at0.2, canonNaN f aferarel acc.s), (at1.1, at1.2, canonNaN f aferarel acc.e)], acc.flags.toBits)
  else
    let r := sumFinal prec acc
    ([(at0.1, at0.2, canonNaN f aferarel r.code)], r.flags.toBits)

/-- The result of RMAX or RMIN at a place (R124 to R126). -/
def VectorEngine.extOut (v : VectorEngine) (o : VecOp) (aferarel isMax : Bool) (tree : ExtAcc) (at0 : Nat × Nat) (rowPair : Bool) : RedOut :=
  let at1 := secondOf rowPair at0
  let acc := if o.opts.getLsbD 0 then extNode isMax ⟨v.word o.d.toNat at0.1 at0.2, v.word o.d.toNat at1.1 at1.2⟩ tree else tree
  let r := extFinal acc
  ([(at0.1, at0.2, canonNaN fmtFP32 aferarel r.code), (at1.1, at1.2, acc.idx % 2 ^ 32)], r.flags.toBits)

/-- A reduction over the selected rows (R122, R125): `value` reads one element by row and lane, `leaf` turns it into a partial result with
its index along the axis, and `out` places a result. -/
def reduceOver {α : Type} (o : VecOp) (rows : List Nat) (dflt : α) (node : α → α → α) (leaf : Nat → Nat → Nat → α)
    (out : α → Nat × Nat → Bool → RedOut) : List (RedOut × List Nat) :=
  let lanes := fun (r base : Nat) => (redTree node 12 ((List.range 512).map fun j => leaf r j (base + j))).getD dflt
  match o.axis.toNat with
  | 1 => rows.map fun r => (out (lanes r 0) (r, o.blane.toNat) false, [r])
  | 2 => (List.range 512).map fun j =>
      (out ((redTree node 12 (rows.zipIdx.map fun r => leaf r.1 j r.2)).getD dflt) (o.brow.toNat, j) true, rows)
  | _ => [(out ((redTree node 12 (rows.zipIdx.map fun r => lanes r.1 (512 * r.2))).getD dflt) (o.brow.toNat, o.blane.toNat) false, rows)]

/-- The rows that an accumulating reduction reads beside its sources (R126); `two` says that it reads two words of a result. -/
def opResultRows (o : VecOp) (two : Bool) : List (Nat × Nat) :=
  if o.opts.getLsbD 0 then
    match o.axis.toNat with
    | 1 => (opRows o).map fun r => (o.d.toNat, r)
    | 2 => (o.d.toNat, o.brow.toNat) :: (if two then [(o.d.toNat, o.brow.toNat + 1)] else [])
    | _ => [(o.d.toNat, o.brow.toNat)]
  else []

/-- A sum reads two words of a result that it accumulates into: an FP64 value or a compensated pair (R126). -/
def sumReadsTwo (o : VecOp) : Bool := decide (o.prec = 2) || (decide (o.prec = 1) && o.opts.getLsbD 1)

/-- Write the results of a reduction: the words named, with kind 0. Each row takes the worst status of the rows read, the accumulated ones among them, and of its
own check; a row written only in part keeps the status of its other words beside it (R125, R137; DESIGN CHOICE, log entry 68). -/
def VectorEngine.putReduction (v : VectorEngine) (o : VecOp) (outs : List (RedOut × List Nat)) (wide two : Bool) (st : CheckStatus) : VectorEngine :=
  let w := outs.foldl (fun (w : VectorEngine) p =>
    let src := (p.2.flatMap fun r => if wide then [(o.a.toNat, r), (o.a.toNat, r + 1)] else [(o.a.toNat, r)]) ++
      (if o.axis = 1 then [] else opResultRows o two)
    let st := st.worst (v.worstOf src)
    p.1.1.foldl (fun (w : VectorEngine) q =>
      w.putWords o.d.toNat q.1 [(q.2.1, q.2.2)] (if o.axis = 2 then st else st.worst (w.row o.d.toNat q.1).status)) w) v
  w.raise (laneFlagsOf (outs.flatMap fun p => p.1.1.map fun q => (q.2.1, p.1.2)))

/-- RSUM or RSUMSQ over a vector engine. FP64 source rows are named by the first row of their pair (DEDUCED, log entry 8). -/
def VectorEngine.sums (v : VectorEngine) (o : VecOp) (aferarel squares : Bool) (st : CheckStatus) : VectorEngine :=
  let prec := o.prec.toNat
  let wide := o.opts.getLsbD 3
  let rows := if wide then (opRows o).filter fun r => r % 2 == 0 else (opRows o)
  let value := fun (r j : Nat) => if wide then v.wide o.a.toNat (r / 2) j else v.word o.a.toNat r j
  let leaf := fun (r j _i : Nat) => if squares then sumSqLeaf prec wide (value r j) else sumLeaf prec wide (value r j)
  v.putReduction o (reduceOver o rows ⟨0, 0, {}⟩ (sumNode prec) leaf (v.sumOut o aferarel)) wide (sumReadsTwo o) st

/-- RMAX or RMIN over a vector engine (R124): the winner index is the index along the axis plus the base. -/
def VectorEngine.extremes (v : VectorEngine) (o : VecOp) (aferarel isMax : Bool) (st : CheckStatus) : VectorEngine :=
  let base := v.word o.b.toNat o.brow.toNat o.blane.toNat
  let leaf := fun (r j i : Nat) => ExtAcc.mk (v.word o.a.toNat r j) (base + i)
  let st := st.worst (v.worstOf [(o.b.toNat, o.brow.toNat)])
  v.putReduction o (reduceOver o (opRows o) ⟨0, 0⟩ (extNode isMax) leaf (v.extOut o aferarel isMax)) false true st

/-- A sum command. -/
def State.sumCommand (s : State) (t : TileId) (i : Instr) (o : VecOp) (squares : Bool) : Host.Outcome State Fault Refusal :=
  let exact := ((s.seat t).map fun e => e.image.exact_).getD false
  s.vector t i (o.sumOk && !(exact && o.prec == 1)) (fun v => v.noInt ((opRows o).map (fun r => (o.a.toNat, r)) ++ opResultRows o (sumReadsTwo o))) fun e st s =>
    s.modVec t fun v => v.sums o e.image.exact_ squares st

/-- A maximum or minimum command. -/
def State.extremeCommand (s : State) (t : TileId) (i : Instr) (o : VecOp) (isMax : Bool) : Host.Outcome State Fault Refusal :=
  s.vector t i o.extremeOk (fun v => v.noInt ((opRows o).map (fun r => (o.a.toNat, r)) ++ [(o.b.toNat, o.brow.toNat)] ++ opResultRows o true)) fun e st s =>
    s.modVec t fun v => v.extremes o e.image.exact_ isMax st

/-- RSUM: the sum along the axis (R117, R122, R123). -/
def execRsum (t : TileId) (o : VecOp) (s : State) : Host.Outcome State Fault Refusal := s.sumCommand t (.rsum t o) o false
/-- RSUMSQ: the sum of squares along the axis (R117, R122, R123). -/
def execRsumsq (t : TileId) (o : VecOp) (s : State) : Host.Outcome State Fault Refusal := s.sumCommand t (.rsumsq t o) o true
/-- RMAX: the maximum along the axis, with its index (R117, R124). -/
def execRmax (t : TileId) (o : VecOp) (s : State) : Host.Outcome State Fault Refusal := s.extremeCommand t (.rmax t o) o true
/-- RMIN: the minimum along the axis, with its index (R117, R124). -/
def execRmin (t : TileId) (o : VecOp) (s : State) : Host.Outcome State Fault Refusal := s.extremeCommand t (.rmin t o) o false

/-! ### TRN (R129) -/

/-- Eight 64 by 64 transposes: d(r, 64 q + c) = a(c, 64 q + r). -/
def VectorEngine.transpose (v : VectorEngine) (o : VecOp) (st : CheckStatus) : VectorEngine :=
  let a := o.a.toNat
  let c := st.worst (v.worstOf ((List.range 64).map fun r => (a, r)))
  let k := v.row a 0
  (List.range 64).foldl (fun (w : VectorEngine) r =>
    w.setRow o.d.toNat r
      { words := Vector.ofFn fun (j : Fin 512) => (v.row a (j.1 % 64)).words.get (Fin.ofNat 512 (j.1 / 64 * 64 + r))
        kind := k.kind
        exponent := k.exponent
        status := c }) v

/-- TRN (R129): an order fault unless the 64 source rows share one kind and one exponent. -/
def execTrn (t : TileId) (o : VecOp) (s : State) : Host.Outcome State Fault Refusal :=
  s.vector t (.trn t o) o.trnOk
    (fun v => (List.range 64).all fun r => (v.row o.a.toNat r).kind == (v.row o.a.toNat 0).kind && (v.row o.a.toNat r).exponent == (v.row o.a.toNat 0).exponent)
    fun _ st s => s.modVec t fun v => v.transpose o st

/-! ### LD (R127) -/

/-- Bytes of 512 elements of a format. -/
def rowBytes (fmt : Nat) : Nat := 64 * fmtBits fmt

/-- One element as LD widens it (R60, R64, R69, R127, R138): the code in FP32 or FP64, its lane flag, and whether it left the range. FP32 to FP32 and
FP64 to FP64 keep the word of any value that is not a NaN; a NaN is written canonically. -/
def ldElem (fmt : Nat) (wide aferarel : Bool) (code : Nat) (scale : Option DyNum) : FRes × Bool :=
  let f := if wide then fmtFP64 else fmtFP32
  if (fmt = codeFP32 ∧ wide = false) ∨ fmt = codeFP64 then (⟨canonNaN f aferarel code, { nin := f.isNaN code }⟩, false)
  else
    let v := scaledValue fmt aferarel code scale
    let n := widen f v
    (⟨if wide then n.code else aferarelNaN aferarel n.code, { nin := v == .nan }⟩, n.nonfinite)

/-- What LD and ST find of a tensor: the image, the record and the table of a block format. -/
structure MoveArgs where
  image : Image
  record : OperandRecord
  table : Option ScaleTable

/-- The slot of a lane's element; none where the format has no scales or the element lies beyond the tensor's K (R65, R66). -/
def MoveArgs.slot (a : MoveArgs) (k : Nat) : Option Nat :=
  match a.table with
  | none => none
  | some t =>
    let d := a.image.tensor a.record.handle
    if k < (d.map (·.k)).getD 0 then some (a.image.slotOf a.record.handle a.record.panel t.kind k) else none

/-- One store row as LD reads it. -/
def MoveArgs.ldRow (a : MoveArgs) (wide : Bool) (bs : List Byte) : Vector (FRes × Bool) 512 :=
  let fmt := a.record.fmt
  Vector.ofFn fun j =>
    let code := elemAt fmt bs j.1
    match a.table with
    | none => ldElem fmt wide a.image.exact_ code (some ⟨1, 0⟩)
    | some t =>
      match a.slot (a.record.firstK + j.1) with
      | some sl => ldElem fmt wide a.image.exact_ code (t.scale sl)
      | none => (⟨0, {}⟩, false)

/-- The distinct SB16 scale bytes with their sign bit set that an LD reads (R64). -/
def MoveArgs.badScales (a : MoveArgs) : Nat :=
  match a.table with
  | some t =>
    if t.kind = 1 then
      (((List.range 512).filterMap fun j => a.slot (a.record.firstK + j)).eraseDups.filter fun sl => scaleSignBad 1 (t.byte sl)).length
    else 0
  | none => 0

/-- Format and precision go together (R116, R127, R128). An ST with precision 2 and a format other than 0x08 is taken as malformed (DESIGN CHOICE, log entry 68). -/
def moveFmtOk (fmt : Nat) (prec : BitVec 2) (load : Bool) : Bool :=
  fmtValid fmt && (decide (fmt ≠ codeFP64) || decide (prec = 2)) && (load || decide (prec ≠ 2) || decide (fmt = codeFP64))

/-- LD (R89, R127, R157): waits for its scale table and for bytes that a stream is filling; then every row is widened. -/
def execLd (t : TileId) (o : VecOp) (s : State) : Host.Outcome State Fault Refusal :=
  .next (s.command t vecCtx (.ld t o) fun e s =>
    let x := s.tiles.get t
    match x.recordAt o.record.toNat with
    | none => s.malformed t vecCtx e vecClass 0
    | some r =>
      if !o.moveOk true || !moveFmtOk r.fmt o.prec true || o.addr.toNat % 64 != 0 then s.malformed t vecCtx e vecClass 8
      else
        let table := if fmtNarrow r.fmt then x.tableOf r.handle (s.parts.get e.part).run.step else none
        let wide := o.prec == 2
        let n := if wide then (o.count.toNat + 1) / 2 else o.count.toNat + 1
        let len := rowBytes r.fmt
        if (fmtNarrow r.fmt && table.isNone) || (List.range n).any fun i => x.filling (o.addr.toNat + i * r.stride) len then s.waitCtx t vecCtx
        else
          let a : MoveArgs := ⟨e.image, r, table⟩
          let op := CheckStatus.pending [s.opOf t]
          let again := s.again t vecCtx
          let col := e.image.column (s.layerNow t vecCtx e)
          let s := s.markLayer t e
          let outs := (List.range n).map fun i =>
            (i, a.ldRow wide (x.storeRead (o.addr.toNat + i * r.stride) len), op.worst (x.storeWorst (o.addr.toNat + i * r.stride) len))
          let s := s.modVec t fun v =>
            (outs.foldl (fun (v : VectorEngine) p =>
              let rs := p.2.1.map (·.1)
              if wide then
                let i := o.first.toNat + 2 * p.1
                (v.putRow o.d.toNat i 0 (resWords rs false) p.2.2).putRow o.d.toNat (i + 1) 0 (resWords rs true) p.2.2
              else v.putRow o.d.toNat (o.first.toNat + p.1) 0 (resWords rs false) p.2.2) v).raise
                (resFlags (outs.map fun p => p.2.1.map (·.1)))
          let nonfinite := (outs.map fun p => (p.2.1.toList.filter (·.2)).length).sum + a.badScales
          let s := if nonfinite = 0 then s else s.countConv e.part r.handle col 0 nonfinite again
          s.issue t vecCtx e true)

/-! ### ST (R74, R128) -/

/-- One element as ST narrows it: its code and its events; `slot` is the slot it converts into. -/
structure StElem where
  out : Narrowed
  slot : Option Nat
  mag : Nat
  /-- A NaN word or a NaN block scale was read for it (R130). -/
  nin : Bool
  deriving DecidableEq, Repr

/-- Narrow one FP32 word for a format (R69, R128, R130); padding beyond the tensor's extent is a zero element and is counted nowhere (R65). -/
def MoveArgs.stElem (a : MoveArgs) (k : Nat) (inside : Bool) (w : Nat) : StElem :=
  let fmt := a.record.fmt
  let nan := fmtFP32.isNaN w
  if fmt = codeFP32 then ⟨⟨w, false, false⟩, none, 0, nan⟩
  else if !inside then ⟨⟨0, false, false⟩, none, 0, false⟩
  else
    let v := fmtFP32.decode w
    match a.table with
    | none => ⟨narrowBF16 v, none, 0, nan⟩
    | some t =>
      match a.slot k with
      | none => ⟨⟨0, false, false⟩, none, 0, false⟩
      | some sl =>
        let mag := if fmtFP32.isFinite w then w % 2 ^ 31 else 0
        match t.scale sl with
        | some sc => ⟨narrow fmt v sc, some sl, mag, nan⟩
        | none => ⟨narrow fmt .nan ⟨1, 0⟩, some sl, mag, true⟩

/-- The maxima and overflow marks of R74 for some converted elements. -/
def Weights.recordMaxima (w : Weights) (handle : Nat) (es : List StElem) : Weights :=
  { w with maxima := es.foldl (fun (m : List ((Nat × Nat) × (Word32 × Bool))) x =>
    match x.slot with
    | none => m
    | some sl =>
      let old := (Assoc.get (handle, sl) m).getD (0, false)
      Assoc.put (handle, sl) (BitVec.ofNat 32 (max old.1.toNat x.mag), old.2 || x.out.overflow) m) w.maxima }

/-- Put an element into the element data of a staged block (R88): 4-bit elements share a byte. -/
def Tile.putCell (x : Tile) (base fmt k j code : Nat) (st : CheckStatus) : Tile :=
  let off := base + cellOffset fmt k j
  if fmtBits fmt = 4 then
    let old := (Cells.read x.store off).toNat
    x.storeWrite off [BitVec.ofNat 8 (if k % 2 = 0 then old / 16 * 16 + code % 16 else old % 16 + 16 * (code % 16))] st
  else x.storeWrite off (leBytes (fmtBits fmt / 8) code) st

/-- ST with layout 0: store row `i` of the element region (R67, R128). Words written unchanged are NaNs only in rows of kind 0 (DEDUCED, log entry 28). -/
def State.storeRows (s : State) (t : TileId) (o : VecOp) (a : MoveArgs) (st : CheckStatus) : State × List (Nat × StElem) :=
  let v := (s.tiles.get t).vec
  let r := a.record
  let n := if o.prec = 2 then (o.count.toNat + 1) / 2 else o.count.toNat + 1
  let outs := (List.range n).map fun i =>
    if o.prec = 2 then
      let row := o.first.toNat + 2 * i
      (i, (List.range 512).map (fun j => (j, StElem.mk ⟨v.wide o.a.toNat (row / 2) j, false, false⟩ none 0
        ((v.row o.a.toNat row).kind == 0 && fmtFP64.isNaN (v.wide o.a.toNat (row / 2) j)))),
        st.worst (v.worstOf [(o.a.toNat, row), (o.a.toNat, row + 1)]))
    else
      let row := o.first.toNat + i
      (i, (List.range 512).map (fun j =>
        let k := r.firstK + j
        let inside := !fmtNarrow r.fmt || decide (k < ((a.image.tensor r.handle).map (·.k)).getD 0)
        let e := a.stElem k inside (v.word o.a.toNat row j)
        (j, { e with nin := e.nin && (r.fmt != codeFP32 || (v.row o.a.toNat row).kind == 0) })), st.worst (v.worstOf [(o.a.toNat, row)]))
  let s := outs.foldl (fun (s : State) p => s.modTile t fun x =>
    x.storeWrite (o.addr.toNat + p.1 * r.stride) (elemBytes r.fmt (p.2.1.map fun e => e.2.out.code)) p.2.2) s
  (s, outs.flatMap (·.2.1))

/-- ST with layout 1: register row `r` is the K index first K index + r of the record's span and panel, placed in the staged block, whose
scale area is written from the table (R88, R128; DEDUCED, log entry 9). K indices that share bytes share the worst status of their rows. -/
def State.storeStaged (s : State) (t : TileId) (o : VecOp) (a : MoveArgs) (st : CheckStatus) : State × List (Nat × StElem) :=
  let v := (s.tiles.get t).vec
  let r := a.record
  let d := a.image.tensor r.handle
  let base := 4096 * (o.addr.toNat / 2 ^ 16)
  let firstK := bits o.addr.toNat 15 6
  let width := panelWidth r.fmt
  let outs := (opRows o).map fun row =>
    let k := firstK + row
    let kk := r.span * spanDepth r.fmt + k
    (k, (List.range width).map (fun j =>
      let inside := decide (kk < (d.map (·.k)).getD 0 ∧ r.panel * width + j < (d.map (·.n)).getD 0)
      (j, a.stElem kk inside (v.word o.a.toNat row j))), st.worst (v.worstOf [(o.a.toNat, row)]))
  let outs := outs.map fun p => (p.1, p.2.1, ((outs.filter fun q => cellOffset r.fmt q.1 0 == cellOffset r.fmt p.1 0).map (·.2.2)).foldl (·.worst ·) .passed)
  let s := outs.foldl (fun (s : State) p => s.modTile t fun x =>
    p.2.1.foldl (fun (x : Tile) e => x.putCell base r.fmt p.1 e.1 e.2.out.code p.2.2) x) s
  let per := ceilDiv ((d.map (·.k)).getD 0) 32
  let area := (List.range 64).map fun i =>
    match a.table with
    | some tb =>
      let q := r.span * spanDepth r.fmt / 32 + i
      if i < blockScales r.fmt ∧ q < per then tb.scales.getD (r.panel * per + q) 0 else 0
    | none => (0 : Byte)
  let worst := outs.foldl (fun c p => c.worst p.2.2) CheckStatus.passed
  (s.modTile t fun x => x.storeWrite base area worst, outs.flatMap (·.2.1))

/-- ST (R74, R89, R119, R128): waits for its scale table; then the rows are narrowed into the store, maxima and counts are kept, and narrowing
overflows, NaN words and NaN block scales set lane flags (R130). -/
def execSt (t : TileId) (o : VecOp) (s : State) : Host.Outcome State Fault Refusal :=
  .next (s.command t vecCtx (.st t o) fun e s =>
    let x := s.tiles.get t
    match x.recordAt o.record.toNat with
    | none => s.malformed t vecCtx e vecClass 0
    | some r =>
      let lay := if r.staged then decide (o.addr.toNat % 64 = 0) && decide (r.fmt ≤ 6) && decide (o.prec = 0) &&
          decide (bits o.addr.toNat 15 6 + o.first.toNat + o.count.toNat < spanDepth r.fmt)
        else decide (o.addr.toNat % 64 = 0)
      if !o.moveOk false || !moveFmtOk r.fmt o.prec false || !lay then s.malformed t vecCtx e vecClass 8
      else
        let table := if fmtNarrow r.fmt then x.tableOf r.handle (s.parts.get e.part).run.step else none
        if fmtNarrow r.fmt && table.isNone then s.waitCtx t vecCtx
        else if r.fmt != codeFP32 && !x.vec.noInt ((opRows o).map fun q => (o.a.toNat, q)) then s.orderFault t vecCtx e vecClass
        else
          let a : MoveArgs := ⟨e.image, r, table⟩
          let st := CheckStatus.pending [s.opOf t]
          let again := s.again t vecCtx
          let col := e.image.column (s.layerNow t vecCtx e)
          let s := s.markLayer t e
          let (s, es) := if r.staged then s.storeStaged t o a st else s.storeRows t o a st
          let s := s.modVec t fun v => v.raise (laneFlagsOf ((es.filter fun p => p.2.out.overflow || p.2.nin).map fun p =>
            (p.1, ({ ovf := p.2.out.overflow, nin := p.2.nin } : FlagSet).toBits)))
          let s := s.modPart e.part fun p => { p with weights := p.weights.recordMaxima r.handle (es.map (·.2)) }
          let ovf := (es.filter fun p => p.2.out.overflow).length
          let nf := (es.filter fun p => p.2.out.nonfinite).length
          let s := if ovf + nf = 0 then s else s.countConv e.part r.handle col ovf nf again
          s.issue t vecCtx e true)

/-! ### Generators (R132 to R134) -/

/-- Draw one word in every lane for each selected row (R133): the rows and the counters after. -/
def VectorEngine.draw (v : VectorEngine) (o : VecOp) (seed : Word64) (logical : Nat) (uniform : Bool) (st : CheckStatus) : VectorEngine :=
  let g : Fin 8 := Fin.ofNat 8 o.opts.toNat
  let n := o.count.toNat + 1
  let w := (List.range n).foldl (fun (w : VectorEngine) i =>
    w.putRow o.d.toNat (o.first.toNat + i) (if uniform then 0 else 2)
      (Vector.ofFn fun (j : Fin 512) =>
        let c := (v.gens.get j).get g + BitVec.ofNat 64 i
        let x := rngWord seed (512 * logical + j.1) g.1 c
        if uniform then rngUniform x else x) st) v
  { w with gens := v.gens.map fun l => vmod l g fun c => c + BitVec.ofNat 64 n }

/-- RNGU: uniform FP32 in [0, 1) (R133). -/
def execRngu (t : TileId) (o : VecOp) (s : State) : Host.Outcome State Fault Refusal :=
  s.vector t (.rngu t o) o.drawOk (fun _ => true) fun e st s => s.modVec t fun v => v.draw o e.image.seed e.logical true st
/-- RNGR: a raw random word of kind 2 (R133). -/
def execRngr (t : TileId) (o : VecOp) (s : State) : Host.Outcome State Fault Refusal :=
  s.vector t (.rngr t o) o.drawOk (fun _ => true) fun e st s => s.modVec t fun v => v.draw o e.image.seed e.logical false st

/-- The 4,096 counters as words, counter (j, g) at word 8 j + g (R134). -/
def VectorEngine.counters (v : VectorEngine) : List Word64 := v.gens.toList.flatMap fun l => l.toList

/-- RNGSV: save the generator counters (R134). -/
def execRngsv (t : TileId) (o : VecOp) (s : State) : Host.Outcome State Fault Refusal :=
  s.vector t (.rngsv t o) o.countersOk (fun _ => true) fun _ st s =>
    s.modTile t fun x => x.storeWrite o.addr.toNat (wordsBytes x.vec.counters) st
/-- RNGRS: restore the generator counters (R134). The interlock of R157 does not cover it. -/
def execRngrs (t : TileId) (o : VecOp) (s : State) : Host.Outcome State Fault Refusal :=
  s.vector t (.rngrs t o) o.countersOk (fun _ => true) fun _ _ s =>
    s.modTile t fun x => { x with vec := { x.vec with gens := gensOf (bytesWords (x.storeRead o.addr.toNat 32768)) } }

/-! ### FLAGS (R131) -/

/-- FLAGS: the lane flags as integers into row first row of D with kind 2; the lane flags are cleared (R131). -/
def execFlags (t : TileId) (o : VecOp) (s : State) : Host.Outcome State Fault Refusal :=
  s.vector t (.flags t o) o.flagsOk (fun _ => true) fun _ st s =>
    s.modVec t fun v =>
      let w := v.putRow o.d.toNat o.first.toNat 2 (v.laneFlags.map fun f => BitVec.ofNat 32 f.toNat) st
      { w with laneFlags := Vector.replicate 512 0 }

end Sys2Proof.Machine
end

