-- ==== Sys2Proof/Machine/Sequencer.lean ====
section
/-! DEFINITION. The commands of the sequencer itself: Buckle commands, hints, marks, STEP, the step-ready message, and the pages of the
lists (R171, R177 to R187, R256 to R258, R436, R437, R465). -/

namespace Sys2Proof.Machine

/-! ### Buckle commands (R177, R178, R256 to R258) -/

/-- A logical Buckle number lies in the image's ranges (R177). -/
def Seat.buckleOk (e : Seat) (b : Nat) : Bool := decide (b / 4096 < e.image.ranges)

/-- ARRIVE (R177, R178): its arrival leaves when the commands that it covers have completed, and does not hold up the list. -/
def execArrive (t : TileId) (c : CtxId) (o : BuckleOp) (s : State) : Host.Outcome State Fault Refusal :=
  .next (s.command t c (.arrive t c o) fun e s =>
    if !o.arriveOk || !e.buckleOk o.buckle.toNat then s.malformed t c e 0x41 0
    else
      let cmd := s.posOf t c
      let s := s.issue t c e false
      let s := s.modCtx t c fun k => { k with arrivals := k.arrivals ++ [⟨cmd, o.buckle.toNat, o.count.toNat, o.covers == 1⟩] }
      s.flushArrivals t c e 16)

/-- A wait stands at the front of its list at a Buckle (R189). -/
def State.atBuckle (s : State) (t : TileId) (c : CtxId) : State := s.modCtx t c fun k => { k with state := .atBuckle }

/-- The message of the wait at the front of a list has been sent. -/
def State.sentFront (s : State) (t : TileId) (c : CtxId) : State := s.modCtx t c fun k => { k with arrwaitSent := true }

/-- Send a watch for a Buckle of partition scope to its home (R258). -/
def State.sendWatch (s : State) (t : TileId) (e : Seat) (c : CtxId) (b target : Nat) (w : TileId) : State :=
  s.sendBuckle (epTile t) (epWelt w) e.part ⟨2, c.1, false, e.logical, b, 0, (s.ranges.get (rangeOf b)).generation, target, s.posOf t c⟩

/-- The condition of a wait at the front of a list: at once for a target of 0; by the counter for tile scope (R256, R257); for partition scope
by the satisfy message, after the watch was sent (R258). -/
def State.tryWait (s : State) (t : TileId) (c : CtxId) (e : Seat) (o : BuckleOp) : State :=
  let p := s.parts.get e.part
  let b := p.physBuckle o.buckle.toNat
  if o.target = 0 then s.issue t c e true
  else match p.homeOf b with
    | some (.welt w) =>
      if ((s.tiles.get t).seqr.ctxs.get c).arrwaitSent then s.atBuckle t c
      else ((s.sendWatch t e c b o.target.toNat w).sentFront t c).atBuckle t c
    | _ => if o.target.toNat ≤ s.buckle b then s.issue t c e true else s.atBuckle t c

/-- WAIT (R177, R256 to R258). -/
def execWait (t : TileId) (c : CtxId) (o : BuckleOp) (s : State) : Host.Outcome State Fault Refusal :=
  .next (s.command t c (.wait t c o) fun e s =>
    if !o.waitOk || !e.buckleOk o.buckle.toNat then s.malformed t c e 0x42 0 else s.tryWait t c e o)

/-- ARRWAIT (R177, R178, R257, R258, R267): it holds up its list until its arrival has been sent and its condition holds. For partition scope
one arrive-and-watch message carries both; where the arrival is suppressed, a watch leaves instead. -/
def execArrwait (t : TileId) (c : CtxId) (o : BuckleOp) (s : State) : Host.Outcome State Fault Refusal :=
  .next (s.command t c (.arrwait t c o) fun e s =>
    if !o.arrwaitOk || !e.buckleOk o.buckle.toNat then s.malformed t c e 0x43 0
    else
      let k := (s.tiles.get t).seqr.ctxs.get c
      let p := s.parts.get e.part
      let b := p.physBuckle o.buckle.toNat
      if k.arrwaitSent then
        match p.homeOf b with
        | some (.welt _) => if o.target = 0 then s.issue t c e true else s.atBuckle t c
        | _ => s.tryWait t c e o
      else if !(HeldArrival.mk k.pos 0 0 (o.covers == 1)).due k.outstanding then s.atBuckle t c
      else
        match p.homeOf b with
        | some (.welt w) =>
          let map := (s.tiles.get t).router.sentMaps.get c
          let again := map.sent.contains k.pos
          let s := s.sendArrival t e c.1 k.pos o.buckle.toNat o.count.toNat 3 o.target.toNat
          let s := if again && decide (o.target ≠ 0) then s.sendWatch t e c b o.target.toNat w else s
          if o.target = 0 then s.issue t c e true else (s.sentFront t c).atBuckle t c
        | _ => ((s.sendArrival t e c.1 k.pos o.buckle.toNat o.count.toNat 1 0).sentFront t c).tryWait t c e o)

/-! ### Hints (R179, R436, R437) -/

/-- The control list. -/
def controlCtx : CtxId := 3

/-- HINT_HEAVY (R179, R436, R437): a ballast ramp toward the least of the expected current and the allowance, planned on 256 ns boundaries;
from the heavy time on the tile counts at its target in the fit. A lead below 8 µs is counted, and its ramp starts at once. -/
def execHintHeavy (t : TileId) (amps : BitVec 8) (lead layer : BitVec 16) (s : State) : Host.Outcome State Fault Refusal :=
  .next (s.command t controlCtx (.hintHeavy t amps lead layer) fun e s =>
    if amps.toNat = 0 ∨ 128 < amps.toNat then s.malformed t controlCtx e 0x51 0
    else
      let w := (s.tiles.get t).power
      let target := min amps.toNat w.allowance
      let k0 := s.time - s.time % 256
      let heavy := k0 + 1000 * lead.toNat
      let n := ceilDiv (target - w.lastDraw) 8
      let latest := (heavy - 256 * n) / 256 * 256
      let start := if lead.toNat < 8 then k0 else max k0 latest
      let s := { s with governor := { s.governor with
        hints := s.governor.hints + 1
        shortLead := if lead.toNat < 8 then s.governor.shortLead + 1 else s.governor.shortLead
        fit := (s.governor.fit.filter fun (f : TileId × Nat × Nat) => f.1 != t) ++ [(t, target, heavy)] } }
      (s.modTile t fun x => { x with power := { x.power with ramp := some (target, start, heavy) } }).issue t controlCtx e true)

/-- HINT_LIGHT (R179, R437): from issue plus lead on, the tile counts at the expected current in the fit. -/
def execHintLight (t : TileId) (amps : BitVec 8) (lead layer : BitVec 16) (s : State) : Host.Outcome State Fault Refusal :=
  .next (s.command t controlCtx (.hintLight t amps lead layer) fun e s =>
    if amps.toNat = 0 ∨ 128 < amps.toNat then s.malformed t controlCtx e 0x52 0
    else
      let s := { s with governor := { s.governor with
        hints := s.governor.hints + 1
        fit := (s.governor.fit.filter fun (f : TileId × Nat × Nat) => f.1 != t) ++ [(t, amps.toNat, s.time + 1000 * lead.toNat)] } }
      s.issue t controlCtx e true)

/-! ### MARK (R131, R180) -/

/-- No times and no markers. -/
def TileTimes.zero : TileTimes where
  classes := Vector.replicate 8 0
  throttled := Vector.replicate 8 0
  overruns := Vector.replicate 5 0
  phaseFlags := Vector.replicate 5 0
  phase := 0
  markers := []

/-- Change the times of a logical tile. -/
def Replay.modTimes (r : Replay) (l : Nat) (f : TileTimes → TileTimes) : Replay :=
  { r with times := Assoc.put l (f ((Assoc.get l r.times).getD TileTimes.zero)) r.times }

/-- Empty a phase flag word into the entry of a phase (R131). -/
def TileTimes.takeFlags (k : TileTimes) (phase : Nat) (w : BitVec 4) : TileTimes :=
  { k with phaseFlags := vmod k.phaseFlags (Fin.ofNat 5 (phase - 1)) fun x => x ||| w }

/-- MARK (R131, R180): the phase flag word goes into the entry of the phase that ends, at the first MARK of the phase that begins; the marked
phase changes and the marker is recorded. -/
def execMark (t : TileId) (phase : BitVec 4) (layer : BitVec 16) (marker : BitVec 32) (s : State) : Host.Outcome State Fault Refusal :=
  .next (s.command t controlCtx (.mark t phase layer marker) fun e s =>
    if phase.toNat = 0 ∨ 5 < phase.toNat then s.malformed t controlCtx e 0x61 0
    else
      let w := (s.tiles.get t).vec.phaseFlags
      let now := (s.tiles.get t).island.time.toNat
      let s := s.modPart e.part fun p => { p with replay := p.replay.modTimes e.logical fun k =>
        let k := k.takeFlags (if k.phase = 0 then phase.toNat else k.phase) w
        { k with phase := phase.toNat, markers := k.markers ++ [(phase.toNat, layer.toNat, marker.toNat, now)] } }
      (s.modTile t fun x => { x with vec := { x.vec with phaseFlags := 0 } }).issue t controlCtx e true)

/-! ### STEP and step-ready (R185, R186, R465) -/

/-- Every queue of the stream unit is Empty (R172). -/
def StreamUnit.allEmpty (u : StreamUnit) : Bool := u.queues.toList.all fun q => q.active.isNone && q.shadow.isNone && !q.faulted

/-- STEP (R172, R185, R186): issued when every earlier command of the list has completed and, in the stream list, every queue is Empty; the
context is at STEP until the commit, and its page buffer is free for the next step. -/
def execStep (t : TileId) (c : CtxId) (s : State) : Host.Outcome State Fault Refusal :=
  .next (s.command t c (.step t c) fun e s =>
    let x := s.tiles.get t
    if !(x.seqr.ctxs.get c).outstanding.isEmpty || (decide (c = 2) && !x.stream.allEmpty) then s.waitCtx t c
    else (s.issue t c e false).modCtx t c fun k => { k with state := .atStep, pages := [] })

/-- Every check status on the tile is final and passed (R186). -/
def Tile.allPassed (x : Tile) : Bool :=
  x.storeStatus.isEmpty && x.array.acc.toList.all (fun r => r.status == .passed) &&
  x.vec.regs.toList.all fun g => g.toList.all fun r => r.status == .passed

/-- Write the generator counters of a logical tile into snapshot slot n mod 2 (R465). -/
def Partition.writeSnapshot (p : Partition) (l : Nat) (ws : List Word64) : Partition :=
  let old := (p.snapshots.find? fun x => x.logical == l).getD ⟨l, none, none⟩
  let new := if p.run.step % 2 = 0 then { old with slot0 := some (p.run.step, ws) } else { old with slot1 := some (p.run.step, ws) }
  { p with snapshots := (p.snapshots.filter fun x => x.logical != l) ++ [new] }

/-- STEP_READY (R131, R186, R465): with its four contexts at STEP and every status passed, the tile writes its counters, empties its phase
flag word and sends its step-ready message, which the module controller receives here. -/
def execStepReady (t : TileId) (s : State) : Host.Outcome State Fault Refusal :=
  .next (match s.seat t with
    | none => s
    | some e =>
      let x := s.tiles.get t
      if x.seqr.stepReady || !(x.seqr.ctxs.toList.all fun k => k.state == .atStep) || !x.allPassed || x.island.state != .running
          || (s.parts.get e.part).run.halted then s
      else
        let s := s.modPart e.part fun p =>
          let p := p.writeSnapshot e.logical x.vec.counters
          { p with
            run := { p.run with ready := p.run.ready ++ [e.logical] }
            replay := p.replay.modTimes e.logical fun k => k.takeFlags (if k.phase = 0 then 1 else k.phase) x.vec.phaseFlags }
        s.modTile t fun x => { x with
          vec := { x.vec with phaseFlags := 0 }
          seqr := { x.seqr with stepReady := true } })

/-! ### Pages (R171, R185) -/

/-- The first page that a context can use: that of its position, or page 0 while it waits at its STEP. -/
def Context.firstPage (k : Context) : Nat := if k.state = .atStep then 0 else k.pos / 255

/-- PAGE_FETCH (R185): a context requests a page of its list, within the 8 pages from its read position and the tile's read allowance: one
stack read of 4 KiB. -/
def execPageFetch (t : TileId) (c : CtxId) (p : Nat) (s : State) : Host.Outcome State Fault Refusal :=
  .next (match s.seat t with
    | none => s
    | some e =>
      let x := s.tiles.get t
      let k := x.seqr.ctxs.get c
      if x.island.state == .running && decide (p < (e.image.listPages e.logical c.1).2) && decide (k.firstPage ≤ p ∧ p < k.firstPage + 8)
          && !k.pages.any (fun g => g.page == p) && decide (k.pages.length < 8)
          && decide (x.stream.outstanding [3, 4] + x.seqr.pageReads < (s.parts.get e.part).allowance) then
        let (sl, off) := (s.parts.get e.part).locatePage ((e.image.listPages e.logical c.1).1 + p)
        let s := s.send 2 2 (epStack (stackOf sl)) (epTile t) (32 + c.1) e.part (sliceAddr sl off) 0 0 (requestBody 0 4096 p 0)
        s.modCtx t c fun k => { k with pages := k.pages ++ [⟨p, none⟩] }
      else s)

/-- A page agrees with its trailer (R171, R185). -/
def pageOk (page : List Byte) (logical c p : Nat) : Bool :=
  let ws := bytesWords page
  page.length == 4096 && crcOk ws 511 && bits (wordAt ws 510) 63 56 == logical && bits (wordAt ws 510) 55 54 == c &&
  zeroField ws 510 53 32 && bits (wordAt ws 510) 31 0 == p && zeroField ws 511 31 0

/-- PAGE_ARRIVAL (R184, R185, R457): the core reads a page that it has requested from its inbound crossing and checks it against its trailer. A page that fails is fetched again
once; a second failure faults the context and calls for a step retry. Class and opcode of the command that it holds back are not known, and the record has 0 for them
(DESIGN CHOICE, log entry 62). -/
def execPageArrival (t : TileId) (c : CtxId) (p : Packet) (s : State) : Host.Outcome State Fault Refusal :=
  .next (match s.seat t with
    | none => s
    | some e =>
      let k := (s.tiles.get t).seqr.ctxs.get c
      let g := bits p.w1.toNat 31 0
      let page := p.payload.take (pktLength p)
      if !((s.tiles.get t).stream.received.contains p && pktKind p == 3 && pktFlow p == 32 + c.1) then s
      else
        let s := (s.take p).modTile t fun x => { x with stream := { x.stream with received := x.stream.received.erase p } }
        if !(k.pages.any fun z => z.page == g && z.bytes.isNone) then s
        else if pageOk page e.logical c.1 g then
          s.modCtx t c fun k => { k with
            pageWait := k.pageWait && k.pos / 255 != g
            pages := k.pages.map fun z => if z.page = g then { z with bytes := some page } else z }
        else
          let f : StructFail := { part := e.part, tile := some t, held := true, kind := 1, handle := BitVec.ofNat 32 (c.1 * 2 ^ 24 + g), seq := BitVec.ofNat 32 (bits (wordAt (bytesWords page) 510) 31 0) }
          let (sl, off) := (s.parts.get e.part).locatePage ((e.image.listPages e.logical c.1).1 + g)
          let s := s.modTile t fun x => { x with seqr := { x.seqr with pageFails := x.seqr.pageFails + 1 } }
          let second := (s.parts.get e.part).run.structFails.any (sameStruct f)
          let s := if second then s else s.send 2 2 (epStack (stackOf sl)) (epTile t) (32 + c.1) e.part (sliceAddr sl off) 0 0 (requestBody 0 4096 g 0)
          s.structFault t c f (max k.pos (255 * g)) 0 id)

end Sys2Proof.Machine
end

