-- ==== Sys2Proof/Machine/Buckle.lean ====
section
/-! DEFINITION. Buckles at their homes: the messages of R259, watches, closing counts, the placing of homes, broken sums and the probe (R251 to R265, R274,
R275, R472). -/

namespace Sys2Proof.Machine

/-! ### Homes (R255) -/

/-- The partition that holds the range of a physical Buckle. -/
def State.partOfBuckle (s : State) (b : Nat) : Option PartId := (allFin 16).find? fun n => (s.parts.get n).ranges.contains (rangeOf b)

/-- Homes of partition scope on the welt of a tile, all partitions. -/
def State.homesOn (s : State) (t : TileId) : Nat :=
  ((allFin 16).map fun n => ((s.parts.get n).place.homes.filter fun h => h.2 == .welt t).length).sum

/-- The welt that becomes the home of a Buckle: among the welts of the bound tiles that are not idle and have room, the one whose greatest distance to
the tiles that name the Buckle is least, then the lowest number (R255). -/
def State.chooseHome (s : State) (n : PartId) (namers : List TileId) : Option TileId :=
  let ok := (s.parts.get n).workers.filter fun t => decide (s.homesOn t < 64) && !(s.tiles.get t).island.weltFailed
  let far := fun (t : TileId) => (namers.map fun u => hops t u).foldl max 0
  (sortBy (fun t : TileId => 288 * far t + t.1) ok).head?

/-- Give every Buckle of partition scope that an image names a home; the count of those that found no room (R255). -/
def State.placeHomes (s : State) (n : PartId) (m : Image) (bs : List Nat) : State × Nat :=
  bs.foldl (fun (a : State × Nat) b =>
    let p := a.1.parts.get n
    match a.1.chooseHome n ((m.namers b).filterMap p.physOf) with
    | some t => (a.1.modPart n fun p => { p with place := { p.place with homes := Assoc.put (p.physBuckle b) (.welt t) p.place.homes } }, a.2)
    | none => (a.1, a.2 + 1)) (s, 0)

/-- At a generation advance the placer moves every home off a tile that has left the partition; without room the partition is reset (R255). -/
def State.rehome (s : State) (n : PartId) : State :=
  let p := s.parts.get n
  match p.image with
  | none => s
  | some m =>
    let away := fun (b : Nat) => match p.homeOf (p.physBuckle b) with
      | some (.welt t) => !p.workers.contains t || (s.tiles.get t).island.weltFailed
      | _ => false
    let bs := m.buckles.filter away
    if bs.isEmpty then s
    else
      let s' := s.modPart n fun p => { p with place := { p.place with homes := p.place.homes.filter fun h => !bs.any fun b => p.physBuckle b == h.1 } }
      let (s', left) := s'.placeHomes n m bs
      if left = 0 then s'
      else (s'.report .entry { s.mkReport 0x050B 3 4 (some n) epControl 0 with detailA := BitVec.ofNat 32 left }).resetPartition n 0x050B

/-! ### Broken sums (R274, R472) -/

/-- The endpoint of the home of a physical Buckle (R255). -/
def Partition.homeEp (p : Partition) (b : Nat) : Nat :=
  match p.homeOf b with
  | some (.welt w) => epWelt w
  | some (.sequencer l) => ((p.physOf l).map epTile).getD epControl
  | none => epControl

/-- A broken sum of Buckle tokens at its home: the partition that owns the Buckle is reset (R274, R472). -/
def State.brokenTokens (s : State) (n : PartId) (b expected observed : Nat) : State :=
  let home := (s.parts.get n).homeEp b
  (s.brokenSum 3 home b home expected observed (some n) 4).resetPartition n 0x0401

/-! ### Watches (R258) -/

/-- Send the satisfy messages of the watches of a Buckle whose targets its counter has reached, and remove them. -/
def State.fireWatches (s : State) (n : PartId) (w : TileId) (b : Nat) : State :=
  let v := s.buckle b
  let due := (s.tiles.get w).router.watches.filter fun x => x.buckle == b && decide (x.target ≤ v)
  let s := s.modTile w fun x => { x with router := { x.router with watches := x.router.watches.filter fun y => !(y.buckle == b && decide (y.target ≤ v)) } }
  due.foldl (fun (s : State) x =>
    match (s.parts.get n).physOf x.tile with
    | some t => s.sendBuckle (epWelt w) (epTile t) n ⟨4, x.list, false, x.tile, b, v, (s.ranges.get (rangeOf b)).generation, x.target, x.cmd⟩
    | none => s) s

/-- Register a watch under its logical tile and list (R258). -/
def State.registerWatch (s : State) (n : PartId) (w : TileId) (m : BuckleMsg) : State :=
  let k : Watch := ⟨n.1, m.source, m.list, m.buckle, m.target, m.cmd⟩
  (s.modTile w fun x => { x with router := { x.router with
    watches := (x.router.watches.filter fun y => !(y.part == n.1 && y.tile == m.source && y.list == m.list)) ++ [k] } }).fireWatches n w m.buckle

/-! ### Receiving a message (R258 to R260, R264, R265) -/

/-- The packet in flight that carries a message's words. -/
def State.messagePacket (s : State) (words : List Word64) : Option Packet :=
  s.fabric.inFlight.find? fun p => pktKind p == 7 && p.payload == wordsBytes words

/-- The source endpoint of a message: that of the packet that carries it, else what its words name. -/
def State.messageSource (s : State) (n : Option PartId) (words : List Word64) (m : BuckleMsg) : Nat :=
  match s.messagePacket words with
  | some p => pktSrc p
  | none => if m.fromLink then 312 + m.source else ((n.bind fun n => (s.parts.get n).physOf m.source).map epTile).getD epControl

/-- A message fails its check: it is rejected with its tokens, and reported (R260). -/
def State.rejectMessage (s : State) (n : Option PartId) (src : Nat) (words : List Word64) (m : BuckleMsg) : State :=
  let s := s.countTokens m.buckle m.generation 0 0 0 (if m.kind = 1 ∨ m.kind = 3 then m.count else 0)
  let seq := BitVec.ofNat 32 (bits (wordAt words 3) 31 0)
  match n with
  | some n => s.structFail { part := n, tile := none, held := false, kind := 7, handle := BitVec.ofNat 32 src, seq := seq }
  | none => s.report .entry { s.mkReport 0x0204 2 3 none epControl 0 with
      detailA := BitVec.ofNat 32 src
      detailB := mkWord [at_ 56 7, at_ 0 seq.toNat] }

/-- Take a message from its source to an endpoint: its CRC and its sequence number are checked; one that fails either is rejected (R260). A message that was made before
the numbers last started at 0 is of an older generation, and its number is not compared (DEDUCED, log entry 63). The second component says that it passed. -/
def State.takeMessage (s : State) (n : Option PartId) (src dst : Nat) (words : List Word64) (m : BuckleMsg) : State × Bool :=
  let s := match s.messagePacket words with
    | some p => s.take p
    | none => s
  let want := (Assoc.get (src, dst) s.fabric.buckleSeqIn).getD 0
  let seq := BitVec.ofNat 32 (bits (wordAt words 3) 31 0)
  let sound := words.length == 4 && crcOk words 3
  let late := sound && seq != want && decide (m.generation.toNat < (s.ranges.get (rangeOf m.buckle)).generation.toNat)
  if late then (s, true)
  else
    let s := { s with fabric := { s.fabric with
      buckleSeqIn := Assoc.put (src, dst) (if sound then seq + 1 else want + 1) s.fabric.buckleSeqIn } }
    if sound && seq == want then (s, true) else (s.rejectMessage n src words m, false)

/-- The partition and the closing count that tokens of a Buckle in a generation enter, while its window is open (R265). -/
def State.closingOf (s : State) (m : BuckleMsg) : Option (PartId × Closing) :=
  (allFin 16).findSome? fun n =>
    ((s.parts.get n).closing.find? fun c => c.buckle == m.buckle && c.generation == m.generation).map fun c => (n, c)

/-- Tokens of an older generation: one behind after a commit advance, they enter the closing count while its window is open; otherwise they are retired
(R264, R265). -/
def State.lateTokens (s : State) (m : BuckleMsg) : State :=
  match s.closingOf m with
  | some (n, c) =>
    let total := c.count + m.count
    let s := s.modPart n fun p => { p with closing := p.closing.map fun x => if x = c then { x with count := total } else x }
    let s := s.countTokens m.buckle m.generation 0 m.count 0 0
    if c.total < total then s.brokenTokens n m.buckle c.total total else s
  | none => s.countTokens m.buckle m.generation 0 0 m.count 0

/-- The endpoint at which a message arrives: that to which its packet goes, else the home of the Buckle that it names. -/
def State.messageDst (s : State) (n : Option PartId) (words : List Word64) (m : BuckleMsg) : Nat :=
  match s.messagePacket words with
  | some p => pktDst p
  | none => (n.map fun n => (s.parts.get n).homeEp m.buckle).getD epControl

/-- A welt receives a message of a kind: it is checked first; tokens are applied, watches registered, and reached watches satisfied. What is of an older
generation is handled by R264, whether its range is still bound or not. -/
def State.homeMessage (s : State) (kind : Nat) (words : List Word64) : State :=
  let m := buckleOfWords words
  let n := match s.messagePacket words with
    | some p => some (pktPart p)
    | none => s.partOfBuckle m.buckle
  let dst := s.messageDst n words m
  let dead := match tileOfEp dst with
    | some w => (s.tiles.get w).island.weltFailed
    | none => false
  if (crcOk words 3 && m.kind != kind) || dead then s
  else
    let (s, ok) := s.takeMessage n (s.messageSource n words m) dst words m
    if !ok then s
    else if m.generation ≠ (s.ranges.get (rangeOf m.buckle)).generation then
      if kind = 2 then s else s.lateTokens m
    else
      match n.bind fun n => ((s.parts.get n).homeOf m.buckle).map fun h => (n, h) with
      | some (n, .welt w) =>
        let s := if kind = 2 then s else (s.applyTokens m.buckle m.count).fireWatches n w m.buckle
        if kind = 1 then s else s.registerWatch n w m
      | _ => s

/-- BUCKLE_ARRIVE_MSG (R256, R258 to R260, R264, R265). -/
def execBuckleArriveMsg (words : List Word64) (s : State) : Host.Outcome State Fault Refusal := .next (s.homeMessage 1 words)
/-- BUCKLE_WATCH_MSG (R258 to R260, R264). -/
def execBuckleWatchMsg (words : List Word64) (s : State) : Host.Outcome State Fault Refusal := .next (s.homeMessage 2 words)
/-- BUCKLE_ARRIVE_WATCH_MSG (R256, R258 to R260, R264, R265). -/
def execBuckleArriveWatchMsg (words : List Word64) (s : State) : Host.Outcome State Fault Refusal := .next (s.homeMessage 3 words)

/-- BUCKLE_SATISFY_MSG (R258, R260, R264): the wait at the front of the named list issues. A satisfy message of an older generation is discarded. -/
def execBuckleSatisfyMsg (t : TileId) (words : List Word64) (s : State) : Host.Outcome State Fault Refusal :=
  .next (
    let m := buckleOfWords words
    match s.seat t with
    | none => s
    | some e =>
      let home := match (s.parts.get e.part).homeOf m.buckle with
        | some (.welt w) => epWelt w
        | _ => epControl
      let src := match s.messagePacket words with
        | some p => pktSrc p
        | none => home
      if crcOk words 3 && m.kind != 4 then s
      else
        let (s, ok) := s.takeMessage (some e.part) src (epTile t) words m
        let c : CtxId := Fin.ofNat 4 m.list
        let k := (s.tiles.get t).seqr.ctxs.get c
        if !ok ∨ m.generation ≠ (s.ranges.get (rangeOf m.buckle)).generation ∨ m.source ≠ e.logical ∨ k.pos ≠ m.cmd ∨ k.arrwaitSent = false ∨
            s.live t c = false then s
        else s.issue t c e true)

/-! ### Closing counts (R263, R265) -/

/-- The closing counts of a partition at a commit advance, beside those whose window is still open: every Buckle's counter as it stands, before the
advance. -/
def State.openClosing (s : State) (n : PartId) : State :=
  let p := s.parts.get n
  let cs := p.place.totals.map fun t => (⟨t.1, (s.ranges.get (rangeOf t.1)).generation, s.buckle t.1, t.2, s.time⟩ : Closing)
  let s := s.modPart n fun p => { p with closing := p.closing ++ cs }
  match cs.find? fun c => decide (c.total < c.count) with
  | some c => s.brokenTokens n c.buckle c.total c.count
  | none => s

/-- CLOSING_WINDOW_EXPIRY (R265, R274, R275): the window that opened first ends. Every closing count of it must equal its total; one check is made, and passed or
broken, for each. -/
def execClosingWindowExpiry (n : PartId) (s : State) : Host.Outcome State Fault Refusal :=
  .next (
    let all := (s.parts.get n).closing
    let at_ := (all.head?.map (·.opened)).getD 0
    let cs := all.filter fun c => c.opened == at_
    let s := s.modPart n fun p => { p with closing := all.filter fun c => c.opened != at_ }
    let good := (cs.filter fun c => c.count == c.total).length
    let s := { s with audit := { s.audit with
      checks := s.audit.checks + BitVec.ofNat 64 cs.length
      closingPassed := s.audit.closingPassed + BitVec.ofNat 64 good } }
    (cs.filter fun c => c.count != c.total).foldl (fun (s : State) c => s.brokenTokens n c.buckle c.total c.count) s)

/-- BUCKLE_PROBE (R275): the stored generation and counter of a physical Buckle, its declared total and its home. -/
def execBuckleProbe (b : BitVec 16) (s : State) : Host.Outcome State Fault Refusal :=
  .next (
    let i := b.toNat
    let (g, c) := (Assoc.get (i % 4096) (s.ranges.get (rangeOf i)).counters).getD (0, 0)
    let p := (s.partOfBuckle i).map fun n => s.parts.get n
    let home := match p.bind fun p => (p.homeOf i).map fun h => (p, h) with
      | some (_, .welt t) => t.1
      | some (p, .sequencer l) => ((p.physOf l).map (·.1)).getD 0xFFFF
      | none => 0xFFFF
    let total := (p.map fun p => p.totalOf i).getD 0
    { s with audit := { s.audit with
      probe := b
      probeResult := wordsBytes [g, c.setWidth 64, mkWord [at_ 32 home, at_ 0 total]] } })

end Sys2Proof.Machine
end

