-- ==== Sys2Proof/Machine/Cinch.lean ====
section
/-! DEFINITION. Cinch: edges and their timestamps, hold windows, the output and its test pulse (R389 to R402). -/

namespace Sys2Proof.Machine

/-- The Cinch circuits work in every module state but Off and Booting (R390). -/
def ModuleState.cinchOn : ModuleState → Bool
  | .off | .booting => false
  | _ => true

/-- Partition n observes Cinch (R393). -/
def State.observes (s : State) (n : PartId) : Bool := s.cinch.observe.toNat.testBit n.1

/-- A partition that an edge concerns: one that observes Cinch, or whose window is open, since a write of the setting takes effect at the next window (R401). -/
def State.watches (s : State) (n : PartId) : Bool :=
  s.observes n || ((s.parts.get n).window.map fun w => w.closed.isNone).getD false

/-- The hold window that opens with an update-complete message (R394); one of length 0 closes at once. -/
def State.openWindow (s : State) (n : PartId) : State :=
  if !s.observes n then s
  else
    let len := 1000 * s.cinch.window.toNat
    let w : HoldWindow := ⟨s.time, len, if len = 0 then some (s.time, none) else none⟩
    let s := s.modPart n fun p => { p with window := some w }
    if len = 0 then { s with cinch := { s.cinch with expired := s.cinch.expired + 1 } } else s

/-- An edge with a timestamp, in units of 0.25 ns, lies inside a window: the timestamp is rounded down to 1.25 ns, and so is the opening (R392, R394, R401). -/
def HoldWindow.takes (w : HoldWindow) (ts : Nat) : Bool := w.closed.isNone && decide (4 * w.opened / 5 * 5 ≤ ts ∧ ts < 4 * (w.opened + w.length))

/-- CINCH_EDGE (R391, R392, R394, R395, R398): a transition to logic 1 that lasts 8 ns. One that follows another by less than 40 ns is filtered; any other closes the open
windows that it lies in, and is ignored by the observing partitions that it serves not. -/
def execCinchEdge (quarterNs : Word64) (highNs : Nat) (s : State) : Host.Outcome State Fault Refusal :=
  .next (
    let q := quarterNs.toNat
    if s.module.state.cinchOn = false ∨ highNs < 8 then s
    else
      let near := (s.cinch.lastSeen.map fun x => decide (q < x + 160)).getD false
      let s := { s with cinch := { s.cinch with lastSeen := some q, level := true } }
      if near then { s with cinch := { s.cinch with filtered := s.cinch.filtered + 1 } }
      else
        let ts := q / 5 * 5
        let obs := (allFin 16).filter fun n => s.watches n
        let used := obs.filter fun n => ((s.parts.get n).window.map fun w => w.takes ts).getD false
        let unused := obs.filter fun n => !used.contains n
        let count := if used.isEmpty then 1 else unused.length
        let s := { s with cinch := { s.cinch with
          accepted := s.cinch.accepted + 1
          ignored := s.cinch.ignored + BitVec.ofNat 64 count
          lastEdge := BitVec.ofNat 64 ts
          outLevel := if s.cinch.outMode = 1 then true else s.cinch.outLevel } }
        let s := used.foldl (fun (s : State) n => s.modPart n fun p => { p with window := p.window.map fun w => { w with closed := some (ts / 4, some ts) } }) s
        (unused.filter fun n => (s.parts.get n).state == .loaded).foldl (fun (s : State) n => s.sbEvent n (mkWord [at_ 56 6]) (BitVec.ofNat 64 ts) 0) s)

/-- CINCH_IN_FALL (R391, R398): the level falls, and in Repeat mode the output follows. -/
def execCinchInFall (s : State) : Host.Outcome State Fault Refusal :=
  .next (
    if s.module.state.cinchOn then { s with cinch := { s.cinch with
      level := false
      outLevel := if s.cinch.outMode = 1 then false else s.cinch.outLevel } }
    else s)

/-- HOLD_WINDOW_EXPIRY (R394, R396): a window that no edge has closed closes at O + W, which is counted. -/
def execHoldWindowExpiry (n : PartId) (s : State) : Host.Outcome State Fault Refusal :=
  .next (match (s.parts.get n).window with
    | some w =>
      if w.closed.isSome then s
      else
        let s := s.modPart n fun p => { p with window := some { w with closed := some (w.opened + w.length, none) } }
        { s with cinch := { s.cinch with expired := s.cinch.expired + 1 } }
    | none => s)

/-- CINCH_TEST_PULSE (R398): a write of 1 sends one pulse in Idle mode and in Configured; in any other mode or state the write is ignored and counted. -/
def execCinchTestPulse (v : BitVec 8) (s : State) : Host.Outcome State Fault Refusal :=
  .next (
    if v ≠ 1 then s
    else if s.module.state = .configured ∧ s.cinch.outMode = 0 then { s with cinch := { s.cinch with pulses := s.cinch.pulses + 1 } }
    else { s with cinch := { s.cinch with testIgnored := s.cinch.testIgnored + 1 } })

end Sys2Proof.Machine
end

