-- ==== Sys2Proof/Machine/Collective.lean ====
section
/-! DEFINITION. Delivery of reduced gradients, node copies, gathers from peer stacks, norm trailers and permutes (R344, R348 to R354). -/

namespace Sys2Proof.Machine

/-! ### Delivery (R344, R348, R349) -/

/-- The range of a bucket that covers a wire block. -/
def Image.rangeAt (m : Image) (h block : Nat) : Option BucketRange :=
  (m.rangesOf h).find? fun r => decide (r.offset ≤ 32 * block ∧ 32 * block < r.offset + r.count)

/-- The FP32 code that a final block delivers for an exact sum: S × 2^x / c rounded once, +0 where nothing contributed (R344). -/
def deliveredCode (sum : Int) (x : Int) (count : Nat) : Nat :=
  if count = 0 ∨ sum = 0 then 0
  else
    let q := ratMag sum.natAbs count x
    (fmtFP32.rne (decide (sum < 0)) q.1 q.2).code

/-- Every declaration of a lower number that covers any of some elements of a weight has delivered them (R348). -/
def Partition.lowerDelivered (p : Partition) (m : Image) (weight number first count : Nat) : Bool :=
  (m.ranges_.filter fun r => r.weight == weight && decide (r.number < number)).all fun r =>
    let lo := max first r.first
    let hi := min (first + count) (r.first + r.count)
    if hi ≤ lo then true
    else
      let b0 := (r.offset + (lo - r.first)) / 32
      let b1 := (r.offset + (hi - 1 - r.first)) / 32
      (List.range (b1 + 1 - b0)).all fun j => (((p.bucket r.bucket).bind fun b => b.block (b0 + j)).map (·.delivered)).getD false

/-- A declaration of a lower number covers an element of a weight. -/
def Image.lowerCovers (m : Image) (weight number i : Nat) : Bool :=
  m.ranges_.any fun r => r.weight == weight && decide (r.number < number ∧ r.first ≤ i ∧ i < r.first + r.count)

/-- Write delivered values into the accumulation buffer of a weight: blocks that carry another tag are zeros first, and an element that a lower declaration
has written is added to (R197, R348). -/
def Partition.deliver (p : Partition) (m : Image) (d : TensorDecl) (number first : Nat) (codes : List Nat) : Partition :=
  let key : RegionKey := ⟨d.handle, .accumulation, false⟩
  let lo := (p.part d).1
  let off := 4 * (first - lo)
  let old := words32 (p.readAcc d.handle off (4 * codes.length))
  let vals := codes.zipIdx.map fun (c, j) =>
    if m.lowerCovers d.handle number (first + j) then (fmtFP32.add (fmtFP32.decode (old.getD j 0)) (fmtFP32.decode c)).code else c
  let stale := (blocksOf off (4 * codes.length)).filter fun b => !(p.weights.region key).tagged (4096 * b) 4096 p.tag
  let w := stale.foldl (fun (w : Weights) b => w.write key (4096 * b) (List.replicate 4096 0) (some p.tag)) p.weights
  { p with weights := w.write key off (vals.flatMap (leBytes 4)) (some p.tag) }

/-- The other members of the node that a shard index stands in (R236, R349). -/
def Partition.nodeMembers (p : Partition) (lead : Nat) : List Nat :=
  ((List.range p.width).filter fun i => i / p.node == lead / p.node && i != lead).map p.memberOf

/-- A node copy of one wire block (R349, DESIGN CHOICE, log entry 15): bucket and block; exponent, divisor and carried flag; step and attempt; sequence number and CRC; 32 sums as
INT32. -/
def nodeCopyBytes (h block attempt step seq : Nat) (w : WireBlock) : List Byte :=
  let body := (List.range 32).flatMap fun j => leBytes 4 (ofSigned 32 (w.sums.getD j 0))
  wordsBytes (sealCrc ([mkWord [at_ 32 h, at_ 0 block],
    mkWord [at_ 56 attempt, at_ 48 w.pass, at_ 47 (decide (w.fate = .carried)).toNat, at_ 16 w.count, at_ 0 (ofSigned 16 w.exponent)],
    BitVec.ofNat 64 step, at_ 0 (seq % 2 ^ 32)] ++ bytesWords body) 3)

/-- ACCUMULATION_DELIVERY (R344, R348, R349): a final block's sums, scaled and divided once, are written into the accumulation buffer, after the deliveries of lower
declarations into the same 4 KiB blocks; a carried block delivers +0. The lead of a node then sends the exact sums on VC1 to the node's other members (R25). -/
def execAccumulationDelivery (n : PartId) (bucket : BitVec 32) (block : Nat) (s : State) : Host.Outcome State Fault Refusal :=
  .next (
    let h := bucket.toNat
    match s.bucketSeat n h with
    | none => s
    | some (q, m, l) =>
      match (q.bucketOr m h).block block, m.rangeAt h block with
      | some w, some r =>
        match m.tensor r.weight with
        | none => s
        | some d =>
          let first := r.first + (32 * block - r.offset)
          let lo := (q.part d).1
          let a := lo + (first - lo) / 1024 * 1024
          let b := lo + (first - lo + 31) / 1024 * 1024 + 1024
          let decided := w.fate == .carried || (w.fate == .final && !w.sums.isEmpty)
          if w.delivered ∨ !decided ∨ !q.holdsBlock m h block ∨ !q.lowerDelivered m r.weight r.number a (b - a) then s
          else
            let sums := if w.fate = .carried then List.replicate 32 0 else w.sums
            let s := s.modPart n fun p => p.deliver m d r.number first (sums.map fun v => deliveredCode v w.exponent w.count)
            let s := s.modBucket n m h fun b => b.modBlock block fun w => { w with delivered := true }
            let s :=
              if q.byNodes d && q.chunkOf m h block == q.shard then
                let seq := (s.parts.get n).ctl (chanCopyOut, h)
                let bs := nodeCopyBytes h block q.run.attempt q.run.step seq w
                let to_ := q.nodeMembers q.shard
                let s := to_.foldl (fun (s : State) x => s.sendMember n x 2 0x06 1 bs) s
                if to_.isEmpty then s else s.setCtl n (chanCopyOut, h) (seq + 1)
              else s
            s.tryDone n m l h
      | _, _ => s)

/-- NODE_COPY (R349): a member of the owning node takes the exact sums of a block with their exponent and divisor, for its own delivery. -/
def execNodeCopy (n : PartId) (bucket : BitVec 32) (bytes : List Byte) (s : State) : Host.Outcome State Fault Refusal :=
  .next (
    let h := bucket.toNat
    match s.bucketSeat n h with
    | none => s
    | some (q, m, _) =>
      let ws := bytesWords bytes
      let block := bits (wordAt ws 0) 31 0
      let w1 := wordAt ws 1
      let lead := q.chunkOf m h block
      let (s, ok) := s.takeCtl n (chanCopyIn lead, h) ws 0x06 epControl
      if !ok ∨ bits (wordAt ws 0) 63 32 ≠ h ∨ wordAt ws 2 ≠ q.run.step ∨ bits w1 63 56 ≠ q.run.attempt ∨ lead = q.shard ∨ !q.holdsBlock m h block then s
      else
        let carried := bitAt w1 47
        let sums := (words32 (slice bytes 32 128)).map (signed 32)
        s.modBucket n m h fun b => b.modBlock block fun w => { w with
          fate := if carried then .carried else .final
          sums := if carried then [] else sums
          count := bits w1 46 16
          exponent := signed 16 (bits w1 15 0)
          maxSum := (sums.map Int.natAbs).foldl max 0 })

/-! ### Gathers and norm trailers (R350, R352) -/

/-- The ten words of a 640-bit sum, least significant first. -/
def sumWords (v : Nat) : List Word64 := (List.range 10).map fun i => BitVec.ofNat 64 (v / 2 ^ (64 * i))

/-- A norm trailer (R352, DESIGN CHOICE, log entry 15): weight handle; the step of the sums; zero; sequence number and CRC; then three sums of ten words. -/
def normTrailerBytes (h step seq : Nat) (k : NormSums) : List Byte :=
  wordsBytes (sealCrc ([mkWord [at_ 32 h], BitVec.ofNat 64 step, 0, at_ 0 (seq % 2 ^ 32)] ++ sumWords k.g ++ sumWords k.w ++ sumWords k.u) 3)

/-- The number that ten words from word `i` on spell. -/
def sumOfWords (ws : List Word64) (i : Nat) : Nat := ((List.range 10).map fun j => wordAt ws (i + j) * 2 ^ (64 * j)).sum

/-- This module sends the norm trailer of a weight: at most 64 modules, and for a weight held by nodes the lead alone (R352). -/
def Partition.sendsNorms (p : Partition) (d : TensorDecl) : Bool :=
  decide (p.settings.modules.toNat ≤ 64) && (!p.byNodes d || p.shard % p.node == 0)

/-- A part may be served to a member (R24, R198): no commit is under way, and the member has not finished the step. After its update-complete message what it asks for
belongs to the next step. -/
def Partition.mayServe (p : Partition) (member : Nat) : Bool := p.run.record.isNone && !p.run.updateIn.contains member

/-- The first part of a weight that a member is served in a step carries the norm trailer of the step before (R352). -/
def State.sendNorms (s : State) (n : PartId) (d : TensorDecl) (member : Nat) : State :=
  let p := s.parts.get n
  match Assoc.get d.handle p.reduce.prevNorms with
  | none => s
  | some sums =>
    if p.reduce.served.contains (d.handle, member) ∨ !p.sendsNorms d then s
    else
      let seq := p.ctl (chanNormOut member, d.handle)
      let s := s.sendMember n member 2 0x0A 0 (normTrailerBytes d.handle (p.run.step - 1) seq sums)
      let s := s.setCtl n (chanNormOut member, d.handle) (seq + 1)
      s.modPart n fun p => { p with reduce := { p.reduce with served := p.reduce.served ++ [(d.handle, member)] } }

/-- GATHER_REQUEST (R24, R200, R350, R352): a request that the link die has taken from another member. The Skiver of the stack that holds the group serves the part at the
step's scales, and the link die sends it as kind 0x06 on VC1 to the tile that asked. The legs on this module's mesh are taken with the command (DESIGN CHOICE, log entry
64). -/
def execGatherRequest (l : LinkId) (n : PartId) (member : BitVec 16) (p : Packet) (s : State) : Host.Outcome State Fault Refusal :=
  .next (
    let q := s.parts.get n
    let x := member.toNat
    let a := partAsk p
    match (s.linkDies.get l).asks.find? (fun z => z.part == n && z.member == x && z.packet == p), q.image.bind fun m => (m.tensor a.handle).map fun d => (m, d) with
    | some ask, some (m, d) =>
      match q.partStack m d a.group with
      | none => s
      | some k =>
        if !q.mayServe x then s
        else
          match s.servePart k n m d a with
          | (none, s) => s
          | (some bs, s) =>
            let s := s.modLink l fun z => { z with asks := z.asks.erase ask }
            let s := s.sendBack n ask 0x06 1 (linkAddr x 1 0 (answerAddr p).toNat) bs
            let s := { s with collective := { s.collective with gatherServed := s.collective.gatherServed + 1 } }
            s.sendNorms n d x
    | _, _ => s)

/-- NORM_TRAILER (R352): a peer's exact sums of the previous step, for the global norms. -/
def execNormTrailer (n : PartId) (member : BitVec 16) (bytes : List Byte) (s : State) : Host.Outcome State Fault Refusal :=
  .next (
    let p := s.parts.get n
    let ws := bytesWords bytes
    let h := bits (wordAt ws 0) 63 32
    let x := member.toNat
    if p.state ≠ .loaded then s
    else
      let (s, ok) := s.takeCtl n (chanNormIn x, h) ws 0x0A epControl
      if !ok ∨ wordAt ws 1 + 1 ≠ p.run.step then s
      else
        let t : Nat × Nat × NormSums := (h, x, ⟨sumOfWords ws 4, sumOfWords ws 14, sumOfWords ws 24⟩)
        s.modPart n fun p => { p with reduce := { p.reduce with
          trailers := (p.reduce.trailers.filter fun z => !(z.1 == h && z.2.1 == x)) ++ [t] } })

/-! ### Permutes (R354) -/

/-- An entry of a map tensor: source member and offset, destination member and offset. -/
def Partition.mapEntry (p : Partition) (m : Image) (map i : Nat) : Nat × Nat × Nat × Nat :=
  let bs := p.tensorRead m map (16 * i) 16 false
  let a := field bs 0 8
  let b := field bs 8 8
  (bits a 63 48, bits a 47 0, bits b 63 48, bits b 47 0)

/-- The map of a permute is sound for this module (R197, R354): offsets are multiples of 4,096, no block is written twice, and every block of the module's own part is
written. -/
def Partition.mapSound (p : Partition) (m : Image) (h map count : Nat) : Bool :=
  let es := (List.range count).map fun i => p.mapEntry m map i
  let dsts := es.map fun e => (e.2.2.1, e.2.2.2)
  let bytes := ((p.movedRegions m h true).map (·.2)).sum
  es.all (fun e => e.2.1 % 4096 == 0 && e.2.2.2 % 4096 == 0) && dsts.eraseDups.length == count &&
  (List.range (ceilDiv bytes 4096)).all fun b => dsts.contains (p.settings.logical.toNat, 4096 * b)

/-- PERMUTE_BLOCK_MOVE (R82, R328, R354): one entry of a permute's map, once the map is sound: a map comes with the tensors' contents and not with the image, so that it is
checked here (DEDUCED, log entry 25). A block of this module's goes to its alternate buffer here, or to its destination's module; a block from another member, whose
bytes arrive with the command, is written to the alternate buffer. With the last entry that concerns this module the done arrival is sent. -/
def execPermuteBlockMove (n : PartId) (decl entry : Nat) (data : List Byte) (s : State) : Host.Outcome State Fault Refusal :=
  .next (
    let p := s.parts.get n
    match p.image with
    | none => s
    | some m =>
      match m.decls[decl - 1]? with
      | none => s
      | some d =>
        let h := bits (wordAt d.words 0) 63 32
        let map := bits (wordAt d.words 0) 31 0
        let count := wordAt d.words 1
        let me := p.settings.logical.toNat
        let (sm, so, dm, doff) := p.mapEntry m map entry
        if p.state ≠ .loaded ∨ p.run.running = false ∨ p.run.halted = true ∨ d.kind ≠ 3 ∨ decl = 0 ∨ count ≤ entry ∨
            p.reduce.permuted.contains (decl, entry) = true ∨ (sm ≠ me ∧ dm ≠ me) ∨ (sm ≠ me ∧ data.length ≠ 4096) ∨ p.mapSound m h map count = false then s
        else
          let block := if sm = me then p.weights.readRuns (p.movedRegions m h false) so 4096 else data
          let s :=
            if dm = me then s.modPart n fun p => { p with weights := p.weights.writeRuns (p.movedRegions m h true) doff block (p.writeTag m) }
            else s.sendVia n dm 2 0x06 1 (linkAddr dm 1 decl (16 * entry)) block
          let s := s.modPart n fun p => { p with reduce := { p.reduce with permuted := p.reduce.permuted ++ [(decl, entry)] } }
          let mine := (List.range count).filter fun i =>
            let e := p.mapEntry m map i
            e.1 == me || e.2.2.1 == me
          let low := ((sortBy (fun q : PortId => q.1) p.ports).head?).getD 0
          if mine.all fun i => (s.parts.get n).reduce.permuted.contains (decl, i) then s.sendDone n (linkOf low) d.done else s)

end Sys2Proof.Machine
end

