-- ==== Sys2Proof/Machine/Commit.lean ====
section
/-! DEFINITION. The step boundary: layer stamp tables, the update-complete message, the commit in its three steps, and Compare mode's comparison and releases
(R186, R214 to R217, R263, R366, R377, R379, R382 to R384, R396, R503, R506). -/

namespace Sys2Proof.Machine

/-! ### Layer stamp tables (R365, R366) -/

/-- Every arming that a tile started in a layer has completed. -/
def State.layerClosed (s : State) (t : TileId) (e : Seat) (layer : Nat) : Bool :=
  (s.tiles.get t).stream.queues.toList.all fun k =>
    let hit := fun (a : Arming) => a.started && e.stampLayer a.startCmd == layer
    !((k.active.map hit).getD false) && !((k.shadow.map hit).getD false)

/-- A tile's layer stamp table goes to the controller, which adds it into the step's fingerprints (R366). -/
def State.sendTable (s : State) (t : TileId) (e : Seat) (layer : Nat) : State :=
  let u := (s.tiles.get t).stamp
  match Assoc.get layer u.tables with
  | none => s
  | some fs =>
    let bs := (Assoc.get layer u.tableBlocks).getD []
    let s := s.modTile t fun x => { x with stamp := { x.stamp with
      tables := Assoc.del layer x.stamp.tables
      tableBlocks := Assoc.del layer x.stamp.tableBlocks
      sent := x.stamp.sent + 1 } }
    s.modPart e.part fun p => { p with replay := { p.replay with
      tables := p.replay.tables ++ [(e.logical, layer, fs)]
      blocks := p.replay.blocks ++ bs } }

/-- LAYER_STAMP_TABLE (R366): the preamble's table stands under its own number (DESIGN CHOICE, log entry 14). -/
def execLayerStampTable (t : TileId) (layer : Nat) (s : State) : Host.Outcome State Fault Refusal :=
  .next (match s.seat t with
    | some e => if s.layerClosed t e layer then s.sendTable t e layer else s
    | none => s)

/-- The tables of step-ready tiles that are still on their way reach the controller before a record closes (R366). -/
def State.collectTables (s : State) (n : PartId) : State :=
  (s.parts.get n).workers.foldl (fun (s : State) t =>
    match s.seat t with
    | some e => ((s.tiles.get t).stamp.tables.map (·.1)).foldl (fun (s : State) l => s.sendTable t e l) s
    | none => s) s

/-! ### Conditions of the commit (R197, R214, R215) -/

/-- The double-buffered tensors of an image with the alternate regions that a step writes in each (R194, R196). -/
def Partition.alternates (p : Partition) (m : Image) : List (Nat × List (RegionKey × Nat)) :=
  m.tensors.filterMap fun d =>
    match d.kind with
    | 1 =>
      let own := p.tensorRegions m d.handle true
      let b := !p.weights.bit d.handle
      let n := 8192 * p.groupsOf d
      let moments := if m.stateHandle d = d.handle ∧ m.ruleOf d ≠ 0 then
        [(⟨d.handle, .moment1, b⟩, n)] ++ (if m.ruleOf d = 2 then [(⟨d.handle, .moment2, b⟩, n)] else []) else []
      some (d.handle, own ++ moments)
    | 6 | 7 => some (d.handle, p.tensorRegions m d.handle true)
    | _ => none

/-- The 4 KiB blocks of some regions, each with whether its last write belongs to the current step and attempt (R197). -/
def Partition.blockTags (p : Partition) (rs : List (RegionKey × Nat)) : List Bool :=
  rs.flatMap fun r => (List.range (ceilDiv r.2 4096)).map fun b => (Assoc.get b (p.weights.region r.1).tags) == some p.tag

/-- The double-buffered tensors written in full in the step, and those written in part (R197, R214). -/
def Partition.written (p : Partition) (m : Image) : List Nat × List Nat :=
  let xs := (p.alternates m).map fun a => (a.1, p.blockTags a.2)
  ((xs.filter fun x => !x.2.isEmpty && x.2.all id).map (·.1), (xs.filter fun x => x.2.any id && !x.2.all id).map (·.1))

/-- Condition 1 of R214: every logical tile is step-ready. -/
def Partition.allReady (p : Partition) (m : Image) : Bool := (List.range m.tiles).all fun l => p.run.ready.contains l

/-- Condition 2 of R214: every group of every weight that the step updates is updated, and none is marked failed. -/
def Partition.allUpdated (p : Partition) (m : Image) : Bool :=
  (m.updatedWeights.all fun h => match m.tensor h with
    | some d => m.ruleOf d == 0 || (List.range (p.groupsOf d)).all fun g => p.weights.group h g == .updated
    | none => true) &&
  p.weights.groups.all fun g => !m.updatedWeights.contains g.1.1 || (g.2 != .sweepFailed && g.2 != .updateFailed)

/-- Condition 2 of R215: every bucket has sent its done arrival. -/
def Partition.allReduced (p : Partition) (m : Image) : Bool := m.bucketHandles.all fun h => ((p.bucket h).map (·.doneSent)).getD false

/-- The conditions of R215 but for the comparison. -/
def Partition.boundary (p : Partition) (m : Image) : Bool :=
  p.state == .loaded && p.run.running && p.run.retry.isNone && p.run.record.isNone && !p.run.updateSent && p.allReady m && p.allUpdated m &&
  (p.written m).2.isEmpty && p.allReduced m && p.odd.checked && !p.odd.held

/-- Condition 4 of R214: a message for the current step and attempt is held from every member. -/
def Partition.allMembers (p : Partition) : Bool := p.run.updateSent && p.others.all fun x => p.run.updateIn.contains x

/-- The hold of R396 begins when conditions 1 to 4 first hold. -/
def State.noteHold (s : State) (n : PartId) : State :=
  s.modPart n fun p => if p.allMembers && p.run.heldSince.isNone then { p with run := { p.run with heldSince := some s.time } } else p

/-! ### The update-complete message (R215, R394) -/

/-- Send the update-complete message when every condition holds; the hold window opens (R215, R394, R443). -/
def State.trySendUpdate (s : State) (n : PartId) : State :=
  let p := s.parts.get n
  match p.image with
  | none => s
  | some m =>
    let compared := p.replay.inForce != .compare || p.replay.compared
    if !(p.boundary m && compared) then s
    else
      let ws := updateCompleteWords p.settings.logical.toNat p.run.attempt (BitVec.ofNat 64 p.run.step) p.run.updateOut
      let s := s.sendMembers n (wordsBytes ws)
      let s := s.modPart n fun p => { p with
        run := { p.run with updateSent := true, updateOut := (p.run.updateOut + 1) % 2 ^ 32 }
        slack := { p.slack with sentAfter := some (s.time - p.replay.stepStart) } }
      (s.openWindow n).noteHold n

/-- UPDATE_COMPLETE_SEND (R214, R215). -/
def execUpdateCompleteSend (n : PartId) (s : State) : Host.Outcome State Fault Refusal := .next (s.trySendUpdate n)

/-- UPDATE_COMPLETE_RECEIVE (R215, R457): a message for another step or attempt is discarded; one that fails its CRC or its sequence number calls for a step retry,
and so does one with a reserved field that is not 0, of which the manual says nothing (DESIGN CHOICE, log entry 72). -/
def execUpdateCompleteReceive (n : PartId) (words : List Word64) (s : State) : Host.Outcome State Fault Refusal :=
  .next (
    let p := s.parts.get n
    let sender := bits (wordAt words 0) 63 48
    let seq := bits (wordAt words 3) 31 0
    let want := (Assoc.get sender p.run.updateSeq).getD 0
    let sound := words.length == 4 && crcOk words 3
    if p.state ≠ .loaded then s
    else
      let s := s.modPart n fun p => { p with run := { p.run with
        updateSeq := Assoc.put sender ((if sound then seq + 1 else want + 1) % 2 ^ 32) p.run.updateSeq } }
      if !(sound && seq == want && zeroField words 0 39 0 && wordAt words 2 == 0) then
        s.structFail { part := n, tile := none, held := false, kind := 0x0A, handle := BitVec.ofNat 32 epControl, seq := BitVec.ofNat 32 seq }
      else if wordAt words 1 ≠ p.run.step ∨ bits (wordAt words 0) 47 40 ≠ p.run.attempt ∨ p.others.contains sender = false ∨ p.run.updateIn.contains sender = true then s
      else (s.modPart n fun p => { p with run := { p.run with updateIn := p.run.updateIn ++ [sender] } }).noteHold n)

/-! ### The commit (R214, R216, R217, R263, R377, R396) -/

/-- The length of a step's hold, and the timestamp of the edge that ended it (R396). -/
def Partition.hold (p : Partition) : Nat × Option Nat :=
  match p.window.bind (·.closed), p.run.heldSince with
  | some (c, ts), some h => (c - h, ts)
  | _, _ => (0, none)

/-- Write the hold of a step: event 0x05 and the entries of R402, when it is not zero. -/
def State.recordHold (s : State) (n : PartId) : State :=
  let p := s.parts.get n
  let (len, ts) := p.hold
  if len = 0 then s
  else
    let stamp := BitVec.ofNat 64 (ts.getD (2 ^ 64 - 1))
    let s := s.sbEvent n (mkWord [at_ 56 5]) (BitVec.ofNat 64 len) stamp
    { s with cinch := { s.cinch with
      lastHold := wordsBytes [mkWord [at_ 60 n.1], BitVec.ofNat 64 p.run.step, BitVec.ofNat 64 len, stamp]
      holdTime := s.cinch.holdTime + BitVec.ofNat 64 len } }

/-- The commit message (R216, DESIGN CHOICE, log entry 15): partition, attempt and number of tensors; step; sequence and CRC; the tensors' handles. -/
def commitWords (n attempt step : Nat) (hs : List Nat) : List Word64 :=
  sealCrc ([mkWord [at_ 60 n, at_ 40 attempt, at_ 0 hs.length], BitVec.ofNat 64 step, 0, 0] ++ hs.map (BitVec.ofNat 64 ·)) 3

/-- COMMIT_POINT (R214, R216, R263, R265, R377, R396, R398): conditions 1, 2 and 4 hold. A tensor found written in part is a commit fault. Once condition 5 holds too, the
commit record is written, the record of the step takes its content, the generations advance, and the commit message leaves. -/
def execCommitPoint (n : PartId) (s : State) : Host.Outcome State Fault Refusal :=
  .next (
    let p := s.parts.get n
    match p.image with
    | none => s
    | some m =>
      if p.state ≠ .loaded ∨ p.run.record.isSome = true ∨ !(p.allReady m && p.allUpdated m && p.allMembers) then s
      else match (p.written m).2 with
      | h :: _ =>
        let s := s.report .entry { s.mkReport 0x0308 3 4 (some n) epControl 0 with detailA := BitVec.ofNat 32 h }
        s.resetPartition n 0x0308
      | [] =>
        if (p.window.map fun w => w.closed.isSome) == some false then s
        else
          let s := (s.recordHold n).collectTables n
          let hs := (p.written m).1
          let rec_ := s.buildRecord n m s.time
          let on := p.replay.inForce != .off
          let stacks_ := (p.slices.map stackOf).eraseDups
          let s := s.modPart n fun p => { p with
            run := { p.run with record := some (p.run.step, p.run.attempt, hs), acksDue := stacks_, commitAt := s.time }
            replay := { p.replay with
              closing := if on then some (p.run.step, rec_) else none
              events := []
              times := [] } }
          let s := (s.openClosing n)
          if (s.parts.get n).state ≠ .loaded then s
          else
            let s := s.advancePart n
            let bs := wordsBytes (commitWords n.1 p.run.attempt p.run.step hs)
            let s := stacks_.foldl (fun (s : State) k => s.sendControl (epStack k) epControl 0 n bs) s
            let s := p.workers.foldl (fun (s : State) t => s.sendControl (epTile t) epControl 0 n bs) s
            let s := if s.cinch.outMode = 2 ∧ s.cinch.outPart.toNat = n.1 then { s with cinch := { s.cinch with pulses := s.cinch.pulses + 1 } } else s
            s.rehome n)

/-- COMMIT_FLIP (R196, R216): a base die flips the current bit of every tensor in the commit record, and acknowledges. -/
def execCommitFlip (k : StackId) (n : PartId) (s : State) : Host.Outcome State Fault Refusal :=
  .next (
    let p := s.parts.get n
    match p.run.record with
    | none => s
    | some (_, _, hs) =>
      if !p.run.acksDue.contains k then s
      else
        let s := s.modStack k fun x => { x with current := hs.foldl (fun (c : List ((Nat × Nat) × Bool)) h =>
          Assoc.put (n.1, h) (!((Assoc.get (n.1, h) c).getD false)) c) x.current }
        s.modPart n fun p => { p with run := { p.run with acksDue := p.run.acksDue.erase k } })

/-- The records held after a new one: the oldest whole records that its pages need are gone (R369). -/
def Partition.keepRecord (p : Partition) (step : Nat) (bs : List Byte) : List (Nat × List Byte) :=
  let all := (p.replay.records.filter fun r => r.1 != step) ++ [(step, bs)]
  let total := (all.map fun r => r.2.length).sum
  (all.foldl (fun (a : List (Nat × List Byte) × Nat) r =>
    if p.area < a.2 ∧ r.1 ≠ step then (a.1, a.2 - r.2.length) else (a.1 ++ [r], a.2)) ([], total)).1

/-- The record of a step closes (R377, R387). -/
def Partition.closeRecord (p : Partition) : Partition :=
  match p.replay.closing with
  | none => p
  | some (step, bs, chain, cut) =>
    { p with replay := { p.replay with
      records := p.keepRecord step bs
      chain := chain
      written := p.replay.written + 1
      truncated := if cut then p.replay.truncated + 1 else p.replay.truncated
      closing := none } }

/-- The history of G of the updated weights after a commit, newest first, of the last 16 (R477). -/
def Odd.committed (o : Odd) (norms : List (Nat × NormSums)) : Odd where
  history := norms.foldl (fun (hs : List (Nat × List Word64)) w =>
    Assoc.put w.1 ((BitVec.ofNat 64 (normCode w.2.g) :: (Assoc.get w.1 hs).getD []).take 16) hs) o.history
  checked := false
  held := false

/-- The partition after the commit of a step: step n + 1 and attempt 0, the committed bits and rings, empty working tables, and the mode that the setting asks
for (R75, R216, R334, R379, R446). -/
def Partition.nextStep (p : Partition) (m : Image) (hs : List Nat) : Partition :=
  let p := p.closeRecord
  let step := p.run.step
  let w := p.weights.commitRings step
  let r := p.reduce.commitRings (fun h b => p.chunkOf m h b == p.shard) step
  let x := p.replay
  { p with
    run := { p.run with
      step := step + 1
      attempt := 0
      running := false
      committed := some step
      ready := []
      updateSent := false
      updateIn := []
      heldSince := none
      record := none
      acksDue := []
      structFails := [] }
    weights := { w with
      current := hs.foldl (fun (c : List (Nat × Bool)) h => Assoc.put h (!((Assoc.get h c).getD false)) c) w.current
      groups := []
      mismatched := []
      norms := []
      sweeping := false }
    reduce := { r with
      buckets := []
      contributions := []
      wireExps := []
      trailers := []
      prevNorms := p.weights.norms
      served := []
      permuted := [] }
    replay := { x with
      inForce := x.setting
      tables := []
      fingers := []
      blocks := []
      counts := []
      stepStart := p.run.commitAt
      stopped := false
      compared := false }
    odd := p.odd.committed p.weights.norms
    slack := { p.slack with
      notices := []
      baseline := p.slack.sentAfter
      sentAfter := none
      last := none
      ceiling := none }
    window := none }

/-- A tile at the commit: every STEP completes, and its contexts stand idle at index 0 of the next step (R186, R216). -/
def Tile.committed (x : Tile) : Tile :=
  let done := (x.seqr.ctxs.toList.map fun k => k.outstanding.length).sum
  let y := x.restart none
  { y with
    seqr := { y.seqr with
      ctxs := y.seqr.ctxs.map fun k => { k with state := .idle }
      completed := y.seqr.completed + BitVec.ofNat 64 done }
    stamp := { y.stamp with sent := 0 }
    power := { y.power with slackCeiling := 900 } }

/-- COMMIT_ACKS_IN (R216, R503, R506): with every acknowledgement in, the step number becomes n + 1, the record closes, every STEP completes, and the host learns of the commit
and, with no allowance left, that the partition is parked. A retry that was called after the commit point belongs to the new step. -/
def execCommitAcksIn (n : PartId) (s : State) : Host.Outcome State Fault Refusal :=
  .next (
    let p := s.parts.get n
    match p.image, p.run.record with
    | some m, some (step, attempt, hs) =>
      if !p.run.acksDue.isEmpty then s
      else
        let s := s.modPart n fun p => p.nextStep m hs
        let s := s.modTiles p.workers Tile.committed
        let parked := p.run.allowance == 0
        let s := s.modPart n fun p => { p with run := { p.run with parked := parked } }
        let s := match p.func with
          | none => s
          | some f => s.modFn f fun h =>
            let h := { h with fed := h.fed.filter fun e => decide (step ≤ e.arg.toNat) }
            let h := if parked then h.raiseVector s.time 2 else h
            let h := h.post (s.linkUp f) s.time ⟨0x80, 0, 0, BitVec.ofNat 64 step, BitVec.ofNat 32 (attempt + 1)⟩
            if parked then h.post (s.linkUp f) s.time ⟨0x81, 0, 0, BitVec.ofNat 64 step, 0⟩ else h
        match p.run.retry with
        | some code => (s.modPart n fun p => { p with run := { p.run with retry := none } }).callRetry n code.toNat
        | none => s
    | _, _ => s)

/-! ### Compare mode (R382 to R384) -/

/-- COMPARE_STEP (R382, R383): before the update-complete message, the record of the step is compared with its reference. On a match the message is sent; a mismatch writes the report, the
event and the error record, and the partition stops. -/
def execCompareStep (n : PartId) (s : State) : Host.Outcome State Fault Refusal :=
  .next (
    let p := s.parts.get n
    match p.image, p.referenceNow with
    | some m, some ref =>
      if p.replay.inForce ≠ .compare ∨ p.replay.compared = true ∨ p.replay.stopped = true ∨ !p.boundary m then s
      else
        let s := s.collectTables n
        let own := (s.buildRecord n m s.time).1
        match firstDivergence ref own with
        | none => (s.modPart n fun p => { p with replay := { p.replay with compared := true } }).trySendUpdate n
        | some d =>
          let s := s.modPart n fun p => { p with replay := { p.replay with
            stopped := true
            stops := p.replay.stops + 1
            report := divergenceReport p.run.step d } }
          let s := s.sbEvent n (mkWord [at_ 56 0x0B]) (BitVec.ofNat 64 d.key) (BitVec.ofNat 64 d.f)
          s.recordOwn { s.mkReport 0x030A 0 0 (some n) epControl 0 with detailB := BitVec.ofNat 64 d.key }
    | _, _ => s)

/-- A Compare stop is released so that the message may go (R384). -/
def State.releaseCompare (s : State) (n : PartId) (leave : Bool) : State :=
  if (s.parts.get n).replay.stopped then
    (s.modPart n fun p => { p with replay := { p.replay with
      stopped := false
      compared := true
      setting := if leave then .record else p.replay.setting } }).trySendUpdate n
  else s

/-- COMPARE_CONTINUE (R384). -/
def execCompareContinue (n : PartId) (s : State) : Host.Outcome State Fault Refusal := .next (s.releaseCompare n false)

/-- COMPARE_RETRY (R384): the stop ends in a step retry, whose attempt is compared again. -/
def execCompareRetry (n : PartId) (s : State) : Host.Outcome State Fault Refusal :=
  .next (
    if (s.parts.get n).replay.stopped then
      (s.modPart n fun p => { p with replay := { p.replay with stopped := false } }).callRetry n 0x030A
    else s)

/-- COMPARE_LEAVE (R384): as continue, with the mode set to Record. -/
def execCompareLeave (n : PartId) (s : State) : Host.Outcome State Fault Refusal := .next (s.releaseCompare n true)

end Sys2Proof.Machine
end

