-- ==== Sys2Proof/Machine/Cuts.lean ====
section
/-! DEFINITION. Port tables and the cut assignment that every member of a partition computes from them (R238 to R240). -/

namespace Sys2Proof.Machine

/-- Length class in force at a port: the override, or the class read from the cable, 3 when it is unread (R238, R306). -/
def State.lengthClass (s : State) (p : PortId) : Nat :=
  let o := s.placer.lengthOverride.get p
  if o = 0xFF then min 3 ((s.ports.get p).identity.headD 0xFF).toNat else o.toNat

/-- A port is trained: its mode is in force (R320, R325). -/
def Port.trained (x : Port) : Bool := x.state == .up || x.state == .retraining || x.state == .draining

/-- A port's entry in the port table: the peer's serial number and port, the mode (0 when untrained), the length class, and whether it is
confirmed as matched; 16 bytes (R238, DESIGN CHOICE, log entry 19). -/
def State.tableEntry (s : State) (p : PortId) : List Byte :=
  let x := s.ports.get p
  (List.range 13).map (fun i => x.peer.getD i 0)
    ++ [BitVec.ofNat 8 (if x.trained then x.mode else 0), BitVec.ofNat 8 (s.lengthClass p), BitVec.ofNat 8 x.matched.toNat]

/-- The layout of a partition as its members compare it (R235): module count, D, E and P, then the member table. -/
def PartSettings.layout (k : PartSettings) : List Byte :=
  leBytes 2 k.modules.toNat ++ leBytes 2 k.shardWidth.toNat ++ leBytes 2 k.expertWidth.toNat ++ leBytes 2 k.depth.toNat ++ k.members

/-- The port table of this module for a partition: ports that are not bound to it read 0; the partition's layout follows it (DESIGN CHOICE, log entry 19). -/
def State.ownTable (s : State) (n : PartId) : List Byte :=
  ((allFin 16).flatMap fun p => if (s.parts.get n).ports.contains p then s.tableEntry p else List.replicate 16 0) ++ (s.parts.get n).settings.layout

/-- A cable between two members: their logical numbers, the ports at its ends, and its class, 3 counted as long. -/
structure Joint where
  a : Nat
  pa : Nat
  b : Nat
  pb : Nat
  cls : Nat
  deriving DecidableEq, Repr

/-- The serial number of a member, from the member table (R248). -/
def Partition.serialOf (p : Partition) (m : Nat) : Option (List Byte) :=
  let e := (List.range (p.settings.members.length / 16)).find? fun i => field p.settings.members (16 * i + 12) 2 == m
  match e with
  | some i => some (slice p.settings.members (16 * i) 12)
  | none => if m = p.settings.logical.toNat then some Config.serial else none

/-- The member with a serial number. -/
def Partition.memberOfSerial (p : Partition) (sn : List Byte) : Option Nat :=
  (List.range p.settings.modules.toNat).find? fun m => p.serialOf m == some sn

/-- The trained, matched cables among the members, each from its lower-numbered member. -/
def Partition.joints (p : Partition) : List Joint :=
  let entry := fun (m q : Nat) => slice ((Assoc.get m p.place.tables).getD []) (16 * q) 16
  let good := fun (e : List Byte) => e.getD 13 0 != 0 && e.getD 15 0 == 1
  p.place.tables.flatMap fun (m, _) => (List.range 16).filterMap fun q =>
    let e := entry m q
    if good e then
      match p.memberOfSerial (e.take 12) with
      | none => none
      | some k =>
        let q' := (e.getD 12 0).toNat
        let f := entry k q'
        if m < k ∧ good f = true ∧ p.memberOfSerial (f.take 12) = some m ∧ (f.getD 12 0).toNat = q then
          some ⟨m, q, k, q', min 2 (max (e.getD 14 0).toNat (f.getD 14 0).toNat)⟩
        else none
    else none

/-- The cut assignment under way: ports taken (module, port, cut), and the edges with the module and port of each hop, empty for an
edge with no route. -/
structure CutWork where
  taken : List (Nat × Nat × Nat)
  edges : List (Nat × Nat × Nat × List (Nat × Nat × Nat))
  deriving Repr

/-- The cables that join two members directly, shortest class first, then the lowest port of the lower-numbered member. -/
def directJoints (js : List Joint) (a b : Nat) : List Joint :=
  sortBy (fun j => 16 * j.cls + j.pa) (js.filter fun j => j.a == min a b && j.b == max a b)

/-- A cable of which neither end is taken. -/
def CutWork.untaken (w : CutWork) (j : Joint) : Bool :=
  !w.taken.any fun t => (t.1 == j.a && t.2.1 == j.pa) || (t.1 == j.b && t.2.1 == j.pb)

/-- The far end of the cable at a port of a member: member, port and class. -/
def farEnd (js : List Joint) (m q : Nat) : Option (Nat × Nat × Nat) :=
  js.findSome? fun j => if j.a = m ∧ j.pa = q then some (j.b, j.pb, j.cls) else if j.b = m ∧ j.pb = q then some (j.a, j.pa, j.cls) else none

/-- Follow the cables from a port of a member: every module on the way is left by the other port of the link die by which it was entered
(R318). The hops are module, port and class. -/
def follow (js : List Joint) (b : Nat) : Nat → Nat → Nat → Option (List (Nat × Nat × Nat))
  | 0, _, _ => none
  | n + 1, m, q =>
    match farEnd js m q with
    | none => none
    | some (k, q', c) => if k = b then some [(m, q, c)] else (follow js b n k (if q' % 2 = 0 then q' + 1 else q' - 1)).map ((m, q, c) :: ·)

/-- The forwarded route of a pair: fewest module hops, then the smallest sum of classes, then the lowest port numbers (R239). -/
def forwardedRoute (js : List Joint) (a b : Nat) : List (Nat × Nat × Nat) :=
  let all := (List.range 16).filterMap fun q => follow js b 16 a q
  ((sortBy (fun (r : List (Nat × Nat × Nat)) => 1000 * r.length + (r.map fun h => h.2.2).sum) all).head?).getD []

/-- Give one pair of a pass its port: an untaken direct one, a taken direct one, or a forwarded route (R239). -/
def CutWork.assign (js : List Joint) (cut : Nat) (w : CutWork) (a b : Nat) : CutWork :=
  let ds := directJoints js a b
  match (match ds.find? w.untaken with
    | some j => some j
    | none => ds.head?) with
  | some j =>
    let mine := if j.a = a then j.pa else j.pb
    { w with
      taken := if w.untaken j then w.taken ++ [(j.a, j.pa, cut), (j.b, j.pb, cut)] else w.taken
      edges := w.edges ++ [(cut, a, b, [(a, mine, j.cls)])] }
  | none => { w with edges := w.edges ++ [(cut, a, b, forwardedRoute js a b)] }

/-- The ring order of a shard group, as shard indices: its members stand from `base` (R239). -/
def ringOrder (js : List Joint) (base width : Nat) : Nat → List Nat → List Nat
  | 0, ring => ring
  | n + 1, ring =>
    let a := base + ring.getLastD 0
    let free := (List.range width).filter fun d => !ring.contains d
    let near := sortBy (fun d => ((directJoints js a (base + d)).head?.map (·.cls)).getD 3) (free.filter fun d => !(directJoints js a (base + d)).isEmpty)
    match near.head? with
    | some d => ringOrder js base width n (ring ++ [d])
    | none => match free.head? with
      | some d => ringOrder js base width n (ring ++ [d])
      | none => ring

/-- The three passes over all members of a partition. -/
def Partition.cutWork (p : Partition) : CutWork :=
  let js := p.joints
  let wd := max 1 p.settings.shardWidth.toNat
  let e := max 1 p.settings.expertWidth.toNat
  let depth := max 1 p.settings.depth.toNat
  let w : CutWork := ⟨[], []⟩
  let w := (List.range (e * depth)).foldl (fun (w : CutWork) g =>
    let base := wd * g
    let ring := ringOrder js base wd (wd - 1) [0]
    if wd < 2 then w
    else (List.range wd).foldl (fun (w : CutWork) i => w.assign js 1 (base + ring.getD i 0) (base + ring.getD ((i + 1) % wd) 0)) w) w
  let w := (List.range (wd * depth)).foldl (fun (w : CutWork) g =>
    (List.range e).foldl (fun (w : CutWork) i => (List.range e).foldl (fun (w : CutWork) j =>
      if i < j then w.assign js 2 (g % wd + wd * (i + e * (g / wd))) (g % wd + wd * (j + e * (g / wd))) else w) w) w) w
  (List.range (depth - 1)).foldl (fun (w : CutWork) k =>
    (List.range (wd * e)).foldl (fun (w : CutWork) x => w.assign js 3 (x + wd * e * k) (x + wd * e * (k + 1))) w) w

/-- The port by which a member reaches another: that of its edge, else the shortest direct one, else the first of a forwarded route. -/
def CutWork.port (js : List Joint) (w : CutWork) (a b : Nat) : Option Nat :=
  match w.edges.find? fun e => e.2.1 == a && e.2.2.1 == b && !e.2.2.2.isEmpty with
  | some e => (e.2.2.2.head?).map (·.2.1)
  | none =>
    match w.edges.find? fun e => e.2.1 == b && e.2.2.1 == a && e.2.2.2.length == 1, (directJoints js a b).head? with
    | some e, some _ =>
      let theirs := ((e.2.2.2.head?).map (·.2.1)).getD 16
      (directJoints js a b).findSome? fun j => if (if j.a = b then j.pa else j.pb) = theirs then some (if j.a = a then j.pa else j.pb) else none
    | _, some j => some (if j.a = a then j.pa else j.pb)
    | _, none => ((forwardedRoute js a b).head?).map (·.2.1)

/-- The entries of a port's forwarding table: for each pair without a direct cable whose route enters this module by it (R318). -/
def forwardEntries (js : List Joint) (modules own : Nat) (p : Nat) : List (Nat × PortId) :=
  (List.range modules).filterMap fun b =>
    let out := if p % 2 = 0 then p + 1 else p - 1
    let passes := (List.range modules).any fun a => (directJoints js a b).isEmpty && (forwardedRoute js a b).any fun h => h.1 == own && h.2.1 == out && a != own
    if passes then some (b, Fin.ofNat 16 out) else none

/-- Compute the cut assignment of a partition from its tables, and say whether every pair has a route (R239, R240). A port at either end of a hop of a forwarded
route that no edge takes is assigned forwarding. -/
def State.assignCuts (s : State) (n : PartId) : State × Bool :=
  let p := s.parts.get n
  let js := p.joints
  let w := p.cutWork
  let own := p.settings.logical.toNat
  let wd := max 1 p.settings.shardWidth.toNat
  let ring := ringOrder js (wd * (own / wd)) wd (wd - 1) [0]
  let through := fun (q : PortId) => w.edges.any fun e => 1 < e.2.2.2.length && e.2.2.2.any fun h =>
    (h.1 == own && h.2.1 == q.1) || ((farEnd js h.1 h.2.1).map fun f => (f.1, f.2.1)) == some (own, q.1)
  let cuts := p.ports.filterMap fun q =>
    match w.taken.find? fun t => t.1 == own && t.2.1 == q.1 with
    | some t => some (q, t.2.2)
    | none => if through q then some (q, 4) else none
  let routes := p.others.filterMap fun m => (w.port js own m).map fun q => (m, Fin.ofNat 16 q)
  let pipe := (w.edges.filter fun e => e.1 == 3).flatMap fun e => e.2.2.2.map fun h => h.2.2
  let ringCls := (w.edges.filter fun e => e.1 == 1).flatMap fun e => e.2.2.2.map fun h => h.2.2
  let long := match pipe with
    | [] => false
    | c :: cs => ringCls.any fun x => decide (cs.foldl min c < x)
  let warn : BitVec 2 := BitVec.ofNat 2 (long.toNat + 2 * (w.edges.any fun e => decide (1 < e.2.2.2.length)).toNat)
  let s := s.modPart n fun p => { p with place := { p.place with ring := ring, cuts := cuts, routes := routes, cutWarnings := warn } }
  let s := p.ports.foldl (fun (s : State) q => s.modPort q fun x => { x with forwarding := forwardEntries js p.settings.modules.toNat own q.1 }) s
  (s, w.edges.all fun e => !e.2.2.2.isEmpty)

/-- The ports by which tables travel before there is an assignment: a direct one where a cable joins the two members, else the lowest trained port, whose
peer passes the table on (DESIGN CHOICE, log entry 19). -/
def State.firstRoutes (s : State) (n : PartId) : List (Nat × PortId) :=
  let p := s.parts.get n
  let up := p.ports.filter fun q => (s.ports.get q).trained
  p.others.filterMap fun m =>
    match up.find? fun q => (p.serialOf m) == some ((s.ports.get q).peer.take 12) with
    | some q => some (m, q)
    | none => up.head?.map fun q => (m, q)

/-- A port table as a Loaded partition uses it: a port without a cable at load stays without one until the next load (R320). -/
def keepLost (old new_ : List Byte) : List Byte :=
  ((List.range 16).flatMap fun q =>
    let e := slice new_ (16 * q) 16
    if slice old (16 * q) 16 != [] && (slice old (16 * q) 16).getD 13 0 == 0 then e.set 13 0 else e) ++ new_.drop 256

/-- The words of a port table on its way to a member: the sender's logical number, then the table (DESIGN CHOICE, log entry 19). -/
def State.sendPortTable (s : State) (n : PartId) : State :=
  let p := s.parts.get n
  let own := p.settings.logical.toNat
  let bs := if p.state = .loaded then keepLost ((Assoc.get own p.place.tables).getD []) (s.ownTable n) else s.ownTable n
  let s := s.modPart n fun p => { p with place := { p.place with
    tables := Assoc.put own bs p.place.tables
    routes := if p.place.routes.isEmpty then s.firstRoutes n else p.place.routes } }
  p.others.foldl (fun (s : State) m => s.sendMember n m 1 0x0B 3 (leBytes 2 own ++ bs)) s

/-- PORT_TABLE (R238, R239, R320): the table is kept, and a Loaded partition recomputes its assignment; a pair that has become unreachable
resets it (R240). -/
def State.takeTable (s : State) (n : PartId) (member : Nat) (table : List Byte) : State × Bool :=
  let p := s.parts.get n
  let old := (Assoc.get member p.place.tables).getD []
  let t := if p.state = .loaded then keepLost old table else table
  let s := s.modPart n fun p => { p with place := { p.place with tables := Assoc.put member t p.place.tables } }
  if p.state = .loaded then s.assignCuts n else (s, true)

end Sys2Proof.Machine
end

