-- ==== Sys2Proof/Machine/Welt.lean ====
section
/-! DEFINITION. The welt and its core: drains, forced closes, wakes, the local port and the failures of welts and dies (R36 to R54,
R283, R284, R416 to R419). -/

namespace Sys2Proof.Machine

/-- The quiesce acknowledgement of R47 step 4. -/
def ackWord : Word64 := 2
/-- The ready word of R51 step 3. -/
def readyWord : Word64 := 3

/-- CORE_STATE_REQUEST (R46, R50): a target of Running, Retain or Off, or a fence. -/
def execCoreStateRequest (t : TileId) (target : BitVec 2) (fence : Bool) (s : State) : Host.Outcome State Fault Refusal :=
  .next (s.requestCore t
    (if fence then .fence else if target = 0 then .running else if target = 1 then .retain else .off) 4)

/-- Packets that the core has read and not used end with it. -/
def State.dropReceived (s : State) (t : TileId) : State :=
  let s' := (s.tiles.get t).stream.received.foldl (fun (s : State) p => s.take p) s
  s'.modTile t fun x => { x with stream := { x.stream with received := [] } }

/-- Packets that the core has not begun to write end inside it (R47 step 2). -/
def State.dropUnsent (s : State) (t : TileId) : State :=
  let s' := (s.tiles.get t).island.outPackets.foldl (fun (s : State) p => s.take p) s
  s'.modTile t fun x => { x with island := { x.island with outPackets := [] } }

/-- QUIESCE_REQUEST (R47 steps 1 to 3): the core takes the request, stops issue in all four contexts and starts no other packet; the welt
closes ingress at a packet boundary. -/
def execQuiesceRequest (t : TileId) (s : State) : Host.Outcome State Fault Refusal :=
  let i := (s.tiles.get t).island
  if i.state = .draining ∧ i.inCtl.contains quiesceWord then
    .next ((s.dropUnsent t).modTile t fun x => ({ x with
      island := { x.island.takeIn quiesceWord with quiesced := true }
      seqr := { x.seqr with ctxs := x.seqr.ctxs.map fun c => { c with state := .idle } } } : Tile).closeIngress)
  else .next s

/-- FINAL_POINTERS (R47 step 4): the core takes the final pointers, reads the inbound crossing up to them and sends the quiesce
acknowledgement. -/
def execFinalPointers (t : TileId) (s : State) : Host.Outcome State Fault Refusal :=
  let i := (s.tiles.get t).island
  if i.state = .draining ∧ i.quiesced = true ∧ i.finalSent = true ∧ (i.finals.all fun w => i.inCtl.contains w) = true then
    .next (s.modTile t fun x => { x with
      island := { i.finals.foldl Island.takeIn x.island with inRead := i.inWritten, inPackets := [] }.sendOut ackWord
      stream := { x.stream with received := x.stream.received ++
        ((x.island.inPackets.filter fun z => !z.cut && usedWhole z.packet).map (·.packet)) } })
  else .next s

/-- QUIESCE_ACK (R47 step 5): the welt takes the acknowledgement. -/
def execQuiesceAck (t : TileId) (s : State) : Host.Outcome State Fault Refusal :=
  let i := (s.tiles.get t).island
  if i.state = .draining ∧ i.outCtl.contains ackWord then
    .next (s.modTile t fun x => { x with island := { x.island.takeOut ackWord with acked := true } })
  else .next s

/-- The outbound data crossing holds nothing. -/
def Tile.outboundEmpty (x : Tile) : Bool := !x.router.bufs.any fun e => e.feed == .core

/-- CORE_CLOCK_STOP (R47 step 6): the outbound crossing is empty, so the clock stops, the state is Stopped, and the target of the drain
follows (R50). -/
def execCoreClockStop (t : TileId) (s : State) : Host.Outcome State Fault Refusal :=
  let x := s.tiles.get t
  if x.island.state = .draining ∧ x.island.acked = true ∧ x.outboundEmpty = true then
    .next ((((s.dropUnsent t).dropReceived t).modTile t fun x => x.goStopped).afterStopped t)
  else .next s

/-- QUIESCE_TIMEOUT (R48): no acknowledgement in 50 µs, so the welt makes a forced close. -/
def execQuiesceTimeout (t : TileId) (s : State) : Host.Outcome State Fault Refusal :=
  let i := (s.tiles.get t).island
  if i.state = .draining ∧ i.acked = false then .next ((s.forcedClose t).afterStopped t)
  else .next s

/-- CORE_RAIL_LOSS (R49, R411, R463): a forced close at once, the state is Off, and the tile dies. An Off core has no rail to lose. -/
def execCoreRailLoss (t : TileId) (s : State) : Host.Outcome State Fault Refusal :=
  if (s.tiles.get t).island.state = .off then .next s
  else .next ((s.forcedClose t).tileDeath t 0x0501 3 false false)

/-! ### Checks at the local port -/

/-- The partition mask of a router input: the partitions of packets that crossed it in the last 100 µs (R458). -/
def Router.mask (r : Router) (port : RPort) (now : Nat) : List PartId :=
  (allFin 16).filter fun n => match Assoc.get (port, n) r.seen with
    | some at_ => decide (now ≤ at_ + 100000)
    | none => false

/-- The bits of a list of partitions. -/
def maskBits (ns : List PartId) : Nat := (ns.map fun n => 2 ^ n.1).sum

/-- A header fault at a router input (R283, R458): counted, reported with the mask, and a step retry of every partition in it. -/
def State.headerFault (s : State) (t : TileId) (port : RPort) : State :=
  let ns := (s.tiles.get t).router.mask port s.time
  let s := s.modTile t fun x => { x with router := { x.router with headerFaults := x.router.headerFaults + 1 } }
  let s := { s with fabric := { s.fabric with headerFaults := s.fabric.headerFaults + 1 } }
  let s := s.report (.welt t) { s.mkReport 0x0201 2 3 none (epTile t) port.1 with
    detailA := BitVec.ofNat 32 port.1, detailB := BitVec.ofNat 64 (maskBits ns) }
  ns.foldl (fun (s : State) n => s.callRetry n 0x0201) s

/-- An uncorrectable flit resets the partition that the header names (R283). -/
def State.flitUncorrectable (s : State) (t : TileId) (port : RPort) (p : Packet) : State :=
  let s := { s with fabric := { s.fabric with uncorrectable := s.fabric.uncorrectable + 1 } }
  let s := s.report (.welt t) { s.mkReport 0x0106 3 4 (some (pktPart p)) (epTile t) port.1 with
    detailA := BitVec.ofNat 32 port.1, detailB := p.w1 }
  s.resetPartition (pktPart p) 0x0106

/-- One or two symbol errors are corrected and counted (R283, R304). -/
def State.flitCorrected (s : State) (t : TileId) : State :=
  let s := s.modTile t fun x => { x with router := { x.router with correctedFlits := x.router.correctedFlits + 1 } }
  { s with fabric := { s.fabric with correctedFlits := s.fabric.correctedFlits + 1 } }

/-- The destination's check of a sequence number (R283, R284): greater within a window of 2^31, or no entry. -/
def State.seqFresh (s : State) (dst : Nat) (p : Packet) : Bool :=
  match Assoc.get (dst, pktSrc p, pktFlow p, pktVc p) s.fabric.history with
  | none => true
  | some (last, _) =>
    let d := (pktSeq p + 2 ^ 32 - last.toNat) % 2 ^ 32
    decide (0 < d ∧ d < 2 ^ 31)

/-- Record an accepted number (R284): an endpoint holds at most 4,096 entries, and the one idle longest makes room. -/
def State.accept (s : State) (dst : Nat) (p : Packet) : State :=
  let key := (dst, pktSrc p, pktFlow p, pktVc p)
  let h := s.fabric.history
  let mine := h.filter fun e => e.1.1 == dst && e.1 != key
  let h := if 4096 ≤ mine.length then
      match (sortBy (fun e => e.2.2) mine).head? with
      | some o => Assoc.del o.1 h
      | none => h
    else h
  { s with fabric := { s.fabric with history := Assoc.put key (BitVec.ofNat 32 (pktSeq p), s.time) h } }

/-- A sequence fault (R283, R458): consumed, counted, reported, and a step retry of the partition that the header names. -/
def State.sequenceFault (s : State) (t : TileId) (dst : Nat) (p : Packet) : State :=
  let last := match Assoc.get (dst, pktSrc p, pktFlow p, pktVc p) s.fabric.history with
    | some (l, _) => l.toNat
    | none => 0
  let s := { s with fabric := { s.fabric with sequenceFaults := s.fabric.sequenceFaults + 1 } }
  let s := s.report (.welt t) { s.mkReport 0x0202 2 3 (some (pktPart p)) (epTile t) 0 with
    detailA := BitVec.ofNat 32 (pktSrc p), detailB := mkWord [at_ 32 ((last + 1) % 2 ^ 32), at_ 0 (pktSeq p)] }
  s.callRetry (pktPart p) 0x0202

/-- The packet crosses the input of its partition's mask (R458). -/
def State.seenAt (s : State) (t : TileId) (port : RPort) (p : Packet) : State :=
  s.modTile t fun x => { x with router := { x.router with seen := Assoc.put (port, pktPart p) s.time x.router.seen } }

/-! ### Wakes -/

/-- WAKE_REQUEST (R46, R416, R419): the class is 1 for a substitution, 2 for a migration or a self-test, 3 for a re-bind, 0 (class 4)
for the governor. -/
def execWakeRequest (t : TileId) (cls : BitVec 2) (s : State) : Host.Outcome State Fault Refusal :=
  .next (s.requestCore t .running (if cls = 0 then 4 else cls.toNat))

/-- SOFT_START_END (R417, R51 steps 2 and 3): in regulation the clock starts at 100 MHz, the allowance starts at 20 A and the core sends
its ready word; otherwise the wake fails and the tile is fenced. -/
def execSoftStartEnd (t : TileId) (millivolts : Nat) (s : State) : Host.Outcome State Fault Refusal :=
  let x := s.tiles.get t
  if x.island.state = .waking ∧ x.power.softStart = true then
    let s := s.modDie (dieOf t) fun d => { d with softStartTile := none }
    let v := railFor t 100
    if millivolts ≤ v + 20 ∧ v ≤ millivolts + 20 then
      let s := s.modTile t fun x =>
        { x with
          island := { x.island.resetCoreHalves with clock := 100 }.sendOut readyWord
          power := { x.power with softStart := false, rail := millivolts, allowance := 20, rising := true } }
      .next (s.tryAdmit (dieOf t))
    else
      let s := s.report (.welt t) (s.mkReport 0x0507 2 2 (s.partOfTile t) (epTile t) 0)
      let s := s.modTile t fun x => x.goOff
      .next ((s.fenceTile t none false).tryAdmit (dieOf t))
  else .next s

/-- READY_WORD (R51 steps 4 and 5, R224, R225, R46): the clock rises to its setpoint, the state is Running and ingress opens; a tile that left a partition has been
scrubbed, and drains at once with its ingress closed, to Retain as a designated spare and to Off otherwise; after a scrub that failed, and a fence raised during the wake, ingress stays closed and the core drains toward Off. A tile under test runs its tests here at 800 MHz with ingress
closed (R486). -/
def execReadyWord (t : TileId) (scrubOk : Bool) (s : State) : Host.Outcome State Fault Refusal :=
  let x := s.tiles.get t
  if x.island.state = .waking ∧ x.island.outCtl.contains readyWord then
    if scrubOk = false then
      let s := s.report (.welt t) (s.mkReport 0x0508 1 7 none (epTile t) 0)
      .next ((s.modTile t fun x => ({ x with island := x.island.takeOut readyWord } : Tile).startDrain .fence).fenceTile t none false)
    else if x.test.last = .running then
      .next (s.modTile t fun x =>
        let y := x.setClock t 800
        { y with island := y.island.takeOut readyWord })
    else if x.island.scrubDue then
      let s := s.modTile t fun x =>
        let y := x.scrubbed
        { y with island := { (y.island.takeOut readyWord) with state := .running, ingressOpen := false, held := none, scrubDue := false } }
      .next (s.requestCore t (if x.island.fenced then .fence else if s.placer.designated.contains t then .retain else .off) 3)
    else
      let held := x.island.held
      let s := s.modTile t fun x =>
        let y := x.setClock t x.clockSetpoint
        { y with island := { y.island.takeOut readyWord with state := .running, ingressOpen := !x.island.fenced, held := none } }
      if x.island.fenced then .next (s.modTile t fun x => x.startDrain .fence)
      else match held with
        | some g => .next (s.requestCore t g 4)
        | none => .next s
  else .next s

/-! ### Failures -/

/-- A welt fails: its router carries nothing, it is listed in OD 0x2700.0A, and partitions whose Buckles it was home to retry, as do
those of the packets that its buffers held. Of every partition with packets that it had spilled, all escape packets are discarded and
their slots freed (R53, R268, R293, R302). -/
def State.failWelt (s : State) (t : TileId) : State :=
  let homes := (allFin 16).filter fun n => (s.parts.get n).place.homes.any fun h => h.2 == .welt t
  let x := s.tiles.get t
  let s := s.modTile t fun x => { x with
    island := { x.island with weltFailed := true, ingressOpen := false }
    router := { x.router with bufs := [], watches := [], probe := none, stuck := [], spilling := [] } }
  let ns := ((s.fabric.escape.filter fun e => e.welt == t).map fun e => pktPart e.packet).eraseDups
  let spilled := s.fabric.escape.filter fun e => ns.contains (pktPart e.packet)
  let lost := (x.router.bufs.map (·.packet)) ++ spilled.map (·.packet)
  let s := s.retireLost (s.fabric.inFlight.filter fun p => lost.contains p)
  let s := { s with
    module := { s.module with weltFailed := s.module.weltFailed ++ [t] }
    tiles := s.tiles.map fun y => { y with router := ns.foldl (fun r n => r.endSpill spilled n) y.router }
    fabric := { s.fabric.freeSlots spilled with
      alternates := false
      escape := s.fabric.escape.filter fun e => !ns.contains (pktPart e.packet)
      inFlight := s.fabric.inFlight.filter fun p => !lost.contains p } }
  (homes ++ (lost.map pktPart)).eraseDups.foldl (fun (s : State) n => s.callRetry n 0x0502) s

/-- WELT_FAULT (R53, R268, R459): the core goes dark as a tile death, and traffic goes around the welt. -/
def execWeltFault (t : TileId) (s : State) : Host.Outcome State Fault Refusal :=
  if (s.tiles.get t).island.weltFailed then .next s
  else .next (((s.tileDeath t 0x0502 t.1 false true).failWelt t).refreshModule)

/-- The die's rail is lost: its four cores and welts die, in ascending number (R54, R247). -/
def State.loseDie (s : State) (d : DieId) : State :=
  let s := s.modDie d fun x => { x with railLost := true, railMillivolts := 0, railMilliamps := 0, requests := [], softStartTile := none }
  ((tilesOfDie d).foldl (fun (s : State) t =>
    if (s.tiles.get t).island.weltFailed then s
    else (s.tileDeath t 0x0503 d.1 true true).failWelt t) s).refreshModule

/-- DIE_RAIL_LOSS (R54, R459). -/
def execDieRailLoss (d : DieId) (s : State) : Host.Outcome State Fault Refusal :=
  if (s.dies.get d).railLost then .next s else .next (s.loseDie d)

end Sys2Proof.Machine
end

