-- ==== Sys2Proof/Machine/Fabric.lean ====
section
/-! DEFINITION. The on-wafer fabric: where packets go, and what a packet's way changes for its transfer (R276 to R278, R291, R292). -/

namespace Sys2Proof.Machine

/-! ### Geometry (R276 to R278, R291) -/

/-- The routers at which an endpoint stands on the mesh. -/
def routersOf (e : Nat) : List TileId :=
  match endpointOf e with
  | some (.core t) => [t]
  | some (.welt t) => [t]
  | some _ => (edgePorts.filter fun x => x.2.2 == e).map (·.1)
  | none => []

/-- The nearest of some routers, the lower number when several lie equally far. -/
def nearest (a : TileId) (ts : List TileId) : Option TileId := (sortBy (fun t => 288 * hops a t + t.1) ts).head?

/-- The router at which a packet enters the mesh: for a die with two edge ports, the one nearer its destination (DESIGN CHOICE, log entry 18). -/
def entryRouter (src dst : Nat) : Option TileId :=
  match routersOf dst with
  | [] => (routersOf src).head?
  | d :: _ => nearest d (routersOf src)

/-- The router at which a packet leaves the mesh: the edge port that lies fewer hops from the source router (R291). -/
def exitRouter (src dst : Nat) : Option TileId := (entryRouter src dst).bind fun a => nearest a (routersOf dst)

/-- The next side of the XY route: along the row first, then along the column (R291). -/
def xySide (t v : TileId) : Option RPort :=
  if t.1 % 18 < v.1 % 18 then some 1
  else if v.1 % 18 < t.1 % 18 then some 3
  else if t.1 / 18 < v.1 / 18 then some 2
  else if v.1 / 18 < t.1 / 18 then some 0
  else none

/-- The routers of an XY route after its first one; 32 hops are the longest. -/
def xyPath : Nat → TileId → TileId → List TileId
  | 0, _, _ => []
  | n + 1, t, v =>
    match (xySide t v).bind (neighbour t) with
    | some u => u :: xyPath n u v
    | none => []

/-- The XY route avoids every failed welt. -/
def State.clear (s : State) (t v : TileId) : Bool := (t :: xyPath 32 t v).all fun u => !(s.tiles.get u).island.weltFailed

/-- The via tile of a pair: the lowest tile for which both legs avoid the failed welts (R292, DESIGN CHOICE, log entry 18). -/
def State.viaFor (s : State) (a b : TileId) : Option TileId := (allFin 288).find? fun v => s.clear a v && s.clear v b

/-! ### Packets and buffers -/

/-- A packet with another via and phase in its header (R280, R292). -/
def reroute (p : Packet) (via : Nat) (phase : Bool) : Packet :=
  let keep := p.w0 &&& ~~~(at_ 26 0x3FF)
  let ws := sealCrc [mkWord [keep, at_ 27 via, at_ 26 phase.toNat], p.w1, p.w2, p.w3] 3
  { p with w0 := ws.getD 0 0, w3 := ws.getD 3 0 }

/-- The stream of a packet: its source, source flow and generation (R298). -/
def streamKey (p : Packet) : StreamKey := ⟨pktSrc p, pktFlow p, (pktGen p).toNat⟩

/-- Change a router. -/
def State.modRouter (s : State) (t : TileId) (f : Router → Router) : State := s.modTile t fun x => { x with router := f x.router }

/-- The packet stands for another one in flight, and in a buffer. -/
def State.replacePacket (s : State) (t : TileId) (p q : Packet) : State :=
  let s := { s with fabric := { s.fabric with inFlight := s.fabric.inFlight.map fun k => if k = p then q else k } }
  s.modRouter t fun r => { r with bufs := r.bufs.map fun e => if e.packet = p then { e with packet := q } else e }

/-! ### Where a packet goes next (R291 to R293) -/

/-- The output of a packet at a router. -/
inductive NextHop where
  | here
  | edge (port : RPort) (e : Nat)
  | mesh (port : RPort) (u : TileId)
  | wait
  deriving DecidableEq, Repr

/-- One step toward a tile: held while the next welt has failed or is silent. -/
def State.toward (s : State) (t v : TileId) : NextHop :=
  match xySide t v with
  | none => .here
  | some port =>
    match neighbour t port with
    | none => .wait
    | some u =>
      if (s.tiles.get u).island.weltFailed || !(s.tiles.get t).router.up port then .wait else .mesh port u

/-- A leg toward a tile; when a failed welt lies on it and the alternate set is in force, the packet takes the via of the set. -/
def State.leg (s : State) (t v exit : TileId) (p : Packet) : Packet × NextHop :=
  if s.clear t v || !s.fabric.alternates then (p, s.toward t v)
  else match s.viaFor t exit with
    | some w => if w = t then (reroute p 0x1FF true, s.toward t exit) else (reroute p w.1 false, s.toward t w)
    | none => (p, .wait)

/-- The output of a packet at a router, and its header as it leaves: at the via tile the phase changes to 1. -/
def State.nextHop (s : State) (t : TileId) (p : Packet) : Packet × NextHop :=
  match exitRouter (pktSrc p) (pktDst p) with
  | none => (p, .wait)
  | some exit =>
    let p := if !pktPhase p && pktVia p == t.1 then reroute p (pktVia p) true else p
    let (p, hop) :=
      if pktPhase p then s.leg t exit exit p
      else s.leg t (Fin.ofNat 288 (pktVia p)) exit p
    match hop with
    | .here =>
      if t = exit then
        match endpointOf (pktDst p) with
        | some (.core _) => (p, .here)
        | some (.welt _) => (p, .here)
        | _ => match edgeAt t with
          | some (port, e) => (p, .edge port e)
          | none => (p, .wait)
      else (p, .wait)
    | h => (p, h)

/-- The die behind an edge port takes packets. -/
def State.dieOpen (s : State) (e : Nat) : Bool :=
  match endpointOf e with
  | some (.base k) => !(s.stackDies.get k).portsClosed && (s.stackDies.get k).power == .up
  | some (.link l) => !(s.linkDies.get l).clockStopped && !(s.linkDies.get l).failed
  | _ => true

/-! ### Escape spills (R298 to R302) -/

/-- Change the transfers of a queue's active arming that a test picks by a packet that they await an answer to. -/
def State.modAsked (s : State) (t : TileId) (flow : Nat) (gen : BitVec 8) (hit : Asked → Bool) (f : Transfer → Transfer) : State :=
  if 32 ≤ flow then s else
  let mark := fun (a : Arming) => if a.gen = gen then
      { a with outstanding := a.outstanding.map fun z => if z.asked.any hit then f z else z }
    else a
  s.modTile t fun x => { x with stream := { x.stream with
    queues := vmod x.stream.queues (Fin.ofNat 32 flow) fun k => { k with active := k.active.map mark } } }

/-- Change the transfer that a packet belongs to: one that its tile has sent, whatever its kind and its VC have become on the way, or one that ends a packet of it
(R160). -/
def State.modTransfer (s : State) (p : Packet) (f : Transfer → Transfer) : State :=
  let s := match endpointOf (pktSrc p) with
    | some (.core t) => s.modAsked t (pktFlow p) (pktGen p) (fun z => pktSeq z.packet == pktSeq p && z.packet.w1 == p.w1) f
    | _ => s
  match endpointOf (pktDst p) with
  | some (.core t) =>
    if pktKind p = 4 then s.modAsked t (pktFlow p) (pktGen p) (answerEnds (.ack (ackOf p))) f
    else if pktKind p = 3 ∨ pktKind p = 6 then s.modAsked t (pktFlow p) (pktGen p) (answerEnds (.data p)) f
    else s
  | _ => s

/-- The transfer whose packet was spilled saw a spill (R160). -/
def State.markSpill (s : State) (p : Packet) : State := s.modTransfer p fun z => { z with sawSpill := true }

/-- A packet to a link die with this declaration number travels between link dies and on the peer's mesh as kind 0x06 on VC1: a gather, which
names none, or a transfer on a window of class 1; those of class 2 keep their kind and VC (R350, R353). -/
def Partition.movesToVc1 (p : Partition) (decl : Nat) : Bool :=
  match p.image.bind fun m => m.decls[decl - 1]? with
  | some d => decl == 0 || !(d.kind == 2 && bits (wordAt d.words 0) 31 30 == 2)
  | none => true

/-- A packet with another kind and VC in its header. -/
def rekind (p : Packet) (kind vc : Nat) : Packet :=
  let keep := p.w0 &&& ~~~(at_ 56 0xFF)
  let ws := sealCrc [mkWord [keep, at_ 58 kind, at_ 56 vc], p.w1, p.w2, p.w3] 3
  { p with w0 := ws.getD 0 0, w3 := ws.getD 3 0 }

/-- The answer of a stack to an access that a link die made for another member goes back to that member: read data under the store address that the request named, a write's
acknowledgement with the header that the member sent; on VC1 where the access came on it (R25, R311, R353). -/
def State.carryBack (s : State) (l : LinkId) (p : Packet) : State :=
  let hit := fun (k : LinkAsk) => pktPart p == k.part && pktFlow p == pktFlow k.packet && pktGen p == pktGen k.packet &&
    (if pktKind p = 4 then ackAddr (wordAt (bytesWords p.payload) 1) == ackAddr k.addr.toNat else answerAddr k.packet == p.w1)
  match (s.linkDies.get l).asks.find? hit with
  | none => s
  | some k =>
    let s := (s.take p).modLink l fun z => { z with asks := z.asks.erase k }
    let vc := if pktVc k.packet = 1 then 1 else pktVc p
    if pktKind p = 4 then s.sendBack (pktPart p) k 0x04 vc (linkAddr k.member 1 0 0) (nackBody k.packet 0)
    else s.sendBack (pktPart p) k (if vc = 1 then 0x06 else 0x03) vc (linkAddr k.member 1 0 p.w1.toNat) p.payload

/-- A packet that a link die takes for another member goes to the Vilet port toward it, on VC1 or its own VC (R25, R350, R353); an answer for another member goes
back to it. -/
def State.carry (s : State) (p : Packet) : State :=
  let n := pktPart p
  let m := bits p.w1.toNat 63 48
  let q := s.parts.get n
  match endpointOf (pktDst p) with
  | some (.link l) =>
    if pktKind p = 3 ∨ pktKind p = 4 ∨ pktKind p = 6 then s.carryBack l p
    else if (pktKind p = 1 ∨ pktKind p = 2) ∧ m ≠ q.settings.logical.toNat then
      match q.matchedPort s.ports m with
      | some port =>
        let c := if q.movesToVc1 (bits p.w1.toNat 45 32) then rekind p 0x06 1 else p
        (s.take p).modPort port fun x => { x with outQueue := x.outQueue ++ viletFlits c m 1 }
      | none => s
    else s
  | _ => s

/-- Byte offset of an escape slot within its slice: the region is the first 64 MiB of the last 256 MiB (R195, DESIGN CHOICE, log entry 18). -/
def escapeOffset (slot : Nat) : Nat := 0x270000000 + 4096 * slot

end Sys2Proof.Machine
end

