-- ==== Sys2Proof/Machine/Slots.lean ====
section
/-! DEFINITION. The slots of the routers: which flit an output takes, what a flit's passing changes, and what one welt cycle does in the
fabric (R25, R36, R41, R43, R279, R285 to R289). -/

namespace Sys2Proof.Machine

/-! ### Arbitration (R286 to R288) -/

/-- The place of an input in the round robin: local, north, east, south, west; an edge port stands for the mesh port it replaces (R287). -/
def placeOf (port : RPort) : Nat := (port.1 + 1) % 5

/-- The edge port of a router takes packets: the welt has not closed it, and the die behind it is open (R41). -/
def State.edgeOpen (s : State) (t : TileId) : Bool :=
  match edgeAt t with
  | some (port, e) => !(s.tiles.get t).island.edgeClosed.get (Fin.ofNat 4 port.1) && s.dieOpen e
  | none => false

/-- Flits of a VC in the data crossing into the edge die; it holds 16 of each VC (R36). -/
def Router.crossingHeld (r : Router) (vc : Nat) : Nat := ((r.edgeCrossing.filter fun k => k.1.2.1 == vc).map (·.2)).sum

/-- The inbound crossings have room for a flit of a packet: a write acknowledgement goes over the control crossing, which keeps a word free
for the drain, and any other flit over the data crossing (R36, R140). -/
def Island.roomFor (i : Island) (e : BufEntry) : Bool :=
  if pktKind e.packet = 4 then decide (i.inCtl.length < 7) else decide (0 < crossingRoom i.inWritten i.inSeen e.vcId)

/-- A flit of the entry has what it needs at an output: a credit, room in the crossing, a link, and for a head a way that is open
(R41, R45, R286). -/
def State.hasCredit (s : State) (t : TileId) (o : RPort) (e : BufEntry) : Bool :=
  let x := s.tiles.get t
  if o = localPort then e.won && x.island.roomFor e
  else
    let credit := decide (0 < x.router.credits t o e.vc (poolOf e.packet))
    match neighbour t o with
    | some u => credit && x.router.up o && !(s.tiles.get u).island.weltFailed
    | none => credit && decide (x.router.crossingHeld e.vc < 16) && (decide (0 < e.sent) || s.edgeOpen t)

/-- Another packet holds an output's VC and pool until its tail has passed (R288). -/
def Router.heldByOther (r : Router) (o : RPort) (e : BufEntry) : Bool :=
  r.bufs.any fun f => f != e && f.out == some o && f.vc == e.vc && poolOf f.packet == poolOf e.packet && decide (0 < f.sent) && !f.drop

/-- A packet waits for an output: it stands at the front of its input with a flit that may be routed there. -/
def Router.waitsFor (r : Router) (o : RPort) (e : BufEntry) : Bool :=
  e.out == some o && !e.held && !e.drop && decide (e.sent < e.got) && r.front e && !r.heldByOther o e

/-- The packets whose flits wait with credit for an output. -/
def State.candidates (s : State) (t : TileId) (o : RPort) : List BufEntry :=
  let r := (s.tiles.get t).router
  r.bufs.filter fun e => r.waitsFor o e && s.hasCredit t o e

/-- The order of candidates of one class: a packet in progress, then the inputs in turn, then ascending VCs and pools of one input
(R287, DESIGN CHOICE, log entry 60). -/
def turnKey (last : Nat) (e : BufEntry) : Nat :=
  (if 0 < e.sent then 0 else 1000) + 100 * ((placeOf e.port + 4 - last) % 5) + 10 * e.vc + e.pool

/-- The choice at a slot of an output among candidates (R287): VC3 takes its one slot in 50, then the lowest class, then the inputs in
turn. -/
def Router.choose (r : Router) (o : RPort) (cs : List BufEntry) : Option BufEntry :=
  let best := fun (es : List BufEntry) => (sortBy (turnKey (r.turn.get o)) es).head?
  let vc3 := cs.filter fun e => e.vc == 3
  if 49 ≤ r.sinceVc3.get o ∧ vc3 ≠ [] then best vc3
  else
    let c := (cs.map (·.cls)).foldl min 3
    best (cs.filter fun e => e.cls == c)

/-- The packet whose flit an output takes at its next slot. -/
def State.pick (s : State) (t : TileId) (o : RPort) : Option BufEntry := (s.tiles.get t).router.choose o (s.candidates t o)

/-! ### A flit passes -/

/-- A flit leaves its input for an output: its slot frees, its credit is spent, and the output's turn moves on (R286 to R288). -/
def Tile.passOut (x : Tile) (t : TileId) (o : RPort) (e : BufEntry) : Tile :=
  let x := x.freeSlots e 1
  let r := x.router
  let key := poolKey o e.vc (poolOf e.packet)
  { x with router := { (if e.flits ≤ e.sent + 1 then r.drop e else r.swap e { e with sent := e.sent + 1 }) with
      flits := r.flits + 1
      turn := if e.sent = 0 then r.turn.set o.1 (placeOf e.port) o.2 else r.turn
      sinceVc3 := vmod r.sinceVc3 o fun n => if e.vc = 3 then 0 else min 49 (n + 1)
      balance := if o = localPort then r.balance else Assoc.put key (r.credits t o e.vc (poolOf e.packet) - 1) r.balance
      stuck := r.stuck.filter (· != (o, e.vc, poolOf e.packet)) } }

/-- A flit enters the inbound crossings of the core: a write acknowledgement as a word of the control crossing (R140); any other in the data
crossing, where a packet that a truncation tail ends is discarded (R36, R285). -/
def Island.inbound (i : Island) (e : BufEntry) : Island :=
  let ended := e.cut && decide (e.flits ≤ e.sent + 1)
  if pktKind e.packet = 4 then (if ended then i else i.sendIn (ackOf e.packet)) else
  { i with
    inWritten := advancePtr i.inWritten e.vcId 1
    inPackets := if e.sent = 0 then i.inPackets ++ [⟨e.packet, 1, 0, e.flits, ended⟩]
      else match i.inPackets.find? fun z => z.packet == e.packet && decide (z.got < z.flits) with
        | none => i.inPackets
        | some z => i.inPackets.map fun y => if y = z then { z with got := z.got + 1, flits := if ended then z.got + 1 else z.flits, cut := ended } else y }

/-- A packet has arrived whole at the die behind an edge port: its number is checked there, and one for another member goes on; one that a
truncation tail ended is discarded (R283 to R285). -/
def State.arriveDie (s : State) (t : TileId) (ep : Nat) (e : BufEntry) : State :=
  if e.cut then s.take e.packet
  else if s.seqFresh ep e.packet then
    if endsOnArrival e.packet then (s.accept ep e.packet).take e.packet else (s.accept ep e.packet).carry e.packet
  else (s.take e.packet).sequenceFault t ep e.packet

/-- One flit of a packet passes an output. -/
def State.passFlit (s : State) (t : TileId) (o : RPort) (e : BufEntry) : State :=
  let tail := decide (e.flits ≤ e.sent + 1)
  let s := s.modTile t fun x => x.passOut t o e
  if o = localPort then
    let s := s.modTile t fun x => { x with island := x.island.inbound e }
    if tail && (e.cut || [4, 10].contains (pktKind e.packet)) then s.take e.packet else s
  else match neighbour t o with
    | some u => s.modTile u fun x => x.arriveFlit (facing o) e.vc (poolOf e.packet) e.packet (e.sent == 0) (tail && e.cut)
    | none =>
      let s := s.modTile t fun x => { x with router := { x.router with edgeCrossing := Assoc.bump (poolKey o e.vc (poolOf e.packet)) 1 x.router.edgeCrossing } }
      match edgeAt t with
      | some (_, ep) => if tail then s.arriveDie t ep e else s
      | none => s

/-- Up to `n` slots of an output. -/
def State.slots (t : TileId) (o : RPort) : Nat → State → State
  | 0, s => s
  | n + 1, s =>
    match s.pick t o with
    | none => s
    | some e => State.slots t o n (s.passFlit t o e)

/-! ### One welt cycle -/

/-- Credits in return flight reach the sender of a mesh or edge input (R286). -/
def State.returnCredits (s : State) (t : TileId) : State :=
  ((s.tiles.get t).router.returned).foldl (fun (s : State) (k, n) =>
    let port : RPort := Fin.ofNat 5 k.1
    match neighbour t port with
    | some u =>
      let r := (s.tiles.get u).router
      let key := poolKey (facing port) k.2.1 k.2.2
      let seen := (Assoc.get key r.received).getD 0
      if seen = n ∨ r.up (facing port) = false ∨ (s.tiles.get t).router.up port = false then s
      else s.modRouter u fun r => { r with
        balance := Assoc.put key (r.credits u (facing port) k.2.1 k.2.2 + (n - seen)) r.balance
        received := Assoc.put key n r.received }
    | none =>
      let seen := (Assoc.get k (s.tiles.get t).router.edgeReceived).getD 0
      if seen = n then s
      else s.modRouter t fun r => { r with
        edgeBalance := Assoc.put k (r.edgeCredits t port k.2.1 k.2.2 + (n - seen)) r.edgeBalance
        edgeReceived := Assoc.put k n r.edgeReceived }) s

/-- The edge die takes in what its buffer holds, the crossing's flits reach the buffer, and the credits come back (R36, R286). -/
def Router.serveEdge (r : Router) (t : TileId) : Router :=
  if r.edgeCrossing.isEmpty && r.edgeHeld.isEmpty then r
  else
    let back := r.edgeHeld.foldl (fun l k => Assoc.bump k.1 k.2 l) r.edgeReturned
    let balance := r.edgeHeld.foldl (fun l k => Assoc.put k.1 ((Assoc.get k.1 l).getD (inputDepth t (Fin.ofNat 5 k.1.1) k.1.2.1 k.1.2.2) + k.2) l) r.balance
    { r with
      edgeHeld := r.edgeCrossing
      edgeCrossing := []
      edgeReturned := back
      balance := balance
      received := r.edgeHeld.foldl (fun l k => Assoc.bump k.1 k.2 l) r.received }

/-- The core reads up to 32 flits from its inbound data crossing while its clock runs, packets in turn, and the synchronizers show the pointers
to the other sides (R36). -/
def Island.serveCore (i : Island) : Island :=
  if i.clock = 0 ∨ (i.state ≠ .running ∧ i.state ≠ .draining) then i
  else
    let z := i.inPackets.foldl (fun (a : Nat × List InEntry × Vector Nat 4) z =>
      let n := min a.1 (z.got - z.read)
      let z' := { z with read := z.read + n }
      (a.1 - n, if z.flits ≤ z'.read then a.2.1 else a.2.1 ++ [z'], advancePtr a.2.2 (Fin.ofNat 4 (pktVc z.packet)) n)) (32, [], i.inRead)
    { i with inPackets := z.2.1, inRead := z.2.2, inSeen := z.2.2, outSeen := i.outRead }

/-- The core reads its inbound data crossing, and keeps the packets that it has read in full for its units. -/
def Tile.serveCore (x : Tile) : Tile :=
  let i := x.island.serveCore
  let done := x.island.inPackets.filter fun z => !z.cut && usedWhole z.packet && !i.inPackets.any fun y => y.packet == z.packet
  { x with island := i, stream := { x.stream with received := x.stream.received ++ done.map (·.packet) } }

/-- The core writes flits of its released packets into the outbound data crossing, as far as that has room (R36, R37). -/
def Tile.writeOut (x : Tile) (e : BufEntry) : Tile :=
  let n := min (e.flits - e.got) (crossingRoom x.island.outWritten x.island.outSeen e.vcId)
  ({ x with island := { x.island with outWritten := advancePtr x.island.outWritten e.vcId n } }).grow e n

/-- The core begins to write its next packet into the outbound data crossing. -/
def Tile.beginOut (x : Tile) (p : Packet) : Tile :=
  let e := newEntry localPort (pktVc p) 0 p .core 0
  ({ x with
    island := { x.island with outPackets := x.island.outPackets.erase p }
    router := { x.router with bufs := x.router.bufs ++ [e] } }).writeOut e

/-- The core's next packets, one for each VC on which it writes none. -/
def Tile.nextOut (x : Tile) : List Packet :=
  ((List.range 4).filterMap fun v =>
    if x.router.bufs.any fun e => e.feed == .core && e.vc == v && decide (e.got < e.flits) then none
    else x.island.outPackets.find? fun p => pktVc p == v)

/-- Flits of a packet arrive on credits of its hop's sender: the neighbour's router, or the edge die. -/
def State.feedFresh (s : State) (t : TileId) (e : BufEntry) : State :=
  let want := e.flits - e.got
  match neighbour t e.port with
  | some u =>
    let n := min want ((s.tiles.get u).router.credits u (facing e.port) e.vc e.pool)
    (s.modRouter u fun r => { r with balance := Assoc.put (poolKey (facing e.port) e.vc e.pool) (r.credits u (facing e.port) e.vc e.pool - n) r.balance }).modTile t
      fun x => x.grow e n
  | none =>
    s.modTile t fun x =>
      let n := min want (x.router.edgeCredits t e.port e.vc e.pool)
      ({ x with router := { x.router with
        edgeBalance := Assoc.put (poolKey e.port e.vc e.pool) (x.router.edgeCredits t e.port e.vc e.pool - n) x.router.edgeBalance } }).grow e n

/-- Flits arrive that a sender outside the mesh still owes: a core, an edge die, or the reinjection buffer, which takes slots as they free
and withholds their credits, and takes the sender's credits where the input stands empty (R271, R286, R299). -/
def State.feedEntry (s : State) (t : TileId) (e : BufEntry) : State :=
  let want := e.flits - e.got
  match e.feed with
  | .core => s.modTile t fun x => if x.island.clock = 0 then x else x.writeOut e
  | .outside => s.feedFresh t e
  | .escape =>
    let k := poolKey e.port e.vc e.pool
    let r := (s.tiles.get t).router
    let back := (Assoc.get k r.returned).getD 0
    let seen := match neighbour t e.port with
      | some u => (Assoc.get (poolKey (facing e.port) e.vc e.pool) (s.tiles.get u).router.received).getD 0
      | none => (Assoc.get k r.edgeReceived).getD 0
    if seen < back then
      let n := min want (back - seen)
      s.modTile t fun x => ({ x with router := { x.router with returned := Assoc.put k (back - n) x.router.returned } }).grow e n
    else if 0 < r.occupied e.port e.vc e.pool then s
    else s.feedFresh t e
  | _ => s

/-- A boundary welt closes its edge port at a packet boundary when the die behind it takes no more packets, opens it again with the die, and
answers the packets at a closed port with cause 0x7 (R40, R41, R43). -/
def State.guardEdge (s : State) (t : TileId) : State :=
  match edgeAt t with
  | none => s
  | some (port, ep) =>
    let i : Fin 4 := Fin.ofNat 4 port.1
    let x := s.tiles.get t
    let busy := x.router.bufs.any fun e => e.out == some port && decide (0 < e.sent)
    let shut := !s.dieOpen ep && (!busy || x.island.edgeClosed.get i)
    let s := if x.island.edgeClosed.get i = shut then s else s.modTile t fun x => { x with island := { x.island with edgeClosed := x.island.edgeClosed.set i.1 shut } }
    if !shut then s
    else (x.router.bufs.filter fun e => e.out == some port && e.sent == 0 && !e.drop && x.router.front e).foldl (fun (s : State) e =>
      ((s.modTile t fun x => x.discard e).take e.packet).nack t e.packet 0x7) s

/-- What one welt cycle does at a tile: credits and crossings move, then each output gives its slots, 16 of a mesh or local port and 32 of
an edge port (R276, R286, R287). -/
def State.cycleTile (s : State) (t : TileId) : State :=
  let x := s.tiles.get t
  if x.island.weltFailed then s
  else
    let s := if x.island.inPackets.isEmpty && x.router.bufs.isEmpty && x.router.edgeHeld.isEmpty && x.router.edgeCrossing.isEmpty &&
        x.island.inSeen == x.island.inRead && x.island.outSeen == x.island.outRead then s
      else s.modTile t fun x =>
        let x := x.serveCore
        { x with router := x.router.serveEdge t }
    let s := if x.island.outPackets.isEmpty || x.island.clock = 0 || x.island.quiesced then s
      else s.modTile t fun x => x.nextOut.foldl Tile.beginOut x
    let s := (((s.tiles.get t).router.bufs).filter fun e => decide (e.got < e.flits)).foldl (fun (s : State) e =>
      if (s.tiles.get t).router.bufs.contains e then s.feedEntry t e else s) s
    let s := s.returnCredits t
    let s := if (s.tiles.get t).router.bufs.isEmpty then s
      else (allFin 5).foldl (fun (s : State) o => State.slots t o (if (neighbour t o).isSome || o = localPort then 16 else 32) s) (s.guardEdge t)
    if (s.tiles.get t).island.state = .draining then s.modTile t Tile.closeIngress else s

/-- One welt cycle of the fabric. A flit stands in the next buffer in the cycle of its slot: the four cycles of a hop, and those of a
crossing, are not modelled (DESIGN CHOICE, log entry 60). -/
def State.fabricCycle (s : State) : State := (allFin 288).foldl (fun (s : State) t => s.cycleTile t) s

end Sys2Proof.Machine
end

