-- ==== Sys2Proof/Machine/Heads.lean ====
section
/-! DEFINITION. Head flits at router inputs and at the local port, aging, failed welts and the alternate set, the stall watchdog and the
escape region (R41 to R45, R283 to R302). -/

namespace Sys2Proof.Machine

/-! ### Escape spills (R298 to R302) -/

/-- The next free escape slot of a partition: slots go along its stripe list, after the one last used (R298). -/
def State.escapeSlot (s : State) (n : PartId) : Option (Nat × SliceId × Nat) :=
  let stripe := (s.parts.get n).place.stripe
  let m := stripe.length
  let first := (Assoc.get n.1 s.fabric.escapeNext).getD 0
  let used := fun (c : SliceId) (k : Nat) => s.fabric.escape.any fun e => e.slice == c && e.slot == k
  (List.range (s.fabric.escape.length + 1)).findSome? fun i =>
    let j := (first + i) % (m * 16384)
    match stripe[j % m]? with
    | some c => if used c (j / m) then none else some (j, c, j / m)
    | none => none

/-- The packets of a partition that stand in escape slots. -/
def State.spilledOf (s : State) (n : PartId) : Nat := (s.fabric.escape.filter fun e => pktPart e.packet == n).length

/-- Spill one packet to the next escape slot of its partition, consuming it at its input; with none free, the partition is reset (R298,
R300). -/
def State.spill (s : State) (t : TileId) (e : BufEntry) : State :=
  let n := pktPart e.packet
  let stripe := (s.parts.get n).place.stripe
  match s.escapeSlot n with
  | none =>
    let s := { s with fabric := { s.fabric with escapeExhausted := s.fabric.escapeExhausted + 1 } }
    (s.report (.welt t) (s.mkReport 0x0403 3 4 (some n) (epTile t) e.port.1)).resetPartition n 0x0403
  | some (j, c, slot) =>
    let z : Spilled := ⟨t, e.port, e.pool, c, slot, s.fabric.spillOrder, e.packet, false, false, s.time⟩
    let s := s.modTile t fun x => x.discard e
    let s := s.modRouter t fun r => { r with
      spilling := if r.spilling.contains (e.port, streamKey e.packet) then r.spilling else r.spilling ++ [(e.port, streamKey e.packet)] }
    let last := bytesWords s.fabric.lastCycle
    let head := mkWord [at_ 54 (pktSrc e.packet), at_ 48 (pktFlow e.packet), at_ 40 (pktGen e.packet).toNat, at_ 36 n.1]
    let s := { s with fabric := { s.fabric with
      spilled := s.fabric.spilled + 1
      escape := s.fabric.escape ++ [z]
      spillOrder := s.fabric.spillOrder + 1
      escapeFree := Assoc.put c.1 ((Assoc.get c.1 s.fabric.escapeFree).getD 16384 - 1) s.fabric.escapeFree
      escapeNext := Assoc.put n.1 ((j + 1) % (stripe.length * 16384)) s.fabric.escapeNext
      lastCycle := if last.getD 0 0 = head then wordsBytes (last.set 2 (last.getD 2 0 + 1)) else s.fabric.lastCycle } }
    (s.markSpill e.packet).send 0x0C 2 (epStack (stackOf c)) (epWelt t) 37 n (mkWord [at_ 56 c.1, at_ 0 (escapeOffset slot)]) (pktGen e.packet) 0
      e.packet.payload

/-! ### Head flits (R283, R286 to R293) -/

/-- Flits in which one or two symbol errors were corrected, and flits that cannot be corrected (R283). -/
def correctedFlits (errors : List Nat) : Nat := (errors.filter fun n => n == 1 || n == 2).length

/-- A flit has more symbol errors than the memory code corrects. -/
def uncorrectable (errors : List Nat) : Bool := errors.any fun n => 2 < n

/-- Flits of a tile's router inputs are corrected and counted (R283, R304). -/
def State.correct (s : State) (t : TileId) (errors : List Nat) : State :=
  (List.range (correctedFlits errors)).foldl (fun (s : State) _ => s.flitCorrected t) s

/-- The packet at an input that a head flit belongs to: the one with its header, or, for a header that fails its checks, the oldest one
not routed yet with its payload (R283). -/
def Router.headAt (r : Router) (port : RPort) (pool : Nat) (p : Packet) : Option BufEntry :=
  let here := fun (e : BufEntry) => e.port == port && e.pool == pool && !e.drop
  match r.bufs.find? fun e => here e && e.packet == p with
  | some e => some e
  | none =>
    if pktCrcOk p && pktKindOk p then none
    else r.bufs.find? fun e => here e && e.out.isNone && e.packet.payload == p.payload

/-- A head that no entry holds arrives at an input now: from the core, once the outbound crossing has room, from the welt, or from a sender
beyond a mesh or edge port, on a credit. -/
def State.arriveHead (s : State) (t : TileId) (port : RPort) (pool : Nat) (p : Packet) : State :=
  let x := s.tiles.get t
  if port = localPort then
    if x.island.outPackets.contains p then s.modTile t fun x => x.beginOut p
    else s.modRouter t fun r => { r with bufs := r.bufs ++ [newEntry port (pktVc p) 0 p .welt (pktFlits p)] }
  else
    let e := newEntry port (pktVc p) pool p .outside 0
    let room : Bool := match neighbour t port with
      | some u => x.router.up port && decide (0 < (s.tiles.get u).router.credits u (facing port) (pktVc p) pool)
      | none => (edgeAt t).map (·.1) == some port && decide (0 < x.router.edgeCredits t port (pktVc p) pool)
    if room then (s.modRouter t fun r => { r with bufs := r.bufs ++ [e] }).feedFresh t e else s

/-- A head is routed: its output, or a hold until the alternate set is in force (R291 to R293). -/
def State.routeHead (s : State) (t : TileId) (e : BufEntry) : State :=
  let (q, hop) := s.nextHop t e.packet
  let s := if q = e.packet then s else s.replacePacket t e.packet q
  let e := { e with packet := q }
  let put := fun (e' : BufEntry) => s.modRouter t fun r => r.swap e e'
  match hop with
  | .here => put { e with out := some localPort, held := false }
  | .edge port _ => put { e with out := some port, held := false }
  | .mesh port _ => put { e with out := some port, held := false }
  | .wait => put { e with held := true }

/-- HEAD_FLIT_ROUTE (R283, R286 to R293, R458): the flits' check symbols, the header's CRC, kind and VC; then the head is routed to its
output, whose slots take the packet when its turn comes, or the packet is spilled when its stream is in spill mode at the input. -/
def execHeadFlitRoute (t : TileId) (port : RPort) (pool : BitVec 2) (p : Packet) (symbolErrors : List Nat) (s : State) :
    Host.Outcome State Fault Refusal :=
  let s := if ((s.tiles.get t).router.headAt port pool.toNat p).isSome || (s.tiles.get t).island.weltFailed then s else s.arriveHead t port pool.toNat p
  match (s.tiles.get t).router.headAt port pool.toNat p with
  | none => .next s
  | some e =>
    if (s.tiles.get t).island.weltFailed = true ∨ e.out.isSome = true ∨ e.got = 0 then .next s
    else if uncorrectable symbolErrors then
      .next (((s.modTile t fun x => x.discard e).take e.packet).flitUncorrectable t port p)
    else
      let s := s.correct t symbolErrors
      if !pktCrcOk p || !pktKindOk p then .next (((s.modTile t fun x => x.discard e).take e.packet).headerFault t port)
      else
        let s := s.seenAt t port p
        if (s.tiles.get t).router.spilling.contains (port, streamKey p) = true ∧ e.feed ≠ .escape then .next (s.spill t e)
        else .next (s.routeHead t e)

/-- The packets whose heads contend for the local port: routed there, at the front of their inputs, with room in the inbound crossing where
the core takes them (R41, R45). -/
def State.localHeads (s : State) (t : TileId) : List BufEntry :=
  let x := s.tiles.get t
  x.router.bufs.filter fun e => x.router.waitsFor localPort e && e.sent == 0 && !e.won &&
    (pktDst e.packet == epWelt t || x.island.cause.isSome || x.island.roomFor e)

/-- The head that wins the local port next (R45, R287). -/
def State.localWinner (s : State) (t : TileId) : Option BufEntry := (s.tiles.get t).router.choose localPort (s.localHeads t)

/-- A packet that no buffer of the router holds comes to the local port directly, from the welt. -/
def State.atLocal (s : State) (t : TileId) (p : Packet) : State :=
  if (s.tiles.get t).router.bufs.any fun e => e.packet == p || (e.packet.payload == p.payload && e.out == some localPort) then s
  else s.modRouter t fun r => { r with bufs := r.bufs ++ [{ newEntry localPort (pktVc p) 0 p .welt (pktFlits p) with out := some localPort }] }

/-- LOCAL_PORT_HEAD (R41, R43 to R45, R283): the head that has won the local port is checked, and its sequence number; then the packet is
delivered to the core, its head flit at once and the others in their slots, or answered with a FENCED negative acknowledgement and
consumed. A packet for the welt itself is delivered to it. A head that has not won the port waits. -/
def execLocalPortHead (t : TileId) (p : Packet) (symbolErrors : List Nat) (s : State) : Host.Outcome State Fault Refusal :=
  if (s.tiles.get t).island.weltFailed then .next s
  else
    let s := s.atLocal t p
    match s.localWinner t with
    | none => .next s
    | some e =>
      let x := s.tiles.get t
      if e.packet ≠ p ∧ (pktCrcOk p = true ∧ pktKindOk p = true ∨ e.packet.payload ≠ p.payload) then .next s
      else
        let gone := (s.modTile t fun x => x.discard e).take e.packet
        if uncorrectable symbolErrors then .next (gone.flitUncorrectable t e.port p)
        else if !pktCrcOk p || !pktKindOk p then .next ((gone.correct t symbolErrors).headerFault t e.port)
        else
          let sound := fun (s : State) => (s.correct t symbolErrors).seenAt t e.port p
          if pktDst p = epWelt t then
            if s.seqFresh (epWelt t) p then
              let s := (sound (s.modTile t fun x => x.discard e)).accept (epWelt t) p
              .next (if endsOnArrival e.packet then s.take e.packet else s)
            else .next ((sound gone).sequenceFault t (epWelt t) p)
          else match x.island.cause with
            | some c => .next ((sound gone).nack t p c)
            | none =>
              if s.seqFresh (epTile t) p then
                let e' := { e with won := true }
                let s := (sound (s.modRouter t fun r => r.swap e e')).accept (epTile t) p
                .next (s.passFlit t localPort e')
              else .next ((sound gone).sequenceFault t (epTile t) p)

/-- HISTORY_ENTRY_EXPIRY (R284): the entry is dropped. -/
def execHistoryEntryExpiry (dest src : BitVec 10) (flow : BitVec 6) (vc : VcId) (s : State) : Host.Outcome State Fault Refusal :=
  .next { s with fabric := { s.fabric with history := Assoc.del (dest.toNat, src.toNat, flow.toNat, vc.1) s.fabric.history } }

/-- The head at the front of an input's VC and pool that holds credit for its output and loses it to another packet (R289). -/
def State.starving (s : State) (t : TileId) (port : RPort) (vc pool : Nat) : Option BufEntry :=
  match ((s.tiles.get t).router.input port vc pool).head? with
  | none => none
  | some e =>
    match e.out with
    | none => none
    | some o =>
      if e.sent = 0 ∧ e.drop = false ∧ e.held = false ∧ s.hasCredit t o e = true ∧ (s.pick t o).isSome = true ∧ s.pick t o ≠ some e then some e else none

/-- AGING_WAIT_EXPIRY (R289, R317): the class of a starved head, or of the packet at the head of a source's queue for a Vilet output, drops by one, down to 0. -/
def execAgingWaitExpiry (p : AgingPoint) (vc : VcId) (s : State) : Host.Outcome State Fault Refusal :=
  .next (match p with
  | .router t port pool =>
    match s.starving t port vc.1 pool.toNat with
    | none => s
    | some e =>
      if e.cls = 0 then s
      else s.modRouter t fun r => { r.swap e { e with cls := e.cls - 1 } with classRaises := r.classRaises + 1 }
  | .vilet q src =>
    let x := s.ports.get q
    let i := sourceAt vc src.1
    if x.classes.get i = 0 ∨ x.starves vc src.1 = false then s
    else s.modPort q fun x => { x with classes := vmod x.classes i (· - 1), classRaises := x.classRaises + 1 })

/-! ### Failed welts (R292, R293) -/

/-- Steps 2 to 4 of R293 at one input buffer of a router whose neighbour on a side is silent: a packet whose head has gone there is
consumed, one whose head came from there and whose tail has not is ended by a truncation tail, and a head routed there is held. -/
def Tile.loseSide (x : Tile) (port : RPort) : Tile :=
  x.router.bufs.foldl (fun (x : Tile) e =>
    if e.out = some port ∧ 0 < e.sent then x.discard e
    else if e.port = port ∧ e.got < e.flits then
      if e.drop then { x with router := x.router.drop e } else { x with router := x.router.swap e (e.truncate e.got) }
    else if e.out = some port then { x with router := x.router.swap e { e with out := none, held := true } }
    else x) x

/-- Packets that a router discards or cuts short when the neighbour on a side is silent (R293). -/
def Router.lostTo (r : Router) (port : RPort) : List BufEntry :=
  r.bufs.filter fun e => decide (e.out = some port ∧ 0 < e.sent) || decide (e.port = port ∧ e.got < e.flits ∧ e.drop = false)

/-- NEIGHBOUR_SILENT (R293, R53): the hop's accounts close, packets whose head has gone into the failed welt are discarded, truncation tails
end those whose tail has not come out of it, and heads routed through it are held. The router reports the partitions of the packets
discarded or cut short, which retry; the neighbour's tile is handled as a tile death unless that was done. -/
def execNeighbourSilent (t : TileId) (port : RPort) (s : State) : Host.Outcome State Fault Refusal :=
  match neighbour t port with
  | none => .next s
  | some u =>
    if (s.tiles.get t).router.up port = false ∨ (s.tiles.get t).island.weltFailed = true then .next s
    else
      let lost := (s.tiles.get t).router.lostTo port
      let cut := (lost.filter fun e => decide (e.port = port) && !(e.out == some port && decide (0 < e.sent))).length
      let s := s.modTile t fun x => ({ x with router := { x.router with linkUp := x.router.linkUp.set (port.1 % 4) false (Nat.mod_lt _ (by decide)) } } : Tile).loseSide port
      let s := { s with fabric := { s.fabric with truncated := s.fabric.truncated + BitVec.ofNat 32 cut } }
      let s := if (s.tiles.get u).island.weltFailed then s else ((s.tileDeath u 0x0502 t.1 false true).failWelt u).refreshModule
      let ns := (lost.map fun e => pktPart e.packet).eraseDups
      .next (ns.foldl (fun (s : State) n => (s.report (.welt t) { s.mkReport 0x0502 2 3 (some n) (epTile u) 0 with
        detailA := BitVec.ofNat 32 t.1 }).callRetry n 0x0502) s)

/-- The routers that a partition's traffic names besides its tiles: those of its stacks and link dies, and the control die's. -/
def Partition.edgeRouters (p : Partition) : List TileId :=
  (((p.slices.map fun c => epStack (stackOf c)) ++ (p.ports.map fun q => epLink (linkOf q))).eraseDups ++ [epControl]).flatMap routersOf

/-- A pair has a route, direct or by one via, both ways. -/
def State.routed (s : State) (a b : TileId) : Bool :=
  (s.clear a b || (s.viaFor a b).isSome) && (s.clear b a || (s.viaFor b a).isSome)

/-- The tiles of a partition that are cut off: those whose pair with an edge die of the partition is, and of two tiles the higher number
(R292, DESIGN CHOICE, log entry 18). -/
def State.cutOff (s : State) (n : PartId) : List TileId :=
  let p := s.parts.get n
  let ok := fun (t : TileId) => !(s.tiles.get t).island.weltFailed
  let ts := p.tiles.filter ok
  let edges := p.edgeRouters.filter ok
  let bad := ts.filter fun t => edges.any fun e => !s.routed t e
  let rest := ts.filter fun t => !bad.contains t
  sortBy (·.1) (bad ++ rest.filter fun t => rest.any fun u => decide (u.1 < t.1) && !s.routed u t)

/-- ALTERNATE_SET_IN_FORCE (R292): held heads may be routed again, and each cut-off tile is fenced and substituted. -/
def execAlternateSetInForce (s : State) : Host.Outcome State Fault Refusal :=
  if s.fabric.alternates then .next s
  else
    let s := { s with fabric := { s.fabric with alternates := true }, tiles := s.tiles.map fun x => { x with
      router := { x.router with bufs := x.router.bufs.map fun e => { e with held := false } } } }
    .next ((allFin 16).foldl (fun (s : State) n => (s.cutOff n).foldl (fun (s : State) t =>
      if (s.tiles.get t).island.fenced then s else s.fenceTile t (s.failingLayer n t) false) s) s)

/-! ### The stall watchdog (R297, R298, R301) -/

/-- What a probe carries for a packet in a buffer of a router, or of the edge die behind it. -/
def BufEntry.probe (e : BufEntry) (at_ : Nat) : Probe where
  stamp := pktStamp e.packet
  key := streamKey e.packet
  part := (pktPart e.packet).1
  at_ := at_
  port := e.port.1
  vc := e.vc
  pool := e.pool

/-- Of two packets the one with the earlier issue stamp; the first when both are equally old. -/
def older (now : Nat) (a b : Probe) : Probe :=
  let age := fun (p : Probe) => (now + 2 ^ 32 - p.stamp) % 2 ^ 32
  if age a < age b then b else a

/-- The oldest of a list of packets. -/
def oldest (now : Nat) : List Probe → Option Probe
  | [] => none
  | p :: ps => some (ps.foldl (older now) p)

/-- An output has no credit for a VC and pool (R297). -/
def Tile.noCredit (x : Tile) (t : TileId) (o : RPort) (vc : VcId) (pool : Nat) : Bool :=
  if o = localPort then crossingRoom x.island.inWritten x.island.inSeen vc == 0 else x.router.credits t o vc.1 pool == 0

/-- The packets of a router that wait on an output's VC and pool, those held under R293 left out. -/
def Router.blockedOn (r : Router) (o : RPort) (vc pool : Nat) : List BufEntry :=
  r.bufs.filter fun e => !e.held && !e.drop && e.out == some o && e.vc == vc && poolOf e.packet == pool && r.front e

/-- STUCK_OUTPUT (R297): an output that holds a waiting head and has no credit is stuck, and its welt launches a probe that has met the oldest
packet waiting on it. -/
def execStuckOutput (t : TileId) (port : RPort) (vc : VcId) (pool : BitVec 2) (s : State) : Host.Outcome State Fault Refusal :=
  let x := s.tiles.get t
  let o := (port, vc.1, pool.toNat)
  if x.noCredit t port vc pool.toNat = false then .next s
  else match oldest s.time ((x.router.blockedOn port vc.1 pool.toNat).map fun e => e.probe (epWelt t)) with
    | none => .next s
    | some p =>
      .next (s.modRouter t fun r => { r with
        stuck := if r.stuck.contains o then r.stuck else r.stuck ++ [o]
        probe := if r.probe.isSome then r.probe else some p })

/-- The packets of an input that wait on stuck outputs of the router (R297). -/
def Router.stuckAt (r : Router) (port : RPort) : List BufEntry :=
  r.bufs.filter fun e => e.port == port && r.stuck.any fun o => (r.blockedOn o.1 o.2.1 o.2.2).contains e

/-- Some head of the router is stuck. -/
def Router.anyStuck (r : Router) : Bool := r.stuck.any fun o => !(r.blockedOn o.1 o.2.1 o.2.2).isEmpty

/-- The packets of an edge die that wait at a router's edge port without credit: those that have not all gone over, and those it has sent that
no buffer, crossing or core holds (R297). -/
def State.stuckDie (s : State) (t : TileId) (port : RPort) (ep : Nat) : List BufEntry :=
  let r := (s.tiles.get t).router
  let feeding := r.bufs.filter fun e => e.port == port && e.feed == .outside && decide (e.got < e.flits)
  let waiting := (s.fabric.inFlight.filter fun p => pktSrc p == ep && entryRouter ep (pktDst p) == some t &&
    !s.tiles.toList.any fun x => (x.router.bufs.any fun e => e.packet == p) || (x.island.inPackets.any fun z => z.packet == p) ||
      x.stream.received.contains p).map fun p => newEntry port (pktVc p) (poolOf p) p .outside 0
  (feeding ++ waiting).filter fun e => r.edgeCredits t port e.vc e.pool == 0

/-- A probe reaches a welt or an edge die: with a stuck head there it takes the oldest packet into account and goes on, otherwise it is
dropped (R297). -/
def State.probeAt (s : State) (origin : TileId) (p : Probe) (goes : Bool) (met : List Probe) : State :=
  s.modRouter origin fun r => { r with probe := if goes then some (met.foldl (older s.time) p) else none }

/-- STUCK_PROBE (R297): a welt or an edge die with a stuck head forwards the probe to the output that this head waits on, and drops it
otherwise; a welt that has launched its own forwards only those of a lower origin number. -/
def execStuckProbe (site : ProbeSite) (origin : TileId) (s : State) : Host.Outcome State Fault Refusal :=
  match (s.tiles.get origin).router.probe with
  | none => .next s
  | some p =>
    .next (match site with
    | .welt t port =>
      let r := (s.tiles.get t).router
      if t = origin then s
      else s.probeAt origin p (r.anyStuck && !(r.probe.isSome && decide (t.1 < origin.1))) ((r.stuckAt port).map fun e => e.probe (epWelt t))
    | .die t =>
      match edgeAt t with
      | none => s
      | some (port, ep) =>
        let es := s.stuckDie t port ep
        s.probeAt origin p (!es.isEmpty) (es.map fun e => e.probe ep))

/-- A packet of a stream is blocked at its router: its head waits on an output that has no credit for it (R298). -/
def Tile.blockedHead (x : Tile) (t : TileId) (e : BufEntry) : Bool :=
  !e.held && !e.drop && e.sent == 0 && match e.out with
    | none => false
    | some o => x.noCredit t o e.vcId (poolOf e.packet)

/-- The blocked packets of a stream at a tile, in buffer order. -/
def Tile.blockedStream (x : Tile) (t : TileId) (k : StreamKey) : List BufEntry :=
  x.router.bufs.filter fun e => streamKey e.packet == k && x.blockedHead t e

/-- PROBE_RETURN (R297, R298, R301): a cycle is found; it is counted, recorded in the step's record and in an error record, and a spill
order for the oldest stream goes around it. -/
def execProbeReturn (t : TileId) (s : State) : Host.Outcome State Fault Refusal :=
  match (s.tiles.get t).router.probe with
  | none => .next s
  | some p =>
    let n : PartId := Fin.ofNat 16 p.part
    let w := mkWord [at_ 54 p.key.src, at_ 48 p.key.flow, at_ 40 p.key.gen, at_ 36 n.1]
    let count := ((allFin 288).map fun u => ((s.tiles.get u).blockedStream u p.key).length).sum
    let s := s.modRouter t fun r => { r with probe := none }
    let s := { s with fabric := { s.fabric with
      cyclesBroken := s.fabric.cyclesBroken + 1
      lastCycle := wordsBytes [w, BitVec.ofNat 64 s.time, 0, 0]
      spillOrders := Assoc.put t.1 p.key s.fabric.spillOrders } }
    let s := s.sbEvent n (at_ 56 4) w 0
    .next (s.report (.welt t) { s.mkReport 0x0404 0 0 (some n) (epTile t) 0 with detailA := BitVec.ofNat 32 count, detailB := w })

/-- SPILL_ORDER (R298, R300): the welt spills each blocked packet of the stream, in buffer order. -/
def execSpillOrder (t : TileId) (origin : TileId) (s : State) : Host.Outcome State Fault Refusal :=
  match Assoc.get origin.1 s.fabric.spillOrders with
  | none => .next s
  | some k =>
    .next (((s.tiles.get t).blockedStream t k).foldl (fun (s : State) e => if (s.tiles.get t).router.bufs.contains e then s.spill t e else s) s)

/-- ESCAPE_SPILL (R298): the base die stores the payload in its slot and the header in the escape index. -/
def execEscapeSpill (slice : SliceId) (p : Packet) (s : State) : Host.Outcome State Fault Refusal :=
  let off := bits p.w1.toNat 33 0
  if pktKind p ≠ 0x0C ∨ off < escapeOffset 0 then .next s
  else
    let slot := (off - escapeOffset 0) / 4096
    let s := s.take p
    .next { s with fabric := { s.fabric with
      escape := s.fabric.escape.map fun e => if e.slice = slice ∧ e.slot = slot then { e with stored := true } else e } }

/-- The welt reads a stored packet back as an escape return of the base die (R299). -/
def State.readBack (s : State) (z : Spilled) : State :=
  let k := stackOf z.slice
  let s := { s with fabric := { s.fabric with escape := s.fabric.escape.map fun e => if e = z then { e with back := true } else e } }
  let s := s.send 0x0D 2 (epWelt z.welt) (epStack k) 37 (pktPart z.packet) (mkWord [at_ 56 z.slice.1, at_ 0 (escapeOffset z.slot)]) (pktGen z.packet) 0 z.packet.payload
  match s.fabric.inFlight.getLast? with
  | some p => (s.accept (epWelt z.welt) p).take p
  | none => s

/-- A welt fills its reinjection buffer of 128 flits with its stored packets in spill order, none earlier than 1 µs after the cycle was
broken (R299). -/
def State.fillReinjection (s : State) (t : TileId) : State :=
  let mine := sortBy (·.order) (s.fabric.escape.filter fun e => e.welt == t && e.stored)
  let used := ((mine.filter (·.back)).map fun e => pktFlits e.packet).sum
  ((mine.filter fun e => !e.back && decide (e.at_ + 1000 ≤ s.time)).foldl (fun (a : State × Nat × Bool) z =>
    if a.2.2 && decide (a.2.1 + pktFlits z.packet ≤ 128) then (a.1.readBack z, a.2.1 + pktFlits z.packet, true) else (a.1, a.2.1, false)) (s, used, true)).1

/-- Insert one packet from the reinjection buffer into the input that it left: it takes slots as they free (R299). -/
def State.reinject (s : State) (z : Spilled) : State :=
  let s := { s with fabric := { s.fabric.freeSlots [z] with
    escape := s.fabric.escape.erase z
    reinjected := s.fabric.reinjected + 1 } }
  let more := s.fabric.escape.any fun e => e.welt == z.welt && e.port == z.port && streamKey e.packet == streamKey z.packet
  let any := s.fabric.escape.any fun e => streamKey e.packet == streamKey z.packet
  let last := bytesWords s.fabric.lastCycle
  let head := mkWord [at_ 54 (pktSrc z.packet), at_ 48 (pktFlow z.packet), at_ 40 (pktGen z.packet).toNat, at_ 36 (pktPart z.packet).1]
  let s := if !any && last.getD 0 0 == head then
      { s with fabric := { s.fabric with lastCycle := wordsBytes (last.set 3 (BitVec.ofNat 64 (s.time - (last.getD 1 0).toNat))) } }
    else s
  let e := newEntry z.port (pktVc z.packet) z.pool z.packet (if z.port = localPort then .welt else .escape) (if z.port = localPort then pktFlits z.packet else 0)
  (s.modRouter z.welt fun r => { r with
    bufs := r.bufs ++ [e]
    spilling := if more then r.spilling else r.spilling.filter (· != (z.port, streamKey z.packet)) }).feedEntry z.welt e

/-- The input of a spilled packet has free slots for its first flit: none is promised to its sender by a credit alone, and no earlier packet
of the reinjection is still entering (R299). -/
def State.roomFor (s : State) (z : Spilled) : Bool :=
  let r := (s.tiles.get z.welt).router
  decide (r.occupied z.port (pktVc z.packet) z.pool < inputDepth z.welt z.port (pktVc z.packet) z.pool) &&
    !(r.input z.port (pktVc z.packet) z.pool).any fun e => e.feed == .escape && decide (e.got < e.flits)

/-- REINJECTION (R299): the welt reads its stored packets back in spill order into its reinjection buffer, and inserts them in that order
while their inputs have free slots; the first of an input that finds none keeps the later ones of that input back. -/
def execReinjection (t : TileId) (s : State) : Host.Outcome State Fault Refusal :=
  let s := s.fillReinjection t
  let zs := sortBy (·.order) (s.fabric.escape.filter fun e => e.welt == t && e.back)
  .next (zs.foldl (fun (a : State × List RPort) z =>
    if !a.2.contains z.port && a.1.roomFor z then (a.1.reinject z, a.2) else (a.1, z.port :: a.2)) (s, [])).1

end Sys2Proof.Machine
end

