-- ==== Sys2Proof/Machine/Vilet.lean ====
section
/-! DEFINITION. Vilet ports: training, the flit with its replay and its credits, forwarding, retrains, losses and drains, and the
port-control commands (R305 to R325, R575, R576). -/

namespace Sys2Proof.Machine

/-- Receive buffer depth of a port by VC (R315). -/
def viletDepth (vc : Nat) : Nat := [256, 4096, 4096, 128].getD vc 0

/-- Lanes that a mode uses (R305). -/
def modeLanes (mode : Nat) : BitVec 16 :=
  match mode with
  | 1 => 0xFFFF
  | 2 => 0xFFFF
  | 3 => 0x00FF
  | 4 => 0xFF00
  | _ => 0

/-- All lanes of a mode pass. -/
def modePasses (mode : Nat) (passing : BitVec 16) : Bool := passing &&& modeLanes mode == modeLanes mode && mode != 0

/-- The port carries flits (R320). In training it sends only the port-control flits of its attempt. -/
def Port.carries (x : Port) : Bool := x.state == .up || x.state == .draining

/-! ### Sending (R312, R316, R317) -/

/-- A port-control flit (R310). -/
def controlFlit (code : Nat) (fields : List Byte) : TxFlit where
  type := 3
  vc := 0
  head := false
  tail := false
  dest := 0
  hops := 0
  seq := 0
  payload := [BitVec.ofNat 8 code] ++ List.replicate 7 0 ++ fields
  source := 1

/-- A flit leaves on the lanes: it carries the acknowledge, the NAK and one credit count of this end's receiver. The VCs whose count has changed take turns in
ascending order, and VC0 is sent when none has (R310, R312, R313, R316). -/
def Port.emit (x : Port) (f : TxFlit) : Port :=
  let changed := ((List.range 4).map fun i => (x.creditTurn + i) % 4).find? fun v => x.returned.get (Fin.ofNat 4 v) != x.creditSent.get (Fin.ofNat 4 v)
  let v := changed.getD 0
  let count := x.returned.get (Fin.ofNat 4 v)
  let w0 := mkWord [at_ 60 f.type, at_ 58 f.vc, at_ 57 f.head.toNat, at_ 56 f.tail.toNat, at_ 48 (f.payload.length - 1), at_ 32 f.dest, at_ 28 f.hops, at_ 0 f.seq]
  let w1 := mkWord [at_ 48 ((x.rxSeq + 65535) % 65536), at_ 47 x.nakDue.toNat, at_ 45 v, at_ 32 count]
  { x with
    lineOut := some ⟨w0, w1 + BitVec.ofNat 64 (crc32cWords [w0, w1]), f.payload⟩
    nakDue := false
    creditTurn := if changed.isSome then (v + 1) % 4 else x.creditTurn
    creditSent := vmod x.creditSent (Fin.ofNat 4 v) fun _ => count }

/-- An idle flit leaves: it carries the number to be assigned next (R310, R312). -/
def Port.idle (x : Port) : Port :=
  x.emit { type := 0, vc := 0, head := false, tail := false, dest := 0, hops := 0, seq := x.txSeq, payload := [], source := 1 }

/-- A packet flit leaves for the first time: it spends a credit, its head takes the VC for its source, and its tail gives it back, with the turn (R311, R316, R317). -/
def Port.spend (x : Port) (f : TxFlit) : Port :=
  let vc : VcId := Fin.ofNat 4 f.vc
  let i := sourceAt vc f.source
  { x with
    credits := vmod x.credits vc (· - 1)
    owner := vmod x.owner vc fun _ => if f.tail then none else some f.source
    turn := if f.tail then vmod x.turn (Fin.ofNat 4 (x.classes.get i)) (fun _ => (f.source + 1) % 3) else x.turn
    classes := if f.tail then vmod x.classes i (fun _ => vc.1) else x.classes
    share := if f.vc = 3 then 0 else x.share + 1 }

/-- A flit as it is sent: a marker carries the balance and the received credits of its VC as they are then (R273, R310), and the next sequence number is assigned. -/
def Port.numbered (x : Port) (f : TxFlit) : TxFlit :=
  let vc : VcId := Fin.ofNat 4 f.vc
  { f with
    seq := x.txSeq
    payload := if f.type = 2 then leBytes 8 (x.credits.get vc) ++ leBytes 8 (x.received.get vc) else f.payload }

/-- Send one flit for the first time: it takes a sequence number, a packet flit spends a credit, and it is kept for replay (R312, R316). -/
def Port.sendOne (x : Port) (f : TxFlit) : Port :=
  let y := x.emit (x.numbered f)
  let y := { y with
    outQueue := x.outQueue.erase f
    replayBuf := x.replayBuf ++ [x.numbered f]
    txSeq := (x.txSeq + 1) % 65536
    sent := x.sent + 1 }
  if f.type = 1 then y.spend f else y

/-- The flit that may leave next: while the replay buffer is full, an echo only (R312). -/
def Port.next (x : Port) : Option TxFlit :=
  if 4096 ≤ x.replayBuf.length then x.outQueue.find? fun f => f.type == 3 && f.payload.headD 0 == 5 else x.pick

/-- Send while flits may leave; `n` bounds the count. -/
def Port.pump (x : Port) : Nat → Port
  | 0 => x
  | n + 1 =>
    if !(x.carries || x.state == .training) then x
    else match x.next with
      | some f => (x.sendOne f).pump n
      | none => x

/-- A drain goes on: drain done leaves once everything is empty and every credit is back, and the drain ends when both ends are done
(R321). -/
def Port.drainStep (x : Port) : Port :=
  let settled := x.replayBuf.isEmpty && (allFin 4).all (fun v => x.credits.get v == viletDepth v.1 && x.rxHeld.get v == 0)
  let x := if x.state == .draining && x.drainSent && !x.drainDoneSent && settled then
      { x with drainDoneSent := true, outQueue := x.outQueue ++ [controlFlit 3 []] }
    else x
  let x := x.pump (x.outQueue.length)
  if x.state == .draining && x.drainDoneSent && x.drainDoneGot then
    { x with
      state := if x.disableAfter then .disabled else .up
      mode := if x.disableAfter then 0 else x.mode
      disableAfter := false
      drainSent := false
      drainDoneSent := false
      drainDoneGot := false }
  else x

/-- Steps 1 and 2 of a drain: no new packet is admitted, and the drain request leaves (R321). -/
def Port.startDrain (x : Port) : Port :=
  let x := if x.drainSent then x else { x with state := .draining, drainSent := true, outQueue := x.outQueue ++ [controlFlit 2 []] }
  (x.pump x.outQueue.length).drainStep

/-- The port sends what it may; with nothing to send, an idle flit leaves (R312). -/
def State.pumpPort (s : State) (p : PortId) : State :=
  s.modPort p fun x =>
    let y := (x.pump x.outQueue.length).drainStep
    if y.sent == x.sent && x.carries then y.idle else y

/-! ### Acknowledgement and replay (R312 to R314) -/

/-- Flits up to an acknowledged number leave the replay buffer. -/
def Port.acknowledge (x : Port) (ack : Nat) : Port :=
  match x.replayBuf.findIdx? fun f => f.seq == ack with
  | some i => { x with replayBuf := x.replayBuf.drop (i + 1), lastAck := ack, replaysInRow := 0 }
  | none => x

/-- The credit count of a VC: what was returned since the port entered Up, modulo 8,192 (R316). -/
def Port.credit (x : Port) (vc : VcId) (count : Nat) : Port :=
  { x with
    credits := vmod x.credits vc (· + (count + 8192 - x.received.get vc) % 8192)
    received := vmod x.received vc fun _ => count }

/-- The packet that the bytes of its flits spell: the header, then the payload (R311). -/
def packetOfBytes (bs : List Byte) : Packet where
  w0 := BitVec.ofNat 64 (field bs 0 8)
  w1 := BitVec.ofNat 64 (field bs 8 8)
  w2 := BitVec.ofNat 64 (field bs 16 8)
  w3 := BitVec.ofNat 64 (field bs 24 8)
  payload := bs.drop 32

/-- Send everything after the last acknowledge again, with the acknowledge and credit fields of now (R312, R314); the transfers whose packets it holds saw a link
replay (R160). -/
def State.replayPort (s : State) (p : PortId) : State :=
  let x := s.ports.get p
  if x.replayBuf.isEmpty then s
  else
    let s := s.modPort p fun x => { x with
      replays := x.replays + 1
      replayed := x.replayed + BitVec.ofNat 64 x.replayBuf.length
      replaysInRow := x.replaysInRow + 1 }
    let s := s.modPort p fun x => x.replayBuf.foldl Port.emit x
    (x.replayBuf.filter fun f => f.type == 1 && f.head).foldl (fun (s : State) f => s.modTransfer (packetOfBytes f.payload) fun z => { z with sawReplay := true }) s

/-- NAK_RECEIVE (R314): a replay from the NAK's acknowledge. -/
def execNakReceive (p : PortId) (ack : BitVec 16) (s : State) : Host.Outcome State Fault Refusal :=
  if (s.ports.get p).carries then .next (((s.modPort p fun x => x.acknowledge ack.toNat).replayPort p).pumpPort p) else .next s

/-- REPLAY_TIMEOUT (R314): flits are outstanding and the acknowledge has not advanced. -/
def execReplayTimeout (p : PortId) (s : State) : Host.Outcome State Fault Refusal :=
  if (s.ports.get p).carries then .next (s.replayPort p) else .next s

/-! ### Loss (R320) -/

/-- A port without link state: every buffer and account of the link level is cleared. -/
def Port.unlinked (x : Port) (st : PortState) : Port :=
  { x with
    state := st
    mode := 0
    replayBuf := []
    outQueue := []
    replaysInRow := 0
    nak := false
    nakDue := false
    creditTurn := 0
    creditSent := Vector.replicate 4 0
    echoes := 0
    rxHeld := Vector.replicate 4 0
    rxParts := Vector.replicate 4 []
    rxDiscard := Vector.replicate 4 false
    returned := Vector.replicate 4 0
    credits := Vector.replicate 4 0
    received := Vector.replicate 4 0
    classes := Vector.ofFn fun i => i.1 / 3
    owner := Vector.replicate 4 none
    turn := Vector.replicate 4 0
    through := Vector.replicate 4 false
    drainSent := false
    drainDoneSent := false
    drainDoneGot := false
    disableAfter := false
    halfNext := false }

/-- The other port of a port's link die. -/
def sisterPort (p : PortId) : PortId := Fin.ofNat 16 (if p.1 % 2 = 0 then p.1 + 1 else p.1 - 1)

/-- The other port of a link die whose port is lost (R320 step 2): the flits still to come of a packet that was leaving by the lost port are consumed. A packet
that came by the lost port and was leaving by this one ends where it stands, and its VC is free (DESIGN CHOICE, log entry 19). -/
def Port.loseSister (x lost : Port) : Port :=
  { x with
    rxDiscard := Vector.ofFn fun v => x.rxDiscard.get v || x.through.get v
    through := Vector.replicate 4 false
    outQueue := x.outQueue.filter fun f => !(f.type == 1 && f.source == 0 && lost.through.get (Fin.ofNat 4 f.vc))
    owner := Vector.ofFn fun v => if lost.through.get v && x.owner.get v == some 0 then none else x.owner.get v }

/-- A port is lost (R320): accounts close, buffers are discarded, the port is Down, the members recompute without it, and the partition takes
a step retry, or a reset when a pair has become unreachable. -/
def State.losePort (s : State) (p : PortId) (trigger : Nat) : State :=
  let s := { s with links := { s.links with lost := s.links.lost + 1 } }
  let lost := s.ports.get p
  let s := (s.modPort p fun x => x.unlinked .down).modPort (sisterPort p) fun x => x.loseSister lost
  let note := fun (s : State) (n : Option PartId) (action : Nat) => s.report (.link (linkOf p)) { s.mkReport 0x0513 2 action n (epLink (linkOf p)) p.1 with
    detailA := BitVec.ofNat 32 p.1, detailB := BitVec.ofNat 64 trigger }
  match s.partOfPort p with
  | none => note s none 0
  | some n =>
    let s := s.sendPortTable n
    if (s.parts.get n).state = .loaded then
      let (s, ok) := s.assignCuts n
      if ok then (note s (some n) 3).callRetry n 0x0513 else (note s (some n) 4).resetPartition n 0x0513
    else note s (some n) 0

/-- A port that carries flits or retrains is lost; one in training goes Down. -/
def State.dropPort (s : State) (p : PortId) (trigger : Nat) : State :=
  match (s.ports.get p).state with
  | .up => s.losePort p trigger
  | .draining => s.losePort p trigger
  | .retraining => s.losePort p trigger
  | .training => s.modPort p fun x => x.unlinked .down
  | _ => s

/-- A failed link die loses both of its ports (R467). -/
def State.failLink (s : State) (l : LinkId) : State :=
  if (s.linkDies.get l).failed then s
  else
    let s := s.modLink l fun x => { x with failed := true }
    let s := s.report (.link l) (s.mkReport 0x0512 2 3 none (epLink l) 0)
    let s := [Fin.ofNat 16 (2 * l.1), Fin.ofNat 16 (2 * l.1 + 1)].foldl (fun (s : State) p => s.dropPort p 6) s
    s.refreshModule

/-- DOWN_TIMEOUT (R320): relocks have failed until the down timeout. -/
def execDownTimeout (p : PortId) (s : State) : Host.Outcome State Fault Refusal :=
  if (s.ports.get p).state = .retraining then .next (s.losePort p 1) else .next s

/-- LANE_SIGNAL_LOSS (R320): every lane in use loses signal. -/
def execLaneSignalLoss (p : PortId) (s : State) : Host.Outcome State Fault Refusal := .next (s.dropPort p 2)

/-- VILET_DRAIN_LIMIT (R321): the drain has not ended; the port is lost and trains again at once. -/
def execViletDrainLimit (p : PortId) (s : State) : Host.Outcome State Fault Refusal :=
  if (s.ports.get p).state = .draining then
    .next ((s.losePort p 3).modPort p fun x => if x.present then { x with state := .training, probeMax := 0, echoes := 0 } else { x with state := .down })
  else .next s

/-- VAUX_OVERCURRENT (R575): the receptacle's supply is switched off, which loses the port. -/
def execVauxOvercurrent (p : PortId) (s : State) : Host.Outcome State Fault Refusal :=
  if (s.ports.get p).vaux then .next ((s.modPort p fun x => { x with vaux := false }).dropPort p 4) else .next s

/-! ### Training (R306 to R308, R576) -/

/-- The identity that a memory's 32 bytes show: bytes 0 to 18 when its CRC passes and its class is known, else all 0xFF (R306, R576). -/
def cableIdentity (bs : List Byte) : List Byte :=
  if bs.length = 32 ∧ crc32c (bs.take 28) = field bs 28 4 then bs.take 19 ++ List.replicate 13 0 else List.replicate 32 0xFF

/-- A port begins a training attempt: no probe of it has been answered yet (R307). -/
def Port.train (x : Port) (half : Bool) : Port := { x with state := .training, halfNext := half, probeMax := 0, echoes := 0 }

/-- CABLE_PRESENCE (R576, R306, R307, R320): the identity is read and training begins; at the end of presence the supply is switched off and
the port is lost at once. -/
def execCablePresence (p : PortId) (present : Bool) (identity : List Byte) (s : State) : Host.Outcome State Fault Refusal :=
  let x := s.ports.get p
  if s.module.state = .off ∨ s.module.state = .booting ∨ x.present = present then .next s
  else if present then
    .next (s.modPort p fun x =>
      let y := { x with present := true, vaux := true, identity := cableIdentity identity }
      if x.state = .down then y.train x.halfNext else y)
  else
    .next ((s.modPort p fun x => { x with present := false, vaux := false, identity := List.replicate 32 0xFF, matched := false }).dropPort p 5)

/-- The mode of a first attempt, or of a half-rate attempt, and 0 for none (R308): what both ends pass and permit, by the peer's identity flit. -/
def chooseMode (r : TrainingResult) (x : Port) : Nat :=
  let lanes := r.passing &&& x.peerPassing
  let ok := fun (m : Nat) => bitAt x.permitted.toNat m && bitAt x.peerPermitted.toNat m && modePasses m lanes
  if r.halfRate then (if ok 2 then 2 else 0) else (([1, 3, 4].find? ok).getD 0)

/-- The identity flit that a port sends (R310). -/
def State.identityFlit (s : State) (p : PortId) : TxFlit :=
  let x := s.ports.get p
  controlFlit 1 (Config.serial ++ [BitVec.ofNat 8 p.1, (Config.identity 5).headD 0, x.permitted, BitVec.ofNat 8 (s.lengthClass p)] ++ leBytes 2 x.passing.toNat)

/-- TRAINING_ATTEMPT (R306 to R308): the lanes that pass, the mode, and the largest round trip of the attempt's probes and echoes decide between Up, a half-rate
attempt and Down; an attempt in which fewer than 64 probes were answered has no round trip and fails (DESIGN CHOICE, log entry 19). The link level starts with
sequence number 0, full credits and nothing returned (DESIGN CHOICE, log entry 19), and this end's identity flit leaves. -/
def execTrainingAttempt (p : PortId) (r : TrainingResult) (s : State) : Host.Outcome State Fault Refusal :=
  let x := s.ports.get p
  let die := s.linkDies.get (linkOf p)
  if x.state ≠ .training ∨ x.present = false ∨ r.halfRate ≠ x.halfNext ∨ die.failed = true ∨ die.clockStopped = true then .next s
  else
    let mode := chooseMode r x
    let limit := if mode = 1 then 1250 else 2500
    if r.locked = false ∨ (mode = 0 ∧ r.halfRate = true) ∨ (mode ≠ 0 ∧ (limit < x.probeMax ∨ x.echoes < 64)) then
      .next (s.modPort p fun x =>
        let y := x.unlinked .down
        { y with passing := r.passing })
    else if mode = 0 then .next (s.modPort p fun x => { x.train true with passing := r.passing })
    else
      let s := s.modPort p fun x =>
        let y := x.unlinked .up
        { y with
          mode := mode
          passing := r.passing
          roundTrip := BitVec.ofNat 32 x.probeMax
          trainingTrip := x.probeMax
          probeMax := 0
          txSeq := 0
          rxSeq := 0
          lastAck := 65535
          credits := Vector.ofFn fun v => viletDepth v.1 }
      .next ((s.modPort p fun x => { x with outQueue := [s.identityFlit p] }).pumpPort p)

/-- TRAINING_RETRY_TIMER (R308): a Down port with its cable present begins a new first attempt. -/
def execTrainingRetryTimer (p : PortId) (s : State) : Host.Outcome State Fault Refusal :=
  let x := s.ports.get p
  if x.state = .down ∧ x.present = true then .next (s.modPort p fun x => x.train false) else .next s

/-- PORT_ENABLE (R320, R325): a Disabled port may train. -/
def execPortEnable (p : PortId) (s : State) : Host.Outcome State Fault Refusal :=
  if (s.ports.get p).state = .disabled then
    .next (s.modPort p fun x => if x.present then x.train false else { x with state := .down, halfNext := false })
  else .next s

/-- Disable a port: one that carries flits drains first (R321). -/
def Port.disable (x : Port) : Port :=
  match x.state with
  | .up => ({ x with disableAfter := true }).startDrain
  | .draining => { x with disableAfter := true }
  | .retraining => { x with disableAfter := true }
  | _ => x.unlinked .disabled

/-- PORT_DISABLE (R321, R325). -/
def execPortDisable (p : PortId) (s : State) : Host.Outcome State Fault Refusal := .next (s.modPort p Port.disable)

/-! ### Retrains (R320) -/

/-- Begin a retrain: the notice leaves while the port still carries flits, then only relocks are tried. -/
def State.beginRetrain (s : State) (p : PortId) (notice : Option Nat) : State :=
  s.modPort p fun x =>
    let x := match notice with
      | some n => { x with outQueue := controlFlit 6 [BitVec.ofNat 8 n] :: x.outQueue }
      | none => x
    let x := x.pump (if notice.isSome then 1 else 0)
    { x with
      state := .retraining
      retrains := x.retrains + 1
      retrainStart := s.time
      outQueue := x.outQueue.filter fun f => !(f.type == 3 && f.payload.headD 0 == 6) }

/-- One relock (R320): it ends in the current mode, or in mode 3 or 4 at the same rate; then the port replays from the last acknowledge, and
a drain goes on. A relock that fails leaves the port Retraining. -/
def State.relock (s : State) (p : PortId) (passing : BitVec 16) : State :=
  let x := s.ports.get p
  let other := if x.mode = 2 then none else [3, 4].find? fun m => bitAt x.permitted.toNat m && modePasses m passing
  let s := s.modPort p fun x => { x with passing := passing }
  match (if modePasses x.mode passing then some x.mode else other) with
  | none => s
  | some m =>
    let s := s.modPort p fun x => { x with state := if x.drainSent then .draining else .up, mode := m, replaysInRow := 0 }
    let s := if m = x.mode then s
      else match s.partOfPort p with
        | none => s
        | some n => (s.sbEvent n (mkWord [at_ 56 10, at_ 0 p.1]) (BitVec.ofNat 64 m) 0).sendPortTable n
    let s := s.replayPort p
    let s := s.modPort p fun x => { x with replaysInRow := 0, outQueue := s.identityFlit p :: x.outQueue }
    let s := s.modPort p fun x => if x.disableAfter && !x.drainSent then x.startDrain else x
    s.pumpPort p

/-- RETRAIN (R320): on a trigger a port that carries flits retrains; in Retraining it tries a relock again. -/
def execRetrain (p : PortId) (cause : RetrainCause) (passing : BitVec 16) (s : State) : Host.Outcome State Fault Refusal :=
  let x := s.ports.get p
  let due := match cause with
    | .replayLimit => decide (s.links.retrainLimit.toNat ≤ x.replaysInRow)
    | _ => true
  let notice := match cause with
    | .replayLimit => some 1
    | .laneLock => some 2
    | .portCommand => some 3
    | .peerNotice => none
  if x.state = .retraining then .next (s.relock p passing)
  else if x.carries = true ∧ due = true then .next ((s.beginRetrain p notice).relock p passing)
  else .next s

/-- RETRAIN_NOTICE (R320): the peer's notice makes this end retrain. -/
def execRetrainNotice (p : PortId) (trigger : BitVec 8) (s : State) : Host.Outcome State Fault Refusal :=
  if (s.ports.get p).carries = true ∧ 1 ≤ trigger.toNat ∧ trigger.toNat ≤ 3 then .next (s.beginRetrain p none) else .next s

/-- PORT_RETRAIN (R320, R325): port command 3. -/
def execPortRetrain (p : PortId) (passing : BitVec 16) (s : State) : Host.Outcome State Fault Refusal :=
  let x := s.ports.get p
  if x.state = .retraining then .next (s.relock p passing)
  else if x.carries then .next ((s.beginRetrain p (some 3)).relock p passing)
  else .next s

/-! ### Port control (R310, R306, R321) -/

/-- IDENTITY (R307, R308, R325): the peer's serial number, port and firmware version, its permitted modes and its passing lanes. In training the 64 probes of the
attempt leave after it. -/
def execIdentity (p : PortId) (fields : List Byte) (s : State) : Host.Outcome State Fault Refusal :=
  if ((s.ports.get p).carries = true ∨ (s.ports.get p).state = .training) ∧ 18 ≤ fields.length then
    .next ((s.modPort p fun x =>
      let y := { x with
        peer := fields.take 14 ++ [0, 0]
        peerPermitted := fields.getD 14 0
        peerPassing := BitVec.ofNat 16 (field fields 16 2) }
      if x.state = .training then
        { y with probeMax := 0, echoes := 0, outQueue := y.outQueue ++ List.replicate 64 (controlFlit 4 (leBytes 8 s.time)) }
      else y).pumpPort p)
  else .next s

/-- DRAIN_REQUEST (R321): this end drains too. -/
def execDrainRequest (p : PortId) (s : State) : Host.Outcome State Fault Refusal :=
  if (s.ports.get p).state = .up then .next (s.modPort p fun x => x.startDrain) else .next s

/-- DRAIN_DONE (R321): the drain ends once both ends are done. -/
def execDrainDone (p : PortId) (s : State) : Host.Outcome State Fault Refusal :=
  if (s.ports.get p).state = .draining then
    .next (s.modPort p fun x =>
      let y := { x with drainDoneGot := true }
      y.drainStep)
  else .next s

/-- PROBE (R306, R310): the echo leaves ahead of every flit not yet sent, also in training. -/
def execProbe (p : PortId) (stamp : Word64) (s : State) : Host.Outcome State Fault Refusal :=
  if (s.ports.get p).carries = true ∨ (s.ports.get p).state = .training then
    .next ((s.modPort p fun x => { x with outQueue := controlFlit 5 (leBytes 8 stamp.toNat) :: x.outQueue }).pumpPort p)
  else .next s

/-- ECHO (R306, R307, R325): the round trip is the time since the probe; the largest one counts. -/
def execEcho (p : PortId) (stamp : Word64) (s : State) : Host.Outcome State Fault Refusal :=
  if (s.ports.get p).carries = true ∨ (s.ports.get p).state = .training then
    .next (s.modPort p fun x => { x with probeMax := max x.probeMax (s.time - stamp.toNat), echoes := x.echoes + 1 })
  else .next s

/-! ### Receiving (R311, R313, R318, R322) -/

/-- The CRC of a Vilet flit header: over both words with bits [31:0] of word 1 read as 0 (R310). -/
def viletHeaderOk (f : ViletFlit) : Bool := crc32cWords [f.w0, f.w1 &&& 0xFFFFFFFF00000000#64] == bits f.w1.toNat 31 0

/-- A header fault that names a Vilet port (R318, R458): a step retry of the partition that the port is bound to. -/
def State.portHeaderFault (s : State) (p : PortId) : State :=
  let n := s.partOfPort p
  let s := { s with fabric := { s.fabric with headerFaults := s.fabric.headerFaults + 1 } }
  let s := s.report (.link (linkOf p)) { s.mkReport 0x0201 2 3 n (epLink (linkOf p)) p.1 with
    detailA := BitVec.ofNat 32 p.1, detailB := BitVec.ofNat 64 (maskBits n.toList) }
  match n with
  | some n => s.callRetry n 0x0201
  | none => s

/-- Slots of the receive buffer free, and their credits are returned (R316). -/
def Port.freeSlots (x : Port) (vc : VcId) (n : Nat) : Port :=
  { x with rxHeld := vmod x.rxHeld vc (· - n), returned := vmod x.returned vc fun r => (r + n) % 8192 }

/-- Kind and VC of a packet that a link die delivers into its mesh: answers to a tile's transfers move back from VC1 to VC2, the VC of their
transfer kinds (R25, R350). -/
def deliveredAs (k : Packet) : Nat × Nat :=
  match endpointOf (pktDst k) with
  | some (.core _) => if pktVc k = 1 ∧ pktKind k = 0x06 then (0x03, 2) else if pktVc k = 1 ∧ pktKind k = 0x04 then (0x04, 2) else (pktKind k, pktVc k)
  | _ => (pktKind k, pktVc k)

/-- The member that sent a packet, by the port and the module hops that it took: of the members that this port leads to, in ring order from this one, the one so many
places on (DESIGN CHOICE, log entry 64). -/
def Partition.senderOn (p : Partition) (port : PortId) (hops : Nat) : Option Nat :=
  let own := p.settings.logical.toNat
  let m := p.settings.modules.toNat
  let via := (p.place.routes.filter fun r => r.2 == port).map (·.1)
  (sortBy (fun x => min ((x + m - own) % m) ((own + m - x) % m)) via)[hops]?

/-- A link die takes an access of another member (R350, R353): a gather waits for its command, an access to a window goes to the stack that holds its bytes, and the
access is kept until it is answered. -/
def State.takeAsk (s : State) (p : PortId) (n : PartId) (k : Packet) (hops : Nat) : State :=
  let l := linkOf p
  let q := s.parts.get n
  match q.senderOn p hops, q.image with
  | some x, some m =>
    let keep := fun (s : State) (a : Word64) => s.modLink l fun z => { z with asks := z.asks ++ [⟨n, x, k, a⟩] }
    let decl := bits k.w1.toNat 45 32
    if decl = 0 then keep s 0
    else
      let h := (m.decls[decl - 1]?).map fun d => bits (wordAt d.words 0) 63 32
      let write := pktKind k == 1 || (pktKind k == 6 && pktLength k != 16)
      match (h.bind fun h => q.transferKey m h write).bind fun z => q.locate m z (bits k.w1.toNat 31 0) with
      | none => s
      | some (c, off) =>
        let a := sliceAddr c off
        keep (s.send (pktKind k) (pktVc k) (epStack (stackOf c)) (epLink l) (pktFlow k) n a (pktGen k) 0 (k.payload.take (pktLength k))) a
  | _, _ => s

/-- A packet whose tail has arrived: the header CRC is checked, and it enters the mesh with this die as its source (R311); on a port without
a matched partition only VC3 packets for the control die are delivered (R322). The whole packet is there when its head enters the mesh (DESIGN CHOICE, log entry 64). -/
def State.deliverVilet (s : State) (p : PortId) (bs : List Byte) (hops : Nat) : State :=
  let k := packetOfBytes bs
  if !pktCrcOk k || !pktKindOk k then s.portHeaderFault p
  else
    let n := if (s.ports.get p).matched then s.partOfPort p else none
    let toControl := pktVc k == 3 && pktDst k == epControl
    match n with
    | none => if toControl then s.send (pktKind k) (pktVc k) (pktDst k) (epLink (linkOf p)) (pktFlow k) (pktPart k) k.w1 (pktGen k) (pktQueue k) (k.payload.take (pktLength k))
      else s.modPort p fun x => { x with discarded := x.discarded + 1 }
    | some n =>
      let addr := if pktVc k = 1 ∧ (pktKind k = 4 ∨ pktKind k = 6) then (if pktKind k = 6 then k.w1 &&& 0xFFFFFFFF#64 else 0) else k.w1
      match endpointOf (pktDst k), pktKind k == 1 || pktKind k == 2 || pktKind k == 6 with
      | some (.link _), true => s.takeAsk p n k hops
      | some (.core _), _ => s.send (deliveredAs k).1 (deliveredAs k).2 (pktDst k) (epLink (linkOf p)) (pktFlow k) n addr (pktGen k) (pktQueue k) (k.payload.take (pktLength k))
      | _, _ => s.send (deliveredAs k).1 (deliveredAs k).2 (pktDst k) (epLink (linkOf p)) (pktFlow k) n k.w1 (pktGen k) (pktQueue k) (k.payload.take (pktLength k))

/-- An accepted packet flit (R311, R318): it is forwarded, discarded, or kept until its tail; one whose route has ended with its output port is consumed (R320, R323). -/
def State.takeFlit (s : State) (p : PortId) (f : ViletFlit) : State :=
  let w := f.w0.toNat
  let vc : VcId := Fin.ofNat 4 (bits w 59 58)
  let head := bitAt w 57
  let tail := bitAt w 56
  let dest := bits w 47 32
  let hops := bits w 31 28
  let body := f.payload.take (bits w 55 48 + 1)
  let x := s.ports.get p
  let own := match s.partOfPort p, x.matched with
    | some n, true => (s.parts.get n).settings.logical.toNat
    | _, _ => dest
  if x.rxDiscard.get vc then s.modPort p fun x => { x with rxDiscard := vmod x.rxDiscard vc fun _ => !tail, returned := vmod x.returned vc fun r => (r + 1) % 8192 }
  else if dest = own then
    let s := s.modPort p fun x => { x with rxHeld := vmod x.rxHeld vc (· + 1), rxParts := vmod x.rxParts vc fun b => (if head then [] else b) ++ body, rxHops := vmod x.rxHops vc fun h => if head then hops else h }
    if tail then
      let y := s.ports.get p
      let s := s.modPort p fun x =>
        let z := x.freeSlots vc (x.rxHeld.get vc)
        { z with rxParts := vmod z.rxParts vc fun _ => [] }
      s.deliverVilet p (y.rxParts.get vc) (y.rxHops.get vc)
    else s
  else match Assoc.get dest x.forwarding with
    | some q =>
      if (s.ports.get q).trained = false then
        s.modPort p fun x => { x with rxDiscard := vmod x.rxDiscard vc fun _ => !tail, returned := vmod x.returned vc fun r => (r + 1) % 8192 }
      else if hops < 15 then
        let s := s.modPort p fun x => { x with
          forwarded := x.forwarded + 1
          returned := vmod x.returned vc fun r => (r + 1) % 8192
          through := vmod x.through vc fun _ => !tail }
        (s.modPort q fun y => { y with outQueue := y.outQueue ++ [⟨1, vc.1, head, tail, dest, hops + 1, 0, body, 0⟩] }).pumpPort q
      else (s.modPort p fun x => { x with
        discarded := x.discarded + 1
        rxDiscard := vmod x.rxDiscard vc fun _ => !tail
        returned := vmod x.returned vc fun r => (r + 1) % 8192 }).portHeaderFault p
    | none => (s.modPort p fun x => { x with
        discarded := x.discarded + 1
        rxDiscard := vmod x.rxDiscard vc fun _ => !tail
        returned := vmod x.returned vc fun r => (r + 1) % 8192 }).portHeaderFault p

/-- The acknowledge and credit fields of a flit that passed its checks (R310, R316). -/
def Port.fields (x : Port) (f : ViletFlit) : Port :=
  (x.acknowledge (bits f.w1.toNat 63 48)).credit (Fin.ofNat 4 (bits f.w1.toNat 46 45)) (bits f.w1.toNat 44 32)

/-- VILET_FLIT_RECEIVE (R313): a flit is accepted when its frame decodes, its header passes and, for a sequenced type, its number is the one
expected; a duplicate is dropped; any other failure sets NAK. Port-control commands and markers take effect by their own commands. -/
def execViletFlitReceive (p : PortId) (f : ViletFlit) (s : State) : Host.Outcome State Fault Refusal :=
  let x := s.ports.get p
  if !x.carries then .next s
  else
    let add := fun (v : Vector (BitVec 64) 16) (e : Nat × Nat) => vmod v (Fin.ofNat 16 e.1) fun c => c + BitVec.ofNat 64 e.2
    let s := s.modPort p fun x => { x with corrected := f.corrected.foldl add x.corrected }
    let bad := fun (s : State) => (s.modPort p fun x => if x.nak then x else { x with nak := true, nakDue := true }).pumpPort p
    let type := bits f.w0.toNat 63 60
    let seq := bits f.w0.toNat 15 0
    let behind := (x.rxSeq + 65536 - seq) % 65536
    if f.decoded = false then .next (bad (s.modPort p fun x => { x with uncorrectable := x.uncorrectable + 1 }))
    else if viletHeaderOk f = false then .next (bad (s.modPort p fun x => { x with headerFails := x.headerFails + 1 }))
    else if 3 < type then .next (bad s)
    else if type = 0 then .next ((s.modPort p fun x => x.fields f).pumpPort p)
    else if behind = 0 then
      let s := s.modPort p fun x =>
        let y := x.fields f
        { y with rxSeq := (y.rxSeq + 1) % 65536, accepted := y.accepted + 1, nak := false }
      let s := if type = 1 then s.takeFlit p f else s
      .next (s.pumpPort p)
    else if behind ≤ 4096 then .next s
    else .next (bad s)

/-- NAK_REPEAT_TIMEOUT (R313): the NAK is still outstanding, so it leaves again in the next outgoing flit. -/
def execNakRepeatTimeout (p : PortId) (s : State) : Host.Outcome State Fault Refusal :=
  let x := s.ports.get p
  if x.carries = true ∧ x.nak = true then .next ((s.modPort p fun x => { x with nakDue := true }).pumpPort p) else .next s

/-- LANE_ERROR_RATIO_ALARM (R324, R325): the ratio of the worst lane in use over the last second; above the alarm it is recorded. Positive
binary32 values compare as their codes do. -/
def execLaneErrorRatioAlarm (p : PortId) (lane : Fin 16) (ratio : Word32) (s : State) : Host.Outcome State Fault Refusal :=
  let s := s.modPort p fun x => { x with errorRatio := ratio }
  if s.links.errorAlarm.toNat < ratio.toNat ∧ (s.ports.get p).carries = true ∧ bitAt (modeLanes (s.ports.get p).mode).toNat lane.1 = true then
    .next (s.report (.link (linkOf p)) { s.mkReport 0x0802 0 0 (s.partOfPort p) (epLink (linkOf p)) lane.1 with
      detailA := BitVec.ofNat 32 p.1, detailB := BitVec.ofNat 64 lane.1 })
  else .next s

/-! ### Placement messages (R227, R238) -/

/-- PORT_TABLE (R238 to R240): a member's table, from which the cut assignment is computed anew. -/
def execPortTable (n : PartId) (member : BitVec 16) (table : List Byte) (s : State) : Host.Outcome State Fault Refusal :=
  let p := s.parts.get n
  if p.state = .free ∨ table.length < 264 ∨ p.settings.modules.toNat ≤ member.toNat ∨ member = p.settings.logical then .next s
  else
    let (s, ok) := s.takeTable n member.toNat table
    if ok then .next s else .next (s.resetPartition n 0x0513)

/-- PORT_MATCH_CONFIRM (R227): whether both ends of the cable are bound to one partition. A port that is not matched is assigned to no cut; a Loaded partition
recomputes its assignment without it (R239, R240). -/
def execPortMatchConfirm (p : PortId) (matched : Bool) (s : State) : Host.Outcome State Fault Refusal :=
  .next (
    let s := s.modPort p fun x => { x with matched := matched && (s.partOfPort p).isSome }
    match s.partOfPort p with
    | none => s
    | some n =>
      if matched || (Assoc.get p (s.parts.get n).place.cuts).isNone then s
      else if (s.parts.get n).state = .loaded then
        let (s, ok) := s.takeTable n (s.parts.get n).settings.logical.toNat (s.ownTable n)
        if ok then s else s.resetPartition n 0x0513
      else s.modPart n fun q => { q with place := { q.place with cuts := Assoc.del p q.place.cuts } })

end Sys2Proof.Machine
end

