-- ==== Sys2Proof/Machine/Placement.lean ====
section
/-! DEFINITION. Re-binds, substitutions and migrations (R219 to R247, R268, R463 to R465). -/

namespace Sys2Proof.Machine

/-! ### Granules (R220 to R223, R231) -/

/-- All tiles in snake order: rows from 0, even rows from x 0 upward and odd rows from x 17 downward (R223). -/
def snakeOrder : List TileId :=
  (List.range 16).flatMap fun y => (List.range 18).map fun x => Fin.ofNat 288 (18 * y + if y % 2 = 0 then x else 17 - x)

/-- Free slices, in stripe order: bound to no partition, on a die that has not failed (R467) and is not under test (R493). -/
def State.freeSlices (s : State) : List SliceId :=
  stripeOrder.filter fun c => (s.partOfSlice c).isNone && (s.stackDies.get (stackOf c)).power != .failed &&
    !s.selfTest.tests.any fun k => k.running && k.scope == 3 && k.unit == (stackOf c).1

/-- Free Buckle ranges, lowest first. -/
def State.freeRanges (s : State) : List (Fin 16) := (allFin 16).filter fun r => (s.partOfRange r).isNone

/-- Free tiles in the order in which the placer takes them: undesignated ones in snake order, then designated spares by their distance from
the partition's tiles (R223). -/
def State.tilesToAdd (s : State) (n : PartId) : List TileId :=
  let p := s.parts.get n
  let free := s.freeTiles
  let far := fun (t : TileId) => (p.tiles.map fun b => hops t b).foldl min 99
  (snakeOrder.filter fun t => free.contains t && !s.placer.designated.contains t) ++
    sortBy (fun t => 288 * far t + t.1) (free.filter fun t => s.placer.designated.contains t)

/-- Tiles bound in all partitions. -/
def State.boundCount (s : State) : Nat := (s.parts.toList.map fun p => p.tiles.length).sum

/-! ### Re-bind requests (R221, R222) -/

/-- The fields of a re-bind request. -/
structure Rebind where
  op : Nat
  part : PartId
  tiles : Nat
  slices : Nat
  ranges : Nat
  ports : List PortId
  view : Option (Fin 16)
  func : Option FuncId
  deriving Repr

/-- The fields that the words of a request spell (R221). -/
def rebindOf (ws : List Word64) : Rebind :=
  let w0 := (ws.getD 0 0).toNat
  let w1 := (ws.getD 1 0).toNat
  let v := bits w1 63 56
  let f := bits w1 55 40
  { op := bits w0 63 56
    part := Fin.ofNat 16 (bits w0 55 52)
    tiles := bits w0 47 39
    slices := bits w0 38 31
    ranges := bits w0 30 26
    ports := (allFin 16).filter fun p => bitAt w0 (8 + p.1)
    view := if v = 0xFF then none else some (Fin.ofNat 16 v)
    func := if f = 0xFFFF then none else some (Fin.ofNat 32 (16 * (bits w1 55 55) + bits w1 43 40)) }

/-- A request is well formed, its CRC passes and its number is the next (R14, R221). A dissolve ignores every count, bitmap and name. -/
def State.rebindOk (s : State) (ws : List Word64) : Bool :=
  let w0 := (ws.getD 0 0).toNat
  let w1 := (ws.getD 1 0).toNat
  let v := bits w1 63 56
  let f := bits w1 55 40
  let named := decide (bits w0 47 39 ≤ 256) && decide (bits w0 38 31 ≤ 192) && decide (bits w0 30 26 ≤ 16) && (v == 0xFF || decide (v < 16)) &&
    (f == 0xFFFF || bits w1 54 44 == 0)
  ws.length == 3 && crcOk ws 2 && bits (wordAt ws 2) 31 0 == 0 && bits w0 51 48 == 0 && bits w0 25 24 == 0 && bits w0 7 0 == 0 &&
  bits w1 39 32 == 0 && decide (1 ≤ bits w0 63 56 ∧ bits w0 63 56 ≤ 3) && (bits w0 63 56 == 3 || named) &&
  bits w1 31 0 == (s.placer.rebindNumber.toNat + 1) % 2 ^ 32

/-- A status ends the service of a request: every code but 2 takes its number, and the duration runs from its entry into service (R221, R222, R249). -/
def State.rebindStatus (s : State) (code : Nat) : State :=
  { s with placer := { s.placer with
    rebindStatus := BitVec.ofNat 8 code
    rebindNumber := if code = 2 then s.placer.rebindNumber else s.placer.rebindNumber + 1
    rebindNs := (s.placer.service.map fun v => s.time - v.since).getD 0
    rebindCount := if code = 0 then s.placer.rebindCount + 1 else s.placer.rebindCount
    service := none } }

/-- A partition's state changes: the host function is told (R500), and the module state follows (R552). -/
def State.partChanged (s : State) (n : PartId) : State := (s.statusChanged n).designate.refreshModule

/-- A port leaves a partition: packets whose head has left run to their tails, no other one is admitted, and the port is drained and stays trained; a port that
retrains drains after it (R224, R321). -/
def Port.leave (x : Port) : Port :=
  let x := { x.dropWaiting with matched := false }
  match x.state with
  | .up => x.startDrain
  | .retraining => if x.drainSent then x else { x with drainSent := true, outQueue := x.outQueue ++ [controlFlit 2 []] }
  | _ => x

/-- A port leaves a partition, and its forwarding table is empty. -/
def State.releasePort (s : State) (p : PortId) : State := s.modPort p fun x => { x.leave with forwarding := [] }

/-- The placer's confirmation goes to the peer on VC3 (R227): this module's serial number, the port and the partition. The packet's layout is the
model's own (DESIGN CHOICE, log entry 19). -/
def State.confirmPort (s : State) (n : PartId) (q : PortId) : State :=
  let x := s.ports.get q
  if x.trained then
    let key := (epControl, 0, 3)
    let seq := (Assoc.get key s.fabric.seqOut).getD 0
    let k := mkPacket 0x0B 3 epControl epControl n 0 seq 0 0 0 s.time (Config.serial ++ [BitVec.ofNat 8 q.1, BitVec.ofNat 8 n.1])
    let s := { s with fabric := { s.fabric with seqOut := Assoc.put key (seq + 1) s.fabric.seqOut } }
    s.modPort q fun x => { x with outQueue := x.outQueue ++ viletFlits k (((s.parts.get n).memberOfSerial (x.peer.take 12)).getD 0) 1 }
  else s

/-! ### The three operations (R223, R224) -/

/-- The module serves re-bind requests in its states Configured, Running and Degraded (R552). -/
def State.serves (s : State) : Bool :=
  match s.module.state with
  | .configured | .running | .degraded => true
  | _ => false

/-- Why an add is refused, or 0 (R222). -/
def State.addRefusal (s : State) (q : Rebind) : Nat :=
  let p := s.parts.get q.part
  if s.serves = false ∨ p.state = .resetting then 7
  else if (q.view.isSome = true ∧ p.view.isSome = true) ∨ (q.func.isSome = true ∧ p.func.isSome = true) then 9
  else if s.freeTiles.length < q.tiles ∨ s.freeSlices.length < q.slices ∨ s.freeRanges.length < q.ranges
      ∨ (q.ports.any fun x => (s.partOfPort x).isSome) = true
      ∨ (match q.view with
        | some v => (s.partOfView v).isSome
        | none => false) = true
      ∨ (match q.func with
        | some f => (s.partOfFn f).isSome
        | none => false) = true then 3
  else if 0 < q.tiles ∧ s.freeTiles.length < q.tiles + s.placer.spareReserve.toNat then 5
  else if 256 < s.boundCount + q.tiles then 6
  else 0

/-- Resources before and after a re-bind in the record of the step: a tile behind no logical tile, or a slice; 0xFFFF stands for none, and the cause is 0 (R28, R376,
DESIGN CHOICE, log entry 71). -/
def State.recordRebind (s : State) (n : PartId) (slice : Bool) (before after : Option Nat) : State :=
  s.sbEvent n (mkWord [at_ 56 1, at_ 0 (if slice then 0x1FFFF else 0xFFFF)]) (mkWord [at_ 16 (before.getD 0xFFFF), at_ 0 (after.getD 0xFFFF)]) 0

/-- Record the tiles and slices that enter a partition, or leave it. -/
def State.recordGranules (s : State) (n : PartId) (ts : List TileId) (cs : List SliceId) (enters : Bool) : State :=
  let go := fun (slice : Bool) (s : State) (x : Nat) => if enters then s.recordRebind n slice none (some x) else s.recordRebind n slice (some x) none
  (cs.map (·.1)).foldl (go true) ((ts.map (·.1)).foldl (go false) s)

/-- Bind granules: the tiles are those that have been brought to Retain, and a Free partition becomes Composed (R220, R223). The stripe list and the Buckle ranges of a
bound image stay as they were at its load (R230, R231). -/
def State.addGranules (s : State) (q : Rebind) (ts : List TileId) : State :=
  let n := q.part
  let cs := s.freeSlices.take q.slices
  let rs := s.freeRanges.take q.ranges
  let p := s.parts.get n
  let s := s.modPart n fun p => { p with
    state := if p.state = .free then .composed else p.state
    tiles := p.tiles ++ ts
    slices := p.slices ++ cs
    ranges := p.ranges ++ rs
    ports := p.ports ++ q.ports
    view := match q.view with
      | some v => some v
      | none => p.view
    func := match q.func with
      | some f => some f
      | none => p.func
    place := if p.state = .loaded then p.place else { p.place with stripe := stripeOf (p.slices ++ cs) } }
  let s := { s with
    ports := s.ports.mapFinIdx fun i x _ => if (q.ports.any fun (k : PortId) => k.1 == i) then { x with matched := false } else x
    stackDies := s.stackDies.mapFinIdx fun i k _ => { k with toClean := k.toClean.mapFinIdx fun j b _ => b && !cs.any fun c => c.1 == 8 * i + j } }
  let s := q.ports.foldl (fun (s : State) x => s.confirmPort n x) (s.recordGranules n ts cs true)
  if p.state = .free then s.partChanged n else s.designate.refreshModule

/-- Begin an add: the chosen tiles leave the spares and are brought to Retain, with the scrub of their wake from Off (R223, R225, R229). -/
def State.beginAdd (s : State) (q : Rebind) (ws : List Word64) : State :=
  let ts := (s.tilesToAdd q.part).take q.tiles
  let s := { s with placer := { s.placer with
    rebindStatus := 1
    service := some ⟨ws, s.time, ts⟩
    designated := s.placer.designated.filter fun t => !ts.contains t } }
  ts.foldl (fun (s : State) t => s.requestCore t .retain 3) s

/-- An add goes on (R222): a chosen tile that failed its scrub is replaced by the next free one; without one the request fails and the other tiles are free again. Once
every chosen tile is in Retain the granules are bound. -/
def State.progressAdd (s : State) (q : Rebind) (v : RebindService) : State :=
  let good := v.tiles.filter fun t => (s.tiles.get t).healthy
  let lost := v.tiles.length - good.length
  let others := (s.tilesToAdd q.part).take lost
  if s.serves = false ∨ others.length < lost then
    let s := s.rebindStatus (if s.serves then 8 else 7)
    (good.foldl (fun (s : State) t => s.requestCore t .off 3) s).designate.refreshModule
  else
    let s := if lost = 0 then s
      else others.foldl (fun (s : State) t => s.requestCore t .retain 3) { s with placer := { s.placer with
        service := some { v with tiles := good ++ others }
        designated := s.placer.designated.filter fun t => !others.contains t } }
    if (good ++ others).all fun t => (s.tiles.get t).island.state == .retain then
      let s := s.rebindStatus 0
      s.addGranules q (good ++ others)
    else s

/-- The tiles that a removal takes: idle ones of a Loaded partition, in descending snake order (R223). -/
def Partition.tilesToRemove (p : Partition) : List TileId :=
  (snakeOrder.filter fun t => p.tiles.contains t && (p.state != .loaded || (p.logicalOf t).isNone)).reverse

/-- Logical Buckle ranges of the bound image. -/
def Partition.rangesUsed (p : Partition) : Nat := if p.state = .loaded then (p.image.map (·.ranges)).getD 0 else 0

/-- The ranges that a removal takes, from the highest down: those beyond the logical ranges of the bound image (R223, R230). -/
def Partition.rangesToRemove (p : Partition) : List (Fin 16) :=
  (sortBy (·.1) (p.ranges.filter fun r => !(p.place.ranges.take p.rangesUsed).contains r)).reverse

/-- Why a removal is refused, or 0 (R222, R223). -/
def State.removeRefusal (s : State) (q : Rebind) : Nat :=
  let p := s.parts.get q.part
  if s.serves = false ∨ p.state = .free ∨ p.state = .resetting then 7
  else if p.tiles.length < q.tiles ∨ p.slices.length < q.slices ∨ p.ranges.length < q.ranges
      ∨ (q.ports.any fun x => !p.ports.contains x) = true
      ∨ (q.view.isSome = true ∧ p.view ≠ q.view) ∨ (q.func.isSome = true ∧ p.func ≠ q.func) then 3
  else if p.state = .loaded ∧ (p.tilesToRemove.length < q.tiles ∨ 0 < q.slices ∨ q.view.isSome = true ∨ q.func.isSome = true
      ∨ (q.ports.any fun x => (Assoc.get x p.place.cuts).isSome) = true ∨ p.rangesToRemove.length < q.ranges) then 4
  else 0

/-- Free a function: a ring reset, and it is bound to no partition (R513). -/
def State.freeFn (s : State) (f : FuncId) : State := s.modFn f fun h => h.ringReset (s.linkUp f) s.time

/-- A request is in service, with the tiles that it makes clean. -/
def State.serving (s : State) (ws : List Word64) (ts : List TileId) : State :=
  { s with placer := { s.placer with rebindStatus := 1, service := some ⟨ws, s.time, ts⟩ } }

/-- Remove granules (R223, R224): they leave at once, and the tiles among them are made clean before the request is done. Records lie striped in every slice, so they
end with a slice that leaves (R369, R195, DESIGN CHOICE, log entry 71). -/
def State.beginRemove (s : State) (q : Rebind) (ws : List Word64) : State :=
  let n := q.part
  let p := s.parts.get n
  let ts := p.tilesToRemove.take q.tiles
  let cs := ((stripeOf p.slices).reverse).take q.slices
  let rs := p.rangesToRemove.take q.ranges
  let s := (s.advance rs).recordGranules n ts cs false
  let s := s.modPart n fun p => { p with
    tiles := p.tiles.filter fun t => !ts.contains t
    slices := p.slices.filter fun c => !cs.contains c
    ranges := p.ranges.filter fun r => !rs.contains r
    ports := p.ports.filter fun x => !q.ports.contains x
    view := if q.view.isSome then none else p.view
    func := if q.func.isSome then none else p.func
    replay := if cs.isEmpty then p.replay else { p.replay with records := [] }
    place := if p.state = .loaded then p.place else { p.place with stripe := stripeOf (p.slices.filter fun c => !cs.contains c) } }
  let s := match q.func with
    | some f => s.freeFn f
    | none => s
  let s := q.ports.foldl (fun (s : State) x => s.releasePort x) (s.serving ws ts)
  (ts.foldl (fun (s : State) t => s.leaveTile t) s.designate).refreshModule

/-- A partition without granules: the settings at their defaults, the counts that run from power-on kept (R541, R567). -/
def Partition.freed (p : Partition) : Partition :=
  { Partition.reset with
    state := .composed
    refusedWrites := p.refusedWrites
    replay := { p.replay.partReset with records := [], readout := Replay.reset.readout } }

/-- Every granule leaves a partition (R223, R224): a Loaded one is reset first. The tiles are not made clean yet. -/
def State.emptyPartition (s : State) (n : PartId) : State :=
  let s := if (s.parts.get n).state = .loaded then s.resetPartition n 0 else s
  let p := s.parts.get n
  let s := (s.statusChanged n).advance p.ranges
  let s := s.modPart n Partition.freed
  let s := match p.func with
    | some f => s.freeFn f
    | none => s
  p.ports.foldl (fun (s : State) x => s.releasePort x) s

/-- Dissolve a partition at once, as a module reset and a module Fault do: its tiles go Off (R553, R565). -/
def State.dissolve (s : State) (n : PartId) : State :=
  let ts := (s.parts.get n).tiles
  let s := (s.emptyPartition n).modPart n fun p => { p with state := .free }
  (ts.foldl (fun (s : State) t => s.modTile t fun x => x.partReset.goOff) s.designate).refreshModule

/-- Dissolve a partition (R223, R224): every granule leaves it, and it is Free once they are clean. -/
def State.beginDissolve (s : State) (q : Rebind) (ws : List Word64) : State :=
  let ts := (s.parts.get q.part).tiles
  let s := (s.emptyPartition q.part).serving ws ts
  (ts.foldl (fun (s : State) t => s.leaveTile t) s.designate).refreshModule

/-- A tile that left a partition is clean (R224, R225); one that failed its scrub stays fenced. -/
def Tile.clean (x : Tile) : Bool :=
  x.island.fenced || x.island.weltFailed || (!x.island.scrubDue && (x.island.state == .retain || x.island.state == .off))

/-- A removal or a dissolve goes on: it is done when every tile that left is clean (R222, R224). -/
def State.progressLeave (s : State) (q : Rebind) (v : RebindService) : State :=
  if v.tiles.all fun t => (s.tiles.get t).clean then
    let s := s.rebindStatus 0
    let s := if q.op = 3 then s.modPart q.part fun p => { p with state := .free } else s
    s.designate.refreshModule
  else s

/-- Why a dissolve is refused, or 0 (R222). -/
def State.dissolveRefusal (s : State) (q : Rebind) : Nat :=
  if s.serves = false ∨ (s.parts.get q.part).state = .free ∨ (s.parts.get q.part).state = .resetting then 7
  else 0

/-- Why a request is refused, or 0. -/
def State.rebindRefusal (s : State) (q : Rebind) : Nat :=
  if q.op = 1 then s.addRefusal q else if q.op = 2 then s.removeRefusal q else s.dissolveRefusal q

/-- Begin a request that is not refused. -/
def State.beginRebind (s : State) (q : Rebind) (ws : List Word64) : State :=
  if q.op = 1 then s.beginAdd q ws else if q.op = 2 then s.beginRemove q ws else s.beginDissolve q ws

/-- The request in service goes on. -/
def State.progressRebind (s : State) : State :=
  match s.placer.service with
  | none => s
  | some v =>
    let q := rebindOf v.words
    if q.op = 1 then s.progressAdd q v else s.progressLeave q v

/-- A request names a partition in the middle of a substitution, a migration or a partition reset (R222). -/
def State.rebindWaits (s : State) (q : Rebind) : Bool := !(s.parts.get q.part).moves.isEmpty || (s.parts.get q.part).state == .resetting

/-- Take the first request that waits, unless one is in service: it is checked, waits for events of its partition, and is refused or enters service (R222). -/
def State.serveOne (s : State) : State :=
  match s.placer.requests with
  | [] => s
  | ws :: rest =>
    let q := rebindOf ws
    let s' : State := { s with placer := { s.placer with requests := rest } }
    if s.placer.service.isSome then s
    else if !s.rebindOk ws then s'.rebindStatus 2
    else if s.rebindWaits q then s
    else
      let code := s.rebindRefusal q
      if code = 0 then (s'.beginRebind q ws).progressRebind else s'.rebindStatus code

/-- Re-bind requests are served one at a time, in order of arrival (R222). -/
def State.serveRebinds (s : State) : State := s.placer.requests.foldl (fun (s : State) _ => s.serveOne) s.progressRebind

/-- A request arrives (R221, R222): one that spells another operation of the three than the command presented is not this command's. -/
def State.submitRebind (s : State) (op : Nat) (ws : List Word64) : State :=
  let q := rebindOf ws
  if q.op ≠ op ∧ 1 ≤ q.op ∧ q.op ≤ 3 then s
  else ({ s with placer := { s.placer with requests := s.placer.requests ++ [ws] } } : State).serveRebinds

/-- REBIND_ADD (R221 to R224). -/
def execRebindAdd (words : List Word64) (s : State) : Host.Outcome State Fault Refusal := .next (s.submitRebind 1 words)

/-- REBIND_REMOVE (R221 to R224). -/
def execRebindRemove (words : List Word64) (s : State) : Host.Outcome State Fault Refusal := .next (s.submitRebind 2 words)

/-- REBIND_DISSOLVE (R221 to R224). -/
def execRebindDissolve (words : List Word64) (s : State) : Host.Outcome State Fault Refusal := .next (s.submitRebind 3 words)

/-! ### Republishing (R150, R152) -/

/-- Re-send what a republished destination releases, over all queues of a tile behind a logical tile. -/
def State.resendAll (s : State) (t : TileId) (free : Arming → Asked → Bool) : State :=
  match s.seat t with
  | none => s
  | some e => (allFin 32).foldl (fun (s : State) q => s.resendQueue t e free q) s

/-- A packet of a PUT-TILE to a logical tile that was refused for another cause than a closed edge port. -/
def toLogical (l : Nat) (a : Arming) (z : Asked) : Bool := a.desc.kind == 1 && bits a.desc.target 63 56 == l && z.refused != some 7

/-- A packet that was refused at the closed edge port of an endpoint (R43, R152). -/
def behindEdge (dst : Nat) (_ : Arming) (z : Asked) : Bool := pktDst z.packet == dst && z.refused == some 7

/-- Replace a binding-table entry of a stream unit, and re-send the refused transfers to it (R150, R152). -/
def State.publishEntry (s : State) (t : TileId) (l : Nat) (u : TileId) : State :=
  (s.modTile t fun x => { x with stream := { x.stream with binding := x.stream.binding.set l (some u) } }).resendAll t (toLogical l)

/-- No transfer of the partition that has not been refused is outstanding to a logical tile (R150, R244 step 5). -/
def State.noneTo (s : State) (p : Partition) (l : Nat) : Bool := p.workers.all fun t => (s.tiles.get t).stream.freeOf l

/-- The edge port by which a tile reaches an endpoint has reopened, or the alternate routes are in force (R152). -/
def State.routeBack (s : State) (t : TileId) (dst : Nat) : Bool :=
  s.fabric.alternates || ((exitRouter (epTile t) dst).map fun v => s.edgeOpen v).getD false

/-- BINDING_REPUBLISH (R150, R152): the placer republishes an entry of a tile's binding table while the tile that it names is Running and no transfer that has not been
refused is outstanding to the logical tile, or a route once the edge port has reopened or an alternate route exists. -/
def execBindingRepublish (t : TileId) (what : Republish) (s : State) : Host.Outcome State Fault Refusal :=
  .next (match s.seat t, what with
    | none, _ => s
    | some e, .entry l u =>
      let x := s.tiles.get t
      let same := (x.stream.binding[l.toNat]?).join == some u
      if (s.parts.get e.part).physOf l.toNat = some u ∧ (s.tiles.get u).island.state = .running ∧ (s.tiles.get u).island.ingressOpen = true ∧
          (same || x.stream.freeOf l.toNat) = true then
        s.publishEntry t l.toNat u
      else s
    | some _, .route dst => if s.routeBack t dst.1 then s.resendAll t (behindEdge dst.1) else s)

/-! ### What a chosen tile receives (R244, R246) -/

/-- The tables of a logical tile, read from the stacks: descriptors, operand records, binding table and scale tables (R244 step 3). -/
def Tile.loadTables (x : Tile) (p : Partition) (m : Image) (l : Nat) : Tile :=
  { x with
    stream := { x.stream with binding := p.place.binding }
    seqr := { x.seqr with
      descriptors := m.descriptorsOf l
      records := m.recordsOf l
      tables := p.weights.tables
      boundImage := BitVec.ofNat 32 m.revision } }

/-- Every block of a logical tile's share of a checkpoint carries the current step and attempt (R213). -/
def Partition.shareComplete (p : Partition) (d : Descriptor) : Bool :=
  (p.weights.region ⟨d.target / 2 ^ 32, .checkpoint, false⟩).tagged d.position (d.rowLen * d.rows) p.tag

/-- Restore a share into the store (R244 step 4). -/
def Tile.restoreShare (x : Tile) (p : Partition) (d : Descriptor) : Tile :=
  (List.range d.rows).foldl (fun (x : Tile) r =>
    x.storeWrite (d.addr + r * d.stride) (p.weights.read ⟨d.target / 2 ^ 32, .checkpoint, false⟩ (d.position + r * d.rowLen) d.rowLen) .passed) x

/-- The controller discards the stamp tables of a logical tile for a layer and later ones (R366). -/
def State.dropTables (s : State) (n : PartId) (l r : Nat) : State :=
  s.modPart n fun p => { p with replay := { p.replay with
    tables := p.replay.tables.filter fun t => !(t.1 == l && decide (r ≤ t.2.1) && t.2.1 != preambleLayer)
    blocks := p.replay.blocks.filter fun b => !(b.logical == l && decide (r ≤ b.layer) && b.layer != preambleLayer) } }

/-- Buckles of tile scope take their entry values at a layer, in the current generation (R266). -/
def State.enterBuckles (s : State) (n : PartId) (m : Image) (l r : Nat) : State :=
  let p := s.parts.get n
  (m.named l).eraseDups.foldl (fun (s : State) b =>
    if m.tileScope b = some l then s.setBuckle (p.physBuckle b) (m.entryValue l r b) else s) s

/-- The welt of the chosen tile takes over the sent maps of the logical tile (R267). -/
def State.moveSent (s : State) (old new_ : TileId) : State :=
  let maps := (s.tiles.get old).router.sentMaps
  (s.modTile new_ fun x => { x with router := { x.router with sentMaps := maps } }).modTile old Tile.clearSent

/-- A binding change is recorded: in the step's record and, for a substitution or a migration, in OD 0x2200.0A (R28, R250, R376). -/
def State.recordMove (s : State) (n : PartId) (v : Move) (cause : Nat) : State :=
  let p := s.parts.get n
  let s := s.sbEvent n (mkWord [at_ 56 1, at_ 0 v.logical]) (mkWord [at_ 16 v.source.1, at_ 0 v.target.1]) (BitVec.ofNat 64 cause)
  { s with placer := { s.placer with lastSubstitution := wordsBytes [
    mkWord [at_ 48 v.source.1, at_ 32 v.target.1, at_ 24 n.1, at_ 16 cause, at_ 8 v.logical], BitVec.ofNat 64 p.run.step,
    BitVec.ofNat 64 v.since, BitVec.ofNat 64 (s.time - v.since)] } }

/-- The logical tile stands on its new tile, and the move has ended (R244, R246). -/
def State.bindMove (s : State) (n : PartId) (v : Move) : State :=
  (s.modPart n fun p => { p with
    tiles := if p.tiles.contains v.target then p.tiles else p.tiles ++ [v.target]
    place := { p.place with binding := p.place.binding.set v.logical (some v.target) }
    moves := p.moves.filter (· != v) }).designate.refreshModule

/-- The placer republishes the entry of a logical tile in every stream unit of the partition (R244 step 5, R246 step 5). -/
def State.publishMove (s : State) (n : PartId) (v : Move) : State :=
  ((s.parts.get n).workers).foldl (fun (s : State) t => s.publishEntry t v.logical v.target) s

/-! ### Substitution (R244, R464) -/

/-- The code of the record that calls for a substitution, by its cause (R250). -/
def substCode (c : SubstCause) : Nat × Nat :=
  match c with
  | .fence => (1, 0x0111)
  | .death => (2, 0x0501)
  | .dieFault => (3, 0x0503)
  | .migration => (4, 0x0111)

/-- The layer at which a substitution restarts, when every condition of R464 holds. -/
def State.restartFor (s : State) (n : PartId) (m : Image) (v : Move) : Option Nat :=
  let p := s.parts.get n
  match p.restartOf v.logical v.layer with
  | none => none
  | some r =>
    let shares := m.shares v.logical
    if v.layer.isNone ∨ (s.tiles.get v.source).island.weltFailed = true ∨ v.blocked = true ∨ (decide (0 < r) && shares.any fun d => !p.shareComplete d) = true then none
    else some r

/-- Start the contexts of the chosen tile at the entry indices of the restart layer (R244 steps 3, 4 and 6, R266, R267, R464, R465). -/
def State.restartMove (s : State) (n : PartId) (m : Image) (v : Move) (r : Nat) : State :=
  let p := s.parts.get n
  let old := s.tiles.get v.source
  let first := m.entry v.logical r 2
  let kindOf := fun (arm : Nat) => ((m.armings v.logical (m.cmds v.logical 2).length).find? fun a => a.arm == arm).bind fun a =>
    (m.descriptor v.logical a.desc).map fun ws => (descOf ws).kind
  let s := (s.bindMove n v).dropTables n v.logical r
  let p' := s.parts.get n
  let s := s.modTile v.target fun x =>
    let x := x.loadTables p' m v.logical
    let x := ((m.shares v.logical).filter p.shareComplete).foldl (fun (x : Tile) d => x.restoreShare p d) x
    { x with
      vec := if r = 0 then { x.vec with gens := gensOf (p.snapshot v.logical) } else x.vec
      seqr := { x.seqr with
        ctxs := Vector.ofFn fun c => if p.run.running then Context.atStart (m.entry v.logical r c.1) else { Context.reset with pos := m.entry v.logical r c.1 }
        lastLayer := Vector.replicate 4 r
        counted := old.seqr.counted
        stepReady := false }
      faults := { x.faults with
        perLayer := old.faults.perLayer
        rerun := none
        spent := old.faults.spent.filter fun z => decide (first ≤ z.2) && kindOf z.1 == some 1 } }
  let s := (s.publishMove n v).enterBuckles n m v.logical r
  let s := s.moveSent v.source v.target
  s.modPart n fun p => { p with run := { p.run with ready := p.run.ready.filter (· != v.logical) } }

/-- The chosen tile is Running: the substitution completes, and the module queues a test of the tile that was replaced (R492). With a retry under way the restore is skipped; when a condition of R464 fails the
partition takes a step retry, and the chosen tile starts with it (R247). -/
def State.completeSubstitution (s : State) (n : PartId) (m : Image) (v : Move) (c : SubstCause) : State :=
  let (cause, code) := substCode c
  let s := { s with placer := { s.placer with substitutions := s.placer.substitutions + 1 } }
  let s := s.recordMove n v cause
  let old := s.tiles.get v.source
  let s := if old.island.weltFailed || old.power.heatOff then s else s.queueTest v.source
  let seat := fun (s : State) =>
    let s := s.bindMove n v
    let p := s.parts.get n
    (s.modTile v.target fun x => x.loadTables p m v.logical).publishMove n v
  if (s.parts.get n).run.retry.isSome then seat s
  else match s.restartFor n m v with
    | some r => s.restartMove n m v r
    | none => (seat s).callRetry n code

/-- SUBSTITUTION (R243, R244): a tile behind a logical tile is fenced and a tile is chosen; presented again once the chosen tile is Running,
the moves before it have ended, and every transfer that was outstanding to the replaced tile has been refused, it completes. -/
def execSubstitution (t : TileId) (cause : SubstCause) (s : State) : Host.Outcome State Fault Refusal :=
  let found := (allFin 16).findSome? fun n => ((s.parts.get n).moves.find? fun v => !v.migration && v.source == t).map fun v => (n, v)
  match found with
  | some (n, v) =>
    let p := s.parts.get n
    match p.image with
    | none => .next s
    | some m =>
      let first := p.moves.find? fun v => !v.migration
      if (s.tiles.get v.target).island.state = .running ∧ first = some v ∧ (p.run.retry.isSome || s.noneTo p v.logical) = true then .next (s.completeSubstitution n m v cause) else .next s
  | none =>
    match s.partOfTile t with
    | none => .next s
    | some n =>
      if ((s.parts.get n).logicalOf t).isSome then .next (s.fenceTile t (s.failingLayer n t) (cause = .dieFault)) else .next s

/-! ### Migration (R246, R247) -/

/-- The first layer whose entry index no context of the tile has passed (R246 step 1); past the last one, as at STEP, the hold stands at layer 0 of the next step
(R490). -/
def State.holdLayer (s : State) (t : TileId) (m : Image) (l : Nat) : Nat :=
  ((List.range m.layers.length).find? fun b => (allFin 4).all fun c => decide (((s.tiles.get t).seqr.ctxs.get c).pos ≤ m.entry l b c.1)).getD 0

/-- Begin a migration: the hold is set, and a tile is chosen and woken; nothing begins without a tile to take the work (R246, R247). -/
def State.startMigration (s : State) (t : TileId) : State × Bool :=
  match s.seat t with
  | none => (s, false)
  | some e =>
    let p := s.parts.get e.part
    if p.moves.any fun v => v.source == t then (s, true)
    else match s.chooseTile e.part t false with
      | some u =>
        let v : Move := ⟨true, e.logical, t, u, some (s.holdLayer t e.image e.logical), s.time, false, p.tiles.contains u⟩
        let s := s.modPart e.part fun p => { p with moves := p.moves ++ [v] }
        let s := { s with placer := { s.placer with designated := s.placer.designated.filter (· != u) } }
        ((s.requestCore u .running 2).designate.refreshModule, true)
      | none => (s, false)

/-- MIGRATION (R246 steps 1 and 2). -/
def execMigration (t : TileId) (s : State) : Host.Outcome State Fault Refusal := .next (s.startMigration t).1

/-- The migration of a tile. -/
def State.migrationOf (s : State) (t : TileId) : Option (PartId × Move) :=
  (allFin 16).findSome? fun n => ((s.parts.get n).moves.find? fun v => v.migration && v.source == t).map fun v => (n, v)

/-- The tile is quiesced at its hold (R246 step 3). -/
def State.atHold (s : State) (t : TileId) (m : Image) (v : Move) : Bool :=
  let x := s.tiles.get t
  (allFin 4).all (fun c => (x.seqr.ctxs.get c).pos == m.entry v.logical (v.layer.getD 0) c.1 && (x.seqr.ctxs.get c).outstanding.isEmpty) &&
  x.stream.allEmpty && x.allPassed

/-- The state that a migration copies from the source to the chosen tile (R246). -/
def Tile.takeOver (x old : Tile) (footprint : Nat) : Tile :=
  { x with
    store := old.store.filter fun c => decide (c.1 < footprint)
    storeStatus := old.storeStatus.filter fun z => decide (64 * z.1 < footprint)
    vec := old.vec
    array := { x.array with acc := old.array.acc, trailerSeq := old.array.trailerSeq }
    stream := { x.stream with queues := Vector.ofFn fun q => { x.stream.queues.get q with armCount := (old.stream.queues.get q).armCount } }
    stamp := old.stamp
    faults := { x.faults with perLayer := old.faults.perLayer, rerun := old.faults.rerun, spent := old.faults.spent } }

/-- MIGRATION_QUIESCED (R246 steps 3 to 7): the source closes ingress; once no transfer is outstanding to it, the state is copied, the entry is republished, the source
drains, leaves the partition and passes to a test, and the contexts start at the hold indices. -/
def execMigrationQuiesced (t : TileId) (s : State) : Host.Outcome State Fault Refusal :=
  .next (match s.migrationOf t with
  | none => s
  | some (n, v) =>
    match (s.parts.get n).image with
    | none => s
    | some m =>
      if (s.tiles.get v.target).island.state ≠ .running ∨ s.atHold t m v = false then s
      else
        let s := s.modTile t fun x => { x with island := { x.island with ingressOpen := false } }
        if !s.noneTo (s.parts.get n) v.logical then s
        else
          let old := s.tiles.get t
          let s := { s with placer := { s.placer with migrations := s.placer.migrations + 1 } }
          let s := s.recordMove n v 4
          let s := s.modPart n fun p => { p with tiles := p.tiles.erase t }
          let s := s.bindMove n v
          let p := s.parts.get n
          let s := s.modTile v.target fun x =>
            let x := (x.loadTables p m v.logical).takeOver old (roundUp 4096 (m.dirOf v.logical).footprint)
            { x with seqr := { x.seqr with
              ctxs := old.seqr.ctxs.map fun c => { c with pages := [], arrivals := c.arrivals }
              lastLayer := old.seqr.lastLayer
              counted := old.seqr.counted
              stepReady := old.seqr.stepReady } }
          let s := (s.publishMove n v).moveSent t v.target
          ((s.requestCore t .off 2).queueTest t).refreshModule)

/-- MIGRATION_ABANDON (R246). -/
def execMigrationAbandon (t : TileId) (s : State) : Host.Outcome State Fault Refusal :=
  .next (match s.migrationOf t with
  | none => s
  | some (n, v) => s.abandonMigration n v)

end Sys2Proof.Machine
end

