-- ==== Sys2Proof/Machine/Faulted.lean ====
section
/-! DEFINITION. Entry into Fault, failed edge dies, and the conservation audit (R270 to R275, R409, R467, R472, R553). -/

namespace Sys2Proof.Machine

/-! ### Fault (R553) -/

/-- A tile is driven Off. -/
def Tile.driveOff (x : Tile) : Tile := if x.island.state == .off then x else x.goOff

/-- A base die goes into self-refresh, its edge ports closed; a failed one stays failed (R218, R553, R561). -/
def Stack.selfRefreshed (k : Stack) : Stack := if k.power = .failed then k else { k with power := .selfRefresh, portsClosed := true }

/-- The module enters Fault (R553): Loaded partitions are reset and every partition is dissolved, tiles go Off, base dies go into
self-refresh, ports are drained and disabled, and the cause is written. -/
def State.enterFault (s : State) (code : Nat) (hot : Bool) : State :=
  match s.module.state with
  | .off => s
  | .booting => s
  | .fault => s
  | _ =>
    let s := (allFin 16).foldl (fun (s : State) n => if (s.parts.get n).state = .loaded then s.resetPartition n code else s) s.endTests
    let s := (allFin 16).foldl (fun (s : State) n => if (s.parts.get n).state = .free then s else s.dissolve n) s
    let s := { s with
      tiles := s.tiles.map Tile.driveOff
      dies := s.dies.map fun (d : Die) => { d with requests := [], softStartTile := none }
      stackDies := s.stackDies.map Stack.selfRefreshed
      ports := s.ports.map Port.disable
      module := { s.module with faultCause := BitVec.ofNat 16 code, faultHot := hot, coolantWait := false } }
    s.enter .fault

/-- FAULT_ENTRY (R553): a cause of the table puts the module in Fault. -/
def execFaultEntry (code : BitVec 16) (s : State) : Host.Outcome State Fault Refusal :=
  if code = 0x0514 ∨ code = 0x0601 ∨ code = 0x0604 then .next (s.enterFault code.toNat false) else .next s

/-- The control die fails its own checks (R467). -/
def State.failControl (s : State) : State := (s.recordOwn (s.mkReport 0x0514 4 6 none epControl 0)).enterFault 0x0514 false

/-- An edge die fails: base dies 0 to 23, link dies 24 to 31, the control die 32 (R467). -/
def State.failEdge (s : State) (d : Fin 33) : State :=
  if d.1 < 24 then s.failStack (Fin.ofNat 24 d.1)
  else if d.1 < 32 then s.failLink (Fin.ofNat 8 (d.1 - 24))
  else s.failControl

/-- EDGE_DIE_RAIL_FAILURE (R409, R467). -/
def execEdgeDieRailFailure (d : Fin 33) (s : State) : Host.Outcome State Fault Refusal :=
  if s.module.state = .off ∨ s.module.state = .booting then .next s else .next (s.failEdge d)

/-! ### The audit (R272 to R275, R472) -/

/-- The core of a tile is dark: its sums are not checked (R271). -/
def Island.dark (i : Island) : Bool := !(i.state == .running || i.state == .draining)

/-- An input port is in use: it faces a neighbour over a link that is up, or an edge die (R278, R293). -/
def State.inputUp (s : State) (t : TileId) (port : RPort) : Bool :=
  let x := s.tiles.get t
  if x.island.weltFailed then false
  else if port = localPort then !x.island.dark
  else if (neighbour t port).isSome then x.router.up port
  else (edgeAt t).map (·.1) == some port

/-- The hops of the module whose accounts are open. -/
def State.hopsUp (s : State) : List Hop :=
  ((allFin 288).flatMap fun t => (allFin 5).flatMap fun p => if s.inputUp t p then (allFin 4).map fun v => Hop.input t p v else []) ++
  ((allFin 288).flatMap fun t => if (edgeAt t).isSome && !(s.tiles.get t).island.weltFailed then (allFin 4).map fun v => Hop.edge t v else []) ++
  ((allFin 288).flatMap fun t => if (s.tiles.get t).island.dark || (s.tiles.get t).island.weltFailed then [] else (allFin 4).map fun v => Hop.core t v) ++
  ((allFin 16).flatMap fun p => if (s.ports.get p).carries then (allFin 4).map fun v => Hop.vilet p v else [])

/-- Sum of counts over the pools of a VC at a port. -/
def poolSum (port : RPort) (vc : VcId) (f : PoolKey → Nat) : Nat := ([0, 1, 2].map fun k => f (poolKey port vc.1 k)).sum

/-- The receiver's end of a hop (R270): the buffer's depth over its pools, what stands in it, and the credits that it has returned. -/
def State.receiverEnd (s : State) (h : Hop) : Nat × Nat × Nat :=
  match h with
  | .input t port vc =>
    let x := s.tiles.get t
    if port = localPort then (16, ((x.router.bufs.filter fun e => e.feed == .core && e.vc == vc.1).map (·.slots)).sum, x.island.outRead.get vc)
    else (poolSum port vc fun k => inputDepth t port vc.1 k.2.2, poolSum port vc fun k => x.router.occupied port vc.1 k.2.2,
      poolSum port vc fun k => (Assoc.get k x.router.returned).getD 0)
  | .edge t vc =>
    let r := (s.tiles.get t).router
    match edgeAt t with
    | none => (0, 0, 0)
    | some (port, _) => (poolSum port vc fun k => inputDepth t port vc.1 k.2.2,
        poolSum port vc fun k => (Assoc.get k r.edgeHeld).getD 0 + (Assoc.get k r.edgeCrossing).getD 0, poolSum port vc fun k => (Assoc.get k r.edgeReturned).getD 0)
  | .core t vc =>
    let i := (s.tiles.get t).island
    (16, ((i.inPackets.filter fun z => pktVc z.packet == vc.1).map fun z => z.got - z.read).sum, i.inRead.get vc)
  | .vilet p vc => (viletDepth vc.1, (s.ports.get p).rxHeld.get vc, (s.ports.get p).returned.get vc)

/-- The sender's end of a hop (R270): its credit balance B and the credits K_s that it has received. A crossing's sender takes both from the
pointers that it sees (R36). The sender of a Vilet hop is the port here, toward its peer. -/
def State.senderEnd (s : State) (h : Hop) : Nat × Nat :=
  match h with
  | .input t port vc =>
    let x := s.tiles.get t
    if port = localPort then (crossingRoom x.island.outWritten x.island.outSeen vc, x.island.outSeen.get vc)
    else match neighbour t port with
      | some u =>
        let r := (s.tiles.get u).router
        (poolSum (facing port) vc fun k => r.credits u (facing port) vc.1 k.2.2, poolSum (facing port) vc fun k => (Assoc.get k r.received).getD 0)
      | none => (poolSum port vc fun k => x.router.edgeCredits t port vc.1 k.2.2, poolSum port vc fun k => (Assoc.get k x.router.edgeReceived).getD 0)
  | .edge t vc =>
    let r := (s.tiles.get t).router
    match edgeAt t with
    | none => (0, 0)
    | some (port, _) => (poolSum port vc fun k => r.credits t port vc.1 k.2.2, poolSum port vc fun k => (Assoc.get k r.received).getD 0)
  | .core t vc =>
    let i := (s.tiles.get t).island
    (crossingRoom i.inWritten i.inSeen vc, i.inSeen.get vc)
  | .vilet p vc => ((s.ports.get p).credits.get vc, (s.ports.get p).received.get vc)

/-- A hop's depth over its pools, and what its receiver holds and has returned: O + K_r (R273). None while the account is closed. -/
def State.account (s : State) (h : Hop) : Option (Nat × Nat) :=
  if !s.hopsUp.contains h then none
  else
    let e := s.receiverEnd h
    some (e.1, e.2.1 + e.2.2)

/-- The modulus of a hop's counts: crossings count modulo 2^32, Vilet credits modulo 8,192 (R36, R316). -/
def hopModulus : Hop → Nat
  | .vilet _ _ => 8192
  | _ => 2 ^ 32

/-- The partitions in the mask of an account's input (R458, R472). -/
def State.maskOf (s : State) (h : Hop) : List PartId :=
  match h with
  | .input t port _ => (s.tiles.get t).router.mask port s.time
  | .core t _ => (s.partOfTile t).toList
  | .edge t _ => match (edgeAt t).bind fun e => endpointOf e.2 with
    | some (.base k) => (allFin 16).filter fun n => (s.parts.get n).slices.any fun c => stackOf c == k
    | some (.link l) => (allFin 16).filter fun n => (s.parts.get n).ports.any fun q => linkOf q == l
    | _ => []
  | .vilet p _ => (s.partOfPort p).toList

/-- The unit at fault in a hop's account, its number and its VC. -/
def hopUnit : Hop → Nat × Nat
  | .input t port vc => (epTile t, 4 * port.1 + vc.1)
  | .core t vc => (epTile t, 20 + vc.1)
  | .edge t vc => (((edgeAt t).map (·.2)).getD epControl, vc.1)
  | .vilet p vc => (epLink (linkOf p), 4 * (p.1 % 2) + vc.1)

/-- The unit of an account is taken out of service (R472). -/
def State.outOfService (s : State) (h : Hop) : State :=
  let welt := fun (s : State) (t : TileId) =>
    if (s.tiles.get t).island.weltFailed then s else ((s.tileDeath t 0x0502 t.1 false true).failWelt t).refreshModule
  match h with
  | .input t _ _ => welt s t
  | .core t _ => welt s t
  | .edge t _ => match (edgeAt t).bind fun e => endpointOf e.2 with
    | some (.base k) => s.failStack k
    | some (.link l) => s.failLink l
    | _ => s.failControl
  | .vilet p _ => s.failLink (linkOf p)

/-- A credit sum is broken: the partitions of the input's mask are reset, and a second break of the account takes its unit out of service
(R274, R472). -/
def State.brokenCredits (s : State) (h : Hop) (expected observed : Nat) : State :=
  let again := s.audit.brokenHops.contains h
  let ns := s.maskOf h
  let part := match ns with
    | [n] => some n
    | _ => none
  let s := s.brokenSum 1 (hopUnit h).1 (hopUnit h).2 (hopUnit h).1 expected observed part (if again then 7 else 4)
  let s := { s with audit := { s.audit with brokenHops := if again then s.audit.brokenHops.filter (· != h) else s.audit.brokenHops ++ [h] } }
  if again then s.outOfService h else ns.foldl (fun (s : State) n => s.resetPartition n 0x0401) s

/-- AUDIT_MARKER (R273): the marker arrives with the sender's balance and count, and the receiver checks that B + O + (K_r − K_s) is the
depth. -/
def execAuditMarker (h : Hop) (balance received : Nat) (s : State) : Host.Outcome State Fault Refusal :=
  let s := { s with audit := { s.audit with markers := s.audit.markers.erase (h, balance, received) } }
  .next (match s.account h with
  | none => s
  | some (depth, ok) =>
    let m := hopModulus h
    let sum := (balance + ok + m - received % m) % m
    let s := { s with audit := { s.audit with checks := s.audit.checks + 1 } }
    if sum = depth % m then { s with audit := { s.audit with brokenHops := s.audit.brokenHops.filter (· != h) } }
    else s.brokenCredits h depth sum)

/-- Hops of the wafer: their markers go on the sideband (R273). -/
def onWafer : Hop → Bool
  | .vilet _ _ => false
  | _ => true

/-- The markers of the wafer's hops, each with its sender's balance B and count K_s (R273). -/
def State.waferMarkers (s : State) : List (Hop × Nat × Nat) :=
  (s.hopsUp.filter onWafer).map fun h => (h, s.senderEnd h)

/-- Every hop's sender sends a marker on each VC; a Vilet port sends its own as flits, with a probe (R273, R310). -/
def State.sendMarkers (s : State) (probes : Bool) : State :=
  let s := { s with audit := { s.audit with markers := s.audit.markers ++ s.waferMarkers } }
  (allFin 16).foldl (fun (s : State) p =>
    let x := s.ports.get p
    if !x.carries then s
    else
      let marks := (allFin 4).map fun v => { controlFlit 0 [] with type := 2, vc := v.1 }
      (s.modPort p fun x => { x with
        outQueue := x.outQueue ++ marks ++ (if probes then [controlFlit 4 (leBytes 8 s.time)] else [])
        roundTrip := if probes && decide (0 < x.probeMax) then BitVec.ofNat 32 x.probeMax else x.roundTrip
        probeMax := if probes then 0 else x.probeMax }).pumpPort p) s

/-- AUDIT_PERIOD (R273, R310, R325): markers and probes leave, and the round trip of the period that ends is published. -/
def execAuditPeriod (s : State) : Host.Outcome State Fault Refusal :=
  match s.module.state with
  | .off => .next s
  | .booting => .next s
  | _ => .next (s.sendMarkers true)

/-- The slot pools of the hops, by VC and pool (R270, R272): the hop, the pool's number, its capacity, and the sum of its free slots, which its
sender holds as credits, its reserved ones, whose credits are on their way back, and its occupied ones. A Vilet receiver's free slots are
credits of the peer, so its occupied slots are held to the capacity alone. -/
def State.hopPools (s : State) (h : Hop) : List (Hop × Nat × Nat × Nat) :=
  let whole := fun (c f r o : Nat) => [(h, 0, c, f + r + o)]
  match h with
  | .input t port vc =>
    let x := s.tiles.get t
    if port = localPort then whole 16 (s.senderEnd h).1 ((x.island.outRead.get vc + 2 ^ 32 - x.island.outSeen.get vc) % 2 ^ 32) (s.receiverEnd h).2.1
    else [0, 1, 2].map fun k =>
      let key := poolKey port vc.1 k
      let back := (Assoc.get key x.router.returned).getD 0
      let end_ := match neighbour t port with
        | some u =>
          let r := (s.tiles.get u).router
          (r.credits u (facing port) vc.1 k, (Assoc.get (poolKey (facing port) vc.1 k) r.received).getD 0)
        | none => (x.router.edgeCredits t port vc.1 k, (Assoc.get key x.router.edgeReceived).getD 0)
      (h, k, inputDepth t port vc.1 k, end_.1 + (back - end_.2) + x.router.occupied port vc.1 k)
  | .edge t vc =>
    let r := (s.tiles.get t).router
    match edgeAt t with
    | none => []
    | some (port, _) => [0, 1, 2].map fun k =>
      let key := poolKey port vc.1 k
      let count := fun (l : List (PoolKey × Nat)) => (Assoc.get key l).getD 0
      (h, k, inputDepth t port vc.1 k, r.credits t port vc.1 k + (count r.edgeReturned - count r.received) + count r.edgeHeld + count r.edgeCrossing)
  | .core t vc =>
    let i := (s.tiles.get t).island
    whole 16 (s.senderEnd h).1 ((i.inRead.get vc + 2 ^ 32 - i.inSeen.get vc) % 2 ^ 32) (s.receiverEnd h).2.1
  | .vilet _ _ => whole (s.receiverEnd h).1 ((s.receiverEnd h).1 - (s.receiverEnd h).2.1) 0 (s.receiverEnd h).2.1

/-- The pools of the module's hops. -/
def State.pools (s : State) : List (Hop × Nat × Nat × Nat) := s.hopsUp.flatMap s.hopPools

/-- The escape slots of a slice: free and in use (R195, R270). -/
def State.escapeSum (s : State) (c : SliceId) : Nat :=
  (Assoc.get c.1 s.fabric.escapeFree).getD 16384 + (s.fabric.escape.filter fun e => e.slice == c).length

/-- Hops whose sender's balance exceeds the depth of the buffer (R272). -/
def State.overdrawn (s : State) : List Hop := s.hopsUp.filter fun h => decide ((s.receiverEnd h).1 < (s.senderEnd h).1)

/-- The hops whose sender holds more credits than the buffer's depth, by the sender's own balances alone (R272). -/
def State.overBalances (s : State) : List Hop :=
  ((allFin 288).flatMap fun t => (s.tiles.get t).router.balance.filterMap fun b =>
    let o : RPort := Fin.ofNat 5 b.1.1
    let vc : VcId := Fin.ofNat 4 b.1.2.1
    if inputDepth t o b.1.2.1 b.1.2.2 < b.2 then some (match neighbour t o with
      | some u => Hop.input u (facing o) vc
      | none => Hop.edge t vc)
    else none) ++
  (allFin 16).flatMap fun p => (allFin 4).filterMap fun v =>
    if (s.ports.get p).carries && decide (viletDepth v.1 < (s.ports.get p).credits.get v) then some (Hop.vilet p v) else none

/-- Every cycle each sender holds its balances to the depths (R272). -/
def State.checkBalances (s : State) : State :=
  s.overBalances.foldl (fun (s : State) h => s.brokenCredits h (s.receiverEnd h).1 (s.senderEnd h).1) s

/-- A pool of slots is broken: every partition in the mask of its account is reset (R274, R472). -/
def State.brokenPool (s : State) (z : Hop × Nat × Nat × Nat) : State :=
  let s' := s.brokenSum 2 (hopUnit z.1).1 (16 * z.2.1 + (hopUnit z.1).2) (hopUnit z.1).1 z.2.2.1 z.2.2.2 none 4
  (s'.maskOf z.1).foldl (fun (s : State) n => s.resetPartition n 0x0401) s'

/-- The partitions bound to a slice. -/
def State.partsOfSlice (s : State) (c : SliceId) : List PartId := (allFin 16).filter fun n => (s.parts.get n).slices.contains c

/-- AUDIT_NOW (R272, R275): a write of 1 sends markers on every hop and checks every pool and every balance. -/
def execAuditNow (v : BitVec 8) (s : State) : Host.Outcome State Fault Refusal :=
  if v ≠ 1 then .next s
  else
    let s := s.sendMarkers false
    let ps := s.pools
    let bad := ps.filter fun z => z.2.2.2 != z.2.2.1
    let slots := (allFin 192).filter fun c => s.escapeSum c != 16384
    let beyond := s.overdrawn
    let s := { s with audit := { s.audit with checks := s.audit.checks + BitVec.ofNat 64 (ps.length + 192) } }
    let s := bad.foldl (fun (s : State) z => s.brokenPool z) s
    let s := slots.foldl (fun (s : State) c =>
      let s' := s.brokenSum 2 (epStack (stackOf c)) c.1 (epStack (stackOf c)) 16384 (s.escapeSum c) none 4
      (s.partsOfSlice c).foldl (fun (s : State) n => s.resetPartition n 0x0401) s') s
    .next (beyond.foldl (fun (s : State) h => s.brokenCredits h (s.receiverEnd h).1 (s.senderEnd h).1) s)

end Sys2Proof.Machine
end

