-- ==== Sys2Proof/Machine/Power.lean ====
section
/-! DEFINITION. Power delivery: the input and its bands, EPO_L, converters, vertical-stage and regulator phases, boost and shunt, the
droop detector, and the published readings (R33, R403 to R425, R581, R583). -/

namespace Sys2Proof.Machine

/-! ### Off (R404, R405, R552, R566) -/

/-- The rails fall and the module is Off: nothing is kept but what signed flash holds and what stands at the pins. -/
def State.powerOff (s : State) : State :=
  { State.reset with
    flash := { s.flash with storing := none, storeStatus := 0 }
    input := { PowerInput.reset with
      sample := s.input.sample
      band := s.input.band
      bandSince := s.input.bandSince
      epo := s.input.epo
      epoPending := s.input.epoPending }
    free := s.free
    pending := s.pending }

/-- The input is lost (R404): a record and the count go into signed flash, and the rails fall. No drain, commit or conservation check
runs. ALERT_L is asserted until then (R581); the step ends in Off, where no rail holds it. -/
def State.loseInput (s : State) : State :=
  match s.module.state with
  | .off => s
  | _ =>
    let r := { s.mkReport 0x0603 4 6 none epControl 0 with detailB := BitVec.ofNat 64 s.input.sample }
    let ws := recordWords r s.faults.nextSeq (s.faults.keysSeen.contains (faultKey r))
    let s := { s with flash := { s.flash with
      inputLosses := s.flash.inputLosses + 1
      records := s.flash.records ++ [ws] } }
    s.powerOff

/-! ### The input (R403) -/

/-- The band of a sample of V_in in mV. -/
def bandOf (mv : Nat) : InputBand :=
  if 900000 < mv then .over
  else if 720000 ≤ mv then .normal
  else if 640000 ≤ mv then .low
  else if mv = 0 then .absent
  else .lost

/-- The module counts an entry into the band Low and records it. -/
def State.enterLow (s : State) : State :=
  match s.module.state with
  | .off => s
  | _ =>
    let s := { s with input := { s.input with lowEntries := s.input.lowEntries + 1 } }
    s.recordOwn { s.mkReport 0x0602 0 0 none epControl 0 with detailB := BitVec.ofNat 64 s.input.sample }

/-- INPUT_SAMPLE (R403, R583): the sample's band; below 560 V the input is lost at this sample. Beyond 1,000 V nothing is
guaranteed. -/
def execInputSample (millivolts : Nat) (s : State) : Host.Outcome State Fault Refusal :=
  if 1000000 < millivolts then .fault .beyondAbsoluteMaximum
  else
    let band := bandOf millivolts
    let entered := decide (band ≠ s.input.band)
    let s := { s with input := { s.input with
      sample := millivolts
      band := band
      bandSince := if entered then s.time else s.input.bandSince } }
    let s := if entered = true ∧ band = .low then s.enterLow else s
    if millivolts < 560000 then .next s.loseInput else .next s

/-- The band calls for input loss once it has lasted 1 ms. -/
def InputBand.lossy (b : InputBand) : Bool := b == .over || b == .lost || b == .absent

/-- INPUT_LOSS (R403, R404): a band Over or Lost has lasted 1 ms. -/
def execInputLoss (s : State) : Host.Outcome State Fault Refusal :=
  if s.input.band.lossy then .next s.loseInput else .next s

/-- EPO_ASSERT (R405, R581): every converter stops, with no record and no drain; the next power-on counts it. -/
def execEpoAssert (s : State) : Host.Outcome State Fault Refusal :=
  .next (
    let s := { s with input := { s.input with epo := true } }
    match s.module.state with
    | .off => s
    | _ => ({ s with input := { s.input with epoPending := true } }).powerOff)

/-- EPO_RELEASE (R581): only now is EPO_L released for R556. -/
def execEpoRelease (s : State) : Host.Outcome State Fault Refusal := .next { s with input := { s.input with epo := false } }

/-! ### Converters (R406, R407) -/

/-- The converter limit in W. -/
def converterLimit (n : Nat) : Nat := if 30 ≤ n then 28000 else 28000 * n / 30

/-- CONVERTER_FAILURE (R406, R407): it stays disconnected; below 20 working converters the module enters Fault. -/
def execConverterFailure (i : Fin 32) (s : State) : Host.Outcome State Fault Refusal :=
  .next (
    if s.module.state = .off ∨ s.input.converters.get i = .failed then s
    else
      let s := { s with input := { s.input with converters := vmod s.input.converters i fun _ => .failed } }
      let n := s.workingConverters
      let s := { s with module := { s.module with converterWarning := decide (n < 30) } }
      let s := s.recordOwn { s.mkReport 0x0601 1 0 none epControl 0 with detailA := BitVec.ofNat 32 i.1, detailB := BitVec.ofNat 64 n }
      if n < 20 then s.enterFault 0x0601 false else s.refreshModule)

/-! ### Regulator phases (R412, R413, R425, R449) -/

/-- The counts of bad checks in a row after a check. -/
def TilePower.checked (p : TilePower) (bad : BitVec 8) : TilePower :=
  { p with badChecks := Vector.ofFn fun i =>
      if bitAt p.phases.toNat i.1 && bitAt bad.toNat i.1 then min 3 (p.badChecks.get i + 1) else 0 }

/-- A phase of a tile's regulator is lost: the cap takes effect on the allowance, and the readings are estimates for 1 ms (R447). -/
def State.losePhase (s : State) (t : TileId) (i : Fin 8) : State :=
  let s := s.modTile t fun x =>
    let p := { x.power with phases := x.power.phases &&& ~~~(BitVec.ofNat 8 (2 ^ i.1)) }
    { x with power := { p with
      allowance := min p.allowance p.cap
      ramp := p.ramp.map fun r => (min r.1 p.cap, r.2.1, r.2.2)
      estimateUntil := s.time + 1000000 } }
  let x := s.tiles.get t
  s.report (.welt t) { s.mkReport 0x0504 1 0 (s.partOfTile t) (epTile t) 0 with
    detailA := BitVec.ofNat 32 i.1
    detailB := BitVec.ofNat 64 x.power.cap }

/-- The regulator controller has turned every phase off: a wake in its soft-start fails, and any other core is closed by force and the
tile dies (R49, R412, R425). -/
def State.regulatorOff (s : State) (t : TileId) (cause : Nat) : State :=
  let x := s.tiles.get t
  if x.island.state = .waking ∧ x.power.softStart = true then
    let s := (s.report (.welt t) (s.mkReport 0x0507 2 2 (s.partOfTile t) (epTile t) 0)).failTest t
    let s := s.modDie (dieOf t) fun d => { d with softStartTile := none }
    ((s.modTile t fun x => x.goOff).fenceTile t none false).tryAdmit (dieOf t)
  else ((s.forcedClose t).tileDeath t 0x0501 cause false false).tryAdmit (dieOf t)

/-- PHASE_CHECK (R412): a phase found bad three times in a row is lost. One or two lost phases lower the cap and the clock; three, or a fault
of the controller, turn the regulator off. -/
def execPhaseCheck (t : TileId) (bad : BitVec 8) (controllerFault : Bool) (s : State) : Host.Outcome State Fault Refusal :=
  let x := s.tiles.get t
  if x.island.state = .off ∨ x.power.controllerFault = true then .next s
  else
    let s := s.modTile t fun x => { x with power := { x.power.checked bad with controllerFault := controllerFault } }
    let lost := (allFin 8).filter fun i => decide (3 ≤ (s.tiles.get t).power.badChecks.get i)
    let s := lost.foldl (fun (s : State) i => s.losePhase t i) s
    let y := s.tiles.get t
    if controllerFault = true then .next (s.regulatorOff t 2)
    else if lost.isEmpty then .next s
    else if 3 ≤ y.power.lost then .next (s.regulatorOff t 1)
    else if y.island.state = .running then .next (s.modTile t fun y => y.setClock t y.clockSetpoint)
    else .next s

/-! ### Vertical-stage phases (R409) -/

/-- VERTICAL_STAGE_PHASE_LOSS (R409): a new die current limit, taken up at the next governor loop, or the die rail is lost. The record's
origin is the die's lowest-numbered tile, with the die rail's voltage. -/
def execVerticalStagePhaseLoss (d : DieId) (phase : Fin 16) (s : State) : Host.Outcome State Fault Refusal :=
  let x := s.dies.get d
  if s.module.state = .off ∨ x.railLost = true ∨ bitAt x.phases.toNat phase.1 = false then .next s
  else
    let s := s.modDie d fun x => { x with phases := x.phases &&& ~~~(BitVec.ofNat 16 (2 ^ phase.1)) }
    let ts := tilesOfDie d
    let s := s.modTiles ts fun x => { x with power := { x.power with estimateUntil := s.time + 1000000 } }
    let t := ts.headD (Fin.ofNat 288 0)
    let y := s.dies.get d
    let s := s.report (.welt t) { s.mkReport 0x0505 1 0 none (epTile t) 0 with
      volts := BitVec.ofNat 12 y.railMillivolts
      detailA := BitVec.ofNat 32 phase.1
      detailB := BitVec.ofNat 64 y.limit }
    if y.working ≤ 13 then .next (s.loseDie d) else .next s

/-! ### Boost, shunt and droop (R33, R414) -/

/-- BOOST (R414): the event is counted; neither values nor issue change. -/
def execBoost (t : TileId) (s : State) : Host.Outcome State Fault Refusal :=
  if (s.tiles.get t).island.state = .off then .next s
  else .next (s.modTile t fun x => { x with power := { x.power with boosts := x.power.boosts + 1 } })

/-- SHUNT (R414). -/
def execShunt (t : TileId) (s : State) : Host.Outcome State Fault Refusal :=
  if (s.tiles.get t).island.state = .off then .next s
  else .next (s.modTile t fun x => { x with power := { x.power with shunts := x.power.shunts + 1 } })

/-- DROOP_DETECT (R33): the next clock period is 1.5 times the present one, and the stretched cycle is counted. -/
def execDroopDetect (t : TileId) (s : State) : Host.Outcome State Fault Refusal :=
  let mhz := (s.tiles.get t).island.clock
  if mhz = 0 then .next s
  else .next (s.modTile t fun x => { x with
    stream := x.stream.slowed (periodPs mhz * 3 / 2)
    island := { x.island with
      stretched := x.island.stretched + 1
      stretchedLoop := x.island.stretchedLoop + 1 } })

/-! ### Readings (R420 to R424, R447) -/

/-- A tile's readings are estimates (R447). -/
def State.estimated (s : State) (t : TileId) : Bool :=
  let x := s.tiles.get t
  !s.governor.calibrated || x.test.last == .running || decide (s.time < x.power.estimateUntil) ||
    (tilesOfDie (dieOf t)).any fun u => (s.tiles.get u).test.last == .running

/-- The activity estimate of a tile's current in mA at a rail in mV: the leakage, and rail × clock × the sum of k_u × a_u (R447). The coefficients are in pF
(DESIGN CHOICE, log entry 20), so that mV × MHz × pF is 10⁻⁶ mA. -/
def State.activityCurrent (s : State) (t : TileId) (rail : Nat) (activity : List Nat) : Nat :=
  let x := s.tiles.get t
  let k := fun (u : Nat) => match Assoc.get t s.governor.coefficients with
    | some c => c.k.getD u 0
    | none => Config.fusedCoefficient t u
  Config.leakage t rail x.power.temp + rail * x.island.clock * (activity.mapIdx fun u a => k u * a).sum / 1000000

/-- A tile's current of an interval: the regulator's reading, or the activity estimate where the readings are estimates (R447). -/
def State.currentOf (s : State) (r : Readings) (t : TileId) (rail reading : Nat) : Nat :=
  if s.estimated t then s.activityCurrent t rail ((Assoc.get t r.activity).getD []) else reading

/-- MEASUREMENT_INTERVAL (R420): the readings of the last whole interval are published together. -/
def execMeasurementInterval (r : Readings) (s : State) : Host.Outcome State Fault Refusal :=
  .next (match s.module.state with
  | .off => s
  | .booting => s
  | _ =>
    let s := { s with input := { s.input with
      inputMillivolts := r.inputMillivolts
      inputMilliamps := r.inputMilliamps
      inputWatts := r.inputWatts
      busMillivolts := r.busMillivolts
      edgePower := (r.edge ++ s.input.edgePower.drop r.edge.length).take 9
      intervalEnd := s.time } }
    let s := r.tiles.foldl (fun (a : State) v => a.modTile v.1 fun x => { x with power := { x.power with
      rail := v.2.1
      current := s.currentOf r v.1 v.2.1 v.2.2.1
      peak := v.2.2.2.1
      weltRail := v.2.2.2.2 } }) s
    let s := r.dies.foldl (fun (s : State) v => s.modDie v.1 fun d => { d with railMillivolts := v.2.1, railMilliamps := v.2.2 }) s
    r.stackPower.foldl (fun (s : State) v => s.modStack v.1 fun k => { k with powerMw := v.2 }) s)

end Sys2Proof.Machine
end

