-- ==== Sys2Proof/Machine/SelfTest.lean ====
section
/-! DEFINITION. Built-in self-test: requests, the order and the limits under which tests run, their results, and tests in the field
(R482 to R495). -/

namespace Sys2Proof.Machine

/-! ### Requests (R484, R485) -/

/-- The fields of a test request: scope, unit, memory, logic, migrate, production. -/
def testOf (ws : List Word64) : PendingTest :=
  let w := wordAt ws 0
  ⟨bits w 63 56, bits w 55 46, bitAt w 45, bitAt w 44, bitAt w 43, bitAt w 42, false, .never, none⟩

/-- Units of a scope; scope 6 names none. -/
def scopeUnits (scope : Nat) : Nat := [0, 288, 72, 24, 8, 16, 1].getD scope 0

/-- The request is well formed, with its CRC and the next request number (R484). -/
def State.testOk (s : State) (ws : List Word64) : Bool :=
  let k := testOf ws
  ws.length == 2 && crcOk ws 1 && zeroField ws 0 41 32 && zeroField ws 1 31 0 &&
  decide (bits (wordAt ws 0) 31 0 = (s.selfTest.lastNumber + 1).toNat) &&
  decide (1 ≤ k.scope ∧ k.scope ≤ 6 ∧ k.unit < scopeUnits k.scope) && (k.memory || k.logic)

/-- The tiles that a request tests, in the order in which they are tested (R482, R492). -/
def State.testTiles (s : State) (k : PendingTest) : List TileId :=
  match k.scope with
  | 1 => [Fin.ofNat 288 k.unit]
  | 2 => tilesOfDie (Fin.ofNat 72 k.unit)
  | 5 =>
    let p := s.parts.get (Fin.ofNat 16 k.unit)
    p.workers ++ sortBy (·.1) (p.tiles.filter fun t => (p.logicalOf t).isNone)
  | 6 => s.freeTiles
  | _ => []

/-- The module runs tests. -/
def ModuleState.tests (m : ModuleState) : Bool := m == .configured || m == .running || m == .degraded

/-- Why a well-formed request is refused, or 0 (R485). -/
def State.testRefusal (s : State) (k : PendingTest) : Nat :=
  let ts := s.testTiles k
  let stack : StackId := Fin.ofNat 24 k.unit
  let link : LinkId := Fin.ofNat 8 k.unit
  if !s.module.state.tests then 4
  else if k.migrate = false ∧ (ts.any fun t => (s.partOfTile t).isSome) = true then 2
  else if k.scope = 3 ∧ (s.parts.toList.any fun p => p.slices.any fun c => stackOf c == stack) = true then 2
  else if k.scope = 4 ∧ (s.parts.toList.any fun p => p.ports.any fun q => linkOf q == link) = true then 2
  else if k.scope ≤ 2 ∧ (ts.any fun t => (s.tiles.get t).island.weltFailed || (s.dies.get (dieOf t)).railLost) = true then 3
  else if (ts.any fun t => s.testPending 1 t.1) = true ∨ ((k.scope = 3 ∨ k.scope = 4) ∧ s.testPending k.scope k.unit = true) then 5
  else 0

/-- The tests that an accepted request queues: one for each tile, or one for an edge die. -/
def State.testEntries (s : State) (k : PendingTest) : List PendingTest :=
  if k.scope = 3 ∨ k.scope = 4 then [k]
  else (s.testTiles k).map fun t => { k with
    scope := 1, unit := t.1, sweep := if k.scope = 5 then some (Fin.ofNat 16 k.unit) else none }

/-! ### Beginning a test (R486 to R488, R490, R492) -/

/-- Mark a test as running. -/
def State.runTest (s : State) (k : PendingTest) (previous : TestCode) : State :=
  { s with selfTest := { s.selfTest with
    tests := s.selfTest.tests.map fun j => if j = k then { j with running := true, previous := previous } else j } }

/-- Tiles under test. -/
def State.tilesUnderTest (s : State) : List TileId := (allFin 288).filter fun t => (s.tiles.get t).test.last == .running

/-- The limits of R487 admit a test of a tile. -/
def State.testAdmits (s : State) (t : TileId) : Bool :=
  decide (s.tilesUnderTest.length < 8) && !(s.tilesUnderTest.any fun u => dieOf u == dieOf t) &&
  decide (800 ≤ (s.tiles.get t).power.thermalCeiling ∧ 800 ≤ s.governor.ceiling)

/-- A test of the same partition's sweep is under way on another tile, or that tile is being emptied (R492). -/
def State.sweepBusy (s : State) (k : PendingTest) : Bool :=
  k.sweep.isSome && s.selfTest.tests.any fun j => j.sweep == k.sweep && j.unit != k.unit &&
    (j.running || (s.migrationOf (Fin.ofNat 288 j.unit)).isSome)

/-- A test of a tile wakes it (R486, R487). -/
def State.beginTileTest (s : State) (k : PendingTest) (t : TileId) : State :=
  let x := s.tiles.get t
  if s.testAdmits t && (x.island.state == .off || x.island.state == .retain) then
    let s := s.runTest k x.test.last
    (s.modTile t fun x => { x with test := { x.test with last := .running } }).queueWake t 2
  else s

/-- The test is deferred, to be tried again (R490). -/
def State.deferTest (s : State) (k : PendingTest) (t : TileId) : State :=
  let s := s.modTile t fun x => { x with test := { x.test with deferred := x.test.deferred + 1, waiting := some k } }
  { s with selfTest := { s.selfTest with
    deferred := s.selfTest.deferred + 1
    tests := s.selfTest.tests.filter (· != k) } }

/-- Begin a pending test of a tile, or empty the tile by migration first (R486, R490). -/
def State.startTileTest (s : State) (k : PendingTest) (t : TileId) : State :=
  if (s.tiles.get t).island.weltFailed || s.chosen t || s.sweepBusy k then s else
  match s.partOfTile t with
  | none => s.beginTileTest k t
  | some n =>
    let p := s.parts.get n
    match p.logicalOf t with
    | none => s.beginTileTest k t
    | some _ =>
      if p.moves.any (fun v => v.migration || v.source == t) then s
      else match s.startMigration t with
        | (s', true) => s'
        | (_, false) => s.deferTest k t

/-- Begin a pending test (R487, R488): a base die leaves service, and a link die's ports are drained and its test runs after that. -/
def State.startTest (s : State) (k : PendingTest) : State :=
  if k.running || !s.module.state.tests then s else
  match k.scope with
  | 1 => s.startTileTest k (Fin.ofNat 288 k.unit)
  | 3 =>
    let u : StackId := Fin.ofNat 24 k.unit
    (s.runTest k (if (s.stackDies.get u).power = .failed then .failed else .never)).modStack u Stack.selfRefreshed
  | 4 =>
    let l : LinkId := Fin.ofNat 8 k.unit
    let s := s.runTest k .never
    s.modPort (Fin.ofNat 16 (2 * l.1)) Port.disable |>.modPort (Fin.ofNat 16 (2 * l.1 + 1)) Port.disable
  | _ => s

/-- Begin every pending test that may begin, in order of request (R487). -/
def State.startTests (s : State) : State := s.selfTest.tests.foldl (fun (s : State) k => s.startTest k) s

/-- TEST_REQUEST (R484, R485): status 1 leaves the count of requests unchanged, and a refused request changes nothing else. -/
def execTestRequest (words : List Word64) (s : State) : Host.Outcome State Fault Refusal :=
  .next (
    match s.module.state with
    | .off => s
    | .booting => s
    | _ =>
      let k := testOf words
      if s.testOk words = false then { s with selfTest := { s.selfTest with status := 1 } }
      else
        let code := s.testRefusal k
        let s := { s with selfTest := { s.selfTest with
          status := BitVec.ofNat 8 code
          lastNumber := s.selfTest.lastNumber + 1
          tests := s.selfTest.tests ++ (if code = 0 then s.testEntries k else []) } }
        s.startTests)

/-! ### Results (R483, R486, R489, R493) -/

/-- The observed signatures are the expected ones, and a memory test found no failing word (R483). -/
def PendingTest.passes (k : PendingTest) (r : TestResult) : Bool :=
  (!k.logic || r.logic == some (Config.signature k.scope false k.production)) &&
  (!k.memory || (r.memory == some (Config.signature k.scope true k.production) && r.failing == 0))

/-- A tile passed: the core stops with ingress closed, the fenced flag is cleared, and it stays an idle tile of its partition or becomes
free (R486). -/
def State.passTile (s : State) (t : TileId) : State :=
  let s := s.modTile t fun x =>
    let x := x.scrubbed.goRetain
    { x with
      island := { x.island with fenced := false, held := none }
      power := { x.power with heatOff := false }
      test := { x.test with last := .passed, lastPass := s.time, run := x.test.run + 1 } }
  let s := { s with flash := { s.flash with lastPass := vmod s.flash.lastPass t fun _ => s.time } }
  let s := s.designate.refreshModule
  if (s.partOfTile t).isSome ∨ s.placer.designated.contains t = true then s else s.modTile t Tile.goOff

/-- A tile failed, or its test was aborted: it is fenced and driven Off (R486, R493). -/
def State.failTile (s : State) (t : TileId) (code : TestCode) : State :=
  let heat := decide ((s.tiles.get t).power.thermalCeiling < 800)
  let s := s.modTile t fun x =>
    let x := x.goOff
    { x with
      island := { x.island with fenced := true }
      power := { x.power with heatOff := x.power.heatOff || (heat && code != .failed) }
      test := { x.test with
        last := code
        run := if code = .failed then x.test.run + 1 else x.test.run
        failed := if code = .failed then x.test.failed + 1 else x.test.failed } }
  s.fenceTile t none false

/-- The test of a tile is aborted (R493). -/
def State.abortTile (s : State) (k : PendingTest) (r : TestResult) (t : TileId) : State :=
  ((s.closeTest k r 4).failTile t k.previous |>.tryAdmit (dieOf t)).startTests

/-- Tests of tiles whose thermal ceiling has fallen below 800 MHz are aborted (R493). -/
def State.abortHot (s : State) : State :=
  (allFin 288).foldl (fun (s : State) t =>
    match s.runningTest 1 t.1 with
    | none => s
    | some k => if (s.tiles.get t).power.thermalCeiling < 800 then s.abortTile k ⟨none, none, 0, 0, k.production, true, true⟩ t else s) s

/-- TILE_TEST (R483, R486, R489, R493): the tests of a tile in its wake have ended. The scrub that follows may fail (R225). -/
def execTileTest (t : TileId) (r : TestResult) (s : State) : Host.Outcome State Fault Refusal :=
  .next (match s.runningTest 1 t.1 with
  | none => s
  | some k =>
    let x := s.tiles.get t
    if r.aborted then s.abortTile k r t
    else if x.island.state ≠ .waking ∨ x.island.clock ≠ 800 then s
    else if k.passes r = false then ((s.closeTest k r 3).failTile t .failed |>.tryAdmit (dieOf t)).startTests
    else if r.scrubOk = false then
      let s := (s.closeTest k r 2).report (.welt t) (s.mkReport 0x0508 1 7 none (epTile t) 0)
      (s.failTile t k.previous |>.tryAdmit (dieOf t)).startTests
    else ((s.closeTest k r 2).passTile t |>.tryAdmit (dieOf t)).startTests)

/-- STACK_BASE_TEST (R488): on a pass the base die serves again, its slices are free and those it has tested are clean; on a fail it is
failed. -/
def execStackBaseTest (k : StackId) (r : TestResult) (s : State) : Host.Outcome State Fault Refusal :=
  .next (match s.runningTest 3 k.1 with
  | none => s
  | some q =>
    let was : StackPower := if q.previous = .failed then .failed else .up
    if r.aborted then (s.closeTest q r 4).modStack k fun x => { x with power := was, portsClosed := false }
    else if q.passes r then
      ((s.closeTest q r 2).modStack k fun x => { x with
        power := .up
        portsClosed := false
        toClean := if q.memory then Vector.replicate 8 false else x.toClean }).refreshModule
    else ((s.closeTest q r 3).modStack k fun x => { x with power := .failed }).refreshModule)

/-- LINK_DIE_TEST (R488): both ports were drained, and they are trained again after it; on a fail the die is out of service. -/
def execLinkDieTest (l : LinkId) (r : TestResult) (s : State) : Host.Outcome State Fault Refusal :=
  .next (match s.runningTest 4 l.1 with
  | none => s
  | some q =>
    let ports : List PortId := [Fin.ofNat 16 (2 * l.1), Fin.ofNat 16 (2 * l.1 + 1)]
    let again := fun (s : State) => ports.foldl (fun (s : State) p => s.modPort p fun x => { x.unlinked (if x.present then .training else .down) with halfNext := false }) s
    if r.aborted then again (s.closeTest q r 4)
    else if q.passes r then again (s.closeTest q r 2)
    else ((s.closeTest q r 3).modLink l fun x => { x with failed := true }).refreshModule)

/-! ### Tests in the field (R490) -/

/-- A test of the tests of OD 0x2D00.05, with the field set. -/
def SelfTest.fieldTest (z : SelfTest) (t : TileId) : PendingTest :=
  ⟨1, t.1, bitAt z.fieldTests.toNat 1, bitAt z.fieldTests.toNat 0, true, false, false, .never, none⟩

/-- FIELD_TEST_DUE (R490): a due tile is queued, with the tests of OD 0x2D00.05 and the field set. -/
def execFieldTestDue (t : TileId) (s : State) : Host.Outcome State Fault Refusal :=
  let z := s.selfTest
  if z.interval = 0 ∨ bits z.fieldTests.toNat 1 0 = 0 ∨ s.testPending 1 t.1 = true ∨ (s.tiles.get t).island.weltFailed = true then .next s
  else match s.module.state with
    | .off => .next s
    | .booting => .next s
    | .init => .next s
    | .fault => .next s
    | _ => .next ({ s with selfTest := { z with
        tests := z.tests ++ [z.fieldTest t] } }).startTests

/-- DEFERRED_TEST_RETRY (R490): every second a deferred test is tried again. -/
def execDeferredTestRetry (t : TileId) (s : State) : Host.Outcome State Fault Refusal :=
  match (s.tiles.get t).test.waiting with
  | none => .next s
  | some k =>
    let s := s.modTile t fun x => { x with test := { x.test with waiting := none } }
    .next ({ s with selfTest := { s.selfTest with tests := s.selfTest.tests ++ [k] } }).startTests

end Sys2Proof.Machine
end

