-- ==== Sys2Proof/Machine/Governor.lean ====
section
/-! DEFINITION. The power governor: its loop, ceilings and allowances, the slope limiter and the ballast, deferred wakes, ramps, slack notices and
slack matching, temperatures and the coolant (R416 to R419, R426 to R452). -/

namespace Sys2Proof.Machine

/-! ### The effective limit (R403, R407, R426, R440) -/

/-- 38.9 A times V_in, in W. -/
def inputTerm (mv : Nat) : Nat := min 28000 (mv * 389 / 10000)

/-- The coolant limit in W, from the inlet temperature in 0.1 °C and the flow in 0.1 L/min. -/
def coolantLimit (inlet : Int) (flow : Nat) : Nat :=
  let byFlow := 28000 * flow / 500
  let byInlet := (28000 - 280 * max 0 (inlet - 350)).toNat
  min 28000 (min byFlow byInlet)

/-- The input power limit in W (R403). -/
def State.inputLimit (s : State) : Nat := min (inputTerm s.input.sample) (converterLimit s.workingConverters)

/-- The four terms, each with its name. -/
def State.limitTerms (s : State) : List (BindingTerm × Nat) :=
  [(.cap, s.governor.cap.toNat), (.input, inputTerm s.input.sample), (.converters, converterLimit s.workingConverters),
    (.coolant, coolantLimit s.thermal.inlet s.thermal.flow)]

/-- The binding term and the effective limit; of equal terms the first in the order of R441. -/
def State.effective (s : State) : BindingTerm × Nat :=
  s.limitTerms.foldl (fun a b => if b.2 < a.2 then b else a) (.cap, s.governor.cap.toNat)

/-- The reason code of a binding term (R426). -/
def BindingTerm.reason : BindingTerm → Nat
  | .cap => 0
  | .input => 4
  | .converters => 4
  | .coolant => 5

/-- A tile's core works under a clock. -/
def Island.clocked (i : Island) : Bool := i.state == .running || i.state == .draining

/-! ### Ceilings (R431, R435, R438, R441) -/

/-- The throttle reason of a lowered clock: of the lowest ceilings the first in the order of the codes; none when the slack ceiling alone
lowers the clock (R441). -/
def Tile.clockReason (x : Tile) (binding : BindingTerm) (target : Nat) : Option Nat :=
  let p := x.power
  let cs : List (Nat × Nat) := [(binding.reason, p.ceiling), (2, p.thermalCeiling), (3, p.droopCeiling), (6, p.clockLimit)]
  let low := (cs.map (·.2)).foldl min 900
  if !x.island.clocked || decide (target ≤ min low p.slackCeiling) || decide (p.slackCeiling < low) then none
  else ((sortBy (fun c : Nat × Nat => c.1) (cs.filter fun c => c.2 == low)).head?).map (·.1)

/-- The reason under which a Running tile is throttled now (R418, R441). -/
def Tile.reason (x : Tile) (binding : BindingTerm) (target : Nat) : Option Nat :=
  match x.power.withheld with
  | some r => some r
  | none => if x.power.lowered then some 1 else x.clockReason binding target

/-- The bit of a reason. -/
def reasonBit (r : Option Nat) : BitVec 8 :=
  match r with
  | some r => BitVec.ofNat 8 (2 ^ r)
  | none => 0

/-- A tile's own ceilings at a loop: the thermal ceiling follows the last sample, and the droop ceiling falls after a loop with too many
stretched cycles. -/
def Tile.loopCeilings (x : Tile) (throttle : Int) (droopLimit : Nat) : Tile :=
  let p := x.power
  let thermal :=
    if throttle ≤ p.temp then max 100 (p.thermalCeiling - 25)
    else if p.temp < throttle - 30 then min 900 (p.thermalCeiling + 25)
    else p.thermalCeiling
  let over_ := decide (droopLimit < x.island.stretchedLoop)
  { x with
    island := { x.island with stretchedLoop := 0 }
    power := { p with
      thermalCeiling := thermal
      droopCeiling := if over_ then max 100 (p.droopCeiling - 25) else p.droopCeiling
      droopSteps := if over_ then p.droopSteps + 1 else p.droopSteps
      quietLoops := if over_ then 0 else p.quietLoops + 1 } }

/-! ### The shares (R428 to R430, R437, R448) -/

/-- The lower of a clock and a tile's own ceilings. -/
def Tile.clockAt (x : Tile) (f : Nat) : Nat :=
  let p := x.power
  let m := min (min f p.thermalCeiling) (min (min p.droopCeiling p.slackCeiling) p.clockLimit)
  max 100 (m - m % 25)

/-- The power of a tile that the fit counts, in mW: its measured power, or the hinted current at its present rail; an estimate counts with
the error bound in force. -/
def State.fitPower (s : State) (t : TileId) (mw : Nat) : Nat :=
  let x := s.tiles.get t
  match s.governor.fit.find? fun f => f.1 == t && decide (f.2.2 < s.time + 100000) with
  | some f => f.2.1 * x.power.setpoint
  | none => if s.estimated t then (if s.governor.calibrated then mw * 108 / 100 else mw * 125 / 100) else mw

/-- The predicted power of a tile at a clock, in µW rounded up (R430). -/
def State.predict (s : State) (t : TileId) (mw f : Nat) : Nat :=
  let x := s.tiles.get t
  let c := x.clockAt f
  let v := railFor t c
  let now := x.island.clock * x.power.setpoint * x.power.setpoint
  if now = 0 then 0 else ceilDiv (1000 * s.fitPower t mw * (c * v * v)) now

/-- The predicted compute power at a clock, in µW. -/
def State.computeAt (s : State) (tiles : List (TileId × Nat)) (f : Nat) : Nat := (tiles.map fun x => s.predict x.1 x.2 f).sum

/-- The clock setpoints from the highest to the lowest (R32). -/
def setpoints : List Nat := ((List.range 33).map fun i => 100 + 25 * i).reverse

/-- What a loop decides: compute ceiling, the engines' share in GB/s, and whether everything stands at its minimum and the limit is still
exceeded. -/
structure Shares where
  clock : Nat
  share : Nat
  exceeded : Bool
  deriving DecidableEq, Repr

/-- Share the remainder of the effective limit (R429): compute is lowered to its floor, then the engines' share to its floor, then compute
further. The power of the stacks is taken to follow the engines' share (DESIGN CHOICE, log entry 20). All powers in µW. -/
def State.shareOut (s : State) (remainder stacksFull : Nat) (tiles : List (TileId × Nat)) : Shares :=
  let g := s.governor
  let target := g.target.toNat
  let floor := min target g.computeFloor.toNat
  let low := max 800 g.stackFloor.toNat
  let stacks_ := fun (share : Nat) => ceilDiv (stacksFull * share) 3200
  match setpoints.find? fun f => decide (floor ≤ f ∧ f ≤ target ∧ s.computeAt tiles f + stacksFull ≤ remainder) with
  | some f => ⟨f, 3200, false⟩
  | none =>
    let atFloor := s.computeAt tiles floor
    match (List.range (3201 - low)).find? fun i => decide (atFloor + stacks_ (3200 - i) ≤ remainder) with
    | some i => ⟨floor, 3200 - i, false⟩
    | none =>
      match setpoints.find? fun f => decide (f ≤ floor ∧ s.computeAt tiles f + stacks_ low ≤ remainder) with
      | some f => ⟨f, low, false⟩
      | none => ⟨100, low, true⟩

/-! ### Allowances (R432) -/

/-- A tile's die share in A. -/
def State.dieShare (s : State) (d : DieId) : Nat :=
  let ts := tilesOfDie d
  let running := ts.filter fun t => (s.tiles.get t).island.state == .running
  let others := ((ts.filter fun t => (s.tiles.get t).island.state != .running).map fun t => (s.tiles.get t).counts).sum
  if running.isEmpty then 0 else ((s.dies.get d).limit - others) / running.length

/-- The allowances of a loop. -/
def State.loopAllowance (s : State) (t : TileId) : State :=
  let share := s.dieShare (dieOf t)
  s.modTile t fun x =>
    if x.island.state = .running then { x with power := { x.power with
      allowance := min x.power.cap share
      lowered := false
      rising := false } }
    else x

/-! ### Predicted arrival and slack matching (R443 to R446) -/

/-- Commands in the lists of a partition's logical tiles in this module, and those completed in the current attempt. -/
def State.commandCounts (s : State) (p : Partition) (m : Image) : Nat × Nat :=
  let all := ((List.range m.tiles).map fun l => ((List.range 4).map fun c => (m.cmds l c).length).sum).sum
  let done := ((List.range m.tiles).map fun l => match p.physOf l with
    | some t => ((s.tiles.get t).seqr.ctxs.toList.map fun k => k.pos - k.outstanding.length).sum
    | none => 0).sum
  (all, done)

/-- The predicted arrival P of a partition in this step (R443). -/
def State.predicted (s : State) (n : PartId) : Option Nat :=
  let p := s.parts.get n
  match p.image with
  | some m =>
    let (all, done) := s.commandCounts p m
    if p.state = .loaded ∧ p.run.running = true ∧ 0 < done ∧ all ≤ 10 * done then
      some (p.replay.stepStart + (s.time - p.replay.stepStart) * all / done)
    else none
  | none => none

/-- Reasons that have throttled a tile of the partition in the step, as a bitmap. -/
def Partition.stepReasons (p : Partition) : Nat :=
  ((List.range 8).filter fun c => p.replay.times.any fun t => decide (0 < t.2.throttled.get (Fin.ofNat 8 c))).map (2 ^ ·) |>.sum

/-- The words of a slack notice (R444). -/
def slackWords (sender attempt reasons : Nat) (step : Word64) (arrival seq : Nat) : List Word64 :=
  sealCrc [mkWord [at_ 48 sender, at_ 40 attempt, at_ 32 reasons], step, BitVec.ofNat 64 arrival, at_ 0 (seq % 2 ^ 32)] 3

/-- Send a slack notice when the conditions of R443 hold. -/
def State.sendSlack (s : State) (n : PartId) : State :=
  let p := s.parts.get n
  let threshold := 1000 * s.governor.slackThreshold.toNat
  match s.predicted n, p.slack.baseline with
  | some at_, some base =>
    let due := match p.slack.last with
      | none => true
      | some (when_, said) => decide (when_ + 1000000 ≤ s.time) || decide (said + threshold < at_) || decide (at_ + threshold < said)
    if p.replay.stepStart + base + threshold < at_ ∧ 0 < p.stepReasons ∧ due = true then
      let s := s.sendMembers n (wordsBytes (slackWords p.settings.logical.toNat p.run.attempt p.stepReasons (BitVec.ofNat 64 p.run.step) at_ p.slack.out))
      let s := { s with governor := { s.governor with slackSent := s.governor.slackSent + 1 } }
      s.modPart n fun p => { p with slack := { p.slack with out := (p.slack.out + 1) % 2 ^ 32, last := some (s.time, at_) } }
    else s
  | _, _ => s

/-- The slack ceiling of a partition in MHz; none where matching sets none (R446). -/
def State.slackCeilingOf (s : State) (n : PartId) : Option Nat :=
  let p := s.parts.get n
  let g := s.governor
  let latest := (p.slack.notices.map fun v => v.2.2).foldl max 0
  match s.predicted n with
  | none => none
  | some own =>
    if g.slackMatching = 1 ∧ own + 1000 * g.slackThreshold.toNat < latest then
      some (min 900 (max g.slackFloor.toNat (roundUp (ceilDiv (g.ceiling * (own - s.time)) (latest - s.time)) 25)))
    else none

/-- Set or lift the slack ceilings of a partition's tiles. -/
def State.matchSlack (s : State) (n : PartId) : State :=
  let p := s.parts.get n
  if p.state ≠ .loaded then s
  else
    let c := s.slackCeilingOf n
    let s := s.modPart n fun p => { p with slack := { p.slack with ceiling := c } }
    s.modTiles p.workers fun x => { x with power := { x.power with slackCeiling := c.getD 900 } }

/-! ### The loop (R426) -/

/-- A Running tile takes the clock that its ceilings allow (R431). -/
def State.loopClock (s : State) (t : TileId) : State :=
  let x := s.tiles.get t
  if x.island.state = .running ∧ x.island.clock ≠ x.clockSetpoint then s.modTile t fun x => x.setClock t x.clockSetpoint else s

/-- The excess over the coolant limit, for R428: since when it lasts. -/
def Governor.excess (g : Governor) (exceeded : Bool) (b : BindingTerm) (now : Nat) : Option Nat :=
  if exceeded && b == .coolant then (match g.overSince with
    | some t => some t
    | none => some now)
  else none

/-- One loop of the governor. -/
def State.governorLoop (s : State) (r : LoopPowers) : State :=
  let g0 := s.governor
  let s := { s with
    governor := { g0 with cap := g0.capNext }
    tiles := s.tiles.map fun (x : Tile) =>
      { x.loopCeilings s.thermal.throttle.toInt g0.droopLimit.toNat with
        power := { (x.loopCeilings s.thermal.throttle.toInt g0.droopLimit.toNat).power with
          reasons := x.power.reasonsLoop ||| reasonBit (x.reason g0.binding g0.target.toNat)
          reasonsLoop := 0 } } }
  let (binding, limit) := s.effective
  let tiles := r.tiles.filter fun t => (s.tiles.get t.1).island.clocked
  let stacksFull := 1000000 * r.stackWatts * 3200 / max 1 s.governor.stackShare
  let remainder := 1000000 * (limit - r.base - r.links)
  let z := s.shareOut remainder stacksFull tiles
  let floor := min s.governor.target.toNat s.governor.computeFloor.toNat
  let floorPower := (s.computeAt tiles floor + stacksFull * max 800 s.governor.stackFloor.toNat / 3200) / 1000000
  let s := { s with
    governor := { s.governor with
      effective := limit
      binding := binding
      basePower := r.base
      linkPower := r.links
      stackPower := r.stackWatts
      computePower := (tiles.map (·.2)).sum / 1000
      floorPower := floorPower
      ceiling := z.clock
      stackShare := z.share
      warnings := if z.exceeded then 1 else 0
      overSince := s.governor.excess z.exceeded binding s.time }
    tiles := s.tiles.map fun (x : Tile) => { x with power := { x.power with ceiling := min s.governor.target.toNat z.clock } } }
  let s := (allFin 288).foldl (fun (s : State) t => s.loopAllowance t) s
  let s := (allFin 16).foldl (fun (s : State) n => (s.matchSlack n).sendSlack n) s
  ((allFin 288).foldl (fun (s : State) t => s.loopClock t) s).abortHot

/-- GOVERNOR_LOOP (R426 to R432, R435, R437, R443, R446). -/
def execGovernorLoop (r : LoopPowers) (s : State) : Host.Outcome State Fault Refusal :=
  match s.module.state with
  | .off => .next s
  | .booting => .next s
  | _ => .next (s.governorLoop r)

/-! ### The slope limiter and the ballast (R433, R434, R436) -/

/-- Why a draw is held at an allowance: set by the die share or by R418, or by the tile's own cap; the slope otherwise (R441). -/
def Tile.withholdReason (x : Tile) (share : Nat) : Nat :=
  let p := x.power
  if p.rising || decide (p.lastDraw + 8 < p.allowance) then 7
  else if p.lowered || decide (share ≤ p.cap) then 1 else 6

/-- One interval of a tile: the work's draw rises by at most 8 A and up to the allowance, and the ballast holds the fall to 8 A and makes
the ramp. -/
def Tile.slopeStep (x : Tile) (demand share now : Nat) : Tile :=
  if x.island.clocked = false then { x with power := { x.power with lastDraw := 0, ballast := 0, withheld := none } }
  else
    let p := x.power
    let low := p.lastDraw - 8
    let high := max (min (p.lastDraw + 8) p.allowance) low
    let goal := match p.ramp with
      | some (a, start, _) => if start ≤ now then min a p.allowance else 0
      | none => 0
    let work := min demand high
    let held := decide (high < demand)
    let draw := max work (max low (min goal high))
    let why : Option Nat := if held then some (x.withholdReason share) else none
    { x with power := { p with
      lastDraw := draw
      ballast := draw - work
      withheld := why
      reasonsLoop := p.reasonsLoop ||| reasonBit why
      ramp := match p.ramp with
        | some (a, start, heavy) => if start ≤ now ∧ a ≤ demand then none else some (a, start, heavy)
        | none => none } }

/-- The allowance of a tile rises after its soft-start, within its cap and the die's room (R417). -/
def State.raiseAllowance (s : State) (t : TileId) : State :=
  let x := s.tiles.get t
  if x.power.rising then
    let room := ((s.headroom (dieOf t) t) - (x.power.allowance : Int)).toNat
    s.modTile t fun x => { x with power := { x.power with allowance := min (x.power.allowance + 8) (min x.power.cap (x.power.allowance + room)) } }
  else s

/-- The allowances of a die's Running tiles fall together by one slope step, none below 20 A (R418). -/
def State.lowerDie (s : State) (d : DieId) : State :=
  s.modTiles (tilesOfDie d) fun x =>
    if x.island.state = .running ∧ 20 < x.power.allowance then { x with power := { x.power with
      allowance := max 20 (x.power.allowance - 8), lowered := true } }
    else x

/-- The deferred wakes of a die at an interval's end (R416, R418). -/
def State.checkDie (s : State) (d : DieId) : State :=
  let was := (s.dies.get d).softStartTile
  let s := s.tryAdmit d
  let y := s.dies.get d
  if !y.lowering then s
  else if was = none ∧ y.softStartTile.isSome then s.modDie d fun y => { y with lowering := false, lowerings := y.lowerings + 1 }
  else if y.requests.isEmpty then s.modDie d fun y => { y with lowering := false }
  else if was.isSome then s
  else s.lowerDie d

/-- SLOPE_INTERVAL (R416 to R418, R433, R434, R487): `demand` is the current that each tile's work would draw; a tile not named has none. -/
def execSlopeInterval (demand : List (TileId × Nat)) (s : State) : Host.Outcome State Fault Refusal :=
  match s.module.state with
  | .off => .next s
  | .booting => .next s
  | _ =>
    let s := (allFin 288).foldl (fun (s : State) t => s.raiseAllowance t) s
    let s := (allFin 288).foldl (fun (s : State) t =>
      let share := s.dieShare (dieOf t)
      s.modTile t fun x => x.slopeStep ((Assoc.get t demand).getD 0) share s.time) s
    .next ((allFin 72).foldl (fun (s : State) d => s.checkDie d) s).startTests

/-- WAKE_DEFERRAL_TIMEOUT (R418): the request has waited 200 µs, and the lowering of the die's allowances begins. -/
def execWakeDeferralTimeout (t : TileId) (s : State) : Host.Outcome State Fault Refusal :=
  let d := dieOf t
  let y := s.dies.get d
  if (y.nextRequest.map (·.tile)) = some t ∧ y.softStartTile = none ∧ y.lowering = false then
    .next ((s.lowerDie d).modDie d fun y => { y with lowering := true })
  else .next s

/-- RAMP_START (R436): the ramp's boundary has come. -/
def execRampStart (t : TileId) (s : State) : Host.Outcome State Fault Refusal :=
  .next (s.modTile t fun x => { x with power := { x.power with ramp := x.power.ramp.map fun r => (r.1, min r.2.1 s.time, r.2.2) } })

/-- RAMP_RELEASE_TIMEOUT (R436): the ballast is released, and the draw falls at the slope limit. -/
def execRampReleaseTimeout (t : TileId) (s : State) : Host.Outcome State Fault Refusal :=
  .next (s.modTile t fun x => { x with power := { x.power with ramp := none } })

/-- DROOP_RECOVERY (R435): 100 loops have passed without exceeding the droop limit. -/
def execDroopRecovery (t : TileId) (s : State) : Host.Outcome State Fault Refusal :=
  .next (s.modTile t fun x =>
    if 100 ≤ x.power.quietLoops then { x with power := { x.power with droopCeiling := min 900 (x.power.droopCeiling + 25), quietLoops := 0 } }
    else x)

/-! ### Temperature (R438, R439) -/

/-- A tile whose tests run: its wake has ended, and ingress stays closed (R486). -/
def Tile.underTest (x : Tile) : Bool := x.test.last == .running && x.island.state == .waking && x.power.softStart == false && !x.island.outCtl.contains readyWord

/-- A tile at 105 °C is fenced at once and substituted: its core drains to Off, where it is held for heat (R438, R459). -/
def State.heatOff (s : State) (t : TileId) : State :=
  let s := { s with thermal := { s.thermal with heatOffs := s.thermal.heatOffs + 1, hotSince := s.thermal.hotSince.filter fun h => h.1 != t } }
  let s := s.modTile t fun x => { x with power := { x.power with heatOffs := x.power.heatOffs + 1, heatOff := true } }
  let n := s.partOfTile t
  let layer := n.bind fun n => s.failingLayer n t
  let r := s.mkReport 0x050A 2 (s.fenceAction t) n (epTile t) 0
  let tested := (s.tiles.get t).underTest
  let s := (s.report (.welt t) r).failTest t
  let s := if tested then s.modTile t fun x => x.startDrain .fence else s
  s.fenceTile t layer false

/-- A bound tile that stays hot for 1 ms is migrated, and its source then goes Off (R438); without a tile the migration is deferred and
counted (R449). -/
def State.heatMigrate (s : State) (t : TileId) : State :=
  let since := s.thermal.hotSince.find? fun h => h.1 == t
  match since with
  | none => { s with thermal := { s.thermal with hotSince := s.thermal.hotSince ++ [(t, s.time, false)] } }
  | some (_, at_, counted) =>
    let behind := match s.partOfTile t with
      | some n => ((s.parts.get n).logicalOf t).isSome
      | none => false
    if s.time < at_ + 1000000 ∨ behind = false ∨ (s.migrationOf t).isSome then s
    else match s.startMigration t with
      | (s', true) =>
        let s' := { s' with thermal := { s'.thermal with heatMigrations := s'.thermal.heatMigrations + 1 } }
        s'.modTile t fun x => { x with power := { x.power with heatOff := true } }
      | (_, false) => { s with thermal := { s.thermal with
        heatDeferred := if counted then s.thermal.heatDeferred else s.thermal.heatDeferred + 1
        hotSince := s.thermal.hotSince.map fun h => if h.1 = t then (t, at_, true) else h } }

/-- TEMPERATURE_SAMPLE (R438). -/
def execTemperatureSample (t : TileId) (tenths : Int) (s : State) : Host.Outcome State Fault Refusal :=
  .next (match s.module.state with
  | .off => s
  | .booting => s
  | _ =>
    let x := s.tiles.get t
    if x.island.weltFailed then s
    else
      let s := s.modTile t fun x => { x with power := { x.power with temp := tenths, peakTemp := max tenths x.power.peakTemp } }
      if 1050 ≤ tenths then (if x.power.heatOff = true ∧ (x.island.state = .off ∨ x.island.fenced = true) then s else s.heatOff t)
      else if s.thermal.migrate.toInt ≤ tenths then s.heatMigrate t
      else
        let s := { s with thermal := { s.thermal with hotSince := s.thermal.hotSince.filter fun h => h.1 != t } }
        if tenths < s.thermal.returnTemp.toInt ∧ x.island.state = .off ∧ x.power.heatOff = true then (s.queueTest t).startTests else s)

/-- EDGE_DIE_OVERTEMP (R439, R553): base dies 0 to 23, link dies 24 to 31, the control die 32. A base die at 95 °C runs its engines at the
floor, which follows from its temperature. -/
def execEdgeDieOvertemp (d : Fin 33) (tenths : Int) (s : State) : Host.Outcome State Fault Refusal :=
  .next (match s.module.state with
  | .off => s
  | .booting => s
  | _ =>
    let s := { s with thermal := { s.thermal with edgeTemps := vmod s.thermal.edgeTemps d fun _ => tenths } }
    if tenths < 1050 then s
    else if d.1 < 24 then
      let ns := (allFin 16).filter fun n => (s.parts.get n).slices.any fun c => (stackOf c).1 == d.1
      ns.foldl (fun (s : State) n => s.resetPartition n 0x0511) s
    else if d.1 < 32 then
      [Fin.ofNat 16 (2 * (d.1 - 24)), Fin.ofNat 16 (2 * (d.1 - 24) + 1)].foldl (fun (s : State) p => s.dropPort p 6) s
    else (s.recordOwn (s.mkReport 0x0514 4 6 none epControl 0)).enterFault 0x0514 true)

/-! ### The coolant (R428, R440, R553, R557) -/

/-- A condition of a coolant fault holds (R440). -/
def coolantBad (inlet outlet : Int) (flow : Nat) : Bool := decide (400 < inlet) || decide (flow < 250) || decide (600 < outlet)

/-- COOLANT_SAMPLE (R440, R583): the sensors' values, and since when a condition of a fault holds or none does. -/
def execCoolantSample (inlet outlet : Int) (flow : Nat) (s : State) : Host.Outcome State Fault Refusal :=
  if 500 < inlet then .fault .beyondAbsoluteMaximum
  else match s.module.state with
  | .off => .next s
  | .booting => .next s
  | _ => .next { s with thermal := { s.thermal with
      inlet := inlet
      outlet := outlet
      flow := flow
      badSince := if coolantBad inlet outlet flow then (match s.thermal.badSince with
        | some t => some t
        | none => some s.time) else none
      goodSince := if coolantBad inlet outlet flow then none else (match s.thermal.goodSince with
        | some t => some t
        | none => some s.time) } }

/-- COOLANT_FAULT (R428, R440): a condition has lasted 1 s. While the power-on sequence waits at the coolant check, none is raised (R557). -/
def execCoolantFault (s : State) : Host.Outcome State Fault Refusal :=
  if (s.thermal.badSince.isNone ∧ s.governor.overSince.isNone) ∨ s.module.coolantWait = true then .next s
  else match s.module.state with
  | .off => .next s
  | .booting => .next s
  | .fault => .next s
  | _ =>
    let s := { s with thermal := { s.thermal with coolantFaults := s.thermal.coolantFaults + 1 } }
    let s := s.recordOwn { s.mkReport 0x0604 4 6 none epControl 0 with
      detailB := mkWord [at_ 32 s.thermal.flow, at_ 0 (ofSigned 32 s.thermal.inlet)] }
    .next (s.enterFault 0x0604 false)

/-! ### Slack notices received, and the refit (R445, R448) -/

/-- SLACK_NOTICE_RECEIVE (R260, R445, R446, R457): a notice for the own step and attempt is held and written as event 0x07; any other is
discarded and counted; one that fails its check calls for a step retry. -/
def execSlackNoticeReceive (n : PartId) (words : List Word64) (s : State) : Host.Outcome State Fault Refusal :=
  .next (
    let p := s.parts.get n
    let sender := bits (wordAt words 0) 63 48
    let seq := bits (wordAt words 3) 31 0
    let want := (Assoc.get sender p.slack.expected).getD 0
    let sound := words.length == 4 && crcOk words 3
    let dropped := { s with governor := { s.governor with discarded := s.governor.discarded + 1 } }
    if p.state ≠ .loaded then dropped
    else
      let s := s.modPart n fun p => { p with slack := { p.slack with
        expected := Assoc.put sender ((if sound then seq + 1 else want + 1) % 2 ^ 32) p.slack.expected } }
      if !(sound && seq == want && zeroField words 0 31 0) then
        s.structFail { part := n, tile := none, held := false, kind := 0x0A, handle := BitVec.ofNat 32 epControl, seq := BitVec.ofNat 32 seq }
      else if wordAt words 1 ≠ p.run.step ∨ bits (wordAt words 0) 47 40 ≠ p.run.attempt ∨ p.run.retry.isSome = true then
        { s with governor := { s.governor with discarded := s.governor.discarded + 1 } }
      else
        let s := { s with governor := { s.governor with slackReceived := s.governor.slackReceived + 1 } }
        let s := s.sbEvent n (mkWord [at_ 56 7, at_ 0 sender]) (BitVec.ofNat 64 (wordAt words 2)) 0
        let s := s.modPart n fun p => { p with slack := { p.slack with
          notices := (p.slack.notices.filter fun v => v.1 != sender) ++ [(sender, wordAt words 1, wordAt words 2)] } }
        s.matchSlack n)

/-- COEFFICIENT_REFIT (R448): in normal service the coefficients follow the measured readings. -/
def execCoefficientRefit (fits : List (TileId × Coefficients)) (error : BitVec 16) (s : State) : Host.Outcome State Fault Refusal :=
  if s.governor.calibrated = false then .next s
  else .next { s with governor := { s.governor with
    coefficients := fits.foldl (fun (a : List (TileId × Coefficients)) f => Assoc.put f.1 f.2 a) s.governor.coefficients
    estimateError := error } }

end Sys2Proof.Machine
end

