-- ==== Sys2Proof/Machine/Containment.lean ====
section
/-! DEFINITION. Faults and their containment: layer re-runs, memory errors, control structures, step retries and partition resets with their notices,
odd numbers, and the coalescing, publication and readout of records (R187, R247, R269, R454 to R480, R564). -/

namespace Sys2Proof.Machine

/-! ### Layer re-runs (R460, R461) -/

/-- An arming that an ARM, a SEND or a RECV at or after a stream index made or started. -/
def Arming.after (a : Arming) (first : Nat) : Bool := decide (first ≤ a.cmd) || decide (first ≤ a.startCmd)

/-- PUT-TILE and EXPECT armings are kept through a re-run. -/
def Arming.keepable (a : Arming) : Bool := a.desc.kind == 1 || a.desc.kind == 5

/-- A kept arming stays in its queue and runs on; a start recorded for it is given again by the restarted list (R461). -/
def Arming.keep (a : Arming) : Arming :=
  { a with
    kept := true
    keptStarted := a.started
    startRecorded := if a.desc.startOnArm then a.startRecorded else false }

/-- A queue at a layer re-run (R461): what it keeps, the armings that end with their refused and unissued transfers cancelled, and the count of those. An
arming with issued transfers stays until they have been answered. -/
def Queue.rerun (k : Queue) (first : Nat) : Queue × List Arming × Nat :=
  let ends := fun (a : Arming) => a.after first && !a.keepable
  let stay := fun (a : Arming) => if a.after first then a.keep else a
  let gone : List (Arming × Nat) := ((k.active.toList ++ k.shadow.toList).filter ends).map Arming.cancel
  let k : Queue := { k with ending := k.ending ++ (gone.map Prod.fst).filter fun (a : Arming) => !a.outstanding.isEmpty }
  let sh := (k.shadow.filter fun a => !ends a).map stay
  let act := (k.active.filter fun a => !ends a).map stay
  let k' := match act with
    | some a => { k with active := some a, shadow := sh }
    | none => { k with active := sh.map fun b => { b with started := b.startRecorded }, shadow := none }
  (k', (gone.map Prod.fst).filter (fun (a : Arming) => a.outstanding.isEmpty), (gone.map Prod.snd).sum)

/-- The Stamp unit at a re-run: running values of ended armings and the tables of the layer and later are discarded (R366). -/
def StampUnit.rerun (u : StampUnit) (qs : Vector Queue 32) (ended : Vector Bool 32) (layer : Nat) : StampUnit :=
  let early := fun (n : Nat) => n == preambleLayer || decide (n < layer)
  { u with
    ctxs := Vector.ofFn fun q => if ended.get q && (qs.get q).active.isNone then none else u.ctxs.get q
    blocks := Vector.ofFn fun q => if ended.get q && (qs.get q).active.isNone then [] else u.blocks.get q
    tables := u.tables.filter fun t => early t.1
    tableBlocks := u.tableBlocks.filter fun t => early t.1 }

/-- The vector engine at a re-run: the generators and the lane flags stand as the layer's first vector command found them (R461). -/
def VectorEngine.rerun (v : VectorEngine) (layer : Nat) : VectorEngine :=
  match (sortBy (fun k : LayerMark => k.layer) (v.marks.filter fun k => decide (layer ≤ k.layer))).head? with
  | none => v
  | some k => { v with
    gens := k.gens
    laneFlags := k.laneFlags
    marks := v.marks.filter fun k => decide (k.layer < layer) }

/-- A context restarts at a layer's entry index; what it issued before that stays issued, and it keeps the pages that it may hold there (R185, R187, R461). -/
def Context.rerun (c : Context) (entry : Nat) (running : Bool) : Context :=
  { c with
    state := if running then .issuing else .idle
    pos := entry
    outstanding := c.outstanding.filter fun i => decide (i < entry)
    arrivals := c.arrivals.filter fun a => decide (a.cmd < entry)
    pages := c.pages.filter fun g => decide (entry / 255 ≤ g.page ∧ g.page < entry / 255 + 8)
    pageWait := false
    arrwaitSent := false }

/-- A tile at a re-run of a layer, with the armings that have ended and the transfers that are cancelled. -/
def Tile.rerun (x : Tile) (m : Image) (l layer now : Nat) (running : Bool) : Tile × List (Fin 32 × Arming) × Nat :=
  let first := m.entry l layer 2
  let old := x.stream.queues
  let res : Vector (Queue × List Arming × Nat) 32 := old.map fun k => k.rerun first
  let done := res.toList.zipIdx.flatMap fun r => r.1.2.1.map fun a => (Fin.ofNat 32 r.2, a)
  let gone := (res.toList.map fun r => r.2.2).sum
  let ended : Vector Bool 32 := old.map fun k => (k.active.map fun a => a.after first && !a.keepable).getD false
  let before := fun (b : Block) => decide (b.cmd < m.entry l layer 0)
  ({ x with
    array := { x.array with
      active := x.array.active.filter before
      shadow := x.array.shadow.filter before
      loading := x.array.loading.filter before }
    vec := x.vec.rerun layer
    stream := { x.stream with
      queues := res.map fun r => r.1
      cancelled := x.stream.cancelled + BitVec.ofNat 64 gone }
    stamp := x.stamp.rerun (res.map fun r => r.1) ended layer
    seqr := { x.seqr with
      ctxs := Vector.ofFn fun c => (x.seqr.ctxs.get c).rerun (m.entry l layer c.1) running
      lastLayer := x.seqr.lastLayer.map fun n => min n layer
      stepReady := false }
    faults := { x.faults with
      rerun := some layer
      reruns := x.faults.reruns + 1
      recent := x.faults.recent ++ [now] } }, done, gone)

/-- Re-run a layer on its tile (R461). -/
def State.rerunLayer (s : State) (t : TileId) (e : Seat) (layer : Nat) : State :=
  let p := s.parts.get e.part
  let (x, done, gone) := (s.tiles.get t).rerun e.image e.logical layer s.time p.run.running
  let s := (s.modTile t fun _ => x).countTransfers 0 0 gone
  let s := done.foldl (fun (s : State) a => s.checkArming t e.part a.1 a.2) s
  let s := s.enterBuckles e.part e.image e.logical layer
  let s := s.dropTables e.part e.logical layer
  let s := s.modPart e.part fun p => { p with run := { p.run with ready := p.run.ready.filter (· != e.logical) } }
  let s := s.sbEvent e.part (mkWord [at_ 56 2, at_ 0 e.logical]) (BitVec.ofNat 64 layer) 0
  { s with faults := { s.faults with reruns := s.faults.reruns + 1 } }

/-- The re-run of a layer is still under way: some context has a command of the layer before it, or one that has not completed. -/
def Tile.rerunning (x : Tile) (m : Image) (l : Nat) : Option Nat :=
  match x.faults.rerun with
  | none => none
  | some r =>
    let stop := fun (c : CtxId) => if r + 1 < m.layerCount then m.entry l (r + 1) c.1 else (m.cmds l c.1).length
    if (allFin 4).any fun c => decide ((x.seqr.ctxs.get c).pos < stop c) || (x.seqr.ctxs.get c).outstanding.any fun i => decide (i < stop c) then some r
    else none

/-- The report of a tile mismatch (R474). -/
def State.mismatchReport (s : State) (t : TileId) (e : Seat) (layer count action : Nat) : State :=
  s.report (.welt t) { s.mkReport 0x0111 2 action (some e.part) (epTile t) 0 with
    logical := some (BitVec.ofNat 8 e.logical)
    detailA := BitVec.ofNat 32 (layer % 65536 * 65536 + count) }

/-- A mismatch on a tile that stands behind a logical tile (R460). -/
def State.mismatch (s : State) (t : TileId) (e : Seat) (layer : Option Nat) : State :=
  let x := s.tiles.get t
  let recent := x.faults.recent.filter fun r => decide (s.time < r + 1000000000)
  let count := (Assoc.get layer x.faults.perLayer).getD 0 + 1
  let s := s.modTile t fun x => { x with faults := { x.faults with
    mismatches := x.faults.mismatches + 1
    recent := recent
    perLayer := Assoc.put layer count x.faults.perLayer } }
  if (s.parts.get e.part).run.retry.isSome then
    (s.mismatchReport t e (layer.getD 0xFFFF) count 3).modTile t fun x => { x with faults := { x.faults with recent := x.faults.recent ++ [s.time] } }
  else
    let second := decide (2 ≤ count) || decide (s.faults.rerunLimit.toNat ≤ recent.length)
    match layer with
    | none =>
      let s := s.mismatchReport t e 0xFFFF count 3
      let s := s.modTile t fun x => { x with faults := { x.faults with recent := x.faults.recent ++ [s.time] } }
      if second then (s.fenceTile t none false).callRetry e.part 0x0111 else s.callRetry e.part 0x0111
    | some n =>
      if second then (s.mismatchReport t e n count 2).fenceTile t (some n) false
      else
        let at_ := match x.rerunning e.image e.logical with
          | some r => min r n
          | none => n
        (s.mismatchReport t e n count 1).rerunLayer t e at_

/-- RESIDUE_MISMATCH (R460, R461, R479): `layer` is the number of the faulty command's layer; the number of the preamble's table stands for
the preamble. -/
def execResidueMismatch (t : TileId) (layer : Nat) (s : State) : Host.Outcome State Fault Refusal :=
  .next (match s.seat t with
  | none => s
  | some e =>
    if layer = preambleLayer then s.mismatch t e none
    else if layer < e.image.layerCount then s.mismatch t e (some layer)
    else s)

/-! ### Memory errors (R454, R455) -/

/-- The owner of an uncorrectable word takes a partition reset; a word without an owner is only recorded. -/
def State.ownerReset (s : State) (n : Option PartId) (code : Nat) : State :=
  match n with
  | some n => s.resetPartition n code
  | none => s

/-- UNCORRECTABLE_WORD (R455, R474). -/
def execUncorrectableWord (w : WordPlace) (s : State) : Host.Outcome State Fault Refusal :=
  .next (match s.module.state with
  | .off => s
  | _ =>
    match w with
    | .store t addr =>
      -- a failing word of a memory test belongs to no partition (R493)
      let tested := (s.tiles.get t).test.last == .running
      let n := if tested then none else s.partOfTile t
      let scrub := !tested && n.isNone && (s.tiles.get t).island.state == .waking
      let s := s.modTile t fun x => { x with faults := { x.faults with uncorrectable := x.faults.uncorrectable + 1 } }
      let s := s.report (.welt t) { s.mkReport 0x0102 3 (if n.isSome then 4 else if scrub then 7 else 0) n (epTile t) (addr.toNat / 64 % 64) with
        detailA := BitVec.ofNat 32 (addr.toNat / 64 % 64)
        detailB := BitVec.ofNat 64 addr.toNat }
      -- the tile of a word that is scrubbed has no owner, and it is fenced (R225, R479)
      if scrub then s.fenceTile t none false else s.ownerReset n 0x0102
    | .stack c off =>
      let n := s.partOfSlice c
      let k := stackOf c
      let s := s.modStack k fun x => { x with uncorrectable := x.uncorrectable + 1 }
      let s := s.report .entry { s.mkReport 0x0104 3 (if n.isSome then 4 else 0) n (epStack k) (c.1 % 8) with
        detailB := BitVec.ofNat 64 off.toNat }
      s.ownerReset n 0x0104
    | .fabric n t port header =>
      let s := { s with fabric := { s.fabric with uncorrectable := s.fabric.uncorrectable + 1 } }
      let s := s.report (.welt t) { s.mkReport 0x0106 3 4 (some n) (epTile t) port.1 with detailA := BitVec.ofNat 32 port.1, detailB := header }
      s.resetPartition n 0x0106
    | .link q =>
      let n := s.partOfPort q
      let l := linkOf q
      let s := s.modLink l fun x => { x with uncorrectable := x.uncorrectable + 1 }
      let s := s.report (.link l) { s.mkReport 0x0106 3 (if n.isSome then 4 else 0) n (epLink l) q.1 with detailA := BitVec.ofNat 32 q.1 }
      s.ownerReset n 0x0106
    | .bucket n l =>
      let s := s.modLink l fun x => { x with uncorrectable := x.uncorrectable + 1 }
      (s.report (.link l) (s.mkReport 0x0106 3 4 (some n) (epLink l) 0)).resetPartition n 0x0106)

/-- PATROL_READ (R454, R455): corrected words are counted and written back; an uncorrectable one resets its owner. -/
def execPatrolRead (k : StackId) (corrected uncorrectable : Nat) (slice : Fin 8) (s : State) : Host.Outcome State Fault Refusal :=
  .next (if (s.stackDies.get k).power ≠ .up ∨ s.module.state = .off then s
  else
    let s := s.modStack k fun x => { x with
      corrected := x.corrected + BitVec.ofNat 64 corrected
      uncorrectable := x.uncorrectable + BitVec.ofNat 32 uncorrectable }
    if uncorrectable = 0 then s
    else
      let n := s.partOfSlice (Fin.ofNat 192 (8 * k.1 + slice.1))
      (s.report .entry (s.mkReport 0x0104 3 (if n.isSome then 4 else 0) n (epStack k) slice.1)).ownerReset n 0x0104)

/-- CONTROL_STRUCTURE_FAIL (R457): a structure that fails its check is not used. -/
def execControlStructureFail (f : StructFail) (s : State) : Host.Outcome State Fault Refusal :=
  .next (if (s.parts.get f.part).state = .loaded then s.structFail f else s)

/-! ### Step retry (R247, R465, R468 to R470) -/

/-- STEP_RETRY (R468, R470). -/
def execStepRetry (n : PartId) (code : BitVec 16) (s : State) : Host.Outcome State Fault Refusal := .next (s.callRetry n code.toNat)

/-- A retry or reset notice that the module does not act on is counted. -/
def State.dropNotice (s : State) : State := { s with faults := { s.faults with discarded := s.faults.discarded + 1 } }

/-- A notice passes its checks (R457, R468); its sequence number is taken up. -/
def State.noticeSound (s : State) (n : PartId) (words : List Word64) : State × Bool :=
  let p := s.parts.get n
  let sender := bits (wordAt words 0) 63 48
  let seq := bits (wordAt words 3) 31 0
  let want := (Assoc.get sender p.run.noticeIn).getD 0
  let sound := words.length == 4 && crcOk words 3
  let s := s.modPart n fun p => { p with run := { p.run with
    noticeIn := Assoc.put sender ((if sound then seq + 1 else want + 1) % 2 ^ 32) p.run.noticeIn } }
  (s, sound && seq == want && zeroField words 0 39 32 && zeroField words 0 15 0 && wordAt words 2 == 0)

/-- A notice that fails its check calls for a step retry, because no copy exists (R457). -/
def State.noticeFail (s : State) (n : PartId) (words : List Word64) : State :=
  s.structFail { part := n, tile := none, held := false, kind := 0x0A, handle := BitVec.ofNat 32 epControl, seq := BitVec.ofNat 32 (bits (wordAt words 3) 31 0) }

/-- Join a retry that another member has called (R468): this module's own units are told. -/
def State.joinRetry (s : State) (n : PartId) (code attempt : Nat) : State :=
  let p := s.parts.get n
  if s.faults.retryLimit.toNat < attempt then s.resetPartition n code
  else
    let s := s.noticeHere n (wordsBytes (noticeWords p.settings.logical.toNat attempt code (BitVec.ofNat 64 p.run.step) p.run.noticeOut))
    s.stopForRetry n code attempt

/-- RETRY_NOTICE (R468, R470, R479): a notice for this step and a greater attempt is joined, also after the update-complete message; one for
the attempt that a retry under way will start changes nothing. -/
def execRetryNotice (n : PartId) (words : List Word64) (s : State) : Host.Outcome State Fault Refusal :=
  .next (
    let p := s.parts.get n
    if p.state ≠ .loaded then s.dropNotice
    else
      let attempt := bits (wordAt words 0) 47 40
      match s.noticeSound n words with
      | (s, false) => s.noticeFail n words
      | (s, true) =>
        if wordAt words 1 ≠ p.run.step ∨ attempt ≤ p.run.attempt ∨ attempt = 0xFF ∨ p.run.record.isSome = true ∨
            p.others.contains (bits (wordAt words 0) 63 48) = false then s.dropNotice
        else if p.run.retry.isSome then s.modPart n fun p => { p with run := { p.run with retryTo := max p.run.retryTo attempt } }
        else s.joinRetry n (bits (wordAt words 0) 31 16) attempt)

/-- Every logical tile stands on a Running tile whose queues wait for no answer, spilled packets among them, and no substitution is under way (R153, R247, R302,
R469). -/
def State.retryMayStart (s : State) (p : Partition) : Bool :=
  (p.moves.all fun v => v.migration) &&
  p.place.binding.all fun b => match b with
    | some t => (s.tiles.get t).island.state == .running && (s.tiles.get t).stream.queues.toList.all Queue.quiet
    | none => true

/-- What a partition forgets of an attempt (R131, R197, R217, R356, R366, R367, R372, R377, R443, R469). The times of a tile run on from the step's start (R374), and
closing windows stay open (R265). -/
def Partition.newAttempt (p : Partition) : Partition :=
  { p with
    run := { p.run with
      attempt := max (p.run.attempt + 1) p.run.retryTo
      retry := none
      retryTo := 0
      noticed := false
      ready := []
      updateSent := false
      updateIn := []
      heldSince := none
      structFails := [] }
    weights := { p.weights with
      groups := []
      mismatched := []
      maxima := []
      norms := []
      sweeping := false }
    reduce := { p.reduce with
      buckets := []
      contributions := []
      permuted := []
      served := [] }
    replay := { p.replay with
      tables := []
      fingers := []
      blocks := []
      counts := p.replay.counts.map fun c => (c.1, { c.2 with conv := Vector.replicate 8 0, flags := Vector.replicate 12 0 })
      times := p.replay.times.map fun k => (k.1, { k.2 with overruns := Vector.replicate 5 0, phaseFlags := Vector.replicate 5 0, phase := 0, markers := [] })
      compared := false
      stopped := false }
    odd := { p.odd with checked := false, held := false }
    slack := { p.slack with notices := [], last := none, ceiling := none, sentAfter := none }
    window := none }

/-- A tile starts the new attempt at command index 0 of every list with the counters of its snapshot; between steps it stays idle. -/
def Tile.newAttempt (x : Tile) (gens : List Word64) (running : Bool) : Tile :=
  let y := x.restart (some gens)
  { y with
    array := { y.array with active := none, shadow := none }
    seqr := { y.seqr with ctxs := y.seqr.ctxs.map fun c => { c with state := if running then .issuing else .idle } }
    power := { y.power with slackCeiling := 900 } }

/-- Write the bytes of a WRITE into its tensor (R507). -/
def State.feed (s : State) (n : PartId) (handle off : Nat) (bs : List Byte) : State :=
  s.modPart n fun p => { p with weights := p.weights.write ⟨handle, .data, false⟩ off bs none }

/-- Before a retried attempt the WRITEs of its step are written again, and the gated WRITEs of the next step that had begun begin again at their
gates (R509). -/
def State.refeed (s : State) (n : PartId) : State :=
  let p := s.parts.get n
  match p.func with
  | none => s
  | some f =>
    let h := s.fns.get f
    let s := (h.fed.filter fun e => e.arg.toNat == p.run.step).foldl (fun (s : State) e => s.feed n e.handle e.offset e.data) s
    let later := fun (e : OpenEntry) => e.kind == 4 && e.gate.isSome && e.arg.toNat == p.run.step + 1
    s.modFn f fun h => { h with
      entries := (h.entries.map fun e => if later e then { e with running := false } else e) ++
        ((h.fed.filter later).map fun e => { e with running := false, posted := true })
      fed := h.fed.filter fun e => !later e }

/-- RETRY_QUIESCED (R153, R187, R247, R263, R465, R469): generations advance, the attempt becomes the next, homes leave tiles that are gone,
and every context starts at command index 0 together. -/
def execRetryQuiesced (n : PartId) (s : State) : Host.Outcome State Fault Refusal :=
  .next (
    let p := s.parts.get n
    if p.state ≠ .loaded ∨ p.run.halted = false ∨ p.run.record.isSome = true ∨ s.retryMayStart p = false then s
    else
      let armings := p.workers.flatMap fun t => (allFin 32).flatMap fun q => ((s.tiles.get t).stream.queues.get q).all.map fun a => (t, q, a)
      let s := armings.foldl (fun (s : State) a => if (s.parts.get n).state = .loaded then s.checkArming a.1 n a.2.1 a.2.2 else s) s
      if (s.parts.get n).state ≠ .loaded then s else
      let s := p.workers.foldl (fun (s : State) t => s.clearStreams t true) s
      let s := (p.moves.filter fun v => v.migration).foldl (fun (s : State) v => s.abandonMigration n v) s
      let s := s.advancePart n
      let s := s.modPart n Partition.newAttempt
      let p := s.parts.get n
      let s := p.workers.foldl (fun (s : State) t =>
        match p.logicalOf t with
        | some l => s.modTile t fun x => x.newAttempt (p.snapshot l) p.run.running
        | none => s) s
      (if p.run.running then s.refeed n else s).rehome n)

/-- RETRY_QUIESCE_TIMEOUT (R469): the quiesce has not completed within 1.0 ms, and the partition is reset. -/
def execRetryQuiesceTimeout (n : PartId) (s : State) : Host.Outcome State Fault Refusal :=
  .next (match (s.parts.get n).run.retry with
  | some code => s.resetPartition n code.toNat
  | none => s)

/-! ### Partition reset (R471, R564) -/

/-- PARTITION_RESET (R471, R564). -/
def execPartitionReset (n : PartId) (code : BitVec 16) (s : State) : Host.Outcome State Fault Refusal := .next (s.resetPartition n code.toNat)

/-- RESET_NOTICE (R471, R568): a Loaded partition is reset; a notice for any other is discarded and counted. -/
def execResetNotice (n : PartId) (words : List Word64) (s : State) : Host.Outcome State Fault Refusal :=
  .next (
    let p := s.parts.get n
    if p.state ≠ .loaded then s.dropNotice
    else match s.noticeSound n words with
    | (s, false) => s.noticeFail n words
    | (s, true) =>
      if bits (wordAt words 0) 47 40 ≠ 0xFF ∨ p.others.contains (bits (wordAt words 0) 63 48) = false then s.dropNotice
      else s.resetPartition n (bits (wordAt words 0) 31 16))

/-! ### Odd numbers (R477, R478) -/

/-- The order of two FP64 codes; a NaN is not ordered. -/
def f64Lt (a b : Nat) : Bool :=
  match fmtFP64.decode a, fmtFP64.decode b with
  | .nan, _ => false
  | _, .nan => false
  | .inf x, .inf y => x && !y
  | .inf x, .fin _ _ _ => x
  | .fin _ _ _, .inf y => !y
  | .fin n m e, .fin n' m' e' =>
    match (FVal.fin n m e).dyadic, (FVal.fin n' m' e').dyadic with
    | some u, some v => u.lt v
    | _, _ => false

/-- The FP64 code of an FP32 code. -/
def f64OfF32 (c : Nat) : Nat := (fmtFP64.ofFVal (fmtFP32.decode c)).code

/-- The FP64 quotient of two FP64 codes. -/
def f64Div (a b : Nat) : Nat := (fmtFP64.div (fmtFP64.decode a) (fmtFP64.decode b)).code

/-- The mean of FP64 codes, summed in FP64 from the oldest (DESIGN CHOICE, log entry 21); they are given newest first. -/
def f64Mean (cs : List Nat) : Nat :=
  f64Div (cs.reverse.foldl (fun a c => (fmtFP64.add (fmtFP64.decode a) (fmtFP64.decode c)).code) 0) (f64OfNat cs.length)

/-- The square root of a quotient of FP64 codes. -/
def f64Ratio (a b : Nat) : Nat := (fmtFP64.sqrt (fmtFP64.decode (f64Div a b))).code

/-- The events of one weight's check: sub-unit and detail B (R477). -/
def Partition.oddEvents (p : Partition) (h : Nat) (gradient update : Nat) : List (Nat × Nat) :=
  let sums := (Assoc.get h p.weights.norms).getD ⟨0, 0, 0⟩
  let past := ((Assoc.get h p.odd.history).getD []).map (·.toNat)
  let rg := f64Ratio (normCode sums.g) (f64Mean past)
  let ru := f64Ratio (normCode sums.u) (normCode sums.w)
  let nonfinite := ((Assoc.get h p.replay.counts).map fun k => k.conv.get 7).getD 0
  let g := f64OfF32 gradient
  let one := f64OfNat 1
  (if 4 ≤ past.length ∧ (f64Lt g rg || f64Lt rg (f64Div one g)) = true then [(1, rg)] else []) ++
  (if sums.w ≠ 0 ∧ f64Lt (f64OfF32 update) ru = true then [(2, ru)] else []) ++
  (if nonfinite ≠ 0 then [(3, nonfinite)] else [])

/-- One odd-numbers event is recorded (R376, R474, R477). -/
def State.oddEvent (s : State) (n : PartId) (h : Nat) (e : Nat × Nat) : State :=
  let s := { s with faults := { s.faults with oddEvents := s.faults.oddEvents + 1 } }
  let s := s.sbEvent n (mkWord [at_ 56 8, at_ 0 h]) (BitVec.ofNat 64 e.2) 0
  s.recordOwn { s.mkReport 0x0801 0 0 (some n) epControl e.1 with
    detailA := BitVec.ofNat 32 h
    detailB := BitVec.ofNat 64 e.2 }

/-- ODD_NUMBERS_CHECK (R477, R478): once every weight's update is complete and before the update-complete message. -/
def execOddNumbersCheck (n : PartId) (s : State) : Host.Outcome State Fault Refusal :=
  .next (
    let p := s.parts.get n
    match p.image with
    | none => s
    | some m =>
      if p.state ≠ .loaded ∨ p.run.running = false ∨ p.odd.checked = true ∨ p.run.updateSent = true ∨ p.allUpdated m = false then s
      else
        let hs := m.updatedWeights.filter fun h => (Assoc.get h p.weights.norms).isSome
        let all := hs.flatMap fun h => (p.oddEvents h s.faults.gradThreshold.toNat s.faults.updThreshold.toNat).map fun e => (h, e)
        let s := all.foldl (fun (s : State) w => s.oddEvent n w.1 w.2) s
        s.modPart n fun p => { p with odd := { p.odd with checked := true, held := !all.isEmpty && s.faults.oddAction == 1 } })

/-- A release that finds no hold is ignored and counted. -/
def State.oddRelease (s : State) (n : PartId) (f : State → State) : State :=
  if (s.parts.get n).odd.held then f s
  else { s with faults := { s.faults with oddIgnored := s.faults.oddIgnored + 1 } }

/-- The hold ends, and the update-complete message leaves when nothing else withholds it (R478, R479). -/
def State.oddContinue (s : State) (n : PartId) : State :=
  (s.modPart n fun p => { p with odd := { p.odd with held := false } }).trySendUpdate n

/-- ODD_CONTINUE (R478): release 1. -/
def execOddContinue (n : PartId) (s : State) : Host.Outcome State Fault Refusal := .next (s.oddRelease n fun s => s.oddContinue n)

/-- ODD_RETRY (R478): release 2 calls a step retry. -/
def execOddRetry (n : PartId) (s : State) : Host.Outcome State Fault Refusal := .next (s.oddRelease n fun s => s.callRetry n 0x0801)

/-- ODD_CONTINUE_CLEAR (R478): release 3 continues and sets the action to record. -/
def execOddContinueClear (n : PartId) (s : State) : Host.Outcome State Fault Refusal :=
  .next (s.oddRelease n fun s => ({ s with faults := { s.faults with oddAction := 0 } }).oddContinue n)

/-! ### Records (R475, R476, R480) -/

/-- ERROR_REPORT (R475): a report reaches a coalescing point. The response to the fault does not wait for it. -/
def execErrorReport (pt : CoalescePoint) (r : ErrorReport) (s : State) : Host.Outcome State Fault Refusal :=
  .next (if s.module.state = .off then s else s.report pt r)

/-- The sums of a window are forwarded when anything was absorbed. -/
def State.forwardWindow (s : State) (w : CoWindow) : State := if w.report.witnesses = 0 then s else s.reportEntry w.report

/-- COALESCING_WINDOW_END (R475): window `i` of a point ends. At a welt or a link die one witness report goes on to tile 9.15; there the window
awaits publication. -/
def execCoalescingWindowEnd (pt : CoalescePoint) (i : Nat) (s : State) : Host.Outcome State Fault Refusal :=
  .next (
    let f := s.faults
    let entry := fun (s : State) => match f.entryWindows[i]? with
      | none => s
      | some w => { s with faults := { f with
          entryWindows := f.entryWindows.eraseIdx i
          awaiting := f.awaiting ++ [(w, f.keysSeen.contains (faultKey w.report) || f.awaiting.any fun a => faultKey a.1.report == faultKey w.report)] } }
    match pt with
    | .entry => entry s
    | .welt t =>
      if t.1 = 279 then entry s
      else match (f.weltWindows.filter fun w => w.1 == t)[i]? with
        | none => s
        | some w => ({ s with faults := { f with weltWindows := f.weltWindows.filter fun v => !(v.1 == t && faultKey v.2.report == faultKey w.2.report) } }).forwardWindow w.2
    | .link l => match (f.linkWindows.filter fun w => w.1 == l)[i]? with
      | none => s
      | some w => ({ s with faults := { f with linkWindows := f.linkWindows.filter fun v => !(v.1 == l && faultKey v.2.report == faultKey w.2.report) } }).forwardWindow w.2)

/-- RECORD_PUBLISH (R475): the controller publishes the record of an ended window. -/
def execRecordPublish (i : Nat) (s : State) : Host.Outcome State Fault Refusal :=
  .next (match s.faults.awaiting[i]? with
  | none => s
  | some w => ({ s with faults := { s.faults with awaiting := s.faults.awaiting.eraseIdx i } }).publish w.1.report w.2)

/-- ALERT_ACKNOWLEDGE (R476, R480): a write of 1 acknowledges every record written so far. -/
def execAlertAcknowledge (v : BitVec 8) (s : State) : Host.Outcome State Fault Refusal :=
  if v = 1 then .next ({ s with faults := { s.faults with acked := s.faults.published } }).refreshAlert else .next s

/-- READOUT_SEQUENCE (R480): the record that OD 0x2C00.04 presents. -/
def execReadoutSequence (seq : BitVec 32) (s : State) : Host.Outcome State Fault Refusal :=
  .next { s with faults := { s.faults with readout := seq } }

/-- READOUT_STEP (R387): the Saddlebag record that OD 0x2A10 + n.0F presents. -/
def execReadoutStep (n : PartId) (step : Word64) (s : State) : Host.Outcome State Fault Refusal :=
  .next (s.modPart n fun p => { p with replay := { p.replay with readout := step } })

end Sys2Proof.Machine
end

