-- ==== Sys2Proof/Machine/Settings.lean ====
section
/-! DEFINITION. The settings of class M with their factory defaults, the set that a store keeps, and Rein resets (R526, R527, R537, R538, R544,
R567). -/

namespace Sys2Proof.Machine

/-! ### Views (R522, R527, R538) -/

/-- The entries that a map's bytes spell: [31:16] index, [15:8] subindex, [7:0] 0 (R527). -/
def mapEntries (bs : List Byte) : List MapEntry :=
  (List.range (bs.length / 4)).map fun i => ⟨BitVec.ofNat 16 (field bs (4 * i + 2) 2), BitVec.ofNat 8 (field bs (4 * i + 1) 1)⟩

/-- The bytes of a map. -/
def mapBytes (es : List MapEntry) : List Byte := es.flatMap fun e => leBytes 1 0 ++ leBytes 1 e.sub.toNat ++ leBytes 2 e.index.toNat

/-- Change a view. -/
def State.modView (s : State) (v : ViewId) (f : View → View) : State := { s with rein := { s.rein with views := vmod s.rein.views v f } }

/-- The module view. -/
def moduleView : ViewId := Fin.ofNat 17 16

/-- What a reset of a view clears: the mailbox, the stored response, any segmented transfer, the sequence state and the last cycle number; a
command image that waits goes with them (R538). -/
def View.cleared (v : View) : View := { v with mailbox := Mailbox.reset, lastCycle := none, images := [], resets := v.resets + 1 }

/-- A Rein reset of a view; that of the module view resets every view and clears the choice of upstream port, the link measurement, the
delay trim and the synchronized state (R538). -/
def State.reinReset (s : State) (v : ViewId) : State :=
  if v = moduleView then
    { s with rein := { s.rein with
      views := s.rein.views.map View.cleared
      upstream := none
      turns := ⟨none, none, none, none⟩
      prevTurns := ⟨none, none, none, none⟩
      linkDelay := none
      trim := 0
      synchronized := false
      good := 0 } }
  else s.modView v View.cleared

/-! ### Settings of class M (R526, R544) -/

/-- Set one converter's disable flag for each byte; fewer than 30 working converters set the warning (R407, R421). -/
def State.setDisable (s : State) (bs : List Byte) : State :=
  let s := { s with input := { s.input with disable := Vector.ofFn fun i => bs.getD i.1 0 == 1 } }
  { s with module := { s.module with converterWarning := decide (s.workingConverters < 30) } }

/-- Set the settings of the modules' controllers, at indices 0x2200 to 0x2600. -/
def State.putControl (s : State) (i sub : Nat) (bs : List Byte) : State :=
  let v := leNat bs
  let g := s.governor
  let h := s.thermal
  match i, sub with
  | 0x2200, 0x05 => { s with placer := { s.placer with spareReserve := BitVec.ofNat 8 v } }
  | 0x2200, 0x0C => { s with placer := { s.placer with lengthOverride := Vector.ofFn fun p => bs.getD p.1 0xFF } }
  | 0x2400, 0x07 => s.setDisable bs
  | 0x2500, 0x01 => { s with governor := { g with capNext := BitVec.ofNat 32 v } }
  | 0x2500, 0x03 => { s with governor := { g with computeFloor := BitVec.ofNat 16 v } }
  | 0x2500, 0x04 => { s with governor := { g with stackFloor := BitVec.ofNat 16 v } }
  | 0x2500, 0x0A => { s with governor := { g with slackMatching := BitVec.ofNat 8 v } }
  | 0x2500, 0x0B => { s with governor := { g with slackThreshold := BitVec.ofNat 32 v } }
  | 0x2500, 0x0C => { s with governor := { g with slackFloor := BitVec.ofNat 16 v } }
  | 0x2500, 0x0D => { s with governor := { g with target := BitVec.ofNat 16 v } }
  | 0x2500, 0x0E => { s with governor := { g with droopLimit := BitVec.ofNat 32 v } }
  | 0x2600, 0x01 => { s with thermal := { h with throttle := BitVec.ofNat 16 v } }
  | 0x2600, 0x02 => { s with thermal := { h with migrate := BitVec.ofNat 16 v } }
  | 0x2600, 0x04 => { s with thermal := { h with returnTemp := BitVec.ofNat 16 v } }
  | _, _ => s

/-- Set the settings of the fabric, the links, the collectives, the Saddlebag and Cinch, at indices 0x2700 to 0x2B00. -/
def State.putFabric (s : State) (i sub : Nat) (bs : List Byte) : State :=
  let v := leNat bs
  match i, sub with
  | 0x2700, 0x01 => { s with fabric := { s.fabric with agingWait := BitVec.ofNat 32 v } }
  | 0x2700, 0x10 => { s with links := { s.links with replayMargin := BitVec.ofNat 32 v } }
  | 0x2700, 0x11 => { s with links := { s.links with retrainLimit := BitVec.ofNat 8 v } }
  | 0x2700, 0x12 => { s with links := { s.links with downTimeout := BitVec.ofNat 32 v } }
  | 0x2700, 0x15 => { s with links := { s.links with errorAlarm := BitVec.ofNat 32 v } }
  | 0x2900, 0x01 => { s with collective := { s.collective with deadline := BitVec.ofNat 32 v } }
  | 0x2900, 0x02 => { s with collective := { s.collective with late := BitVec.ofNat 8 v } }
  | 0x2900, 0x03 => { s with collective := { s.collective with ringTimeout := BitVec.ofNat 32 v } }
  | 0x2A00, 0x01 => { s with links := { s.links with stampShare := BitVec.ofNat 8 v } }
  | 0x2A00, 0x02 => { s with links := { s.links with sumPoly := BitVec.ofNat 8 v } }
  | 0x2B00, 0x01 => { s with cinch := { s.cinch with observe := BitVec.ofNat 16 v } }
  | 0x2B00, 0x02 => { s with cinch := { s.cinch with window := BitVec.ofNat 32 v } }
  | 0x2B00, 0x03 => { s with cinch := { s.cinch with outMode := BitVec.ofNat 8 v, outLevel := v == 1 && s.cinch.level } }
  | 0x2B00, 0x04 => { s with cinch := { s.cinch with outPart := BitVec.ofNat 8 v } }
  | _, _ => s

/-- Set the settings of faults, self-test and the audit, at indices 0x2C00 to 0x2E00. -/
def State.putChecks (s : State) (i sub : Nat) (bs : List Byte) : State :=
  let v := leNat bs
  match i, sub with
  | 0x2C00, 0x06 => ({ s with faults := { s.faults with alertClasses := BitVec.ofNat 8 v } }).refreshAlert
  | 0x2C00, 0x08 => { s with faults := { s.faults with retryLimit := BitVec.ofNat 8 v } }
  | 0x2C00, 0x09 => { s with faults := { s.faults with rerunLimit := BitVec.ofNat 16 v } }
  | 0x2C00, 0x0F => { s with faults := { s.faults with gradThreshold := BitVec.ofNat 32 v } }
  | 0x2C00, 0x10 => { s with faults := { s.faults with updThreshold := BitVec.ofNat 32 v } }
  | 0x2C00, 0x11 => { s with faults := { s.faults with oddAction := BitVec.ofNat 8 v } }
  | 0x2D00, 0x04 => { s with selfTest := { s.selfTest with interval := BitVec.ofNat 32 v } }
  | 0x2D00, 0x05 => { s with selfTest := { s.selfTest with fieldTests := BitVec.ofNat 8 v } }
  | 0x2E00, 0x01 => { s with audit := { s.audit with period := BitVec.ofNat 32 v } }
  | 0x2E00, 0x11 => { s with audit := { s.audit with window := BitVec.ofNat 32 v } }
  | _, _ => s

/-- The view whose index is `i` (R540). -/
def viewOf (i : Nat) : Option ViewId :=
  if i = 0x1100 then some moduleView else if 0x1110 ≤ i ∧ i ≤ 0x111F then some (Fin.ofNat 17 (i - 0x1110)) else none

/-- Set the settings of Rein, at indices 0x1100 to 0x111F. -/
def State.putRein (s : State) (i sub : Nat) (bs : List Byte) : State :=
  match viewOf i with
  | some v =>
    if sub = 0x01 then s.modView v fun w => { w with address := BitVec.ofNat 16 (leNat bs) }
    else if sub = 0x07 then s.modView v fun w => { w with commandMap := mapEntries bs }
    else if sub = 0x08 then s.modView v fun w => { w with reportMap := mapEntries bs }
    else s
  | none => if i = 0x1101 ∧ sub = 0x07 then { s with rein := { s.rein with syncWatch := BitVec.ofNat 32 (leNat bs) } } else s

/-- Give a setting of class M a value that has passed every check. -/
def State.putSetting (s : State) (i sub : Nat) (bs : List Byte) : State :=
  if i < 0x1200 then s.putRein i sub bs
  else if i < 0x2700 then s.putControl i sub bs
  else if i < 0x2C00 then s.putFabric i sub bs
  else if i < 0x3000 then s.putChecks i sub bs
  else if 0x3300 ≤ i ∧ i < 0x3310 ∧ sub = 0x03 then s.modPort (Fin.ofNat 16 (i - 0x3300)) fun x => { x with permitted := BitVec.ofNat 8 (leNat bs) }
  else s

/-- The class M settings of the views and the ports, with their factory defaults (R544). -/
def unitSettings : List (Nat × Nat × List Byte) :=
  (0x1100 :: (List.range 16).map (0x1110 + ·)).flatMap (fun i => [(i, 0x01, leBytes 2 0), (i, 0x07, []), (i, 0x08, [])]) ++
  (List.range 16).map fun p => (0x3300 + p, 0x03, leBytes 1 0x1E)

/-- Every other class M setting, with its factory default (R544, R567). -/
def moduleSettings : List (Nat × Nat × List Byte) :=
  [(0x1101, 0x07, leBytes 4 10000), (0x2200, 0x05, leBytes 1 8), (0x2200, 0x0C, List.replicate 16 0xFF),
    (0x2400, 0x07, List.replicate 32 0), (0x2500, 0x01, leBytes 4 28000), (0x2500, 0x03, leBytes 2 300),
    (0x2500, 0x04, leBytes 2 800), (0x2500, 0x0A, leBytes 1 0), (0x2500, 0x0B, leBytes 4 100)] ++
  [(0x2500, 0x0C, leBytes 2 400), (0x2500, 0x0D, leBytes 2 800), (0x2500, 0x0E, leBytes 4 1000), (0x2600, 0x01, leBytes 2 950),
    (0x2600, 0x02, leBytes 2 1000), (0x2600, 0x04, leBytes 2 850), (0x2700, 0x01, leBytes 4 50), (0x2700, 0x10, leBytes 4 200),
    (0x2700, 0x11, leBytes 1 16), (0x2700, 0x12, leBytes 4 1000), (0x2700, 0x15, leBytes 4 0x3727C5AC)] ++
  [(0x2900, 0x01, leBytes 4 2000), (0x2900, 0x02, leBytes 1 0), (0x2900, 0x03, leBytes 4 20000), (0x2A00, 0x01, leBytes 1 25),
    (0x2A00, 0x02, leBytes 1 1), (0x2B00, 0x01, leBytes 2 0), (0x2B00, 0x02, leBytes 4 2000), (0x2B00, 0x03, leBytes 1 0),
    (0x2B00, 0x04, leBytes 1 0)] ++
  [(0x2C00, 0x06, leBytes 1 0x18), (0x2C00, 0x08, leBytes 1 3), (0x2C00, 0x09, leBytes 2 4), (0x2C00, 0x0F, leBytes 4 0x40800000),
    (0x2C00, 0x10, leBytes 4 0x3D4CCCCD), (0x2C00, 0x11, leBytes 1 0), (0x2D00, 0x04, leBytes 4 168), (0x2D00, 0x05, leBytes 1 3),
    (0x2E00, 0x01, leBytes 4 1000), (0x2E00, 0x11, leBytes 4 100)]

/-- The class M settings with their factory defaults. -/
def factorySettings : List (Nat × Nat × List Byte) := unitSettings ++ moduleSettings

/-- Every class M setting takes its stored default: the saved value, or the factory default where none is saved (R526, R537, R567). -/
def State.storedDefaults (s : State) : State :=
  let s := factorySettings.foldl (fun (s : State) f => s.putSetting f.1 f.2.1 f.2.2) s
  ((s.flash.saved).getD []).foldl (fun (s : State) f => s.putSetting f.index.toNat f.sub.toNat f.data) s

/-! ### Store and restore (R537, R550) -/

/-- OD 0x1200.05: the CRC-32C of the saved set, each entry with its index, subindex, length and bytes; 0 when none is saved. -/
def Flash.savedCrc (f : Flash) : Nat :=
  match f.saved with
  | none => 0
  | some es => crc32c (es.flatMap fun e => leBytes 2 e.index.toNat ++ leBytes 1 e.sub.toNat ++ leBytes 4 e.data.length ++ e.data)

/-- The flash write of a store or a restore has ended: the set is saved whole, or the previous one stays in force (R537). Only a store counts in OD 0x1200.04. -/
def State.endStore (s : State) (ok : Bool) : State :=
  match s.flash.storing with
  | none => s
  | some set =>
    { s with flash := { s.flash with
      storing := none
      saved := if ok then set else s.flash.saved
      storeStatus := if ok then 2 else 3
      stores := if ok && set.isSome then s.flash.stores + 1 else s.flash.stores } }

end Sys2Proof.Machine
end

