-- ==== Sys2Proof/Machine/Module.lean ====
section
/-! DEFINITION. The module controller: power-on, module reset, Standby and the way out of Fault (R552 to R568). -/

namespace Sys2Proof.Machine

/-! ### Firmware and power-on (R552, R554, R556 to R558) -/

/-- The image that the boot firmware starts: the one last installed, or else the other one (R554). -/
def Flash.verify (f : Flash) : Option Bool := if f.installedOk then some true else if f.otherOk then some false else none

/-- A tile after the tests of the power-on sequence: a tile with a failed welt has none, a tile that fails is fenced, and one that passes was woken,
scrubbed and tested (R53, R225, R556). -/
def Tile.poweredOn (x : Tile) (weltBad coreBad : Bool) (now : Nat) : Tile :=
  let x := { x.scrubbed with island := { x.island with weltFailed := weltBad, fenced := coreBad && !weltBad } }
  if weltBad then x
  else { x with
    power := { x.power with wakes := x.power.wakes + 1 }
    test := { x.test with
      last := if coreBad then .failed else .passed
      lastPass := if coreBad then x.test.lastPass else now
      run := x.test.run + 1
      failed := if coreBad then x.test.failed + 1 else x.test.failed } }

/-- The links of a tile's router that are up: toward neighbours whose welts work (R293, R556). -/
def State.linksUp (s : State) (t : TileId) : Vector Bool 4 :=
  Vector.ofFn fun d => !(s.tiles.get t).island.weltFailed && match neighbour t (Fin.ofNat 5 d.1) with
    | some u => !(s.tiles.get u).island.weltFailed
    | none => false

/-- Compute dies, edge dies and tiles come up with what their tests find (R556). -/
def State.raiseUnits (s : State) (r : PowerOnTests) : State :=
  let tested := (allFin 288).filter fun t => !r.welts.contains t
  let fails := tested.filter fun t => r.tiles.contains t
  let s := { s with
    tiles := s.tiles.mapFinIdx fun i x h => x.poweredOn (r.welts.contains ⟨i, h⟩) (r.tiles.contains ⟨i, h⟩) s.time
    module := { s.module with weltFailed := r.welts, linkFailed := r.links }
    fabric := { s.fabric with alternates := !r.welts.isEmpty }
    stackDies := s.stackDies.mapFinIdx fun i k h => { k with power := if r.baseDies.contains ⟨i, h⟩ then .failed else .up, portsClosed := false }
    linkDies := s.linkDies.mapFinIdx fun i l h => { l with failed := r.links.contains ⟨i, h⟩, clockStopped := false }
    ports := s.ports.map fun (x : Port) => x.unlinked (if x.present then .training else .down)
    flash := { s.flash with lastPass := s.flash.lastPass.mapFinIdx fun i v h => if tested.contains ⟨i, h⟩ && !fails.contains ⟨i, h⟩ then s.time else v }
    selfTest := { s.selfTest with
      powerOnFails := fails
      passed := s.selfTest.passed + BitVec.ofNat 64 (tested.length - fails.length)
      failed := s.selfTest.failed + BitVec.ofNat 32 fails.length }
    governor := { s.governor with coefficients := r.fits, estimateError := r.fitError, calibrated := true } }
  { s with tiles := s.tiles.mapFinIdx fun i x h => { x with router := { x.router with linkUp := s.linksUp ⟨i, h⟩ } } }

/-- Spares enter Retain, scrubbed, and every other tile that stands behind no partition goes Off (R241, R556). -/
def State.placeSpares (s : State) : State :=
  let s := { s with tiles := s.tiles.mapFinIdx fun i x h =>
    let t : TileId := ⟨i, h⟩
    if x.island.weltFailed || x.island.fenced then x.driveOff
    else if s.placer.designated.contains t || (s.partOfTile t).isSome then x.scrubbed.goRetain
    else x.driveOff }
  s.designate

/-- The power-on sequence from the compute dies to Configured (R556); the causes of Fault are looked at on the way (R558). -/
def State.bringUp (s : State) (r : PowerOnTests) : State :=
  let s := (s.raiseUnits r).designate.placeSpares
  let s := { s with module := { s.module with coolantWait := false, startMs := r.startMs } }
  if s.workingConverters < 20 then s.enterFault 0x0601 false else (s.enter .configured).refreshAlert

/-- The coolant as the control die finds it. -/
def State.readCoolant (s : State) (c : CoolantReading) : State :=
  let bad := coolantBad c.inlet c.outlet c.flow
  { s with thermal := { s.thermal with
    inlet := c.inlet
    outlet := c.outlet
    flow := c.flow
    badSince := if bad then some (s.thermal.badSince.getD s.time) else none
    goodSince := if bad then none else some (s.thermal.goodSince.getD s.time) } }

/-- Firmware is verified and started: the module enters Init, and the settings of class M take their stored defaults; when neither image passes the module stays
in Booting with ALERT_L asserted (R554, R556, R565). -/
def State.startFirmware (s : State) : State :=
  let s := { s with module := { s.module with firmware := s.flash.verify } }
  if s.flash.verify.isNone then s.refreshAlert else (s.enter .init).storedDefaults.refreshAlert

/-- The input is Normal with EPO_L released: the converters start, module time runs from 0, and the module is in Booting (R405, R556). -/
def State.applyPower (s : State) : State :=
  let s := { s with
    time := 0
    input := { s.input with running := true, bandSince := 0, epoPending := false }
    flash := { s.flash with epoCount := if s.input.epoPending then s.flash.epoCount + 1 else s.flash.epoCount }
    ports := s.ports.map fun (x : Port) => { x with state := .down } }
  s.syncTime.enter .booting

/-- POWER_ON (R552, R556 to R558): from Off, and only with the input in the band Normal and EPO_L released. -/
def execPowerOn (c : CoolantReading) (r : PowerOnTests) (s : State) : Host.Outcome State Fault Refusal :=
  if s.module.state ≠ .off ∨ s.input.band ≠ .normal ∨ s.input.epo = true then .next s
  else if 500 < c.inlet then .fault .beyondAbsoluteMaximum
  else
    let s := s.applyPower.startFirmware
    if s.module.state = .booting then .next s
    else
      let s := { s with flash := { s.flash with powerOns := s.flash.powerOns + 1 } }
      let s := s.readCoolant c
      if coolantBad c.inlet c.outlet c.flow then .next { s with module := { s.module with coolantWait := true } }
      else .next (s.bringUp r)

/-- COOLANT_RECHECK (R557): the sequence that waits at the coolant check looks again. -/
def execCoolantRecheck (c : CoolantReading) (r : PowerOnTests) (s : State) : Host.Outcome State Fault Refusal :=
  if s.module.state ≠ .init ∨ s.module.coolantWait = false then .next s
  else if 500 < c.inlet then .fault .beyondAbsoluteMaximum
  else
    let s := s.readCoolant c
    if coolantBad c.inlet c.outlet c.flow then .next s else .next (s.bringUp r)

/-! ### Module reset (R565 to R567) -/

/-- Every partition is reset where it is Loaded, then dissolved; its slices are marked to be cleaned, and no re-bind request is left (R565). -/
def State.clearPartitions (s : State) : State :=
  let bound := s.parts.toList.flatMap (·.slices)
  let s := (allFin 16).foldl (fun (s : State) n => if (s.parts.get n).state = .loaded then s.resetPartition n 0 else s) s.endTests
  let s := (allFin 16).foldl (fun (s : State) n => if (s.parts.get n).state = .free then s else s.dissolve n) s
  { s with stackDies := s.stackDies.mapFinIdx fun i k _ => { k with
      toClean := k.toClean.mapFinIdx fun j b _ => b || bound.any fun c => c.1 == 8 * i + j } }

/-- Functions that served a partition raise vector 2, and every BAR0 register returns to 0 (R565, R567). -/
def State.clearFunctions (s : State) (bound : List FuncId) : State :=
  { s with fns := s.fns.mapFinIdx fun i h hi =>
      let h := if bound.contains ⟨i, hi⟩ then h.raiseVector s.time 2 else h
      { HostFn.reset with vectors := h.vectors } }

/-- What the control die clears before it boots: Buckle generations, request numbers, the selections of class V, and Rein (R263, R565, R567). -/
def State.clearControl (s : State) : State :=
  let s := s.reinReset moduleView
  let s := { s with
    ranges := Vector.replicate 16 ⟨0, []⟩
    tiles := s.tiles.map fun (x : Tile) => { x.clearSent with router := { x.clearSent.router with watches := [] } }
    dies := s.dies.map fun (d : Die) => { d with requests := [], softStartTile := none, lowering := false } }
  { s with
    fabric := { s.fabric with seqOut := [], history := [], buckleSeqOut := [], buckleSeqIn := [] }
    placer := { s.placer with rebindNumber := 0, requests := [], service := none }
    selfTest := { s.selfTest with lastNumber := 0 }
    faults := { s.faults with readout := 0 }
    audit := { s.audit with probe := 0, probeResult := [] } }

/-- Units that Standby or Fault took down come up again; ports that were Up before Standby train again (R552, R562). -/
def State.unitsUp (s : State) : State :=
  { s with
    stackDies := s.stackDies.map fun (k : Stack) => if k.power = .failed then k else { k with power := .up, portsClosed := false }
    linkDies := s.linkDies.map fun (l : LinkDie) => { l with clockStopped := false }
    ports := s.ports.mapFinIdx fun i x h => if s.module.linkUpBeforeStandby.contains ⟨i, h⟩ then x.unlinked (if x.present then .training else .down) else x
    module := { s.module with linkUpBeforeStandby := [] } }

/-- The end of a module reset (R565): units are up, spares are in Retain, and the module is Configured; too few converters put it back in Fault (R553). -/
def State.endReset (s : State) : State :=
  let s := s.unitsUp.placeSpares
  let s := { s with flash := { s.flash with moduleResets := s.flash.moduleResets + 1 } }
  if s.workingConverters < 20 then ({ s with module := { s.module with commandStatus := 3 } }).enterFault 0x0601 false
  else ({ s with module := { s.module with commandStatus := 2 } }).enter .configured

/-- A reset whose firmware did not verify stays in Booting (R554). -/
def State.afterBoot (s : State) : State := if s.module.state = .booting then s else s.endReset

/-- The first part of a module reset (R565): partitions, functions and the control die are cleared, and the module boots. -/
def State.beginReset (s : State) : State :=
  let bound := s.parts.toList.filterMap (·.func)
  let s := { s with module := { s.module with commandStatus := 1 } }
  ((s.clearPartitions.clearFunctions bound).clearControl.enter .booting).startFirmware

/-- A module reset (R565). Module time, and every count from power-on, keeps running. -/
def State.moduleReset (s : State) : State := s.beginReset.afterBoot

/-! ### Module commands (R547, R553, R555, R561, R562) -/

/-- The cause of the Fault permits command 4 (R553). -/
def State.faultCleared (s : State) : Bool :=
  match s.module.faultCause.toNat with
  | 0x0604 => match s.thermal.goodSince with
    | some t => decide (t + 10000000000 ≤ s.time)
    | none => false
  | 0x0601 => decide (20 ≤ s.workingConverters)
  | _ => !s.module.faultHot || decide (s.thermal.edgeTemps.get 32 < 950)

/-- A module command is accepted (R555); a store in progress holds off commands 1 and 2 (R550, R568). -/
def State.commandOk (s : State) (c : Nat) : Bool :=
  match c, s.module.state with
  | 1, .configured => s.flash.storing.isNone
  | 1, .running => s.flash.storing.isNone
  | 1, .degraded => s.flash.storing.isNone
  | 1, .standby => s.flash.storing.isNone
  | 2, .configured => s.flash.storing.isNone && s.selfTest.tests.isEmpty && s.placer.service.isNone && 
      !s.tiles.toList.any fun x => x.island.state == IslandState.waking || x.test.waiting.isSome
  | 3, .standby => true
  | 4, .fault => s.faultCleared
  | _, _ => false

/-- Into Standby (R561): ports that are Up are disabled, the link-die clocks stop, tiles in Retain go Off, and the stacks refresh themselves. -/
def State.enterStandby (s : State) : State :=
  let up := (allFin 16).filter fun p => (s.ports.get p).state == PortState.up
  let s := { s with
    ports := s.ports.map fun (x : Port) => if x.state = PortState.up then x.unlinked .disabled else x
    linkDies := s.linkDies.map fun (l : LinkDie) => { l with clockStopped := true }
    tiles := s.tiles.map fun (x : Tile) => if x.island.state = IslandState.retain then x.goOff else x
    stackDies := s.stackDies.map Stack.selfRefreshed
    module := { s.module with linkUpBeforeStandby := up, commandStatus := 2 } }
  s.enter .standby

/-- Out of Standby (R562): stacks and link dies come up, and every designated spare and every bound tile is woken, scrubbed and placed in Retain. -/
def State.leaveStandby (s : State) : State :=
  let wake := (allFin 288).filter fun t => (s.placer.designated.contains t || (s.partOfTile t).isSome) &&
    !(s.tiles.get t).island.fenced && !(s.tiles.get t).island.weltFailed
  let s := s.modTiles wake fun x => { x with power := { x.power with wakes := x.power.wakes + 1 } }
  let s := s.unitsUp.placeSpares
  (({ s with module := { s.module with commandStatus := 2 } }).enter .configured).startTests

/-- Run a module command that is accepted. -/
def State.moduleCommand (s : State) (c : Nat) : State :=
  if s.commandOk c then
    match c with
    | 2 => s.enterStandby
    | 3 => s.leaveStandby
    | _ => s.moduleReset
  else s

/-- MODULE_RESET (R555, R565): module command 1; where it is not accepted, nothing changes (R547). -/
def execModuleReset (s : State) : Host.Outcome State Fault Refusal := .next (s.moduleCommand 1)

/-- ENTER_STANDBY (R555, R561): module command 2. -/
def execEnterStandby (s : State) : Host.Outcome State Fault Refusal := .next (s.moduleCommand 2)

/-- LEAVE_STANDBY (R555, R562): module command 3. -/
def execLeaveStandby (s : State) : Host.Outcome State Fault Refusal := .next (s.moduleCommand 3)

/-- LEAVE_FAULT (R553, R555): module command 4 performs a module reset. -/
def execLeaveFault (s : State) : Host.Outcome State Fault Refusal := .next (s.moduleCommand 4)

end Sys2Proof.Machine
end

