-- ==== Sys2Proof/Machine/Entries.lean ====
section
/-! DEFINITION. What every entry of the object dictionary reads, with its type and its access (R5, R55, R162, R189, R218, R248 to R250, R275, R303, R304,
R324, R325, R357, R386 to R388, R402, R421 to R424, R450 to R452, R480, R481, R494, R495, R523, R524, R539 to R549). -/

namespace Sys2Proof.Machine

/-! ### Entries (R524, R525) -/

/-- Types of entries (R524). -/
inductive OdType where
  | bool | u8 | u16 | u32 | u64 | i16 | i32 | f32 | str | domain
  deriving DecidableEq, Repr

/-- Access of entries (R525); `composed` and `configured` mark RW entries with a condition of their own (R544). -/
inductive OdAccess where
  | ro | rw | rws | wo | cmd | composed | configured
  deriving DecidableEq, Repr

/-- An entry as it stands: its type, its access and the bytes that it reads. -/
structure OdEntry where
  ty : OdType
  acc : OdAccess
  val : List Byte
  deriving DecidableEq, Repr

/-- Bytes of a type; none for STR and DOMAIN, whose length varies (R524). -/
def OdType.bytes : OdType → Option Nat
  | .bool => some 1 | .u8 => some 1 | .u16 => some 2 | .u32 => some 4 | .u64 => some 8
  | .i16 => some 2 | .i32 => some 4 | .f32 => some 4 | .str => none | .domain => none

/-- Exactly `n` bytes: a list cut, or filled with zeros. -/
def fixTo (n : Nat) (bs : List Byte) : List Byte := (bs ++ List.replicate (n - bs.length) 0).take n

/-- A number under an access. -/
def numEntry (ty : OdType) (acc : OdAccess) (v : Nat) : OdEntry := ⟨ty, acc, leBytes (ty.bytes.getD 0) v⟩

/-- A number that is read only. -/
def roEntry (ty : OdType) (v : Nat) : OdEntry := numEntry ty .ro v

/-- Bytes that are read only. -/
def roDomain (bs : List Byte) : OdEntry := ⟨.domain, .ro, bs⟩

/-- A signed number. -/
def intEntry (ty : OdType) (acc : OdAccess) (v : Int) : OdEntry := numEntry ty acc (ofSigned (8 * ty.bytes.getD 0) v)

/-- The bitmap of some units, bit k mod 8 of byte k div 8 (R248). -/
def bitmap (n : Nat) (f : Nat → Bool) : List Byte :=
  (List.range n).map fun i => BitVec.ofNat 8 (((List.range 8).map fun j => if f (8 * i + j) then 2 ^ j else 0).sum)

/-- The number whose set bits are those of the units for which `f` holds. -/
def bitsOf (n : Nat) (f : Nat → Bool) : Nat := ((List.range n).map fun i => if f i then 2 ^ i else 0).sum

/-! ### Indices (R540) -/

/-- The groups of indices, each with its unit (R540). -/
inductive OdIndex where
  | identity
  | rein (v : ViewId)
  | clock
  | store
  | control
  | part (n : PartId)
  | rebind
  | placement
  | input
  | power
  | thermal
  | fabric
  | collective
  | saddlebag
  | partBag (n : PartId)
  | cinch
  | errors
  | selfTest
  | audit
  | tile (t : TileId)
  | stack (k : StackId)
  | port (p : PortId)
  | die (d : DieId)
  deriving DecidableEq, Repr

/-- Indices of the module as a whole. -/
def moduleIndices : List (Nat × OdIndex) :=
  [(0x1000, .identity), (0x1101, .clock), (0x1200, .store), (0x2000, .control), (0x2110, .rebind), (0x2200, .placement),
    (0x2400, .input), (0x2500, .power), (0x2600, .thermal), (0x2700, .fabric), (0x2900, .collective), (0x2A00, .saddlebag),
    (0x2B00, .cinch), (0x2C00, .errors), (0x2D00, .selfTest), (0x2E00, .audit)]

/-- The group of an index; none where the dictionary holds no such index (R540). -/
def odIndex (i : Nat) : Option OdIndex :=
  if 0x3000 ≤ i ∧ i ≤ 0x311F then some (.tile (Fin.ofNat 288 (i - 0x3000)))
  else if 0x3200 ≤ i ∧ i ≤ 0x3217 then some (.stack (Fin.ofNat 24 (i - 0x3200)))
  else if 0x3300 ≤ i ∧ i ≤ 0x330F then some (.port (Fin.ofNat 16 (i - 0x3300)))
  else if 0x3400 ≤ i ∧ i ≤ 0x3447 then some (.die (Fin.ofNat 72 (i - 0x3400)))
  else if 0x2100 ≤ i ∧ i ≤ 0x210F then some (.part (Fin.ofNat 16 (i - 0x2100)))
  else if 0x2A10 ≤ i ∧ i ≤ 0x2A1F then some (.partBag (Fin.ofNat 16 (i - 0x2A10)))
  else match viewOf i with
    | some v => some (.rein v)
    | none => Assoc.get i moduleIndices

/-- The highest subindex of an index (R540). -/
def OdIndex.top : OdIndex → Nat
  | .identity => 0x08
  | .rein v => if v = moduleView then 0x0D else 0x0E
  | .clock => 0x09
  | .store => 0x05
  | .control => 0x0B
  | .part _ => 0x15
  | .rebind => 0x04
  | .placement => 0x0D
  | .input => 0x10
  | .power => 0x16
  | .thermal => 0x0E
  | .fabric => 0x18
  | .collective => 0x11
  | .saddlebag => 0x02
  | .partBag _ => 0x0F
  | .cinch => 0x0D
  | .errors => 0x14
  | .selfTest => 0x0C
  | .audit => 0x2F
  | .tile _ => 0x7C
  | .stack _ => 0x12
  | .port _ => 0x14
  | .die _ => 0x0A

/-! ### Codes -/

/-- Core island state codes (R55). -/
def IslandState.code : IslandState → Nat
  | .running => 0 | .draining => 1 | .stopped => 2 | .retain => 3 | .off => 4 | .waking => 5

/-- Module state codes (R547); Off is never read. -/
def ModuleState.code : ModuleState → Nat
  | .off => 0 | .booting => 1 | .init => 2 | .configured => 3 | .running => 4 | .degraded => 5 | .standby => 6 | .fault => 7

/-- Partition state codes (R220). -/
def PartState.code : PartState → Nat
  | .free => 0 | .composed => 1 | .loaded => 2 | .resetting => 3

/-- Context state codes (R189). -/
def CtxState.code : CtxState → Nat
  | .idle => 0 | .issuing => 1 | .atBuckle => 2 | .waiting => 3 | .atStep => 4 | .faulted => 5

/-- Port state codes (R305). -/
def PortState.code : PortState → Nat
  | .disabled => 0 | .down => 1 | .training => 2 | .up => 3 | .retraining => 4 | .draining => 5

/-- Test result codes (R495). -/
def TestCode.code : TestCode → Nat
  | .never => 0 | .running => 1 | .passed => 2 | .failed => 3 | .aborted => 4

/-- Base die state codes (R218). -/
def StackPower.code : StackPower → Nat
  | .up => 0 | .selfRefresh => 1 | .failed => 2

/-- Binding term codes (R450). -/
def BindingTerm.code : BindingTerm → Nat
  | .cap => 0 | .input => 1 | .converters => 2 | .coolant => 3

/-- Queue state codes (R145). -/
def Queue.code (q : Queue) : Nat :=
  if q.faulted then 5 else match q.active with
  | none => 0
  | some a => (if a.started then 3 else 1) + (if q.shadow.isSome then 1 else 0)

/-- The characters of a string. -/
def ascii (t : String) : List Byte := t.toList.map fun c => BitVec.ofNat 8 c.toNat

/-! ### Entries of the module (R5, R539, R547, R548) -/

/-- Index 0x1000 (R5, R548): the firmware version is that of the image that runs (R554). -/
def State.odIdentity (s : State) (sub : Nat) : Option OdEntry :=
  match sub with
  | 0x01 => some ⟨.str, .ro, ascii "SRY-TQW-1A"⟩
  | 0x02 => some ⟨.str, .ro, Config.serial⟩
  | 0x03 => some ⟨.str, .ro, fixTo 2 (Config.identity 0x03)⟩
  | 0x04 => some ⟨.u32, .ro, fixTo 4 (Config.identity (if s.module.firmware = some false then 0x84 else 0x04))⟩
  | 0x05 => some ⟨.u32, .ro, fixTo 4 (Config.identity 0x05)⟩
  | 0x06 => some (roEntry .u16 1)
  | 0x07 => some (roEntry .u16 1)
  | 0x08 => some (roEntry .u16 1)
  | _ => none

/-- The downstream port has no link, so the frames that are processed loop back (R516). -/
def Rein.loops (r : Rein) : Bool :=
  match r.upstream with
  | some true => !r.linkA
  | some false => !r.linkB
  | none => false

/-- The partition to which a view is bound (R221, R523). -/
def reachOf (s : State) (v : ViewId) : Option PartId := (allFin 16).find? fun n => ((s.parts.get n).view.map (·.1)) == some v.1

/-- Reach of a view on an entry (R523): the module view reaches everything. -/
def State.reaches (s : State) (v : ViewId) (x : OdIndex) (sub : Nat) (write : Bool) : Bool :=
  if v = moduleView then true
  else match x with
    | .identity => !write
    | .rein u => u == v
    | .part n => reachOf s v == some n
    | .partBag n => reachOf s v == some n
    | .tile t => match reachOf s v with
      | some n => (s.parts.get n).tiles.contains t
      | none => false
    | .stack k => !write && match reachOf s v with
      | some n => (s.parts.get n).slices.any fun c => stackOf c == k
      | none => false
    | .port p => (!write || sub == 0x03 || sub == 0x04) && match reachOf s v with
      | some n => (s.parts.get n).ports.contains p
      | none => false
    | _ => false

/-- Mapped entries of a view outside its reach (R539). -/
def State.outsideReach (s : State) (v : ViewId) : Nat :=
  let w := s.rein.views.get v
  let out := fun (write : Bool) (e : MapEntry) => match odIndex e.index.toNat with
    | some x => !s.reaches v x e.sub.toNat write
    | none => true
  (w.commandMap.filter (out true)).length + (w.reportMap.filter (out false)).length

/-- Indices 0x1100 and 0x1110 + v (R539). -/
def State.odView (s : State) (v : ViewId) (sub : Nat) : Option OdEntry :=
  let r := s.rein
  let w := r.views.get v
  let main := decide (v = moduleView)
  match sub with
  | 0x01 => some (numEntry .u16 .rw w.address.toNat)
  | 0x02 => if main then some (roEntry .u8 (r.linkA.toNat + 2 * r.linkB.toNat + (if r.upstream = some true then 4 else 0) + 8 * r.loops.toNat)) else none
  | 0x03 => if main then some (roEntry .u64 r.framesProcessed.toNat) else none
  | 0x04 => if main then some (roEntry .u32 r.frameFailures.toNat) else none
  | 0x05 => some (roEntry .u32 w.failures.toNat)
  | 0x06 => some (roEntry .u32 w.unprocessed.toNat)
  | 0x07 => some ⟨.domain, .rws, mapBytes w.commandMap⟩
  | 0x08 => some ⟨.domain, .rws, mapBytes w.reportMap⟩
  | 0x09 => some (roEntry .u32 (w.refused % 2 ^ 16 * 2 ^ 16 + s.outsideReach v % 2 ^ 16))
  | 0x0A => some (roEntry .u64 w.executed.toNat)
  | 0x0B => some (roEntry .u32 w.aborts.toNat)
  | 0x0C => some (numEntry .u8 .cmd 0)
  | 0x0D => some (roEntry .u32 w.resets.toNat)
  | 0x0E => if main then none else some (roEntry .u8 ((reachOf s v).map (·.1) |>.getD 0xFF))
  | _ => none

/-- The turns of the last LINK datagram that are complete (R534). -/
def Turns.up (t : Turns) : Option Nat :=
  match t.b, t.c with
  | some b, some c => some (c - b)
  | _, _ => none

/-- The downstream turn of a LINK datagram (R534). -/
def Turns.down (t : Turns) : Option Nat :=
  match t.a, t.d with
  | some a, some d => some (d - a)
  | _, _ => none

/-- Index 0x1101 (R539). Turns that are not known read all ones, as the link delay does when there is none. -/
def State.odClock (s : State) (sub : Nat) : Option OdEntry :=
  let r := s.rein
  let v := fun (x : Option Nat) => leBytes 4 (x.getD 0xFFFFFFFF)
  match sub with
  | 0x01 => some (roEntry .bool r.synchronized.toNat)
  | 0x02 => some (roEntry .bool r.reference.toNat)
  | 0x03 => some (roDomain (v r.turns.up ++ v r.turns.down ++ v r.linkDelay ++ leBytes 4 0))
  | 0x04 => some (intEntry .i32 .rw r.trim)
  | 0x05 => some (intEntry .i32 .ro r.lastError)
  | 0x06 => some (roEntry .u32 r.steps.toNat)
  | 0x07 => some (numEntry .u32 .rw r.syncWatch.toNat)
  | 0x08 => some (intEntry .i32 .ro r.rate)
  | 0x09 => some (roEntry .u64 s.time)
  | _ => none

/-- Index 0x1200 (R539). -/
def State.odStore (s : State) (sub : Nat) : Option OdEntry :=
  match sub with
  | 0x01 => some (numEntry .u8 .cmd 0)
  | 0x02 => some (numEntry .u8 .cmd 0)
  | 0x03 => some (roEntry .u8 s.flash.storeStatus.toNat)
  | 0x04 => some (roEntry .u32 s.flash.stores.toNat)
  | 0x05 => some (roEntry .u32 s.flash.savedCrc)
  | _ => none

/-- Index 0x2000 (R547). -/
def State.odControl (s : State) (sub : Nat) : Option OdEntry :=
  let m := s.module
  match sub with
  | 0x01 => some (roEntry .u8 m.state.code)
  | 0x02 => some (roEntry .u32 s.degradedBits)
  | 0x03 => some (numEntry .u8 .cmd 0)
  | 0x04 => some (roEntry .u8 m.commandStatus.toNat)
  | 0x05 => some (roEntry .u64 (s.time - m.since))
  | 0x06 => some (roEntry .u16 m.faultCause.toNat)
  | 0x07 => some (roEntry .u32 m.startMs.toNat)
  | 0x08 => some (roEntry .u32 s.flash.powerOns.toNat)
  | 0x09 => some (roEntry .u32 s.flash.moduleResets.toNat)
  | 0x0A => some (roEntry .u16 (bitsOf 16 fun n => (s.parts.get (Fin.ofNat 16 n)).state == .loaded))
  | 0x0B => some (roEntry .bool m.alert.toNat)
  | _ => none

/-! ### Partitions and placement (R248 to R250) -/

/-- The cut codes of a partition's ports (R248). -/
def Partition.cutBytes (p : Partition) : List Byte :=
  (allFin 16).map fun q =>
    if !p.ports.contains q then 0xFF
    else BitVec.ofNat 8 ((Assoc.get q p.place.cuts).getD 0)

/-- The ring order that OD 0x2100 + n.15 shows: D shard indices, ascending while no ring has been set (DESIGN CHOICE, log entry 1). -/
def Partition.ringShown (p : Partition) : List Nat :=
  if p.place.ring.length = p.settings.shardWidth.toNat then p.place.ring else List.range p.settings.shardWidth.toNat

/-- Index 0x2100 + n (R248); a bound port that is not confirmed as matched reads 5 (R227). -/
def State.odPart (s : State) (n : PartId) (sub : Nat) : Option OdEntry :=
  let p := s.parts.get n
  let t := p.settings
  match sub with
  | 0x01 => some (roEntry .u8 p.state.code)
  | 0x02 => some (roDomain (bitmap 36 fun i => p.tiles.any fun t => t.1 == i))
  | 0x03 => some (roDomain (bitmap 24 fun i => p.slices.any fun c => c.1 == i))
  | 0x04 => some (roEntry .u16 (bitsOf 16 fun i => p.ports.any fun q => q.1 == i))
  | 0x05 => some (roEntry .u16 (bitsOf 16 fun i => p.ranges.any fun q => q.1 == i))
  | 0x06 => some (roEntry .u8 ((p.view.map (·.1)).getD 0xFF))
  | 0x07 => some (roEntry .u16 ((p.func.map fun f => 2 ^ 15 * (f.1 / 16) + f.1 % 16).getD 0xFFFF))
  | 0x08 => some (numEntry .u16 .composed t.modules.toNat)
  | 0x09 => some (numEntry .u16 .composed t.logical.toNat)
  | 0x0A => some (numEntry .u16 .composed t.shardWidth.toNat)
  | 0x0B => some (numEntry .u16 .composed t.expertWidth.toNat)
  | 0x0C => some (numEntry .u16 .composed t.depth.toNat)
  | 0x0D => some (numEntry .u16 .composed t.nodeSize.toNat)
  | 0x0E => some (numEntry .u32 .composed t.threshold.toNat)
  | 0x0F => some ⟨.domain, .composed, t.members⟩
  | 0x10 => some (roEntry .u32 p.shareMB)
  | 0x11 => some (roEntry .u16 p.allowance)
  | 0x12 => some (roEntry .u16 p.allowance)
  | 0x13 => some (roEntry .u16 ((p.tiles.filter fun t => (p.logicalOf t).isNone).length))
  | 0x14 => some (roDomain ((allFin 16).map fun q =>
      if p.ports.contains q && !(s.ports.get q).matched then 5 else p.cutBytes.getD q.1 0))
  | 0x15 => some (roDomain (p.ringShown.flatMap (leBytes 2)))
  | _ => none

/-- Index 0x2110 (R249). -/
def State.odRebind (s : State) (sub : Nat) : Option OdEntry :=
  match sub with
  | 0x01 => some ⟨.domain, .cmd, []⟩
  | 0x02 => some (roEntry .u8 s.placer.rebindStatus.toNat)
  | 0x03 => some (roEntry .u32 (s.placer.rebindNs / 1000))
  | 0x04 => some (roEntry .u32 s.placer.rebindCount.toNat)
  | _ => none

/-- Index 0x2200 (R250). -/
def State.odPlacement (s : State) (sub : Nat) : Option OdEntry :=
  let z := s.placer
  let cover := coverage s.boundTiles z.designated
  match sub with
  | 0x01 => some (roEntry .u16 (((allFin 288).filter fun t => (s.tiles.get t).healthy).length))
  | 0x02 => some (roEntry .u16 s.freeTiles.length)
  | 0x03 => some (roDomain (bitmap 36 fun i => z.designated.any fun t => t.1 == i))
  | 0x04 => some (roEntry .u16 z.designated.length)
  | 0x05 => some (numEntry .u8 .rw z.spareReserve.toNat)
  | 0x06 => some (roEntry .u8 (cover.getD 0xFF))
  | 0x07 => some (roEntry .u32 z.substitutions.toNat)
  | 0x08 => some (roEntry .u32 z.migrations.toNat)
  | 0x09 => some (roEntry .u32 z.abandoned.toNat)
  | 0x0A => some (roDomain (fixTo 32 z.lastSubstitution))
  | 0x0B => some (roDomain ((allFin 16).map fun p => BitVec.ofNat 8 (s.lengthClass p)))
  | 0x0C => some ⟨.domain, .rw, z.lengthOverride.toList⟩
  | 0x0D => some (roEntry .u32 ((if 3 < cover.getD 0xFF then 1 else 0) + (if s.freeTiles.length < z.spareReserve.toNat then 2 else 0) +
      4 * (s.parts.toList.foldl (fun (w : BitVec 2) p => w ||| p.place.cutWarnings) 0).toNat))
  | _ => none

/-! ### Power and temperature (R421 to R424, R450 to R452, R549) -/

/-- Index 0x2400 (R421). -/
def State.odInput (s : State) (sub : Nat) : Option OdEntry :=
  let z := s.input
  match sub with
  | 0x01 => some (roEntry .u32 z.inputMillivolts)
  | 0x02 => some (roEntry .u32 z.inputMilliamps)
  | 0x03 => some (roEntry .u32 z.inputWatts)
  | 0x04 => some (roEntry .u32 z.busMillivolts)
  | 0x05 => some (roEntry .u8 s.workingConverters)
  | 0x06 => some (roDomain ((allFin 32).map fun i => if z.converters.get i == .failed then 1 else if z.disable.get i then 2 else 0))
  | 0x07 => some ⟨.domain, .configured, (allFin 32).map fun i => BitVec.ofNat 8 (z.disable.get i).toNat⟩
  | 0x08 => some (roEntry .u32 (converterLimit s.workingConverters))
  | 0x09 => some (roEntry .u32 s.inputLimit)
  | 0x0A => some (roEntry .u32 z.lowEntries.toNat)
  | 0x0B => some (roEntry .u64 (z.lowTime.toNat / 1000))
  | 0x0C => some (roDomain (fixTo 36 (z.edgePower.flatMap (leBytes 4))))
  | 0x0D => some (roEntry .u32 s.flash.inputLosses.toNat)
  | 0x0E => some (roEntry .u8 (if (allFin 288).any s.estimated then 1 else 0))
  | 0x0F => some (roEntry .u64 z.intervalEnd)
  | 0x10 => some (roEntry .u32 s.flash.epoCount.toNat)
  | _ => none

/-- The durations by reason of some tiles, in µs (R442, R450, R452). -/
def durationBytes (xs : List TilePower) : List Byte :=
  (allFin 8).flatMap fun c => leBytes 8 ((xs.map fun p => (p.durations.get c).toNat).sum / 1000)

/-- Index 0x2500 (R450). The module cap reads as it was last accepted (R427). -/
def State.odPower (s : State) (sub : Nat) : Option OdEntry :=
  let g := s.governor
  match sub with
  | 0x01 => some (numEntry .u32 .rw g.capNext.toNat)
  | 0x02 => some (roEntry .u32 g.effective)
  | 0x03 => some (numEntry .u16 .rw g.computeFloor.toNat)
  | 0x04 => some (numEntry .u16 .rw g.stackFloor.toNat)
  | 0x05 => some (roDomain (leBytes 4 g.basePower ++ leBytes 4 g.linkPower ++ leBytes 4 g.stackPower ++ leBytes 4 g.computePower ++
      leBytes 2 g.ceiling ++ leBytes 1 g.binding.code ++ leBytes 1 g.warnings.toNat ++ leBytes 4 0))
  | 0x06 => some (roEntry .u8 8)
  | 0x07 => some (roEntry .u16 256)
  | 0x08 => some (roEntry .u32 g.slackSent.toNat)
  | 0x09 => some (roEntry .u32 g.slackReceived.toNat)
  | 0x0A => some (numEntry .u8 .rw g.slackMatching.toNat)
  | 0x0B => some (numEntry .u32 .rw g.slackThreshold.toNat)
  | 0x0C => some (numEntry .u16 .rw g.slackFloor.toNat)
  | 0x0D => some (numEntry .u16 .rw g.target.toNat)
  | 0x0E => some (numEntry .u32 .rw g.droopLimit.toNat)
  | 0x0F => some (roDomain (durationBytes (s.tiles.toList.map (·.power))))
  | 0x10 => some (roEntry .bool g.calibrated.toNat)
  | 0x11 => some (roEntry .u16 g.estimateError.toNat)
  | 0x12 => some (roEntry .u64 g.hints.toNat)
  | 0x13 => some (roEntry .u64 g.shortLead.toNat)
  | 0x14 => some (roEntry .u32 g.capRefused.toNat)
  | 0x15 => some (roEntry .u64 (g.slackTime / 1000))
  | 0x16 => some (roEntry .u32 g.discarded.toNat)
  | _ => none

/-- The hottest tile and its temperature; of equal ones the lowest number. -/
def State.hottest (s : State) : TileId × Int :=
  (allFin 288).foldl (fun (a : TileId × Int) t => if a.2 < (s.tiles.get t).power.temp then (t, (s.tiles.get t).power.temp) else a)
    (Fin.ofNat 288 0, (s.tiles.get (Fin.ofNat 288 0)).power.temp)

/-- Index 0x2600 (R451). -/
def State.odThermal (s : State) (sub : Nat) : Option OdEntry :=
  let h := s.thermal
  match sub with
  | 0x01 => some (numEntry .i16 .rw h.throttle.toNat)
  | 0x02 => some (numEntry .i16 .rw h.migrate.toNat)
  | 0x03 => some (roEntry .i16 1050)
  | 0x04 => some (numEntry .i16 .rw h.returnTemp.toNat)
  | 0x05 => some (intEntry .i16 .ro h.inlet)
  | 0x06 => some (intEntry .i16 .ro h.outlet)
  | 0x07 => some (roEntry .u16 h.flow)
  | 0x08 => some (roEntry .u32 (coolantLimit h.inlet h.flow))
  | 0x09 => some (roEntry .u16 s.hottest.1.1)
  | 0x0A => some (intEntry .i16 .ro s.hottest.2)
  | 0x0B => some (roEntry .u32 h.heatOffs.toNat)
  | 0x0C => some (roEntry .u32 h.heatMigrations.toNat)
  | 0x0D => some (roEntry .u32 h.coolantFaults.toNat)
  | 0x0E => some (roDomain (h.edgeTemps.toList.flatMap fun v => leBytes 2 (ofSigned 16 v)))
  | _ => none

/-- Index 0x3400 + d (R423, R549): without its rail, the die's temperature reads 0x8000. -/
def State.odDie (s : State) (d : DieId) (sub : Nat) : Option OdEntry :=
  let x := s.dies.get d
  let ts := (tilesOfDie d).map fun t => s.tiles.get t
  match sub with
  | 0x01 => some (roEntry .u16 x.railMillivolts)
  | 0x02 => some (roEntry .u32 x.railMilliamps)
  | 0x03 => some (roEntry .u32 ((ts.map fun y => y.power.current).sum))
  | 0x04 => some (roEntry .u16 x.phases.toNat)
  | 0x05 => some (roEntry .u16 x.limit)
  | 0x06 => some (intEntry .i16 .ro ((x.limit : Int) - (ts.map fun y => y.counts).sum))
  | 0x07 => some (roEntry .u16 ((x.softStartTile.map (·.1)).getD 0xFFFF))
  | 0x08 => some (roEntry .u32 x.deferred.toNat)
  | 0x09 => some (roEntry .u32 x.lowerings.toNat)
  | 0x0A => some (if x.railLost then roEntry .i16 0x8000 else
      intEntry .i16 .ro (ts.foldl (fun a y => max a y.power.temp) ((ts.map fun y => y.power.temp).headD 0)))
  | _ => none

/-! ### Fabric, links, collectives and records (R303, R324, R325, R357, R386, R387, R402, R480) -/

/-- Index 0x2700 (R303, R324). -/
def State.odFabric (s : State) (sub : Nat) : Option OdEntry :=
  let f := s.fabric
  let l := s.links
  match sub with
  | 0x01 => some (numEntry .u32 .rw f.agingWait.toNat)
  | 0x02 => some (roEntry .u32 f.cyclesBroken.toNat)
  | 0x03 => some (roEntry .u64 f.spilled.toNat)
  | 0x04 => some (roEntry .u64 f.reinjected.toNat)
  | 0x05 => some (roEntry .u32 f.escapeExhausted.toNat)
  | 0x06 => some (roEntry .u32 f.headerFaults.toNat)
  | 0x07 => some (roEntry .u64 f.correctedFlits.toNat)
  | 0x08 => some (roEntry .u32 f.uncorrectable.toNat)
  | 0x09 => some (roEntry .u32 f.sequenceFaults.toNat)
  | 0x0A => some (roDomain (bitmap 36 fun i => (s.tiles.get (Fin.ofNat 288 i)).island.weltFailed))
  | 0x0B => some (roDomain (fixTo 32 f.lastCycle))
  | 0x0C => some (roEntry .u32 f.truncated.toNat)
  | 0x10 => some (numEntry .u32 .rw l.replayMargin.toNat)
  | 0x11 => some (numEntry .u8 .rw l.retrainLimit.toNat)
  | 0x12 => some (numEntry .u32 .rw l.downTimeout.toNat)
  | 0x13 => some (roEntry .u32 80)
  | 0x14 => some (roEntry .u16 (bitsOf 16 fun i => (s.ports.get (Fin.ofNat 16 i)).state == .up))
  | 0x15 => some (numEntry .f32 .rw l.errorAlarm.toNat)
  | 0x16 => some (roEntry .u32 l.lost.toNat)
  | 0x17 => some (roEntry .u32 3000)
  | 0x18 => some (roEntry .u32 1500)
  | _ => none

/-- Index 0x3300 + p (R325). -/
def State.odPort (s : State) (p : PortId) (sub : Nat) : Option OdEntry :=
  let x := s.ports.get p
  match sub with
  | 0x01 => some (roEntry .u8 x.state.code)
  | 0x02 => some (roEntry .u8 (if x.trained then x.mode else 0))
  | 0x03 => some (numEntry .u8 .rw x.permitted.toNat)
  | 0x04 => some (numEntry .u8 .cmd 0)
  | 0x05 => some (roDomain (fixTo 32 x.identity))
  | 0x06 => some (roDomain (fixTo 16 x.peer))
  | 0x07 => some (roEntry .u32 x.roundTrip.toNat)
  | 0x08 => some (roEntry .u64 x.sent.toNat)
  | 0x09 => some (roEntry .u64 x.accepted.toNat)
  | 0x0A => some (roDomain (x.corrected.toList.flatMap fun v => leBytes 8 v.toNat))
  | 0x0B => some (roEntry .u64 x.uncorrectable.toNat)
  | 0x0C => some (roEntry .u32 x.headerFails.toNat)
  | 0x0D => some (roEntry .u32 x.replays.toNat)
  | 0x0E => some (roEntry .u64 x.replayed.toNat)
  | 0x0F => some (roEntry .u32 x.retrains.toNat)
  | 0x10 => some (roEntry .f32 x.errorRatio.toNat)
  | 0x11 => some (roEntry .u64 x.forwarded.toNat)
  | 0x12 => some (roEntry .u64 x.discarded.toNat)
  | 0x13 => some (roEntry .u32 x.classRaises.toNat)
  | 0x14 => some (roEntry .u16 x.passing.toNat)
  | _ => none

/-- Index 0x2900 (R357). -/
def State.odCollective (s : State) (sub : Nat) : Option OdEntry :=
  let c := s.collective
  match sub with
  | 0x01 => some (numEntry .u32 .rw c.deadline.toNat)
  | 0x02 => some (numEntry .u8 .rw c.late.toNat)
  | 0x03 => some (numEntry .u32 .rw c.ringTimeout.toNat)
  | 0x04 => some (roEntry .u64 c.reduced.toNat)
  | 0x05 => some (roEntry .u64 (c.finals.get 0).toNat)
  | 0x06 => some (roEntry .u64 (c.finals.get 1).toNat)
  | 0x07 => some (roEntry .u64 (c.finals.get 2).toNat)
  | 0x08 => some (roEntry .u64 (c.finals.get 3).toNat)
  | 0x09 => some (roEntry .u64 c.carried.toNat)
  | 0x0A => some (roEntry .u32 c.omissions.toNat)
  | 0x0B => some (roDomain (fixTo 32 c.lastOmission))
  | 0x0C => some (roEntry .u64 c.passResends.toNat)
  | 0x0D => some (roEntry .u64 c.rewrites.toNat)
  | 0x0E => some (roEntry .u16 ((allFin 8).map s.operations).sum)
  | 0x0F => some (roEntry .u64 c.gatherServed.toNat)
  | 0x10 => some (roEntry .u16 64)
  | 0x11 => some (roEntry .u32 c.timeouts.toNat)
  | _ => none

/-- Index 0x2A00 (R386). -/
def State.odSaddlebag (s : State) (sub : Nat) : Option OdEntry :=
  match sub with
  | 0x01 => some (numEntry .u8 .rw s.links.stampShare.toNat)
  | 0x02 => some (numEntry .u8 .rw s.links.sumPoly.toNat)
  | _ => none

/-- Index 0x2A10 + n (R387). The readout presents no byte where no record of the step is held. -/
def State.odPartBag (s : State) (n : PartId) (sub : Nat) : Option OdEntry :=
  let r := (s.parts.get n).replay
  let ones := 0xFFFFFFFFFFFFFFFF
  match sub with
  | 0x01 => some (numEntry .u8 .rw r.setting.code)
  | 0x02 => some (roEntry .u8 r.inForce.code)
  | 0x03 => some (numEntry .u8 .rw r.blockStamps.toNat)
  | 0x04 => some (roEntry .u64 ((r.records.head?.map (·.1)).getD ones))
  | 0x05 => some (roEntry .u64 ((r.records.getLast?.map (·.1)).getD ones))
  | 0x06 => some (roEntry .u64 r.written.toNat)
  | 0x07 => some (roEntry .u32 r.truncated.toNat)
  | 0x08 => some (roEntry .u64 (r.refWaits.toNat / 1000))
  | 0x09 => some (roEntry .u32 r.refFaults.toNat)
  | 0x0A => some (numEntry .u8 .cmd 0)
  | 0x0B => some (roDomain (fixTo 64 r.report))
  | 0x0C => some (roEntry .u32 r.stops.toNat)
  | 0x0D => some (roEntry .u32 r.forced.toNat)
  | 0x0E => some (numEntry .u64 .wo r.readout.toNat)
  | 0x0F => some (roDomain (((r.records.find? fun x => x.1 == r.readout.toNat).map (·.2)).getD []))
  | _ => none

/-- Index 0x2B00 (R402). -/
def State.odCinch (s : State) (sub : Nat) : Option OdEntry :=
  let c := s.cinch
  match sub with
  | 0x01 => some (numEntry .u16 .rw c.observe.toNat)
  | 0x02 => some (numEntry .u32 .rw c.window.toNat)
  | 0x03 => some (numEntry .u8 .rw c.outMode.toNat)
  | 0x04 => some (numEntry .u8 .rw c.outPart.toNat)
  | 0x05 => some (numEntry .u8 .cmd 0)
  | 0x06 => some (roEntry .u64 c.accepted.toNat)
  | 0x07 => some (roEntry .u64 c.ignored.toNat)
  | 0x08 => some (roEntry .u32 c.filtered.toNat)
  | 0x09 => some (roEntry .u64 c.lastEdge.toNat)
  | 0x0A => some (roEntry .u64 c.expired.toNat)
  | 0x0B => some (roDomain (fixTo 32 c.lastHold))
  | 0x0C => some (roEntry .u8 c.level.toNat)
  | 0x0D => some (roEntry .u64 c.holdTime.toNat)
  | _ => none

/-- The record that OD 0x2C00.04 presents; all ones when the ring does not hold it (R480). -/
def State.readoutRecord (s : State) : List Byte :=
  match s.faults.ring.find? fun r => r.seq == s.faults.readout with
  | some r => fixTo 64 (wordsBytes r.words)
  | none => List.replicate 64 0xFF

/-- Index 0x2C00 (R480). Before the first record, the manual states no sequence number of the newest one: a free value. -/
def State.odErrors (s : State) (sub : Nat) : Option OdEntry :=
  let f := s.faults
  match sub with
  | 0x01 => some (roEntry .u64 f.published)
  | 0x02 => some (roEntry .u32 (if f.published = 0 then (Config.freeWord s.free).toNat else (f.nextSeq - 1).toNat))
  | 0x03 => some (numEntry .u32 .wo f.readout.toNat)
  | 0x04 => some (roDomain s.readoutRecord)
  | 0x05 => some (roDomain (f.perClass.toList.flatMap fun v => leBytes 8 v.toNat))
  | 0x06 => some (numEntry .u8 .rw f.alertClasses.toNat)
  | 0x07 => some (numEntry .u8 .cmd 0)
  | 0x08 => some (numEntry .u8 .rw f.retryLimit.toNat)
  | 0x09 => some (numEntry .u16 .rw f.rerunLimit.toNat)
  | 0x0A => some (roEntry .u32 f.overflows.toNat)
  | 0x0B => some (roEntry .u64 f.merged.toNat)
  | 0x0C => some (roEntry .u64 f.reruns.toNat)
  | 0x0D => some (roEntry .u64 f.retries.toNat)
  | 0x0E => some (roEntry .u32 f.resets.toNat)
  | 0x0F => some (numEntry .f32 .rw f.gradThreshold.toNat)
  | 0x10 => some (numEntry .f32 .rw f.updThreshold.toNat)
  | 0x11 => some (numEntry .u8 .rw f.oddAction.toNat)
  | 0x12 => some (numEntry .u8 .cmd 0)
  | 0x13 => some (roEntry .u32 f.oddEvents.toNat)
  | 0x14 => some (roEntry .u32 f.discarded.toNat)
  | _ => none

/-! ### Self-test and the audit (R275, R494) -/

/-- Index 0x2D00 (R494). -/
def State.odSelfTest (s : State) (sub : Nat) : Option OdEntry :=
  let z := s.selfTest
  match sub with
  | 0x01 => some ⟨.domain, .cmd, []⟩
  | 0x02 => some (roEntry .u8 z.status.toNat)
  | 0x03 => some (roEntry .u16 ((z.tests.filter (·.running)).length))
  | 0x04 => some (numEntry .u32 .rw z.interval.toNat)
  | 0x05 => some (numEntry .u8 .rw z.fieldTests.toNat)
  | 0x06 => some (roEntry .u64 z.passed.toNat)
  | 0x07 => some (roEntry .u32 z.failed.toNat)
  | 0x08 => some (roEntry .u32 z.aborted.toNat)
  | 0x09 => some (roEntry .u32 z.deferred.toNat)
  | 0x0A => some (roDomain (fixTo 40 z.lastResult))
  | 0x0B => some (roDomain (bitmap 36 fun i => z.powerOnFails.any fun t => t.1 == i))
  | 0x0C => some ⟨.u32, .ro, fixTo 4 (Config.identity 0x0C)⟩
  | _ => none

/-- The probe that OD 0x2E00.13 presents; before the first write it presents Buckle 0 (R544). -/
def State.probeBytes (s : State) : List Byte :=
  if s.audit.probeResult.isEmpty then (match execBuckleProbe 0 s with
    | .next t => t.audit.probeResult
    | _ => [])
  else s.audit.probeResult

/-- Index 0x2E00 (R275). -/
def State.odAudit (s : State) (sub : Nat) : Option OdEntry :=
  let a := s.audit
  match sub with
  | 0x01 => some (numEntry .u32 .rw a.period.toNat)
  | 0x02 => some (roEntry .u64 a.checks.toNat)
  | 0x03 => some (roEntry .u32 a.broken.toNat)
  | 0x04 => some (roDomain (fixTo 32 a.lastBroken))
  | 0x05 => some (roEntry .u64 a.sent.toNat)
  | 0x06 => some (roEntry .u64 a.applied.toNat)
  | 0x07 => some (roEntry .u64 a.retired.toNat)
  | 0x08 => some (roEntry .u64 a.rejected.toNat)
  | 0x09 => some (roEntry .u64 a.suppressed.toNat)
  | 0x0A => some (roEntry .u64 a.planned.toNat)
  | 0x0B => some (roEntry .u64 a.completed.toNat)
  | 0x0C => some (roEntry .u64 a.cancelled.toNat)
  | 0x0D => some (roEntry .u32 s.fabric.escape.length)
  | 0x0E => some (roEntry .u64 a.closingPassed.toNat)
  | 0x0F => some (roEntry .u64 a.satisfyRefused.toNat)
  | 0x10 => some (numEntry .u8 .cmd 0)
  | 0x11 => some (numEntry .u32 .rw a.window.toNat)
  | 0x12 => some (numEntry .u16 .wo a.probe.toNat)
  | 0x13 => some (roDomain (fixTo 24 s.probeBytes))
  | _ => if 0x20 ≤ sub ∧ sub ≤ 0x2F then some (roEntry .u64 (s.ranges.get (Fin.ofNat 16 (sub - 0x20))).generation.toNat) else none

/-! ### Tiles and stacks (R55, R162, R189, R218, R304, R388, R422, R424, R452, R481, R495) -/

/-- A Stamp context as OD 0x3000 + t.40 shows it (R388). -/
def stampBytes (c : Option Fingerprint) : List Byte :=
  match c with
  | none => List.replicate 24 0
  | some f => wordsBytes [BitVec.ofNat 64 f.key, BitVec.ofNat 64 f.a, mkWord [at_ 32 f.n, at_ 24 f.poly]]

/-- Island, stream and sequencer entries of a tile (R55, R162, R189). -/
def Tile.odCore (x : Tile) (sub : Nat) : Option OdEntry :=
  let i := x.island
  let u := x.stream
  let q := x.seqr
  match sub with
  | 0x01 => some (roEntry .u8 i.state.code)
  | 0x02 => some (roEntry .bool i.fenced.toNat)
  | 0x03 => some (roEntry .u16 i.clock)
  | 0x04 => some (roEntry .u64 i.stretched.toNat)
  | 0x05 => some (roEntry .u8 i.weltFailed.toNat)
  | 0x06 => some (roEntry .u64 i.nacks.toNat)
  | 0x07 => some (roEntry .u32 i.forcedCloses.toNat)
  | 0x10 => some (roDomain (u.queues.toList.map fun k => BitVec.ofNat 8 k.code))
  | 0x11 => some (roDomain (u.queues.toList.map fun k => k.armCount.setWidth 8))
  | 0x12 => some (roEntry .u64 u.overruns.toNat)
  | 0x13 => some (roEntry .u32 u.largestOverrun.toNat)
  | 0x14 => some (roEntry .u32 u.rearmOverruns.toNat)
  | 0x15 => some (roEntry .u64 u.refusals.toNat)
  | 0x16 => some (roEntry .u64 u.resends.toNat)
  | 0x17 => some (roEntry .u64 u.cancelled.toNat)
  | 0x18 => some (roEntry .u32 u.withheld.toNat)
  | 0x19 => some (roEntry .u64 u.storeRefusals.toNat)
  | 0x1A => some (roEntry .u32 u.ignoredArms.toNat)
  | 0x20 => some (roDomain (q.ctxs.toList.flatMap fun c => leBytes 4 c.pos))
  | 0x21 => some (roDomain (q.ctxs.toList.map fun c => BitVec.ofNat 8 c.state.code))
  | 0x22 => some (roEntry .u64 q.completed.toNat)
  | 0x23 => some (roEntry .u64 (q.pageWaits / 1000))
  | 0x24 => some (roEntry .u32 q.pageFails.toNat)
  | 0x25 => some (roEntry .u64 q.lastFault.toNat)
  | 0x26 => some (roEntry .u32 q.boundImage.toNat)
  | _ => none

/-- The states of a tile's router ports (R304): links north, east, south and west; an edge port open, and in use (R278). -/
def State.portBits (s : State) (t : TileId) : Nat :=
  let x := s.tiles.get t
  bitsOf 4 (fun d => x.router.linkUp.get (Fin.ofNat 4 d)) +
    match edgeAt t with
    | some _ => (if s.edgeOpen t then 16 else 0) + 32
    | none => 0

/-- Router, power, governor, fault and self-test entries of a tile (R304, R422, R452, R481, R495). -/
def State.odWelt (s : State) (t : TileId) (sub : Nat) : Option OdEntry :=
  let x := s.tiles.get t
  let r := x.router
  let p := x.power
  match sub with
  | 0x30 => some (roEntry .u64 r.flits.toNat)
  | 0x31 => some (roEntry .u32 r.classRaises.toNat)
  | 0x32 => some (roEntry .u32 r.headerFaults.toNat)
  | 0x33 => some (roEntry .u64 r.correctedFlits.toNat)
  | 0x34 => some (roEntry .u8 (s.portBits t))
  | 0x35 => some (roEntry .u8 (s.homesOn t))
  | 0x50 => some (roEntry .u16 p.setpoint)
  | 0x51 => some (roEntry .u16 p.rail)
  | 0x52 => some (roEntry .u32 p.current)
  | 0x53 => some (roEntry .u32 p.peak)
  | 0x54 => some (roEntry .u8 p.phases.toNat)
  | 0x55 => some (roEntry .u8 p.cap)
  | 0x56 => some (roEntry .u64 p.boosts.toNat)
  | 0x57 => some (roEntry .u64 p.shunts.toNat)
  | 0x58 => some (roEntry .u32 p.wakes.toNat)
  | 0x59 => some (roEntry .u32 p.wakesDeferred.toNat)
  | 0x5A => some (roEntry .u32 p.longestDeferral.toNat)
  | 0x5B => some (roDomain ((List.range 33).flatMap fun i => leBytes 2 (vfEntry t i)))
  | 0x5C => some (roEntry .u16 p.weltRail)
  | _ => none

/-- Governor, fault and self-test entries of a tile (R452, R481, R495). -/
def State.odCounts (s : State) (t : TileId) (sub : Nat) : Option OdEntry :=
  let x := s.tiles.get t
  let p := x.power
  match sub with
  | 0x60 => some (intEntry .i16 .ro p.temp)
  | 0x61 => some (intEntry .i16 .ro p.peakTemp)
  | 0x62 => some (roEntry .u16 (if x.island.state = .running then x.clockSetpoint else 0))
  | 0x63 => some (roEntry .u8 p.allowance)
  | 0x64 => some (roEntry .u8 p.reasons.toNat)
  | 0x65 => some (roDomain (durationBytes [p]))
  | 0x66 => some (roEntry .u64 (p.ballastTime.toNat / 1000))
  | 0x67 => some (roEntry .u8 (s.estimated t).toNat)
  | 0x68 => some (roEntry .u32 p.heatOffs.toNat)
  | 0x69 => some (roEntry .u32 p.droopSteps.toNat)
  | 0x70 => some (roEntry .u32 x.faults.mismatches.toNat)
  | 0x71 => some (roEntry .u32 x.faults.reruns.toNat)
  | 0x72 => some (roEntry .u64 x.faults.corrected.toNat)
  | 0x73 => some (roEntry .u32 x.faults.uncorrectable.toNat)
  | 0x74 => some (roEntry .u8 (min 255 (x.faults.recent.filter fun r => decide (s.time < r + 1000000000)).length))
  | 0x78 => some (roEntry .u8 x.test.last.code)
  | 0x79 => some (roEntry .u64 (s.flash.lastPass.get t))
  | 0x7A => some (roEntry .u32 x.test.run.toNat)
  | 0x7B => some (roEntry .u32 x.test.failed.toNat)
  | 0x7C => some (roEntry .u32 x.test.deferred.toNat)
  | _ => none

/-- Index 0x3000 + t. -/
def State.odTile (s : State) (t : TileId) (sub : Nat) : Option OdEntry :=
  if sub = 0x40 then some ⟨.domain, .configured, (s.tiles.get t).stamp.ctxs.toList.flatMap stampBytes⟩
  else if sub < 0x30 then (s.tiles.get t).odCore sub
  else if sub < 0x60 then s.odWelt t sub
  else s.odCounts t sub

/-- Index 0x3200 + s (R218, R424, R481). -/
def State.odStack (s : State) (k : StackId) (sub : Nat) : Option OdEntry :=
  let x := s.stackDies.get k
  match sub with
  | 0x01 => some (roEntry .u8 x.power.code)
  | 0x02 => some (roDomain ((List.range 8).map fun j => ((s.partOfSlice (Fin.ofNat 192 (8 * k.1 + j))).map fun n => BitVec.ofNat 8 n.1).getD 0xFF))
  | 0x03 => some (roEntry .u64 x.lastSweep.toNat)
  | 0x04 => some (roEntry .u64 x.narrowed.toNat)
  | 0x05 => some (roEntry .u64 x.overflows.toNat)
  | 0x06 => some (roEntry .u64 x.updated.toNat)
  | 0x07 => some (roEntry .u64 x.increments.toNat)
  | 0x08 => some (roEntry .u64 x.nonfinite.toNat)
  | 0x09 => some (roEntry .u32 x.mismatches.toNat)
  | 0x0A => some (roEntry .u64 x.parts.toNat)
  | 0x0B => some (roEntry .u64 x.sweepWaits.toNat)
  | 0x0C => some (roEntry .u64 x.floorTime.toNat)
  | 0x10 => some (roEntry .u32 x.powerMw)
  | 0x11 => some (roEntry .u64 x.corrected.toNat)
  | 0x12 => some (roEntry .u32 x.uncorrectable.toNat)
  | _ => none

/-! ### The dictionary -/

/-- An entry of an index; none where the index has no such subindex (R524, R540). -/
def State.odEntry (s : State) (x : OdIndex) (sub : Nat) : Option OdEntry :=
  if sub = 0 then some (roEntry .u8 x.top)
  else match x with
    | .identity => s.odIdentity sub
    | .rein v => s.odView v sub
    | .clock => s.odClock sub
    | .store => s.odStore sub
    | .control => s.odControl sub
    | .part n => s.odPart n sub
    | .rebind => s.odRebind sub
    | .placement => s.odPlacement sub
    | .input => s.odInput sub
    | .power => s.odPower sub
    | .thermal => s.odThermal sub
    | .fabric => s.odFabric sub
    | .collective => s.odCollective sub
    | .saddlebag => s.odSaddlebag sub
    | .partBag n => s.odPartBag n sub
    | .cinch => s.odCinch sub
    | .errors => s.odErrors sub
    | .selfTest => s.odSelfTest sub
    | .audit => s.odAudit sub
    | .tile t => s.odTile t sub
    | .stack k => s.odStack k sub
    | .port p => s.odPort p sub
    | .die d => s.odDie d sub

/-- The unit of an index is up (R218, R423, R525, R552): nothing is before Init; the welts rise after the coolant check; ports need their link die. -/
def State.unitUp (s : State) (x : OdIndex) : Bool :=
  match s.module.state, x with
  | .off, _ => false
  | .booting, _ => false
  | .init, .tile _ => false
  | .init, .port _ => false
  | .fault, .port _ => false
  | .standby, .port _ => false
  | _, .port p => !(s.linkDies.get (linkOf p)).failed && !(s.linkDies.get (linkOf p)).clockStopped
  | _, _ => true

/-- Read an entry through a view: its bytes, or the abort code (R523, R525, R540). -/
def State.odRead (s : State) (v : ViewId) (index sub : Nat) : Except Nat (List Byte) :=
  match odIndex index with
  | none => .error 0x01
  | some x =>
    match s.odEntry x sub with
    | none => .error 0x02
    | some e =>
      if !s.reaches v x sub false then .error 0x07
      else if e.acc = .wo then .error 0x03
      else if !s.unitUp x then .error 0x0A
      else .ok e.val

/-! ### The registers of BAR0 (R498, R499) -/

/-- The function status register (R498, R499). -/
def State.functionStatus (s : State) (f : FuncId) : Word64 :=
  let l := s.pcie.get (fnPort f)
  let part := match s.partOfFn f with
    | none => [at_ 56 0xFF]
    | some n => [at_ 56 n.1, at_ 48 (s.parts.get n).state.code, at_ 30 (s.parts.get n).run.parked.toNat]
  mkWord (part ++ [at_ 40 l.rate.toNat, at_ 32 l.width.toNat, at_ 31 (!l.inService).toNat])

/-- What a read of a BAR0 register of a function returns (R499): an offset that the table does not list, and a write-only one, reads 0. -/
def State.barRead (s : State) (f : FuncId) (off : BitVec 16) : Word64 :=
  let h := s.fns.get f
  match off.toNat with
  | 0x0000 => s.functionStatus f
  | 0x0008 => match s.partOfFn f with
    | some n => (s.parts.get n).run.allowance
    | none => 0
  | 0x0010 => match (s.partOfFn f).bind fun n => (s.parts.get n).run.committed with
    | some step => BitVec.ofNat 64 step
    | none => BitVec.allOnes 64
  | 0x0100 => h.submission.base
  | 0x0108 => at_ 0 h.submission.control.toNat
  | 0x0110 => h.completion.base
  | 0x0118 => at_ 0 h.completion.control.toNat
  | 0x0120 => h.record.base
  | 0x0128 => at_ 0 h.record.control.toNat
  | 0x0130 => at_ 0 h.interrupt.toNat
  | 0x100C => at_ 0 h.record.next
  | 0x1010 => at_ 0 h.recordsDropped.toNat
  | 0x1014 => at_ 0 h.completionsDropped.toNat
  | _ => 0

end Sys2Proof.Machine
end

