-- ==== Sys2Proof/Machine/Dictionary.lean ====
section
/-! DEFINITION. Writes to the object dictionary: their checks, their effects, and the store commands (R248, R388, R427, R523 to R527, R533, R537,
R544 to R550). -/

namespace Sys2Proof.Machine

/-! ### Ranges (R524, R544, R545) -/

/-- A value in a closed range, in steps of `step`. -/
def inSteps (lo hi step v : Nat) : Bool := decide (lo ≤ v ∧ v ≤ hi ∧ v % step = 0)

/-- A binary32 value that is not negative in a closed range of such values, whose codes ascend with them. -/
def floatWithin (lo hi v : Nat) : Bool := decide (lo ≤ v ∧ v ≤ hi)

/-- The packed size of a map's entries, none where an entry may not be mapped (R527). -/
def State.mapSize (s : State) (command : Bool) (es : List MapEntry) : Option Nat :=
  es.foldl (fun (a : Option Nat) e =>
    match a, (odIndex e.index.toNat).bind fun x => s.odEntry x e.sub.toNat with
    | some n, some d =>
      let ok := if command then d.acc == .rw || d.acc == .rws || d.acc == .wo || d.acc == .composed else d.acc != .wo && d.acc != .cmd
      if ok then d.ty.bytes.map (n + ·) else none
    | _, _ => none) (some 0)

/-- Bytes at places that a table of equal records reserves read 0. -/
def zeroAt (size : Nat) (places : List Nat) (bs : List Byte) : List Byte :=
  bs.zipIdx.map fun b => if places.contains (b.2 % size) then 0 else b.1

/-- The data of a write with the entry's reserved bits ignored, which read 0 (R14): map entries (R527), member tables (R248), Stamp contexts
(R388), permitted modes (R325) and in-field tests (R495). -/
def withoutReserved (x : OdIndex) (sub : Nat) (bs : List Byte) : List Byte :=
  match x, sub with
  | .rein _, 0x01 => bs
  | .rein _, _ => zeroAt 4 [0] bs
  | .part _, 0x0F => zeroAt 16 [14, 15] bs
  | .tile _, 0x40 => zeroAt 24 [4, 5, 16, 17, 18] bs
  | .port _, 0x03 => bs.map fun b => b &&& 0x1E
  | .selfTest, 0x05 => bs.map fun b => b &&& 0x03
  | _, _ => bs

/-- A map keeps the rules of R527: entries that may be mapped, and both maps within 1,024 bytes. -/
def State.mapOk (s : State) (v : ViewId) (command : Bool) (bs : List Byte) : Bool :=
  let w := s.rein.views.get v
  let es := mapEntries bs
  match s.mapSize command es, s.mapSize (!command) (if command then w.reportMap else w.commandMap) with
  | some a, some b => decide (a + b ≤ 1024)
  | _, _ => false

/-- The length of a DOMAIN is the entry's, or within its limits (R524, R544). -/
def domainLength (x : OdIndex) (sub len : Nat) : Bool :=
  match x, sub with
  | .rein _, _ => decide (len % 4 = 0 ∧ len ≤ 1024)
  | .part _, _ => decide (16 ≤ len ∧ len ≤ 1048560 ∧ len % 16 = 0)
  | .rebind, _ => len == 24
  | .placement, _ => len == 16
  | .input, _ => len == 32
  | .selfTest, _ => len == 16
  | .tile _, _ => len == 768
  | _, _ => false

/-- The value lies in the range of a setting of a partition (R544, R545). -/
def Partition.rangeOk (p : Partition) (sub : Nat) (bs : List Byte) : Bool :=
  let v := leNat bs
  match sub with
  | 0x08 => decide (1 ≤ v ∧ p.settings.logical.toNat < v)
  | 0x09 => decide (v < p.settings.modules.toNat)
  | 0x0E => true
  | 0x0F => true
  | _ => decide (1 ≤ v)

/-- The value lies in the range of a setting of power or temperature (R427, R544, R545). -/
def State.powerRange (s : State) (x : OdIndex) (sub v : Nat) : Bool :=
  let g := s.governor
  let h := s.thermal
  match x, sub with
  | .power, 0x01 => inSteps 8000 28000 1 v && decide (g.basePower + g.linkPower + g.floorPower ≤ v)
  | .power, 0x03 => inSteps 100 800 25 v && decide (v ≤ g.target.toNat)
  | .power, 0x04 => inSteps 800 3200 1 v
  | .power, 0x0A => inSteps 0 1 1 v
  | .power, 0x0B => inSteps 10 10000 1 v
  | .power, 0x0C => inSteps 100 800 25 v
  | .power, 0x0D => inSteps 100 900 25 v && decide (g.computeFloor.toNat ≤ v)
  | .power, 0x0E => inSteps 100 100000 1 v
  | .thermal, 0x01 => inSteps 850 950 1 v && decide (v ≤ h.migrate.toNat ∧ h.returnTemp.toNat < v)
  | .thermal, 0x02 => inSteps h.throttle.toNat 1040 1 v
  | .thermal, 0x04 => inSteps 600 900 1 v && decide (v < h.throttle.toNat)
  | _, _ => false

/-- The value lies in the range of a setting of the fabric, the links, the collectives, the Saddlebag or Cinch (R544). -/
def fabricRange (x : OdIndex) (sub v : Nat) : Bool :=
  match x, sub with
  | .fabric, 0x01 => inSteps 5 1000 1 v
  | .fabric, 0x10 => inSteps 50 10000 1 v
  | .fabric, 0x11 => inSteps 4 64 1 v
  | .fabric, 0x12 => inSteps 100 10000 1 v
  | .fabric, 0x15 => floatWithin 0x3089705F 0x3A83126F v
  | .collective, 0x01 => inSteps 100 100000 1 v
  | .collective, 0x02 => inSteps 0 1 1 v
  | .collective, 0x03 => inSteps 1000 1000000 1 v
  | .saddlebag, 0x01 => inSteps 1 50 1 v
  | .saddlebag, 0x02 => inSteps 1 4 1 v
  | .partBag _, 0x01 => inSteps 0 3 1 v
  | .partBag _, 0x03 => inSteps 0 1 1 v
  | .partBag _, 0x0E => true
  | .cinch, 0x01 => true
  | .cinch, 0x02 => inSteps 0 10000 1 v
  | .cinch, 0x03 => inSteps 0 2 1 v
  | .cinch, 0x04 => inSteps 0 15 1 v
  | .port _, 0x03 => v != 0
  | _, _ => false

/-- The value lies in the range of a setting of faults, self-test or the audit (R544). -/
def checksRange (x : OdIndex) (sub v : Nat) : Bool :=
  match x, sub with
  | .errors, 0x03 => true
  | .errors, 0x06 => inSteps 0 0x1F 1 v
  | .errors, 0x08 => inSteps 1 16 1 v
  | .errors, 0x09 => inSteps 1 1000 1 v
  | .errors, 0x0F => floatWithin 0x3FC00000 0x447A0000 v
  | .errors, 0x10 => floatWithin 0x358637BD 0x3F800000 v
  | .errors, 0x11 => inSteps 0 1 1 v
  | .selfTest, 0x04 => inSteps 0 8760 1 v
  | .selfTest, 0x05 => inSteps 0 3 1 v
  | .audit, 0x01 => inSteps 100 100000 1 v
  | .audit, 0x11 => inSteps 10 10000 1 v
  | .audit, 0x12 => true
  | _, _ => false

/-- The value of a CMD write is one that the entry defines, or one that its rule ignores and counts (R384, R398, R478, R544). -/
def commandRange (x : OdIndex) (sub v : Nat) : Bool :=
  match x, sub with
  | .control, _ => inSteps 1 4 1 v
  | .partBag _, _ => true
  | .errors, 0x12 => true
  | .port _, _ => inSteps 1 3 1 v
  | .rebind, _ => true
  | .selfTest, _ => true
  | _, _ => v == 1

/-- The value lies in the entry's range, against the present values of the entries that its range names (R544, R545). -/
def State.rangeOk (s : State) (x : OdIndex) (sub : Nat) (e : OdEntry) (bs : List Byte) : Bool :=
  let v := leNat bs
  if e.acc = .cmd then commandRange x sub v
  else match x with
    | .rein w => if sub = 0x01 then true else s.mapOk w (sub == 0x07) bs
    | .clock => if sub = 0x04 then decide (-1000 ≤ (BitVec.ofNat 32 v).toInt ∧ (BitVec.ofNat 32 v).toInt ≤ 1000) else inSteps 100 100000 1 v
    | .part n => (s.parts.get n).rangeOk sub bs
    | .placement => if sub = 0x05 then inSteps 0 32 1 v else bs.all fun b => decide (b.toNat ≤ 2 ∨ b = 0xFF)
    | .input => bs.all fun b => decide (b.toNat ≤ 1)
    | .power => s.powerRange x sub v
    | .thermal => s.powerRange x sub v
    | .errors => checksRange x sub v
    | .selfTest => checksRange x sub v
    | .audit => checksRange x sub v
    | .tile _ => true
    | _ => fabricRange x sub v

/-! ### Conditions (R248, R388, R421, R525, R537, R547, R555) -/

/-- The state permits a write: an access's own condition, a store or a module command that is accepted, and a core that can hold the Stamp contexts. -/
def State.stateOk (s : State) (x : OdIndex) (e : OdEntry) (bs : List Byte) : Bool :=
  match e.acc, x with
  | .rws, _ => s.module.state == .configured
  | .configured, _ => s.module.state == .configured
  | .composed, .part n => (s.parts.get n).state == .composed
  | .cmd, .store => s.module.state == .configured && s.flash.storing.isNone
  | .cmd, .control => !inSteps 1 4 1 (leNat bs) || s.commandOk (leNat bs)
  | _, _ => true

/-- The unit that a write reaches is up; Stamp contexts need a core that is not Off. -/
def State.writeUp (s : State) (x : OdIndex) (sub : Nat) : Bool :=
  s.unitUp x && match x, sub with
    | .tile t, 0x40 => (s.tiles.get t).island.state != .off
    | _, _ => true

/-- The abort code of a write through a view, or 0 when it is accepted (R523, R525, R533, R540). -/
def State.writeCode (s : State) (v : ViewId) (index sub : Nat) (bs : List Byte) : Nat :=
  match odIndex index with
  | none => 0x01
  | some x =>
    match s.odEntry x sub with
    | none => 0x02
    | some e =>
      if !s.reaches v x sub true then 0x07
      else if e.acc = .ro then 0x03
      else if !s.unitUp x then 0x0A
      else if !s.stateOk x e bs then 0x04
      else if !s.writeUp x sub then 0x0A
      else if !(match e.ty.bytes with
        | some n => bs.length == n
        | none => domainLength x sub bs.length) then 0x06
      else if !s.rangeOk x sub e bs then 0x05
      else 0

/-! ### Effects -/

/-- What a row leaves in the state. -/
def State.taken (s : State) (o : Host.Outcome State Fault Refusal) : State :=
  match o with
  | .next t => t
  | _ => s

/-- Set a layout setting of a partition (R248). -/
def PartSettings.put (t : PartSettings) (sub : Nat) (bs : List Byte) : PartSettings :=
  let v := leNat bs
  match sub with
  | 0x08 => { t with modules := BitVec.ofNat 16 v }
  | 0x09 => { t with logical := BitVec.ofNat 16 v }
  | 0x0A => { t with shardWidth := BitVec.ofNat 16 v }
  | 0x0B => { t with expertWidth := BitVec.ofNat 16 v }
  | 0x0C => { t with depth := BitVec.ofNat 16 v }
  | 0x0D => { t with nodeSize := BitVec.ofNat 16 v }
  | 0x0E => { t with threshold := BitVec.ofNat 32 v }
  | 0x0F => { t with members := bs }
  | _ => t

/-- The mode with a code (R379). -/
def modeOf (v : Nat) : RunMode :=
  match v with
  | 0 => .off | 1 => .record | 2 => .replay | _ => .compare

/-- A Stamp context from its 24 bytes; all zero is an empty one (R388). -/
def stampOf (bs : List Byte) : Option Fingerprint :=
  if bs.all (· == 0) then none
  else some ⟨field bs 0 8, field bs 19 1, field bs 8 8, field bs 20 4⟩

/-- Begin a store or a restore (R537, R550): the saved set holds each value as it stands now. -/
def State.beginStore (s : State) (restore : Bool) : State :=
  let value := fun (f : Nat × Nat × List Byte) => ((odIndex f.1).bind fun x => s.odEntry x f.2.1).map fun e =>
    (⟨BitVec.ofNat 16 f.1, BitVec.ofNat 8 f.2.1, e.val⟩ : Setting)
  let set := if restore then none else some (factorySettings.filterMap value)
  { s with flash := { s.flash with storing := some set, storeStatus := 1 } }

/-- A write of the release of an odd-numbers hold (R478): it ends every hold; one that finds none, or any other value, is ignored and counted. -/
def State.writeOddRelease (s : State) (v : Nat) : State :=
  let held := (allFin 16).filter fun n => (s.parts.get n).odd.held
  if held.isEmpty ∨ v = 0 ∨ 3 < v then { s with faults := { s.faults with oddIgnored := s.faults.oddIgnored + 1 } }
  else held.foldl (fun (s : State) n =>
    s.taken (if v = 1 then execOddContinue n s else if v = 2 then execOddRetry n s else execOddContinueClear n s)) s

/-- A write of a release of a Compare stop (R384); any other value is ignored and counted. -/
def State.writeCompare (s : State) (n : PartId) (v : Nat) : State :=
  if v = 1 then s.taken (execCompareContinue n s)
  else if v = 2 then s.taken (execCompareRetry n s)
  else if v = 3 then s.taken (execCompareLeave n s)
  else s.modPart n fun p => { p with replay := { p.replay with ignored := p.replay.ignored + 1 } }

/-- A write of a port command (R325); a retrain that it begins ends with PORT_RETRAIN. -/
def State.writePort (s : State) (p : PortId) (v : Nat) : State :=
  s.taken (if v = 1 then execPortEnable p s else if v = 2 then execPortDisable p s else .next (if (s.ports.get p).carries then s.beginRetrain p (some 3) else s))

/-- A write of a re-bind request, by its operation (R221). -/
def State.writeRebind (s : State) (bs : List Byte) : State :=
  let ws := bytesWords bs
  match (rebindOf ws).op with
  | 1 => s.taken (execRebindAdd ws s)
  | 2 => s.taken (execRebindRemove ws s)
  | _ => s.taken (execRebindDissolve ws s)

/-- The action of a CMD entry (R525). -/
def State.command_ (s : State) (x : OdIndex) (sub : Nat) (bs : List Byte) : State :=
  let v := leNat bs
  match x with
  | .rein w => s.reinReset w
  | .store => s.beginStore (sub == 0x02)
  | .control => s.moduleCommand v
  | .rebind => s.writeRebind bs
  | .partBag n => s.writeCompare n v
  | .cinch => s.taken (execCinchTestPulse 1 s)
  | .errors => if sub = 0x07 then s.taken (execAlertAcknowledge 1 s) else s.writeOddRelease v
  | .selfTest => s.taken (execTestRequest (bytesWords bs) s)
  | .audit => s.taken (execAuditNow 1 s)
  | .port p => s.writePort p v
  | _ => s

/-- Converters were disabled or enabled: with fewer than 20 working, the module enters Fault (R407). -/
def State.converterCheck (s : State) : State :=
  if s.workingConverters < 20 then s.enterFault 0x0601 false else s.refreshModule

/-- The effect of an accepted write (R546). -/
def State.writeEffect (s : State) (x : OdIndex) (index sub : Nat) (e : OdEntry) (bs : List Byte) : State :=
  let v := leNat bs
  if e.acc = .cmd then s.command_ x sub bs
  else match x, sub with
    | .clock, 0x04 => { s with rein := { s.rein with trim := (BitVec.ofNat 32 v).toInt } }
    | .part n, _ => s.modPart n fun p => { p with settings := p.settings.put sub bs }
    | .partBag n, 0x01 => s.modPart n fun p => { p with replay := { p.replay with setting := modeOf v } }
    | .partBag n, 0x03 => s.modPart n fun p => { p with replay := { p.replay with blockStamps := v == 1 } }
    | .partBag n, _ => s.taken (execReadoutStep n (BitVec.ofNat 64 v) s)
    | .errors, 0x03 => s.taken (execReadoutSequence (BitVec.ofNat 32 v) s)
    | .audit, 0x12 => s.taken (execBuckleProbe (BitVec.ofNat 16 v) s)
    | .tile t, _ => s.modTile t fun y => { y with stamp := { y.stamp with ctxs := Vector.ofFn fun i => stampOf (slice bs (24 * i.1) 24) } }
    | .input, _ => (s.putSetting index sub bs).converterCheck
    | .placement, 0x05 => (s.putSetting index sub bs).refreshModule
    | _, _ => s.putSetting index sub bs

/-- A refused write is counted where the entry's rule says so (R248, R427). -/
def State.countRefused (s : State) (index sub code : Nat) : State :=
  match odIndex index with
  | some (.power) => if sub = 0x01 ∧ code = 0x05 then { s with governor := { s.governor with capRefused := s.governor.capRefused + 1 } } else s
  | some (.part n) => if 0x08 ≤ sub ∧ sub ≤ 0x0F ∧ code = 0x04 then s.modPart n fun p => { p with refusedWrites := p.refusedWrites + 1 } else s
  | _ => s

/-- The data of a write to an entry as the entry takes it (R14). -/
def entryData (index sub : Nat) (bs : List Byte) : List Byte :=
  match odIndex index with
  | some x => withoutReserved x sub bs
  | none => bs

/-- A write through a view: the abort code, 0 when it is accepted, and what it leaves. -/
def State.odWrite (s : State) (v : ViewId) (index sub : Nat) (bs : List Byte) : Nat × State :=
  let bs := entryData index sub bs
  let code := s.writeCode v index sub bs
  if code = 0 then
    match odIndex index with
    | some x => match s.odEntry x sub with
      | some e => (0, s.writeEffect x index sub e bs)
      | none => (0, s)
    | none => (0, s)
  else (code, s.countRefused index sub code)

/-- OD_WRITE (R525, R544 to R550): a write through a view, to any entry. -/
def execOdWrite (v : ViewId) (idx : BitVec 16) (sub : BitVec 8) (data : List Byte) (s : State) : Host.Outcome State Fault Refusal :=
  .next (s.odWrite v idx.toNat sub.toNat data).2

/-! ### Store and restore (R537) -/

/-- STORE (R537): the flash write of a store ends, with its outcome; where none is under way and the module is Configured, the command is taken and
its write ends. -/
def execStore (flashOk : Bool) (s : State) : Host.Outcome State Fault Refusal :=
  .next (match s.flash.storing with
  | some (some _) => s.endStore flashOk
  | some none => s
  | none => if s.module.state = .configured then (s.beginStore false).endStore flashOk else s)

/-- RESTORE_FACTORY (R537): the saved set is discarded, in the same way. -/
def execRestoreFactory (flashOk : Bool) (s : State) : Host.Outcome State Fault Refusal :=
  .next (match s.flash.storing with
  | some none => s.endStore flashOk
  | some (some _) => s
  | none => if s.module.state = .configured then (s.beginStore true).endStore flashOk else s)

end Sys2Proof.Machine
end

