-- ==== Sys2Proof/Machine/LoadParse.lean ====
section
/-! DEFINITION. Reading a work image from its bytes, and the load checks of its form: header, sections, tensors, layers, tiles and descriptors (R163 to R170, R188
rows 1 to 6, R203, R328). A check answers the section kind and the byte offset of the first field that breaks it. -/

namespace Sys2Proof.Machine

/-- Where a check failed: a section kind, 0 for the header, and a byte offset in the image. -/
abbrev LoadFault := Nat × Nat

/-- The first of some conditions, each with its byte offset, that does not hold. -/
def firstBad (cs : List (Bool × Nat)) : Option Nat := (cs.find? fun c => !c.1).map (·.2)

/-- Cut a list of bytes into records of `k` bytes. -/
def recordsIn (k : Nat) : Nat → List Byte → List (List Byte)
  | 0, _ => []
  | n + 1, bs => bs.take k :: recordsIn k n (bs.drop k)

/-- A section of the image (R164): its entry's words, its bytes, and its offset. -/
structure Section where
  words : List Word64
  index : Nat
  bytes : List Byte
  deriving DecidableEq, Repr

/-- The section's kind. -/
def secKind (x : Section) : Nat := bits (wordAt x.words 0) 63 56
/-- The number of its records. -/
def secCount (x : Section) : Nat := bits (wordAt x.words 0) 31 0
/-- Its byte offset in the image. -/
def secOffset (x : Section) : Nat := wordAt x.words 1
/-- Its length in bytes. -/
def secLength (x : Section) : Nat := wordAt x.words 2

/-- The size of a record of a section kind (R165); 0 for a reserved kind. -/
def recordSize (kind : Nat) : Nat :=
  match kind with
  | 1 | 2 | 3 | 5 | 8 => 64
  | 4 | 9 => 4096
  | 6 => 32
  | 7 => 16
  | _ => 0

/-- The sections that the header and the section table name. -/
def sectionsOf (bs : List Byte) : List Section :=
  let hdr := bytesWords (bs.take 64)
  (recordsIn 32 (min 9 (bits (wordAt hdr 2) 63 32)) (bs.drop 64)).zipIdx.map fun r =>
    let ws := bytesWords r.1
    { words := ws, index := r.2, bytes := slice bs (wordAt ws 1) (wordAt ws 2) }

/-- The section of a kind. -/
def sectionOf (xs : List Section) (kind : Nat) : Option Section := xs.find? fun x => secKind x == kind

/-- The records of a section kind, as bytes. -/
def sectionRecords (xs : List Section) (kind : Nat) : List (List Byte) :=
  match sectionOf xs kind with
  | some x => recordsIn (recordSize kind) (secCount x) x.bytes
  | none => []

/-- The byte offset of a record of a section kind. -/
def recordOffset (xs : List Section) (kind i : Nat) : Nat := ((sectionOf xs kind).map secOffset).getD 0 + i * recordSize kind

/-! ### Records (R166 to R170, R203, R328) -/

/-- The tensor declaration that eight words spell. -/
def tensorOf (ws : List Word64) : TensorDecl where
  handle := bits (wordAt ws 0) 63 32
  kind := bits (wordAt ws 0) 31 24
  fmt := bits (wordAt ws 0) 23 16
  blockKind := bits (wordAt ws 0) 15 12
  headroom := bits (wordAt ws 0) 11 10
  seed := bits (wordAt ws 1) 63 48
  residency := bits (wordAt ws 1) 47 40
  program := bits (wordAt ws 1) 39 32
  rows := bits (wordAt ws 2) 63 32
  k := bits (wordAt ws 2) 31 0
  n := bits (wordAt ws 3) 63 32
  length := wordAt ws 4

/-- The layer declaration that eight words spell. -/
def layerDeclOf (ws : List Word64) : LayerDecl where
  pass := bits (wordAt ws 0) 47 40
  statFmt := bits (wordAt ws 0) 39 32
  rowFmt := bits (wordAt ws 0) 31 24
  group := bits (wordAt ws 0) 23 22
  stat := bits (wordAt ws 1) 63 32
  row := bits (wordAt ws 1) 31 0
  out := bits (wordAt ws 2) 63 32
  k := bits (wordAt ws 3) 63 32
  n := bits (wordAt ws 3) 31 0
  rows := bits (wordAt ws 4) 63 32
  tilesUsed := bits (wordAt ws 5) 63 48
  peak := bits (wordAt ws 5) 47 40

/-- The directory entry that eight words spell. -/
def dirEntryOf (ws : List Word64) : DirEntry where
  footprint := bits (wordAt ws 0) 31 0
  firstDesc := bits (wordAt ws 1) 63 32
  descCount := bits (wordAt ws 1) 31 0
  firstRec := bits (wordAt ws 2) 63 32
  recCount := bits (wordAt ws 2) 31 0
  lists := (List.range 4).map fun i => (bits (wordAt ws (3 + i)) 63 32, bits (wordAt ws (3 + i)) 31 0)
  firstLayer := bits (wordAt ws 7) 63 32

/-- The update program that the words of a record spell. -/
def programOf (ws : List Word64) : UpdateProgram where
  rule := bits (wordAt ws 0) 63 56
  poly := bits (wordAt ws 0) 47 45
  beta1 := BitVec.ofNat 32 (bits (wordAt ws 1) 63 32)
  beta2 := BitVec.ofNat 32 (bits (wordAt ws 1) 31 0)
  eps := BitVec.ofNat 32 (bits (wordAt ws 2) 63 32)
  lam := BitVec.ofNat 32 (bits (wordAt ws 2) 31 0)
  factor := BitVec.ofNat 32 (bits (wordAt ws 3) 63 32)
  offset := wordAt ws 4
  points := (List.range (bits (wordAt ws 0) 55 48)).map fun j => (wordAt ws (8 + 2 * j), ws.getD (9 + 2 * j) 0)

/-- The collective declaration that eight words spell. -/
def declOf (ws : List Word64) : CollDecl where
  kind := bits (wordAt ws 0) 63 56
  done := bits (wordAt ws 0) 47 32
  words := (ws.drop 1).take 6

/-- The image that the bytes spell; its checks are apart. -/
def imageOf (bs : List Byte) : Image :=
  let h := bytesWords (bs.take 64)
  let xs := sectionsOf bs
  let recs := fun (k : Nat) => (sectionRecords xs k).map bytesWords
  { revision := bits (wordAt h 6) 63 32
    exact_ := bitAt (wordAt h 0) 32
    tiles := bits (wordAt h 0) 31 16
    modules := bits (wordAt h 0) 15 0
    seed := h.getD 1 0
    layerCount := bits (wordAt h 2) 31 0
    build := bits (wordAt h 4) 63 32
    crc := bits (wordAt h 7) 63 32
    ranges := bits (wordAt h 4) 31 16
    tensors := (recs 1).map tensorOf
    layers := (recs 2).map layerDeclOf
    dir := (recs 3).map dirEntryOf
    pages := sectionRecords xs 4
    descriptors := recs 5
    records := recs 6
    entries := (recs 7).map fun ws => [bits (wordAt ws 0) 63 32, bits (wordAt ws 0) 31 0, bits (wordAt ws 1) 63 32, bits (wordAt ws 1) 31 0]
    decls := (recs 8).map declOf
    programs := (recs 9).map programOf }

/-! ### Row 1: header (R163, R164) -/

/-- The header's own fields; `size` is the bytes of the buffer. -/
def headerBad (bs : List Byte) (size revision : Nat) : Option LoadFault :=
  let h := bytesWords (bs.take 64)
  (firstBad
    [ (decide (64 ≤ size), 0),
      (crcOk h 7, 56),
      (bits (wordAt h 0) 63 48 == 1, 0), (zeroField h 0 47 33, 0),
      (decide (1 ≤ bits (wordAt h 0) 31 16 ∧ bits (wordAt h 0) 31 16 ≤ 256), 0), (decide (1 ≤ bits (wordAt h 0) 15 0), 0),
      (decide (7 ≤ bits (wordAt h 2) 63 32 ∧ bits (wordAt h 2) 63 32 ≤ 9), 16),
      (decide (1 ≤ bits (wordAt h 2) 31 0 ∧ bits (wordAt h 2) 31 0 ≤ 65536), 16),
      (decide (wordAt h 3 % 4096 = 0 ∧ 4096 ≤ wordAt h 3 ∧ wordAt h 3 ≤ size), 24),
      (decide (1 ≤ bits (wordAt h 4) 31 16 ∧ bits (wordAt h 4) 31 16 ≤ 16), 32), (zeroField h 4 15 0, 32),
      (wordAt h 5 == 0, 40), (bits (wordAt h 6) 63 32 == revision, 48), (zeroField h 6 31 0, 48), (zeroField h 7 31 0, 56) ]).map fun o => (0, o)

/-- The offset of the first byte of a run that is not 0. -/
def firstNonZero (bs : List Byte) (lo hi : Nat) : Option Nat := ((slice bs lo (hi - lo)).findIdx? (· != 0)).map (lo + ·)

/-- Sections start on 4 KiB boundaries inside the image behind the section table, overlap nowhere, and every byte outside header, table and
sections is 0. -/
def layoutBad (bs : List Byte) (xs : List Section) : Option LoadFault :=
  let len := bs.length
  let table := 64 + 32 * xs.length
  match xs.find? fun x => !(decide (secOffset x % 4096 = 0 ∧ table ≤ secOffset x ∧ secOffset x + secLength x ≤ len)) with
  | some x => some (secKind x, 64 + 32 * x.index + 8)
  | none =>
    let ys := sortBy secOffset (xs.filter fun x => secLength x != 0)
    let walk := ys.foldl (fun (a : Nat × Option LoadFault) x =>
      match a.2 with
      | some _ => a
      | none =>
        if secOffset x < a.1 then (a.1, some (secKind x, 64 + 32 * x.index + 8))
        else (secOffset x + secLength x, (firstNonZero bs a.1 (secOffset x)).map fun o => (0, o))) (table, none)
    match walk.2 with
    | some f => some f
    | none => (firstNonZero bs walk.1 len).map fun o => (0, o)

/-! ### Row 2: sections (R165) -/

/-- One section's entry, its CRC-32C and the sequence numbers of its records; `prev` is the kind before it. -/
def sectionBad (prev : Nat) (x : Section) : Option LoadFault :=
  let at0 := 64 + 32 * x.index
  let kind := secKind x
  let size := recordSize kind
  let seqOf := fun (r : List Byte) => match kind with
    | 1 | 2 => field r 52 4
    | 3 => field r 7 1
    | 8 => field r 60 4
    | _ => field r 0 4
  let numbered := kind == 1 || kind == 2 || kind == 3 || kind == 8 || kind == 9
  match firstBad
    [ (decide (prev < kind ∧ kind ≤ 9), at0), (zeroField x.words 0 55 32, at0),
      (secLength x == secCount x * size, at0 + 16), (bits (wordAt x.words 3) 31 0 == x.index, at0 + 24),
      (crc32c x.bytes == bits (wordAt x.words 3) 63 32, at0 + 24) ] with
  | some o => some (kind, o)
  | none =>
    if !numbered then none
    else
      ((recordsIn size (secCount x) x.bytes).zipIdx.find? fun r => seqOf r.1 != r.2 % (if kind = 3 then 256 else 2 ^ 32)).map fun r =>
        (kind, secOffset x + size * r.2)

/-- A page of a list that the directory names fails the check of its CRC or of its trailer (R171). -/
def pageBad (m : Image) (l c p : Nat) : Bool :=
  let pg := m.page l c p
  let w0 := BitVec.ofNat 64 (field pg 4080 8)
  let w1 := BitVec.ofNat 64 (field pg 4088 8)
  !(crcOk (bytesWords pg) 511 && bits w0.toNat 63 56 == l && bits w0.toNat 55 54 == c && bits w0.toNat 53 32 == 0 && bits w0.toNat 31 0 == p && bits w1.toNat 31 0 == 0)

/-- The sections of the image: entries in ascending kind order, none missing, and every record's sequence number, those of pages and descriptors
under the logical tile that owns them. -/
def sectionsBad (m : Image) (xs : List Section) : Option LoadFault :=
  let kinds := xs.map secKind
  match (xs.zip (0 :: kinds)).findSome? fun x => sectionBad x.2 x.1 with
  | some f => some f
  | none =>
    let need := [1, 2, 3, 4, 5, 6, 7] ++ (if m.descriptors.any fun d => (descOf d).kind == 6 then [8] else []) ++
      (if m.tensors.any fun d => d.kind == 1 then [9] else [])
    match need.find? fun k => !kinds.contains k with
    | some k => some (k, 64 + 32 * xs.length)
    | none =>
      let tiles := List.range m.dir.length
      match tiles.findSome? fun l => (List.range 4).findSome? fun c =>
          ((List.range (m.listPages l c).2).find? fun p => decide ((m.listPages l c).1 + p < m.pages.length) && pageBad m l c p).map fun p =>
            ((4, recordOffset xs 4 ((m.listPages l c).1 + p) + 4080) : LoadFault) with
      | some f => some f
      | none => tiles.findSome? fun l =>
          ((List.range (m.dirOf l).descCount).find? fun i => match m.descriptors[(m.dirOf l).firstDesc + i]? with
            | some d => bits (wordAt d 5) 63 32 != i
            | none => false).map fun i => (5, recordOffset xs 5 ((m.dirOf l).firstDesc + i) + 40)

/-! ### Row 3: tensors (R56, R63, R72, R84, R166) -/

/-- The residencies of a tensor kind. -/
def residencyOk (kind res : Nat) : Bool :=
  match kind with
  | 2 | 3 => decide (res ≤ 1)
  | 4 | 5 | 11 => decide (res = 1)
  | _ => decide (res = 0)

/-- One declaration; `prev` is the handle before it. -/
def tensorBad (m : Image) (prev : Nat) (ws : List Word64) : Option Nat :=
  let d := tensorOf ws
  let stat := m.layers.any fun y => y.pass != 4 && y.stat == d.handle
  firstBad
    [ (decide (prev < d.handle), 0), (decide (1 ≤ d.kind ∧ d.kind ≤ 11), 0), (fmtValid d.fmt, 0),
      (if fmtNarrow d.fmt then decide (d.blockKind ≤ 1) else decide (d.blockKind = 15), 0),
      (d.blockKind != 1 || ((d.fmt == codeE2M1 || d.fmt == codeE4M3) &&
        (d.kind == 2 || d.kind == 3 || d.kind == 5 || (d.kind == 11 && !stat))), 0),
      (!m.exact_ || (d.fmt != codeE2M1 && d.fmt != codeINT4 && d.blockKind != 1), 0),
      (zeroField ws 0 9 0, 0), (decide (d.seed ≤ 0x7F7F), 8), (residencyOk d.kind d.residency, 8),
      (if d.kind = 1 then decide (1 ≤ d.program ∧ d.program ≤ m.programs.length) else decide (d.program = 0), 8), (zeroField ws 1 31 0, 8),
      (d.kind != 1 || d.rows == 1, 16), (zeroField ws 3 31 0, 24), (wordAt ws 5 == 0, 40), (zeroField ws 6 31 0, 48), (wordAt ws 7 == 0, 56) ]

/-- The tensor declarations. -/
def tensorsBad (m : Image) (xs : List Section) : Option LoadFault :=
  let recs := (sectionRecords xs 1).map bytesWords
  ((recs.zip (0 :: m.tensors.map (·.handle))).zipIdx.findSome? fun r =>
    (tensorBad m r.1.2 r.1.1).map fun o => (1, recordOffset xs 1 r.2 + o))

/-! ### Row 4: layers (R63, R86, R111, R167) -/

/-- The pairings of R86: stationary operand and row operand, each with its block kind. -/
def pairingOk (st row : TensorDecl) : Bool :=
  let mx := st.blockKind == 0 && row.blockKind == 0
  match st.fmt with
  | 1 => st.blockKind == 0 && row.fmt == 1
  | 2 => mx && row.fmt == 2
  | 3 | 4 => (mx && (row.fmt == 3 || row.fmt == 4)) || (st.blockKind == 0 && row.blockKind == 1 && row.fmt == 3)
  | 5 => mx && row.fmt == 5
  | 6 => row.fmt == 6
  | _ => false

/-- One layer declaration. -/
def layerBad (m : Image) (i : Nat) (ws : List Word64) : Option Nat :=
  let y := layerDeclOf ws
  let work := y.pass == 4
  firstBad
    [ (bits (wordAt ws 0) 63 48 == i, 0), (decide (1 ≤ y.pass ∧ y.pass ≤ 4), 0), (zeroField ws 0 21 0, 0),
      (if work then y.statFmt == 0 && y.rowFmt == 0 else (m.tensor y.stat).map (·.fmt) == some y.statFmt && (m.tensor y.row).map (·.fmt) == some y.rowFmt, 0),
      (work || match m.tensor y.stat, m.tensor y.row with
        | some a, some b => pairingOk a b
        | _, _ => false, 0),
      ((y.group == 3) == m.exact_, 0),
      (!work || (y.stat == 0 && y.row == 0), 8), ((m.tensor y.out).isSome, 16), (zeroField ws 2 31 0, 16), (zeroField ws 4 31 0, 32),
      (decide (1 ≤ y.tilesUsed ∧ y.tilesUsed ≤ m.tiles), 40), (decide (1 ≤ y.peak ∧ y.peak ≤ 128), 40), (zeroField ws 5 39 0, 40), (zeroField ws 6 31 0, 48), (wordAt ws 7 == 0, 56) ]

/-- The layer declarations: as many as the header says. -/
def layersBad (m : Image) (xs : List Section) : Option LoadFault :=
  if m.layers.length ≠ m.layerCount then some (0, 16)
  else (((sectionRecords xs 2).map bytesWords).zipIdx.findSome? fun r => (layerBad m r.2 r.1).map fun o => (2, recordOffset xs 2 r.2 + o))

/-! ### Row 5: tiles (R26, R168, R170) -/

/-- One directory entry with the layer entries of its tile. -/
def dirBad (m : Image) (xs : List Section) (l : Nat) (ws : List Word64) : Option LoadFault :=
  let d := dirEntryOf ws
  let at0 := recordOffset xs 3 l
  match firstBad
    ([ (zeroField ws 0 55 32, at0), (decide (d.footprint ≤ 160 * 2 ^ 20), at0), (decide (d.descCount ≤ 2048 ∧ d.firstDesc + d.descCount ≤ m.descriptors.length), at0 + 8),
       (decide (1 ≤ d.recCount ∧ d.recCount ≤ 4096 ∧ d.firstRec + d.recCount ≤ m.records.length), at0 + 16) ] ++
     (d.lists.zipIdx.map fun p => (decide (1 ≤ p.1.2 ∧ p.1.1 + p.1.2 ≤ m.pages.length), at0 + 24 + 8 * p.2)) ++
     [ (decide (d.firstLayer + m.layerCount ≤ m.entries.length), at0 + 56), (zeroField ws 7 31 0, at0 + 56) ]) with
  | some o => some (3, o)
  | none =>
    ((List.range m.layerCount).find? fun n => !((List.range 4).all fun c =>
      decide ((if n = 0 then 0 else m.entry l (n - 1) c) ≤ m.entry l n c))).map fun n => (7, recordOffset xs 7 (d.firstLayer + n))

/-- The tile directory against the partition: `inService` tiles and `modules` modules. -/
def tilesBad (m : Image) (xs : List Section) (inService modules : Nat) : Option LoadFault :=
  if inService < m.tiles ∨ m.modules ≠ modules then some (0, 0)
  else if m.dir.length ≠ m.tiles then some (3, recordOffset xs 3 0)
  else ((sectionRecords xs 3).map bytesWords).zipIdx.findSome? fun r => dirBad m xs r.2 r.1

/-! ### Row 6: descriptors (R143) -/

/-- Every descriptor of every logical tile. -/
def descriptorsBad (n : PartId) (m : Image) (xs : List Section) : Option LoadFault :=
  (List.range m.tiles).findSome? fun l => (m.descriptorsOf l).zipIdx.findSome? fun d =>
    (descriptorBad ⟨n, m, l⟩ d.2 d.1).map fun o => (5, recordOffset xs 5 ((m.dirOf l).firstDesc + d.2) + o)

end Sys2Proof.Machine
end

