-- ==== Sys2Proof/Machine/LoadCommands.lean ====
section
/-! DEFINITION. The load checks of the commands (R169 to R181, R588, R188 row 7), and what each command and each arming of a logical tile reads and writes in
the store, the accumulator rows and the register rows. -/

namespace Sys2Proof.Machine

/-! ### Commands by their fields (R116, R173, R175, R177) -/

/-- Whether an elementwise function reads B and C, and whether precision 2 is offered (R117). -/
def elemArgs (f : Nat) : Option (Bool × Bool × Bool) :=
  match f with
  | 0x01 | 0x02 | 0x03 | 0x05 | 0x06 | 0x09 | 0x10 => some (true, false, true)
  | 0x04 | 0x0A => some (true, true, true)
  | 0x07 | 0x08 | 0x12 => some (false, false, true)
  | 0x0B | 0x11 | 0x13 | 0x14 | 0x15 | 0x16 | 0x17 => some (false, false, false)
  | _ => none

/-- The record and the address of an ST agree with its layout (R128, R175). -/
def stLayoutOk (r : OperandRecord) (o : VecOp) : Bool :=
  if r.staged then decide (o.addr.toNat % 64 = 0) && decide (r.fmt ≤ 6) && decide (o.prec = 0) &&
    decide (bits o.addr.toNat 15 6 + o.first.toNat + o.count.toNat < spanDepth r.fmt)
  else decide (o.addr.toNat % 64 = 0)

/-- A vector function with its operation word (R116 to R134). -/
def vecOk (exact_ : Bool) (recs : List OperandRecord) (f : Nat) (o : VecOp) : Bool :=
  match elemArgs f with
  | some (b, c, wide) => o.elemOk b c wide && (if f = 0x09 then decide (o.opts.toNat ≤ 5) else o.opts == 0)
  | none =>
    match f with
    | 0x0C => o.convertOk false && o.opts == 0
    | 0x0D => o.convertOk (o.opts.getLsbD 0) && decide (o.opts.toNat ≤ 1)
    | 0x20 | 0x21 => o.sumOk && !(exact_ && o.prec == 1)
    | 0x22 | 0x23 => o.extremeOk
    | 0x28 => o.trnOk
    | 0x30 => match recs[o.record.toNat]? with
      | some r => o.moveOk true && moveFmtOk r.fmt o.prec true && o.addr.toNat % 64 == 0
      | none => false
    | 0x31 => match recs[o.record.toNat]? with
      | some r => o.moveOk false && moveFmtOk r.fmt o.prec false && stLayoutOk r o
      | none => false
    | 0x38 | 0x39 => o.drawOk
    | 0x3A | 0x3B => o.countersOk
    | 0x3C => o.flagsOk
    | _ => false

/-! ### Accesses -/

/-- What a command or an arming reads or writes: space 0 is the store, 1 the accumulator rows, 2 the register rows (register × 64 + row). -/
structure Access where
  list : Nat
  /-- The command's index; for an arming, that of the command that starts it. -/
  cmd : Nat
  /-- The arming's position among those of the stream list. -/
  arming : Option Nat
  kind : Nat
  write : Bool
  space : Nat
  runs : List (Nat × Nat)
  /-- The interlock of R157 covers it. -/
  waits : Bool
  deriving DecidableEq, Repr

/-- Rows of a region with a stride, as runs. -/
def strided (addr stride n len : Nat) : List (Nat × Nat) := (List.range n).map fun i => (addr + i * stride, addr + i * stride + len)

/-- Register rows as runs. -/
def regRuns (rs : List (Nat × Nat)) : List (Nat × Nat) := rs.map fun r => (64 * r.1 + r.2, 64 * r.1 + r.2 + 1)

/-- What has been loaded and written when a walk through an array list reaches a command: valid depth and width by span and panel, and the width behind
accumulator rows, newest first. -/
structure ArrayWalk where
  blocks : List ((Nat × Nat) × (Nat × Nat))
  rows : List (Nat × Nat × Nat)
  out : List Access
  /-- A command whose record breaks R174. -/
  short : Option Nat
  deriving DecidableEq, Repr

/-- The greatest valid width behind some accumulator rows. -/
def ArrayWalk.widthOf (a : ArrayWalk) (lo hi : Nat) : Nat :=
  ((List.range (hi - lo)).map fun i =>
    ((a.rows.find? fun r => decide (r.1 ≤ lo + i ∧ lo + i < r.2.1)).map (·.2.2)).getD 0).foldl max 0

/-- One array command (R88, R102, R103, R174). -/
def ArrayWalk.next (recs : List OperandRecord) (a : ArrayWalk) (i w0 w1 : Nat) : ArrayWalk :=
  let acc := fun (wr : Bool) (sp : Nat) (runs : List (Nat × Nat)) => (Access.mk 0 i none (bits w0 63 56) wr sp runs false)
  match bits w0 63 56 with
  | 0x11 =>
    let o := loadwOf w0 w1
    { a with
      blocks := Assoc.put (o.span.toNat, o.panel.toNat) (o.depth.toNat + 1, o.width.toNat + 1) a.blocks
      out := a.out ++ [{ acc false 0 [(o.addr.toNat, o.addr.toNat + stagedBytes)] with waits := true }] }
  | 0x12 =>
    let o := mmulOf w0 w1
    let n := o.rows.toNat + 1
    let (depth, width) := (Assoc.get (o.span.toNat, o.panel.toNat) a.blocks).getD (0, 0)
    let rows := [(o.base.toNat, o.base.toNat + n)]
    let row := match recs[o.record.toNat]? with
      | some r => [{ acc false 0 (strided o.addr.toNat r.stride n (ceilDiv (depth * fmtBits r.fmt) 8)) with waits := true }]
      | none => []
    let carry := match decide (o.mode = 2), recs[o.carry.toNat]? with
      | true, some k => [acc false 0 (strided k.carryAddr k.stride n (4 * width) ++ [(k.carryAddr + n * k.stride, k.carryAddr + n * k.stride + 64)])]
      | _, _ => []
    let bad := o.mode = 2 ∧ (match recs[o.carry.toNat]? with
      | some k => decide (k.stride < minStride width)
      | none => true) = true
    { a with
      rows := (o.base.toNat, o.base.toNat + n, width) :: a.rows
      out := a.out ++ row ++ carry ++ (if o.mode = 1 then [acc false 1 rows] else []) ++ [acc true 1 rows]
      short := if bad ∧ a.short.isNone = true then some i else a.short }
  | 0x13 =>
    let o := drainOf w0 w1
    let n := o.rows.toNat + 1
    let width := a.widthOf o.first.toNat (o.first.toNat + n)
    let dst := if o.toStore then
        match recs[o.record.toNat]? with
        | some r => [acc true 0 (strided o.addr.toNat r.stride n (4 * width) ++ [(o.addr.toNat + n * r.stride, o.addr.toNat + n * r.stride + 64)])]
        | none => []
      else [acc true 2 [(64 * o.reg.toNat + o.firstReg.toNat, 64 * o.reg.toNat + o.firstReg.toNat + n)]]
    let bad := o.toStore = true ∧ (match recs[o.record.toNat]? with
      | some r => decide (r.stride < minStride width)
      | none => true) = true
    { a with
      out := a.out ++ [acc false 1 [(o.first.toNat, o.first.toNat + n)]] ++ dst
      short := if bad ∧ a.short.isNone = true then some i else a.short }
  | _ => a

/-- The walk through the array list of a logical tile. -/
def Image.arrayWalk (m : Image) (l : Nat) : ArrayWalk :=
  let recs := m.recordsOf l
  (m.cmds l 0).zipIdx.foldl (fun (a : ArrayWalk) w => a.next recs w.2 w.1.1.toNat w.1.2.toNat) ⟨[], [], [], none⟩

/-- Register rows that a vector function reads. -/
def vecReads (f : Nat) (o : VecOp) : List (Nat × Nat) :=
  let aRows := (opRows o).map fun r => (o.a.toNat, r)
  match elemArgs f with
  | some (b, c, _) => opReadsAll o b c
  | none =>
    match f with
    | 0x0C | 0x31 => aRows
    | 0x0D => if o.opts.getLsbD 0 then aRows else (opRows o).flatMap fun i => [(o.a.toNat, 2 * i), (o.a.toNat, 2 * i + 1)]
    | 0x20 | 0x21 => aRows ++ opResultRows o (sumReadsTwo o)
    | 0x22 | 0x23 => aRows ++ opResultRows o true ++ [(o.b.toNat, o.brow.toNat)]
    | 0x28 => (List.range 64).map fun r => (o.a.toNat, r)
    | _ => []

/-- Register rows that a vector function writes. -/
def vecWrites (f : Nat) (o : VecOp) : List (Nat × Nat) :=
  let dRows := (opRows o).map fun r => (o.d.toNat, r)
  match f with
  | 0x0C => (opRows o).flatMap fun i => [(o.d.toNat, 2 * i), (o.d.toNat, 2 * i + 1)]
  | 0x20 | 0x21 | 0x22 | 0x23 =>
    match o.axis.toNat with
    | 1 => dRows
    | 2 => [(o.d.toNat, o.brow.toNat)] ++
      (if 0x22 ≤ f ∨ o.prec = 2 ∨ (o.prec = 1 ∧ o.opts.getLsbD 2 = true) then [(o.d.toNat, o.brow.toNat + 1)] else [])
    | _ => [(o.d.toNat, o.brow.toNat)]
  | 0x28 => (List.range 64).map fun r => (o.d.toNat, r)
  | 0x31 | 0x3A | 0x3B => []
  | 0x3C => [(o.d.toNat, o.first.toNat)]
  | _ => dRows

/-- The accesses of a vector command. -/
def vecAccess (recs : List OperandRecord) (i w0 w1 : Nat) : List Access :=
  let f := bits w1 63 56
  let o := vecOf w0 w1
  let acc := fun (wr : Bool) (sp : Nat) (runs : List (Nat × Nat)) => (Access.mk 1 i none 0x21 wr sp runs false)
  let n := if o.prec = 2 then (o.count.toNat + 1) / 2 else o.count.toNat + 1
  let store := match f, recs[o.record.toNat]? with
    | 0x30, some r => [{ acc false 0 (strided o.addr.toNat r.stride n (rowBytes r.fmt)) with waits := true }]
    | 0x31, some r =>
      if r.staged then [acc true 0 [(4096 * (o.addr.toNat / 2 ^ 16), 4096 * (o.addr.toNat / 2 ^ 16) + stagedBytes)]]
      else [acc true 0 (strided o.addr.toNat r.stride n (rowBytes r.fmt))]
    | 0x3A, _ => [acc true 0 [(o.addr.toNat, o.addr.toNat + 32768)]]
    | 0x3B, _ => [acc false 0 [(o.addr.toNat, o.addr.toNat + 32768)]]
    | _, _ => []
  [acc false 2 (regRuns (vecReads f o)), acc true 2 (regRuns (vecWrites f o))] ++ store

/-- The local bytes of a descriptor: rows, or staged blocks (R88, R142). -/
def Descriptor.localRuns (d : Descriptor) : List (Nat × Nat) :=
  strided d.addr d.stride d.rows (if d.kind = 4 then stagedBytes else d.rowLen)

/-- The descriptor of an arming. -/
def Image.armed (m : Image) (l : Nat) (a : ListArming) : Descriptor := descOf ((m.descriptor l a.desc).getD [])

/-- Every arming of a logical tile's stream list. -/
def Image.allArmings (m : Image) (l : Nat) : List ListArming := m.armings l (m.cmds l 2).length

/-- The accesses of a logical tile: its array and vector commands, and the local bytes of the armings that start. -/
def Image.accesses (m : Image) (l : Nat) : List Access :=
  let recs := m.recordsOf l
  (m.arrayWalk l).out ++
  ((m.cmds l 1).zipIdx.flatMap fun w => if cmdClassOp w.1.1 = 0x21 then vecAccess recs w.2 w.1.1.toNat w.1.2.toNat else []) ++
  ((m.allArmings l).zipIdx.filterMap fun a => a.1.start.map fun st =>
    let d := m.armed l a.1
    Access.mk 2 st (some a.2) d.kind (d.kind == 3 || d.kind == 4 || d.kind == 5) 0 d.localRuns false)

/-! ### Row 7: commands (R14, R169 to R181, R588) -/

/-- The capacity of an activation store (R26). -/
def storeBytes : Nat := 160 * 2 ^ 20

/-- The records that the MMULs in mode 2 of a logical tile name as their carry-in record (R169). -/
def Image.carryRecords (m : Image) (l : Nat) : List Nat :=
  (m.cmds l 0).filterMap fun w =>
    let o := mmulOf w.1.toNat w.2.toNat
    if cmdClassOp w.1 = 0x12 ∧ o.mode = 2 then some o.carry.toNat else none

/-- The records that the vector commands of a logical tile with a function name (R169). -/
def Image.vecRecords (m : Image) (l f : Nat) : List Nat :=
  (m.cmds l 1).filterMap fun w => if cmdClassOp w.1 = 0x21 ∧ bits w.2.toNat 63 56 = f then some (vecOf w.1.toNat w.2.toNat).record.toNat else none

/-- One operand record (R169): a field that no command reads is 0; record 0 is the null record; any other names a declared tensor in the tensor's format. -/
def recordBad (m : Image) (l i : Nat) (ws : List Word64) : Option Nat :=
  let r := recordOf ws
  if i = 0 then (if ws.all (· == 0) then none else some 0)
  else firstBad
    [ ((m.tensor r.handle).map (·.fmt) == some r.fmt, 0), (zeroField ws 0 22 0, 0), (r.stride % 64 == 0, 8), (zeroField ws 1 31 0, 8),
      (r.staged || (r.span == 0 && r.panel == 0), 16),
      (if fmtNarrow r.fmt then r.firstK % blockSize (((m.tensor r.handle).map (·.blockKind)).getD 0) == 0 else r.firstK == 0, 16),
      (r.firstK == 0 || (m.vecRecords l 0x30).contains i || (!r.staged && (m.vecRecords l 0x31).contains i), 16),
      (r.carryAddr % 64 == 0, 24), (r.carryAddr == 0 || (m.carryRecords l).contains i, 24), (zeroField ws 3 31 0, 24) ]

/-- Span and panel lie in the layer's extents (R85). -/
def LayerDecl.fits (y : LayerDecl) (span panel : Nat) : Bool :=
  decide (span * spanDepth y.statFmt < y.k ∧ panel * panelWidth y.statFmt < y.n)

/-- One command against its list, its layer and its records. -/
def commandBad (m : Image) (recs : List OperandRecord) (descs : Nat) (list : Nat) (layer : Option LayerDecl) (w0 w1 : Nat) : Bool :=
  let low0 := fun (hi : Nat) => bits w0 hi 0 == 0
  let rec_ := fun (i : BitVec 16) => recs[i.toNat]?
  !(match bits w0 63 56 with
    | 0x11 =>
      let o := loadwOf w0 w1
      list == 0 && low0 3 && bits w1 12 0 == 0 && o.ok && (match layer, rec_ o.record with
        | some y, some r => y.pass != 4 && r.handle == y.stat && o.fmt.toNat == y.statFmt && y.fits o.span.toNat o.panel.toNat
        | _, _ => false)
    | 0x12 =>
      let o := mmulOf w0 w1
      list == 0 && o.ok && (match layer, rec_ o.record with
        | some y, some r => y.pass != 4 && o.group.toNat == y.group && r.handle == y.row && r.fmt == y.rowFmt && y.fits o.span.toNat o.panel.toNat
        | _, _ => false) && (o.mode != 2 || (o.carry != 0 && (rec_ o.carry).isSome))
    | 0x13 =>
      let o := drainOf w0 w1
      list == 0 && low0 21 && bits w1 15 0 == 0 && o.ok && (!o.toStore || (o.record != 0 && (rec_ o.record).isSome))
    | 0x21 => list == 1 && low0 7 && bits w1 55 52 < 8 && vecOk m.exact_ recs (bits w1 63 56) (vecOf w0 w1)
    | 0x31 => list == 2 && low0 50 && bits w1 63 32 < descs && bits w1 31 0 == 0
    | 0x32 | 0x33 => list == 2 && low0 50 && w1 == 0
    | 0x41 => low0 21 && bits w1 31 0 == 0 && (buckleOf w0 w1).arriveOk && bits w0 55 52 < m.ranges
    | 0x42 => low0 21 && bits w1 31 0 == 0 && (buckleOf w0 w1).waitOk && bits w0 55 52 < m.ranges
    | 0x43 => low0 21 && bits w1 31 0 == 0 && (buckleOf w0 w1).arrwaitOk && bits w0 55 52 < m.ranges
    | 0x51 | 0x52 => list == 3 && 1 ≤ bits w0 55 48 && bits w0 55 48 ≤ 128 && bits w0 31 16 < m.layerCount && low0 15 && w1 == 0
    | 0x61 => list == 3 && 1 ≤ bits w0 55 52 && bits w0 55 52 ≤ 5 && bits w0 51 36 < m.layerCount && low0 35 && bits w1 31 0 == 0
    | 0x71 => low0 55 && w1 == 0
    | _ => false)

/-- The tensor that a descriptor names has the kind that its transfers reach (R140, R194, R213, R329). -/
def descTensorOk (m : Image) (d : Descriptor) : Bool :=
  let t := m.tensor (d.target / 2 ^ 32)
  let stack := fun (k : Nat) (res : Nat) => k == 5 || ((k == 2 || k == 3 || k == 8 || k == 9) && res == 0)
  match d.kind with
  | 2 => (t.map fun x => stack x.kind x.residency).getD false
  | 3 => (t.map fun x => stack x.kind x.residency || x.kind == 6).getD false
  | 4 => (t.map fun x => x.kind == 1).getD false
  | 6 => (t.map fun x => x.kind == 10).getD false && ((m.tensor (d.target % 2 ^ 32)).map fun x => x.kind == 6).getD false
  | _ => true

/-- The byte offset of a command. -/
def commandOffset (m : Image) (xs : List Section) (l c i : Nat) : Nat :=
  recordOffset xs 4 ((m.listPages l c).1 + i / 255) + 16 * (i % 255)

/-- The layer declaration in whose range a command stands. -/
def Image.layerDeclAt (m : Image) (l c i : Nat) : Option LayerDecl := (m.layerOf l c i).bind m.layer

/-- The list of a logical tile: every command, one STEP at its end, zeros behind it, and the layers' indices up to it. -/
def listBad (m : Image) (xs : List Section) (l c : Nat) : Option LoadFault :=
  let recs := m.recordsOf l
  let cs := m.cmds l c
  match cs.zipIdx.find? fun w => commandBad m recs (m.dirOf l).descCount c (m.layerDeclAt l c w.2) w.1.1.toNat w.1.2.toNat with
  | some w => some (4, commandOffset m xs l c w.2)
  | none =>
    if (cs.getLast?.map fun w => cmdClassOp w.1) ≠ some 0x71 then some (4, commandOffset m xs l c (cs.length - 1))
    else
      let slots := 255 * (m.listPages l c).2
      match (List.range (slots - cs.length)).find? fun k =>
          pageCmd (m.page l c ((cs.length + k) / 255)) ((cs.length + k) % 255) != (0, 0) with
      | some k => some (4, commandOffset m xs l c (cs.length + k))
      | none =>
        ((List.range m.layerCount).find? fun n => decide (cs.length ≤ m.entry l n c)).map fun n => (7, recordOffset xs 7 ((m.dirOf l).firstLayer + n))

/-- The ARM, SEND and RECV of a GET-WEIGHT arming stand in the range of the layer whose stationary tensor it loads (R588); the descriptors that are armed
name tensors that their transfers reach, and every access lies in the store. -/
def tileCommandsBad (m : Image) (xs : List Section) (l : Nat) : Option LoadFault :=
  let as := m.allArmings l
  match as.find? fun a => !descTensorOk m (m.armed l a) with
  | some a => some (5, recordOffset xs 5 ((m.dirOf l).firstDesc + a.desc) + 24)
  | none =>
    let own := fun (a : ListArming) (i : Nat) => (m.armed l a).kind != 4 || (match m.layerDeclAt l 2 i with
      | some y => y.pass != 4 && y.stat == (m.armed l a).target / 2 ^ 32
      | none => false)
    match as.find? fun a => !(own a a.arm && ((a.start.map (own a)).getD true)) with
    | some a => some (4, commandOffset m xs l 2 (if own a a.arm then a.start.getD a.arm else a.arm))
    | none =>
      match (m.arrayWalk l).short with
      | some i => some (4, commandOffset m xs l 0 i)
      | none => ((m.accesses l).find? fun a => a.space == 0 && a.runs.any fun r => decide (storeBytes < r.2)).map fun a =>
          (4, commandOffset m xs l a.list a.cmd)

/-- Records and lists of every logical tile. -/
def commandsBad (m : Image) (xs : List Section) : Option LoadFault :=
  (List.range m.tiles).findSome? fun l =>
    let d := m.dirOf l
    match ((m.records.drop d.firstRec).take d.recCount).zipIdx.findSome? fun r =>
        (recordBad m l r.2 r.1).map fun o => ((6, recordOffset xs 6 (d.firstRec + r.2) + o) : LoadFault) with
    | some f => some f
    | none =>
      match (List.range 4).findSome? fun c => listBad m xs l c with
      | some f => some f
      | none => tileCommandsBad m xs l

end Sys2Proof.Machine
end

