-- ==== Sys2Proof/Machine/LoadOrder.lean ====
section
/-! DEFINITION. The load checks of order (R23, R66, R136, R147, R149, R157, R197, R245, R266, R333, R462, R188 row 8) and the restart layers (R463).

One command is ordered before another when the second cannot issue unless the first has completed. The placer finds that out by running the image's lists on
tokens alone, as far as they can go, with the completion of the first withheld: the second is ordered behind it exactly when it does not issue. Counters only rise
within a generation (R262), so one greatest run answers. -/

namespace Sys2Proof.Machine

/-! ### The run on tokens (R172, R178, R253, R256, R261, R262) -/

/-- What a run is denied: an issue bound by tile and list, a command or an arming that never completes, and a bucket that is never done. -/
structure Withheld where
  cap : Nat → Nat → Option Nat
  cmd : Option (Nat × Nat × Nat)
  arming : Option (Nat × Nat)
  bucket : Option Nat

/-- Nothing is denied. -/
def withholdNone : Withheld := ⟨fun _ _ => none, none, none, none⟩

/-- A walk through a list: commands issued, whether it stands still, whether the command before and all commands before have completed, and the tokens sent. -/
structure ListWalk where
  pos : Nat
  still : Bool
  prev : Bool
  all : Bool
  tokens : List (Nat × Nat)
  deriving DecidableEq, Repr

/-- One command of a walk, given the counters: `held` says that it never completes. -/
def ListWalk.next (count : Nat → Nat) (a : ListWalk) (w0 w1 : Nat) (held : Bool) : ListWalk :=
  if a.still then a else
  let o := buckleOf w0 w1
  let covered := if o.covers = 0 then a.prev else a.all
  let sent := if covered then [(o.buckle.toNat, o.count.toNat)] else []
  let met := decide (o.target.toNat ≤ count o.buckle.toNat)
  let go := fun (done : Bool) (ts : List (Nat × Nat)) =>
    ({ pos := a.pos + 1, still := false, prev := done, all := a.all && done, tokens := a.tokens ++ ts } : ListWalk)
  match bits w0 63 56 with
  | 0x41 => go (covered && !held) sent
  | 0x42 => if met then go (!held) [] else { a with still := true }
  | 0x43 => if covered && met then go (!held) sent else { a with still := true, tokens := a.tokens ++ sent }
  | 0x71 => { a with still := true }
  | _ => go (!held) []

/-- Walk a list of a logical tile. -/
def walkList (h : Withheld) (count : Nat → Nat) (cmds : List (Word64 × Word64)) (l c : Nat) : ListWalk :=
  let upto := match h.cap l c with
    | some k => cmds.take k
    | none => cmds
  upto.zipIdx.foldl (fun (a : ListWalk) w => a.next count w.1.1.toNat w.1.2.toNat (h.cmd == some (l, c, w.2))) ⟨0, false, true, true, []⟩

/-- How far a run has come: the walks by tile and list, and the armings that have completed, by tile and position. -/
structure OrderRun where
  walks : List (List ListWalk)
  done : List (Nat × Nat)
  deriving DecidableEq, Repr

/-- What a run reads of the image: commands and armings by tile. -/
structure OrderView where
  image : Image
  cmds : List (List (List (Word64 × Word64)))
  armings : List (List (ListArming × Descriptor))

/-- The view of an image. -/
def Image.orderView (m : Image) : OrderView where
  image := m
  cmds := (List.range m.tiles).map fun l => (List.range 4).map fun c => m.cmds l c
  armings := (List.range m.tiles).map fun l => (m.allArmings l).map fun a => (a, m.armed l a)

/-- The armings of a tile. -/
def OrderView.of_ (v : OrderView) (l : Nat) : List (ListArming × Descriptor) := v.armings.getD l []

/-- Commands that a list has issued. -/
def OrderRun.pos (g : OrderRun) (l c : Nat) : Nat := (((g.walks.getD l []).getD c ⟨0, false, true, true, []⟩)).pos

/-- An arming has started: it is armed, its start has issued, and every earlier arming of its queue has completed. -/
def OrderView.begun (v : OrderView) (g : OrderRun) (l k : Nat) : Bool :=
  match (v.of_ l)[k]? with
  | none => false
  | some a =>
    (match a.1.start with
      | some i => decide (i < g.pos l 2)
      | none => false) &&
    (((v.of_ l).take k).zipIdx.all fun b => b.1.1.queue != a.1.queue || g.done.contains (l, b.2))

/-- The bytes of a PUT-TILE lie in an EXPECT's region (R142, R144). -/
def putInto (put ex : Descriptor) : Bool :=
  (List.range put.rows).all fun r =>
    let lo := put.target % 2 ^ 32 + r * put.stride
    ex.localRuns.any fun x => decide (x.1 ≤ lo ∧ lo + put.rowLen ≤ x.2)

/-- Destination tile and queue of a PUT-TILE (R142). -/
def putDest (d : Descriptor) : Nat × Nat := (bits d.target 63 56, bits d.target 52 48)

/-- Bytes that have reached the EXPECTs of a queue. -/
def OrderView.receivedAt (v : OrderView) (g : OrderRun) (l q : Nat) : Nat :=
  (g.done.filterMap fun k => ((v.of_ k.1)[k.2]?).bind fun a =>
    if a.2.kind = 1 ∧ putDest a.2 = (l, q) then some (a.2.rows * a.2.rowLen) else none).sum

/-- An arming that has started completes (R140, R148). -/
def OrderView.completes (v : OrderView) (g : OrderRun) (l k : Nat) : Bool :=
  v.begun g l k && (match (v.of_ l)[k]? with
    | none => false
    | some a =>
      match a.2.kind with
      | 1 => (v.of_ (putDest a.2).1).zipIdx.any fun e =>
          e.1.2.kind == 5 && e.1.1.queue == (putDest a.2).2 && v.begun g (putDest a.2).1 e.2 && putInto a.2 e.1.2
      | 5 => decide ((((v.of_ l).take (k + 1)).map fun e => if e.2.kind = 5 ∧ e.1.queue = a.1.queue then e.2.rows * e.2.rowLen else 0).sum ≤
          v.receivedAt g l a.1.queue)
      | _ => true)

/-- Every GRAD-OUT arming of a bucket has completed, so that the bucket can be done (R348). -/
def OrderView.bucketDone (v : OrderView) (g : OrderRun) (b : Nat) : Bool :=
  (List.range v.armings.length).all fun l => (v.of_ l).zipIdx.all fun a =>
    !(a.1.2.kind == 6 && a.1.2.target / 2 ^ 32 == b) || g.done.contains (l, a.2)

/-- The tokens that a Buckle has received. -/
def OrderView.counter (v : OrderView) (h : Withheld) (g : OrderRun) (b : Nat) : Nat :=
  (g.walks.map fun t => (t.map fun w => tokensFor b w.tokens).sum).sum +
  (g.done.filter fun k => (((v.of_ k.1)[k.2]?).map fun a => a.2.buckle) == some b).length +
  ((v.image.decls.filter fun d => d.kind == 1).map fun d => (bits (wordAt d.words 0) 63 32, d.done)).eraseDups.countP (fun d =>
    d.2 == b && h.bucket != some d.1 && v.bucketDone g d.1) +
  v.image.decls.countP fun d => d.kind == 3 && d.done == b

/-- One round: every list walks on, then every arming that can completes. -/
def OrderView.round (v : OrderView) (h : Withheld) (g : OrderRun) : OrderRun :=
  let walks := v.cmds.zipIdx.map fun t => t.1.zipIdx.map fun c => walkList h (v.counter h g) c.1 t.2 c.2
  let g := { g with walks := walks }
  let fresh := (List.range v.armings.length).flatMap fun l =>
    ((List.range (v.of_ l).length).filter fun k => !g.done.contains (l, k) && h.arming != some (l, k) && v.completes g l k).map fun k => (l, k)
  { g with done := g.done ++ fresh }

/-- Rounds until nothing changes; `n` bounds them. -/
def OrderView.rounds (v : OrderView) (h : Withheld) : Nat → OrderRun → OrderRun
  | 0, g => g
  | n + 1, g =>
    let g' := v.round h g
    if g' = g then g else v.rounds h n g'

/-- The greatest run: each round but the last issues a command or completes an arming. -/
def OrderView.run (v : OrderView) (h : Withheld) : OrderRun :=
  v.rounds h ((v.cmds.map fun t => (t.map List.length).sum).sum + (v.armings.map List.length).sum + 2) ⟨[], []⟩

/-! ### Order of accesses -/

/-- An access has begun in a run: its command has issued, or its arming has started. -/
def OrderView.begins (v : OrderView) (g : OrderRun) (l : Nat) (b : Access) : Bool :=
  match b.arming with
  | some k => v.begun g l k
  | none => decide (b.cmd < g.pos l b.list)

/-- A run with the completion of an access withheld. -/
def withholdAccess (l : Nat) (a : Access) : Withheld :=
  match a.arming with
  | some k => { withholdNone with arming := some (l, k) }
  | none => { withholdNone with cmd := some (l, a.list, a.cmd) }

/-- Access `a` of a logical tile is complete before `b` begins: commands of one list stand in its order, and others are ordered by Buckles. -/
def OrderView.before (v : OrderView) (l : Nat) (a b : Access) : Bool :=
  if a.arming.isNone && b.arming.isNone && a.list == b.list then decide (a.cmd < b.cmd)
  else !(v.begins (v.run (withholdAccess l a)) l b)

/-- Two runs of bytes or rows overlap. -/
def overlaps (x y : List (Nat × Nat)) : Bool := x.any fun a => y.any fun b => decide (a.1 < b.2 ∧ b.1 < a.2)

/-- What two lists of runs have in common. -/
def common (x y : List (Nat × Nat)) : List (Nat × Nat) :=
  (x.flatMap fun a => y.map fun b => (max a.1 b.1, min a.2 b.2)).filter fun r => decide (r.1 < r.2)

/-- Runs without the bytes of others. -/
def without (x y : List (Nat × Nat)) : List (Nat × Nat) :=
  y.foldl (fun (x : List (Nat × Nat)) b =>
    (x.flatMap fun a => [(a.1, min a.2 b.1), (max a.1 b.2, a.2)]).filter fun r => decide (r.1 < r.2)) x

/-- Two accesses meet in one place and one of them writes. -/
def Access.meets (a b : Access) : Bool := a.space == b.space && (a.write || b.write) && overlaps a.runs b.runs

/-- The interlock of R157 covers the read of a LOADW, of an MMUL's rows or of a vector LD behind an inbound arming whose start it cannot pass. -/
def OrderView.interlocked (v : OrderView) (l : Nat) (a b : Access) : Bool :=
  a.arming.isSome && a.write && !b.write && b.waits &&
  !(v.begins (v.run { withholdNone with cap := fun t c => if t = l ∧ c = 2 then some a.cmd else none }) l b)

/-- Where an order check failed: the command of an access. -/
def accessFault (m : Image) (xs : List Section) (l : Nat) (a : Access) : LoadFault := (4, commandOffset m xs l a.list a.cmd)

/-- Accesses from two contexts to one row or byte are ordered (R136, R157). -/
def OrderView.crossBad (v : OrderView) (xs : List Section) (l : Nat) : Option LoadFault :=
  let as := v.image.accesses l
  (as.findSome? fun a => (as.find? fun b => a.list < b.list && a.meets b &&
    !(v.before l a b || v.before l b a || v.interlocked l a b || v.interlocked l b a))).map (accessFault v.image xs l)

/-- What an arming writes in a store: the tile of the store, the arming, and the bytes. -/
structure StoreWriter where
  store : Nat
  tile : Nat
  arming : Nat
  put : Bool
  runs : List (Nat × Nat)
  deriving DecidableEq, Repr

/-- The armings that write a store, their own or another tile's (R140). -/
def OrderView.writers (v : OrderView) : List StoreWriter :=
  (List.range v.armings.length).flatMap fun l => (v.of_ l).zipIdx.filterMap fun a =>
    let d := a.1.2
    match d.kind with
    | 1 => some ⟨(putDest d).1, l, a.2, true, strided (d.target % 2 ^ 32) d.stride d.rows d.rowLen⟩
    | 3 | 4 | 5 => some ⟨l, l, a.2, false, d.localRuns⟩
    | _ => none

/-- Two armings that can be outstanding together write no byte in common (R149); a PUT-TILE writes what its EXPECT receives. -/
def OrderView.outstandingBad (v : OrderView) (xs : List Section) : Option LoadFault :=
  let ws := v.writers
  let expect := fun (w : StoreWriter) => (((v.of_ w.tile)[w.arming]?).map fun a => a.2.kind == 5).getD false
  let apart := fun (a b : StoreWriter) => !(v.begun (v.run { withholdNone with arming := some (a.tile, a.arming) }) b.tile b.arming)
  (ws.zipIdx.findSome? fun a => (ws.zipIdx.find? fun b =>
    decide (a.2 < b.2) && a.1.store == b.1.store && !(a.1.put && expect b.1) && !(b.1.put && expect a.1) && overlaps a.1.runs b.1.runs &&
    !(apart a.1 b.1 || apart b.1 a.1))).map fun b =>
      (4, commandOffset v.image xs b.1.tile 2 ((((v.of_ b.1.tile)[b.1.arming]?).map fun a => a.1.arm).getD 0))

/-- No list overruns a queue: the third arming of a queue is not armed before the first has completed (R147). -/
def OrderView.overrunBad (v : OrderView) (xs : List Section) (l : Nat) : Option LoadFault :=
  let as := (v.of_ l).zipIdx
  (as.findSome? fun a =>
    match ((as.filter fun b => decide (a.2 < b.2) && b.1.1.queue == a.1.1.queue)[1]?) with
    | none => none
    | some b => if b.1.1.arm < (v.run { withholdNone with arming := some (l, a.2) }).pos l 2 then some b.1.1.arm else none).map fun i =>
      (4, commandOffset v.image xs l 2 i)

/-! ### Layers (R23, R245, R266, R462) -/

/-- The accumulator rows that wait to be drained, with the layer that wrote them, and the layers with array work so far. -/
structure LayerWalk where
  dirty : List (Nat × Nat × Nat)
  layers : List Nat
  bad : Option Nat
  deriving DecidableEq, Repr

/-- No array work on a third layer before the rows of the layer before the last have been drained (R23). -/
def LayerWalk.next (m : Image) (l : Nat) (a : LayerWalk) (i w0 w1 : Nat) : LayerWalk :=
  let minus := fun (d : List (Nat × Nat × Nat)) (lo hi : Nat) => d.flatMap fun r => (without [r.2] [(lo, hi)]).map fun x => (r.1, x)
  let enter := fun (c : Nat) =>
    let prev := (a.layers.filter (· != c)).foldl max 0
    let stale := a.dirty.any fun r => r.1 != c && r.1 != prev
    { a with
      layers := if a.layers.contains c then a.layers else a.layers ++ [c]
      bad := if stale && a.bad.isNone then some i else a.bad }
  match bits w0 63 56, m.layerOf l 0 i with
  | 0x11, some c => enter c
  | 0x12, some c =>
    let o := mmulOf w0 w1
    let b := enter c
    { b with dirty := (c, o.base.toNat, o.base.toNat + o.rows.toNat + 1) :: minus b.dirty o.base.toNat (o.base.toNat + o.rows.toNat + 1) }
  | 0x13, _ =>
    let o := drainOf w0 w1
    { a with dirty := minus a.dirty o.first.toNat (o.first.toNat + o.rows.toNat + 1) }
  | _, _ => a

/-- The two-layer limit of a logical tile (R23). -/
def twoLayersBad (m : Image) (xs : List Section) (l : Nat) : Option LoadFault :=
  ((m.cmds l 0).zipIdx.foldl (fun (a : LayerWalk) w => a.next m l w.2 w.1.1.toNat w.1.2.toNat) ⟨[], [], none⟩).bad.map fun i =>
    (4, commandOffset m xs l 0 i)

/-- The index at which the lists are held behind a layer: the entry index of the next layer, or the STEP. -/
def Image.holdIndex (m : Image) (n l c : Nat) : Nat := if n + 1 < m.layerCount then m.entry l (n + 1) c else (m.cmds l c).length - 1

/-- Layer closure (R245, R266): with every list held behind layer `n`, every command of the layers up to it has completed, and so has every arming that one of
them started. -/
def OrderView.closureBad (v : OrderView) (xs : List Section) (n : Nat) : Option LoadFault :=
  let m := v.image
  let g := v.run { withholdNone with cap := fun l c => some (m.holdIndex n l c) }
  (List.range m.tiles).findSome? fun l =>
    match (List.range 4).find? fun c => decide (m.entry l 0 c < m.holdIndex n l c) &&
        (decide (g.pos l c < m.holdIndex n l c) || !(((g.walks.getD l []).getD c ⟨0, false, true, true, []⟩).all)) with
    | some c => some (4, commandOffset m xs l c (min (g.pos l c) (m.holdIndex n l c)))
    | none => ((v.of_ l).zipIdx.find? fun a => (match a.1.1.start with
        | some i => decide (m.entry l 0 2 ≤ i ∧ i < m.holdIndex n l 2)
        | none => false) && !g.done.contains (l, a.2)).map fun a => (4, commandOffset m xs l 2 a.1.1.arm)

/-- Every command and arming of a layer of a logical tile has completed before an access begins. -/
def OrderView.behindLayer (v : OrderView) (l n : Nat) (w : Access) : Bool :=
  let m := v.image
  ((List.range 4).all fun c => (List.range (m.cmds l c).length).all fun i =>
    m.layerOf l c i != some n || v.before l ⟨c, i, none, 0, false, 0, [], false⟩ w) &&
  ((v.of_ l).zipIdx.all fun a => match a.1.1.start with
    | some i => m.layerOf l 2 i != some n || w.arming == some a.2 || v.before l ⟨2, i, some a.2, a.1.2.kind, false, 0, [], false⟩ w
    | none => true)

/-- A layer's inputs stay until the layer has completed (R462): what a command of the layer reads and an earlier command wrote, and what an EXPECT of the layer
receives. A write that is ordered before the read gives the read its value, and overwrites no input. -/
def OrderView.inputsBad (v : OrderView) (xs : List Section) (l n : Nat) : Option LoadFault :=
  let m := v.image
  let as := m.accesses l
  let mine := fun (a : Access) => m.layerOf l a.list a.cmd == some n
  let late := fun (a : Access) => decide (m.entry l n a.list ≤ a.cmd)
  let reads := as.filter fun a => !a.write && mine a
  let olds := as.filter fun a => a.write && !late a
  let expects := as.filter fun a => a.write && a.arming.isSome && a.kind == 5 && mine a
  let writes := as.filter fun a => a.write && late a
  (writes.find? fun w =>
    (reads.any fun r => r.space == w.space &&
      let both := common r.runs w.runs
      !both.isEmpty &&
      ((olds.any fun p => p.space == w.space && overlaps both p.runs && !v.before l w r) ||
       (w.space == 0 && expects.any fun e => e != w && overlaps both e.runs))) &&
    !(v.behindLayer l n w)).map (accessFault m xs l)

/-! ### Tensors (R66, R197, R329, R333) -/

/-- A derived operand has one role (R66). -/
def rolesBad (m : Image) (xs : List Section) : Option LoadFault :=
  let arrays := m.layers.filter fun y => y.pass != 4
  (m.layers.zipIdx.find? fun y => y.1.pass != 4 && (m.tensor y.1.row).map (·.kind) == some 11 && arrays.any fun z => z.stat == y.1.row).map fun y =>
    (2, recordOffset xs 2 y.2 + 8)

/-- The wire bytes that a GRAD-OUT descriptor covers (R329). -/
def Descriptor.wireRuns (d : Descriptor) : List (Nat × Nat) :=
  (List.range d.rows).map fun r => (d.position + r * (d.rowLen / 4), d.position + (r + 1) * (d.rowLen / 4))

/-- The GRAD-OUT armings of a bucket: tile, position, descriptor. -/
def OrderView.gradients (v : OrderView) (b : Nat) : List (Nat × Nat × Descriptor) :=
  (List.range v.armings.length).flatMap fun l => (v.of_ l).zipIdx.filterMap fun a =>
    if a.1.2.kind = 6 ∧ a.1.2.target / 2 ^ 32 = b ∧ a.1.1.start.isSome = true then some (l, a.2, a.1.2) else none

/-- The wire bytes of a bucket's ranges (R328): handle, residual, length, with the declaration's position. -/
def Image.bucketSpans (m : Image) : List (Nat × Nat × Nat × Nat) :=
  m.decls.zipIdx.filterMap fun d =>
    if d.1.kind = 1 then
      let w2 := wordAt d.1.words 1
      let w4 := wordAt d.1.words 3
      some (bits (wordAt d.1.words 0) 63 32, bits w2 31 0, bits w4 31 0 + bits w4 63 32, d.2)
    else none

/-- A residual tensor is written in full in every step that sends its bucket (R197, R212). -/
def OrderView.residualsBad (v : OrderView) (xs : List Section) : Option LoadFault :=
  (v.image.bucketSpans.find? fun b =>
    let gs := v.gradients b.1
    let len := ((v.image.tensor b.2.1).map (·.length)).getD 0
    !gs.isEmpty && !(without [(0, len / 2)] (gs.flatMap fun g => g.2.2.wireRuns)).isEmpty).map fun b => (8, recordOffset xs 8 b.2.2.2)

/-- A GRAD-OUT source is written only before its arming, or behind a wait on the bucket's done Buckle (R333). -/
def OrderView.sourcesBad (v : OrderView) (xs : List Section) (l : Nat) : Option LoadFault :=
  let m := v.image
  let as := m.accesses l
  ((as.filter fun a => a.arming.isSome && a.kind == 6).findSome? fun g =>
    let b := (((v.of_ l)[g.arming.getD 0]?).map fun a => a.2.target / 2 ^ 32).getD 0
    let run := v.run { withholdNone with bucket := some b }
    as.find? fun w => w.write && w.space == 0 && overlaps w.runs g.runs && !v.before l w g && v.begins run l w).map (accessFault m xs l)

/-- Row 8 of R188. -/
def orderBad (m : Image) (xs : List Section) : Option LoadFault :=
  let v := m.orderView
  let tiles := List.range m.tiles
  let layers := List.range m.layerCount
  [ fun _ => tiles.findSome? (twoLayersBad m xs),
    fun _ => tiles.findSome? (v.crossBad xs),
    fun _ => v.outstandingBad xs,
    fun _ => tiles.findSome? (v.overrunBad xs),
    fun _ => layers.findSome? (v.closureBad xs),
    fun _ => tiles.findSome? fun l => layers.findSome? (v.inputsBad xs l),
    fun _ => v.residualsBad xs,
    fun _ => tiles.findSome? (v.sourcesBad xs),
    fun (_ : Unit) => rolesBad m xs ].findSome? fun f => f ()

/-! ### Restart layers (R463) -/

/-- A layer is fit for a restart of a logical tile: what its commands and later ones read before they write it lies in checkpoints, the checkpoints' shadow
armings start before, and its draws follow an RNGRS that reads a checkpoint. -/
def OrderView.restartFit (v : OrderView) (l r : Nat) : Bool :=
  let m := v.image
  let late := fun (c i : Nat) => decide (m.entry l r c ≤ i)
  let as := (m.accesses l).filter fun a => a.space == 0 && late a.list a.cmd
  let writes := as.filter (·.write)
  let bare := (as.filter fun a => !a.write).flatMap fun rd => without rd.runs ((writes.filter fun w => v.before l w rd).flatMap (·.runs))
  let shadows := (v.of_ l).filter fun a => a.2.kind == 2 && (m.tensor (a.2.target / 2 ^ 32)).map (·.kind) == some 5
  let early := fun (a : ListArming × Descriptor) => match a.1.start with
    | some i => !late 2 i
    | none => false
  let kept := shadows.flatMap fun a => a.2.localRuns
  let draws := (m.cmds l 1).zipIdx.filterMap fun w =>
    let f := bits w.1.2.toNat 63 56
    if cmdClassOp w.1.1 = 0x21 ∧ late 1 w.2 = true ∧ 0x38 ≤ f ∧ f ≤ 0x3B then some (w.2, f, (vecOf w.1.1.toNat w.1.2.toNat).addr.toNat) else none
  let inKept := fun (xs : List (Nat × Nat)) => (without xs kept).isEmpty && (shadows.all fun a => !overlaps xs a.2.localRuns || early a)
  let restore := (draws.find? fun d => d.2.1 == 0x3B && inKept [(d.2.2, d.2.2 + 32768)]).map (·.1)
  inKept bare &&
  (r == 0 || draws.all fun d => d.2.1 == 0x3B || (match restore with
    | some i => decide (i < d.1)
    | none => false))

/-- The restart layers of every logical tile and layer that has one (R463). -/
def Image.restartLayers (m : Image) : List ((Nat × Nat) × Nat) :=
  let v := m.orderView
  (List.range m.tiles).flatMap fun l =>
    let fit := (List.range m.layerCount).filter fun r => v.restartFit l r
    (List.range m.layerCount).filterMap fun n => ((fit.filter (· ≤ n)).getLast?).map fun r => ((l, n), r)

end Sys2Proof.Machine
end

