-- ==== Sys2Proof/Machine/LoadTail.lean ====
section
/-! DEFINITION. The last load checks: storage, Buckles, collectives and layout (R203, R229, R230, R232, R235, R240, R253, R255, R267, R328, R329, R354, R368, R188
rows 9 to 11), and all eleven rows in order. -/

namespace Sys2Proof.Machine

/-! ### Row 9: storage (R195, R203, R232) -/

/-- An FP32 code that is finite and not negative. -/
def nonNeg32 (w : Nat) : Bool := decide (w < 0x7F800000 ∨ w = 0x80000000)
/-- An FP32 code in [0, 1). -/
def unit32 (w : Nat) : Bool := decide (w < 0x3F800000 ∨ w = 0x80000000)
/-- An FP64 code that is finite and not negative. -/
def nonNeg64 (w : Nat) : Bool := decide (w < 0x7FF0000000000000 ∨ w = 0x8000000000000000)

/-- One update program (R203): the offset of the first word that breaks a range. -/
def programBad (ws : List Word64) : Option Nat :=
  let rule := bits (wordAt ws 0) 63 56
  let n := bits (wordAt ws 0) 55 48
  firstBad (
    [ (decide (1 ≤ rule ∧ rule ≤ 3), 0), (decide (1 ≤ n ∧ n ≤ 250), 0), (decide (bits (wordAt ws 0) 47 45 ≤ 4), 0), (zeroField ws 0 44 32, 0),
      (unit32 (bits (wordAt ws 1) 63 32) && unit32 (bits (wordAt ws 1) 31 0), 8), (rule != 1 || bits (wordAt ws 1) 31 0 == 0, 8),
      (nonNeg32 (bits (wordAt ws 2) 63 32) && nonNeg32 (bits (wordAt ws 2) 31 0), 16), (rule == 2 || bits (wordAt ws 2) 63 32 == 0, 16),
      (bits (wordAt ws 3) 62 55 != 255 && bits (wordAt ws 3) 62 32 != 0, 24), (zeroField ws 3 31 0, 24),
      (wordAt ws 5 == 0 && wordAt ws 6 == 0 && wordAt ws 7 == 0, 40) ] ++
    ((List.range n).map fun j => (j == 0 || decide (wordAt ws (6 + 2 * j) < wordAt ws (8 + 2 * j)), 64 + 16 * j)) ++
    ((List.range n).map fun j => (nonNeg64 (wordAt ws (9 + 2 * j)), 72 + 16 * j)) ++
    [ ((ws.drop (8 + 2 * n)).take (502 - 2 * n) |>.all (· == 0), 64 + 16 * n), (crcOk ws 510, 4080), (zeroField ws 510 31 0, 4080), (wordAt ws 511 == 0, 4088) ])

/-- Regions fit outside the reserved area of each slice, of which a partition without slices has none, and the update programs are sound. -/
def storageBad (p : Partition) (m : Image) (xs : List Section) : Option LoadFault :=
  if (if p.place.stripe.isEmpty then 0 else 39 * 2 ^ 28) < (p.extents m).2 then some (1, recordOffset xs 1 0)
  else (((sectionRecords xs 9).map bytesWords).zipIdx.findSome? fun r => (programBad r.1).map fun o => (9, recordOffset xs 9 r.2 + o))

/-! ### Row 10: Buckles (R177, R230, R253, R255, R267) -/

/-- The tiles behind the logical tiles of an image: the partition's tiles in service, in snake order (R229). -/
def State.tilesInService (s : State) (n : PartId) : List TileId :=
  snakeOrder.filter fun t => (s.parts.get n).tiles.contains t && (s.tiles.get t).healthy

/-- The binding that a load makes, before its homes (R229). -/
def State.bindTiles (s : State) (n : PartId) (m : Image) : State :=
  let ts := ((s.tilesInService n).take m.tiles).map some
  s.modPart n fun p => { p with place := { p.place with binding := ts, homes := [] } }

/-- The Buckles of an image of partition scope (R254). -/
def Image.wideBuckles (m : Image) : List Nat := m.buckles.filter fun b => (m.tileScope b).isNone

/-- The commands of a list that can send an arrival to a Buckle of partition scope (R267). -/
def Image.numbered (m : Image) (wide : List Nat) (l c : Nat) : Nat :=
  ((m.tokens l c (m.cmds l c).length).filter fun t => wide.contains t.1).length +
  (if c = 2 then ((m.allArmings l).filter fun a => a.start.isSome && wide.contains (m.completion l a.desc)).length else 0)

/-- The first WAIT or ARRWAIT of a list whose target lies above the declared total (R253). -/
def Image.overTarget (m : Image) (totals : List (Nat × Nat)) (l c : Nat) : Option Nat :=
  ((m.cmds l c).zipIdx.find? fun w =>
    (cmdClassOp w.1.1 == 0x42 || cmdClassOp w.1.1 == 0x43) &&
    decide ((Assoc.get (bits w.1.1.toNat 55 40) totals).getD 0 < bits w.1.2.toNat 63 32)).map (·.2)

/-- The Buckles of an image against its partition. -/
def State.bucklesBad (s : State) (n : PartId) (m : Image) (xs : List Section) : Option LoadFault :=
  let p := s.parts.get n
  let tiles := List.range m.tiles
  let limit := 4096 * m.ranges
  if p.ranges.length < m.ranges then some (0, 32)
  else match tiles.findSome? fun l => ((m.allArmings l).find? fun a => decide (limit ≤ m.completion l a.desc)).map fun a =>
      ((5, recordOffset xs 5 ((m.dirOf l).firstDesc + a.desc)) : LoadFault) with
  | some f => some f
  | none =>
    match m.decls.zipIdx.find? fun d => d.1.kind != 2 && decide (limit ≤ d.1.done) with
    | some d => some (8, recordOffset xs 8 d.2)
    | none =>
      let totals := m.buckles.map fun b => (b, m.total b)
      match totals.find? fun t => decide (2 ^ 32 ≤ t.2) with
      | some _ => some (4, recordOffset xs 4 0)
      | none =>
        match tiles.findSome? fun l => (List.range 4).findSome? fun c => (m.overTarget totals l c).map fun i => ((4, commandOffset m xs l c i) : LoadFault) with
        | some f => some f
        | none =>
          let wide := m.wideBuckles
          match tiles.find? fun l => decide (512 < ((m.named l).eraseDups.filter fun b => !wide.contains b).length) with
          | some l => some (3, recordOffset xs 3 l)
          | none =>
            if ((s.bindTiles n m).placeHomes n m wide).2 ≠ 0 then some (4, recordOffset xs 4 0)
            else tiles.findSome? fun l => ((List.range 4).find? fun c => decide (65536 < m.numbered wide l c)).map fun c =>
              (4, recordOffset xs 4 (m.listPages l c).1)

/-! ### Row 11: collectives and layout (R235, R240, R248, R328, R329, R353, R354, R368) -/

/-- The layout factors and the member table of a partition are sound, and those of every other member, as its port table came with them, are the same (R235, R248). -/
def Partition.layoutOk (p : Partition) : Bool :=
  let k := p.settings
  let n := k.modules.toNat
  let nums := (List.range (k.members.length / 16)).map fun i => field k.members (16 * i + 12) 2
  n == k.shardWidth.toNat * k.expertWidth.toNat * k.depth.toNat && decide (1 ≤ n ∧ k.logical.toNat < n ∧ k.shardWidth.toNat ≤ 32768 ∧ 1 ≤ k.nodeSize.toNat) &&
  (p.others.all fun x => ((Assoc.get x p.place.tables).getD []).drop 256 == k.layout) &&
  ((n == 1 && k.members.isEmpty) ||
    (k.members.length == 16 * n && nums.Nodup && (nums.all fun x => decide (x < n)) &&
      ((List.range n).all fun i => field k.members (16 * i + 14) 2 == 0) && p.serialOf k.logical.toNat == some Config.serial))

/-- One declaration (R328, R353, R354): the offset of the first word that breaks it. -/
def declBad (m : Image) (ws : List Word64) : Option Nat :=
  let w := wordAt ws
  let kindOf := fun (h : Nat) => (m.tensor h).map (·.kind)
  let common := [(zeroField ws 0 55 48, 0), (zeroField ws 0 31 0, 0), (zeroField ws 7 31 0, 56)]
  firstBad (match bits (w 0) 63 56 with
    | 1 => common ++
      [ (kindOf (bits (w 1) 63 32) == some 10, 8), (zeroField ws 1 16 0, 8), (kindOf (bits (w 2) 63 32) == some 1, 16), (kindOf (bits (w 2) 31 0) == some 6, 16),
        (bits (w 4) 63 32 % 32 == 0 && bits (w 4) 31 0 % 32 == 0, 32),
        (((m.tensor (bits (w 2) 63 32)).map fun d => decide (w 3 + bits (w 4) 63 32 ≤ d.elements)) == some true, 24),
        (zeroField ws 5 47 0, 40), (w 6 == 0, 48) ]
    | 2 => common ++
      [ (bits (w 0) 47 32 == 0, 0), (((m.tensor (bits (w 1) 63 32)).map fun d => (d.kind == 2 || d.kind == 3) && d.residency == 0) == some true, 8),
        (bits (w 1) 31 30 == 1 || bits (w 1) 31 30 == 2, 8), (zeroField ws 1 29 0, 8), (w 2 % 4096 == 0, 16), (w 3 == 0 && w 4 == 0 && w 5 == 0 && w 6 == 0, 24) ]
    | 3 => common ++
      [ (kindOf (bits (w 1) 63 32) == some 1 || kindOf (bits (w 1) 63 32) == some 7, 8),
        (((m.tensor (bits (w 1) 31 0)).map fun d => decide (16 * w 2 ≤ d.length)) == some true, 16), (w 3 == 0 && w 4 == 0 && w 5 == 0 && w 6 == 0, 24) ]
    | _ => [(false, 0)])

/-- Two runs of naturals are disjoint. -/
def apart (a n b k : Nat) : Bool := decide (n = 0 ∨ k = 0 ∨ a + n ≤ b ∨ b + k ≤ a)

/-- No two entries of a list meet under a test. -/
def pairwise {α : Type} (ok : α → α → Bool) : List α → Bool
  | [] => true
  | x :: xs => xs.all (ok x) && pairwise ok xs

/-- The ranges of one bucket agree, are disjoint, cover its bytes from 0, take each weight element once, and its residual is its own and has its size (R329). -/
def Image.bucketOk (m : Image) (b : Nat) : Bool :=
  let rs := m.rangesOf b
  let sizes := (m.decls.filter fun d => d.kind == 1 && bits (wordAt d.words 0) 63 32 == b).map fun d => bits (wordAt d.words 0) 31 28
  match rs.head?, sizes.head? with
  | some r, some size =>
    let len := rs.foldl (fun (a : Nat) x => max a (x.offset + x.count)) 0
    sizes.all (· == size) &&
    (rs.all fun x => x.headroom == r.headroom && x.reverse == r.reverse && x.deadline == r.deadline && x.done == r.done && x.residual == r.residual) &&
    (m.ranges_.all fun x => x.bucket == b || x.residual != r.residual) &&
    pairwise (fun (x y : BucketRange) => apart x.offset x.count y.offset y.count) rs &&
    pairwise (fun (x y : BucketRange) => x.weight != y.weight || apart x.first x.count y.first y.count) rs &&
    (rs.map (·.count)).sum == len && decide (len ≤ (size + 1) * 2 ^ 22) &&
    ((m.tensor r.residual).map (·.length)) == some (2 * len)
  | _, _ => true

/-- Every covered byte of a bucket is written by exactly one GRAD-OUT transfer, whose row length is a multiple of 128 bytes (R329). -/
def OrderView.bucketWrites (v : OrderView) (b : Nat) : Bool :=
  let gs := v.gradients b
  let runs := gs.flatMap fun g => g.2.2.wireRuns
  let len := (v.image.rangesOf b).foldl (fun (a : Nat) x => max a (x.offset + x.count)) 0
  (gs.all fun g => g.2.2.rowLen % 128 == 0) && (without [(0, len)] runs).isEmpty && (runs.all fun r => decide (r.2 ≤ len)) &&
  pairwise (fun (x y : Nat × Nat) => apart x.1 (x.2 - x.1) y.1 (y.2 - y.1)) runs

/-- The stamp keys of an arming's transfers with their polynomial (R363); an arming of polynomial 0 stamps nothing. -/
def armingKey (l : Nat) (d : Descriptor) : List (Nat × Nat) :=
  let h := d.target / 2 ^ 32
  if d.poly = 0 then []
  else match d.kind with
    | 1 => [(stampKey 5 0 (bits d.target 63 56), d.poly)]
    | 2 => [(stampKey 1 0 h, d.poly)]
    | 3 => [(stampKey 2 0 h, d.poly)]
    | 4 => [(stampKey 3 0 h, d.poly)]
    | 5 => [(stampKey 6 0 l, d.poly)]
    | 6 => [(stampKey 4 0 h, d.poly)]
    | _ => []

/-- An arming that gives its key another polynomial than an earlier one, or a logical tile that stamps more than 256 keys in a layer (R368). -/
def keysBad (m : Image) (v : OrderView) (xs : List Section) : Option LoadFault :=
  let all := (List.range m.tiles).flatMap fun l => (v.of_ l).flatMap fun a => (armingKey l a.2).map fun k => (k, (m.dirOf l).firstDesc + a.1.desc)
  match all.zipIdx.find? fun x => (all.take x.2).any fun y => y.1.1 == x.1.1.1 && y.1.2 != x.1.1.2 with
  | some x => some (5, recordOffset xs 5 x.1.2)
  | none => ((List.range m.tiles).find? fun l =>
      let ks := ((v.of_ l).flatMap fun a => (armingKey l a.2).map fun k => (m.layerOf l 2 (a.1.start.getD a.1.arm), k.1)).eraseDups
      (ks.map (·.1)).eraseDups.any fun y => decide (256 < (ks.filter fun k => k.1 == y).length)).map fun l => (3, recordOffset xs 3 l)

/-- Row 11 of R188; the second component says that every pair of the cuts has a route. -/
def Partition.collectivesBad (p : Partition) (reach : Bool) (m : Image) (xs : List Section) : Option LoadFault :=
  if !p.layoutOk || !reach then some (0, 0)
  else if 16383 < m.decls.length then some (8, recordOffset xs 8 0)
  else
    let recs := (sectionRecords xs 8).map bytesWords
    match recs.zipIdx.findSome? fun r => (declBad m r.1).map fun o => ((8, recordOffset xs 8 r.2 + o) : LoadFault) with
    | some f => some f
    | none =>
      let v := m.orderView
      match m.bucketHandles.find? fun b => !(m.bucketOk b && v.bucketWrites b) with
      | some b => some (8, recordOffset xs 8 ((m.decls.findIdx? fun d => d.kind == 1 && bits (wordAt d.words 0) 63 32 == b).getD 0) + 8)
      | none => keysBad m v xs

/-! ### All rows (R188) -/

/-- The first load check that an image fails: its row, counted from 1, and where. `bs` is the host buffer. -/
def State.loadBad (s : State) (n : PartId) (bs : List Byte) (revision : Nat) : Option (Nat × LoadFault) :=
  let p := s.parts.get n
  match headerBad bs bs.length revision with
  | some f => some (1, f)
  | none =>
    let bs := bs.take (wordAt (bytesWords (bs.take 64)) 3)
    let xs := sectionsOf bs
    let m := imageOf bs
    [ fun _ => (layoutBad bs xs).map fun f => (1, f),
      fun _ => (sectionsBad m xs).map fun f => (2, f),
      fun _ => (tensorsBad m xs).map fun f => (3, f),
      fun _ => (layersBad m xs).map fun f => (4, f),
      fun _ => (tilesBad m xs (s.tilesInService n).length p.settings.modules.toNat).map fun f => (5, f),
      fun _ => (descriptorsBad n m xs).map fun f => (6, f),
      fun _ => (commandsBad m xs).map fun f => (7, f),
      fun _ => (orderBad m xs).map fun f => (8, f),
      fun _ => (storageBad p m xs).map fun f => (9, f),
      fun _ => (s.bucklesBad n m xs).map fun f => (10, f),
      fun (_ : Unit) => (p.collectivesBad (s.assignCuts n).2 m xs).map fun f => ((11, f) : Nat × LoadFault) ].findSome? fun f => f ()

end Sys2Proof.Machine
end

