-- ==== Sys2Proof/Machine/HostIf.lean ====
section
/-! DEFINITION. The host interface: the links, the rings and their doorbells, loading and releasing, the inputs and outputs of a step, its start, state images and
reference records, and what faults and resets do there (R22, R78, R188, R229, R379, R380, R496 to R514). -/

namespace Sys2Proof.Machine

/-! ### Functions and links (R496, R498) -/

/-- The partition that a doorbell of a function reaches: none while the function is bound to none or its link is out of service (R496, R498). -/
def State.served (s : State) (f : FuncId) : Option PartId :=
  if s.linkUp f then s.partOfFn f else none

/-- The partition shows as parked or not; a change of the function status register raises vector 2 (R499, R500). -/
def State.park (s : State) (n : PartId) (b : Bool) : State :=
  if (s.parts.get n).run.parked = b then s else (s.modPart n fun p => { p with run := { p.run with parked := b } }).statusChanged n

/-- Set the step allowance. -/
def State.setAllowance (s : State) (n : PartId) (v : Word64) : State := s.modPart n fun p => { p with run := { p.run with allowance := v } }

/-! ### Entries (R501 to R503) -/

/-- The fields of a submission entry are in range and its reserved fields are 0 (R501). -/
def entrySound (ws : List Word64) : Bool :=
  let w := wordAt ws
  let kind := bits (w 0) 63 56
  let gated := kind == 4 || kind == 5
  let gate := bitAt (w 0) 55
  decide (1 ≤ kind ∧ kind ≤ 9) && (gated || !gate) && zeroField ws 0 53 32 &&
  (match kind with
    | 1 => decide (w 1 < 2 ^ 32)
    | 2 | 6 | 7 => w 1 == 0
    | 3 => decide (1 ≤ w 1 ∧ w 1 < 2 ^ 32)
    | _ => true) &&
  (gated || bits (w 2) 63 32 == 0) && (gate || bits (w 2) 31 16 == 0) && zeroField ws 2 15 0 &&
  w 3 % 64 == 0 && (gated || w 3 == 0) && w 4 % 64 == 0 && decide (w 4 ≤ 2 ^ 40) && (bitAt (w 0) 54 || w 5 % 64 == 0) &&
  zeroField ws 6 31 0 && zeroField ws 7 31 0

/-- The entry that eight words spell. -/
def entryOf (ws : List Word64) : OpenEntry where
  kind := bits (wordAt ws 0) 63 56
  tag := BitVec.ofNat 32 (bits (wordAt ws 0) 31 0)
  arg := ws.getD 1 0
  handle := bits (wordAt ws 2) 63 32
  gate := if bitAt (wordAt ws 0) 55 then some (bits (wordAt ws 2) 31 16) else none
  offset := wordAt ws 3
  length := wordAt ws 4
  addr := ws.getD 5 0
  pageList := bitAt (wordAt ws 0) 54
  registered := false
  running := false
  status := 0
  value := 0
  detail := 0
  data := []
  before := []
  posted := false

/-- The value of a completion that moves no bytes: the step for the kinds that name one (R503). -/
def OpenEntry.stepValue (e : OpenEntry) : Word64 := if e.kind = 4 ∨ e.kind = 5 ∨ e.kind = 8 ∨ e.kind = 9 then e.arg else 0

/-- The module reads one entry: it completes with status 1 or waits its turn. -/
def HostFn.readEntry (h : HostFn) (now : Nat) (ws : List Word64) : HostFn :=
  let r := h.submission
  let ok := ws.length == 8 && crcOk ws 7 && bits (wordAt ws 6) 63 32 == r.seq.toNat && entrySound ws
  let e := entryOf ws
  let h := { h with submission := { r with
    next := (r.next + 1) % 2 ^ 32
    seq := r.seq + 1
    slots := Assoc.put (r.next % r.size) ws r.slots } }
  if ok then { h with entries := h.entries ++ [e] } else h.post true now ⟨e.kind, 1, e.tag, e.stepValue, 0⟩

/-- SUBMISSION_TAIL (R496, R498, R501, R502): the entries up to the doorbell's index are read in ring order. -/
def execSubmissionTail (f : FuncId) (tail : Word32) (entries : List (List Word64)) (s : State) : Host.Outcome State Fault Refusal :=
  .next (
    let r := (s.fns.get f).submission
    if (s.served f).isNone ∨ !r.enabled then s
    else
      let n := (tail.toNat + 2 ^ 32 - r.next) % 2 ^ 32
      s.modFn f fun h => (entries.take n).foldl (fun (h : HostFn) ws => h.readEntry s.time ws)
        { h with submission := { h.submission with host := tail.toNat } })

/-- An entry leaves the ring's list with its completion; one that is applied again writes none (R503, R509). -/
def State.finish (s : State) (f : FuncId) (i status : Nat) (value : Word64) (detail : Nat) : State :=
  match (s.fns.get f).entries[i]? with
  | none => s
  | some e => s.modFn f fun h =>
    let h := { h with entries := h.entries.eraseIdx i }
    if e.posted then h else h.post (s.linkUp f) s.time ⟨e.kind, status, e.tag, value, BitVec.ofNat 32 detail⟩

/-- Change an entry. -/
def State.modEntry (s : State) (f : FuncId) (i : Nat) (g : OpenEntry → OpenEntry) : State :=
  s.modFn f fun h => { h with entries := h.entries.modify i g }

/-- The ordered entry of a kind that may start: every earlier entry of the ring has completed (R502). -/
def State.ordered (s : State) (f : FuncId) (kind : Nat) : Option (PartId × OpenEntry) :=
  match s.partOfFn f, (s.fns.get f).entries.head? with
  | some n, some e => if e.kind = kind ∧ e.running = false then some (n, e) else none
  | _, _ => none

/-- The ordered entry of a kind that moves host data, which waits while the port is out of service (R496). -/
def State.orderedData (s : State) (f : FuncId) (kind : Nat) : Option (PartId × OpenEntry) := if s.linkUp f then s.ordered f kind else none

/-- The first entry of a kind that a test finds, with its position. -/
def State.findEntry (s : State) (f : FuncId) (ok : OpenEntry → Bool) : Option (Nat × OpenEntry) :=
  ((s.fns.get f).entries.zipIdx.find? fun e => ok e.1).map fun e => (e.2, e.1)

/-- Gated entries of a function that run (R502). -/
def State.gatedRunning (s : State) (f : FuncId) : Nat := ((s.fns.get f).entries.filter fun e => e.running && (e.kind == 4 || e.kind == 5)).length

/-! ### Loading and releasing (R22, R188, R229, R505) -/

/-- A tile takes its logical tile at load: its tables, counters of zero, and contexts that wait for the first step (R228, R465). -/
def Tile.bind_ (x : Tile) (p : Partition) (m : Image) (l : Nat) : Tile :=
  let y := (x.restart (some [])).loadTables p m l
  { y with
    seqr := { y.seqr with ctxs := y.seqr.ctxs.map fun c => { c with state := .idle, pages := [] } }
    array := { y.array with active := none, shadow := none }
    power := { y.power with slackCeiling := 900 } }

/-- The record state at load: the mode in force is the one set, and both chains start anew (R377, R379). -/
def Replay.atLoad (r : Replay) : Replay :=
  { Replay.reset with
    setting := r.setting
    inForce := r.setting
    blockStamps := r.blockStamps
    records := r.records
    written := r.written
    truncated := r.truncated
    refWaits := r.refWaits
    refFaults := r.refFaults
    report := r.report
    stops := r.stops
    forced := r.forced
    readout := r.readout
    ignored := r.ignored }

/-- Bind an image that has passed every check: logical tiles, cuts, homes, totals and restart layers; the partition is Loaded and parked with step 0 next and
an allowance of 0 (R228 to R240, R253, R255, R463, R505). -/
def State.bindImage (s : State) (n : PartId) (m : Image) : State :=
  let s := ((s.assignCuts n).1).bindTiles n m
  let wide := m.wideBuckles
  let s := s.modPart n fun p => { p with
    state := .loaded
    image := some m
    place := { p.place with
      homes := m.buckles.filterMap fun b => (m.tileScope b).map fun l => (p.physBuckle b, Home.sequencer l)
      restart := m.restartLayers
      totals := m.buckles.map fun b => (p.physBuckle b, m.total b) }
    run := { StepRun.reset with parked := true }
    weights := Weights.reset
    reduce := Reduce.reset
    replay := p.replay.atLoad
    odd := Odd.reset
    slack := Slack.reset
    snapshots := []
    window := none
    moves := []
    closing := [] }
  let s := (s.placeHomes n m wide).1
  let p := s.parts.get n
  let s := { s with stackDies := s.stackDies.map fun (k : Stack) => { k with current := k.current.filter fun c => c.1.1 != n.1 } }
  let s := p.place.binding.zipIdx.foldl (fun (s : State) b => match b.1 with
    | some t => (s.modTile t fun x => (x.bind_ p m b.2).clearSent).requestCore t .running 3
    | none => s) s
  (({ s with fabric := s.fabric.restartMessages p.tiles } : State).statusChanged n).designate.refreshModule

/-- The port tables that a load needs from the other members (R238). -/
def Partition.tablesMissing (p : Partition) : Bool := p.others.any fun m => (Assoc.get m p.place.tables).isNone

/-- LOAD (R188, R238, R505): the module asks the other members for their port tables, and checks and binds the image once it holds them. A rejected image
leaves a record and completes with status 5; a bound one completes when its transfer has finished. -/
def execLoad (f : FuncId) (data : List Byte) (s : State) : Host.Outcome State Fault Refusal :=
  .next (match s.orderedData f 1 with
    | none => s
    | some (n, e) =>
      let p := s.parts.get n
      if p.state ≠ .composed ∨ s.module.state = .standby then s.finish f 0 2 0 0
      else if p.tablesMissing then
        if e.registered then s else (s.sendPortTable n).modEntry f 0 fun e => { e with registered := true }
      else
        let s := s.modPart n fun p => { p with place := { p.place with
          stripe := stripeOf p.slices
          ranges := sortBy (·.1) p.ranges
          tables := Assoc.put p.settings.logical.toNat (s.ownTable n) p.place.tables } }
        let bs := data.take e.length
        match s.loadBad n bs e.arg.toNat with
        | some (row, kind, off) =>
          let s := s.recordOwn { s.mkReport 0x0701 0 5 (some n) epControl 0 with
            step := none
            attempt := none
            detailA := (mkWord [at_ 24 row, at_ 16 kind]).setWidth 32
            detailB := BitVec.ofNat 64 off }
          s.finish f 0 5 0 row
        | none =>
          let len := wordAt (bytesWords (bs.take 64)) 3
          let s := s.bindImage n (imageOf (bs.take len))
          s.modEntry f 0 fun e => { e with running := true, value := BitVec.ofNat 64 len })

/-- Discard the bound image (R505): the tiles go to Retain, the slices are clean, and the settings stay. -/
def State.release (s : State) (n : PartId) : State :=
  let p := s.parts.get n
  let s := p.workers.foldl (fun (s : State) t => (s.clearStreams t false).modTile t fun x =>
    let y := x.clearSent
    let y := { y with seqr := { y.seqr with boundImage := 0, ctxs := y.seqr.ctxs.map fun _ => Context.reset } }
    if y.island.state == .off then y else y.goRetain) s
  let s := s.modPart n fun p => { p with
    state := .composed
    image := none
    place := { Placement.reset with stripe := stripeOf p.slices, tables := p.place.tables }
    run := StepRun.reset
    weights := Weights.reset
    reduce := Reduce.reset
    replay := { p.replay.atLoad with records := [], inForce := RunMode.off }
    odd := Odd.reset
    slack := Slack.reset
    snapshots := []
    window := none
    moves := []
    closing := [] }
  let s := { s with stackDies := s.stackDies.map fun (k : Stack) => { k with current := k.current.filter fun c => c.1.1 != n.1 } }
  (s.statusChanged n).designate.refreshModule

/-- RELEASE (R226, R505). -/
def execRelease (f : FuncId) (s : State) : Host.Outcome State Fault Refusal :=
  .next (match s.ordered f 2 with
    | none => s
    | some (n, _) =>
      let p := s.parts.get n
      if p.state ≠ .loaded ∨ p.run.parked = false then s.finish f 0 2 0 0
      else ((s.release n).modFn f fun h => { h with fed := [] }).finish f 0 0 0 0)

/-- RUN (R506): the steps are added to the allowance at once. -/
def execRun (f : FuncId) (s : State) : Host.Outcome State Fault Refusal :=
  .next (match s.ordered f 3 with
    | none => s
    | some (n, e) =>
      let p := s.parts.get n
      if p.state ≠ .loaded then s.finish f 0 2 0 0
      else ((s.setAllowance n (p.run.allowance + e.arg)).park n false).finish f 0 0 0 0)

/-! ### Inputs and outputs of a step (R507, R508) -/

/-- The bytes of a tensor that armings of a kind move for commands of the lists, those before a layer's entry index apart from those at or after it; every
arming counts under the command that starts it. -/
def Image.tensorRuns (m : Image) (kind h g : Nat) (early : Bool) : List (Nat × Nat) :=
  (List.range m.tiles).flatMap fun l => (m.allArmings l).filterMap fun a =>
    let d := m.armed l a
    match a.start with
    | none => none
    | some i =>
      if d.kind = kind ∧ d.target / 2 ^ 32 = h ∧ decide (i < m.entry l g 2) = early then some (d.position, d.position + d.rows * d.rowLen) else none

/-- The parts of a run of bytes that lie in other runs. -/
def within (x : Nat × Nat) (ys : List (Nat × Nat)) : List (Nat × Nat) := ys.flatMap fun y => common [x] [y]

/-- The runs that WRITEs of a step write in a tensor, among those registered. -/
def State.fedRuns (s : State) (f : FuncId) (step h : Nat) : List (Nat × Nat) :=
  let x := s.fns.get f
  ((x.fed ++ x.entries.filter fun e => e.kind == 4 && e.registered).filter fun e => e.arg.toNat == step && e.handle == h).map fun e =>
    (e.offset, e.offset + e.length)

/-- The tensor of a WRITE or a READ has its kind, and the bytes lie in it. -/
def Image.holdsBytes (m : Image) (kind h off len : Nat) : Bool :=
  match m.tensor h with
  | some d => d.kind == kind && decide (off + len ≤ d.length)
  | none => false

/-- The status with which a WRITE is refused at registration, or 0 (R502, R503, R507). -/
def State.writeRefusal (s : State) (f : FuncId) (n : PartId) (e : OpenEntry) : Nat :=
  let p := s.parts.get n
  match p.image with
  | none => 2
  | some m =>
    let step := e.arg.toNat
    let run := (e.offset, e.offset + e.length)
    if p.state ≠ .loaded then 2
    else if step < p.run.step ∨ (step = p.run.step ∧ p.run.running = true) then 2
    else if !m.holdsBytes 8 e.handle e.offset e.length then 3
    else match e.gate with
      | none => 0
      | some g =>
        if m.layerCount ≤ g then 1
        else
          let late := within run (m.tensorRuns 3 e.handle g false)
          let before := within run (m.tensorRuns 3 e.handle g true)
          if !late.isEmpty then 4
          else if 0 < step ∧ (without before (s.fedRuns f (step - 1) e.handle)).isEmpty = true then 0
          else if before.isEmpty then 0 else 4

/-- WRITE (R502, R507): the next WRITE of the ring is registered, or refused. -/
def execWrite (f : FuncId) (s : State) : Host.Outcome State Fault Refusal :=
  .next (match s.partOfFn f, s.findEntry f (fun e => e.kind == 4 && !e.registered) with
    | some n, some (i, e) =>
      let code := s.writeRefusal f n e
      if code = 0 then s.modEntry f i fun e => { e with registered := true } else s.finish f i code e.stepValue 0
    | _, _ => s)

/-- Every context of every logical tile has passed a layer's entry indices in the running attempt (R170, R507). -/
def State.layerPassed (s : State) (n : PartId) (m : Image) (g : Nat) : Bool :=
  let p := s.parts.get n
  p.run.running && p.run.retry.isNone && (List.range m.tiles).all fun l => match p.physOf l with
    | some t => (allFin 4).all fun c =>
      let k := (s.tiles.get t).seqr.ctxs.get c
      k.state == .atStep || decide (m.entry l g c.1 < k.pos)
    | none => false

/-- The gate of a WRITE is open (R507). -/
def State.writeOpen (s : State) (n : PartId) (e : OpenEntry) : Bool :=
  let p := s.parts.get n
  match p.image with
  | none => false
  | some m =>
    (e.arg.toNat == p.run.step && !p.run.running && p.run.retry.isNone) ||
    (match e.gate with
      | some g => e.arg.toNat == p.run.step + 1 && s.layerPassed n m g
      | none => false)

/-- The gate of a gated entry is open (R507, R508). -/
def State.gateOpen (s : State) (n : PartId) (e : OpenEntry) : Bool :=
  if e.kind = 4 then s.writeOpen n e else e.kind == 5 && decide (e.arg.toNat < (s.parts.get n).run.step)

/-- The gated entry at a place of the ring may run: 64 run at a time, and those before it whose gates are open run first (R496, R502). -/
def State.gateRoom (s : State) (f : FuncId) (n : PartId) (i : Nat) : Bool :=
  s.linkUp f && decide (s.gatedRunning f +
    (((s.fns.get f).entries.take i).filter fun e => e.registered && !e.running && s.gateOpen n e).length < 64)

/-- WRITE_GATE_OPEN (R502, R507): a registered WRITE whose gate is open puts its bytes into the stacks. -/
def execWriteGateOpen (f : FuncId) (tag : Word32) (data : List Byte) (s : State) : Host.Outcome State Fault Refusal :=
  .next (match s.partOfFn f, s.findEntry f (fun e => e.kind == 4 && e.registered && !e.running && e.tag == tag) with
    | some n, some (i, e) =>
      if !s.gateRoom f n i ∨ !s.gateOpen n e ∨ data.length ≠ e.length then s
      else
        let old := (s.parts.get n).weights.read ⟨e.handle, .data, false⟩ e.offset e.length
        (s.feed n e.handle e.offset data).modEntry f i fun e => { e with running := true, data := data, before := old }
    | _, _ => s)

/-- The status with which a READ is refused at registration, or 0 (R502, R503, R508). -/
def State.readRefusal (s : State) (n : PartId) (e : OpenEntry) : Nat :=
  let p := s.parts.get n
  match p.image with
  | none => 2
  | some m =>
    let step := e.arg.toNat
    if p.state ≠ .loaded then 2
    else if step + 1 < p.run.step ∨ (step + 1 = p.run.step ∧ p.run.running = true) then 2
    else if !m.holdsBytes 9 e.handle e.offset e.length then 3
    else match e.gate with
      | none => 0
      | some g =>
        if m.layerCount ≤ g then 1
        else if (within (e.offset, e.offset + e.length) (m.tensorRuns 2 e.handle g true)).isEmpty then 0 else 4

/-- READ (R502, R508): the next READ of the ring is registered, or refused. -/
def execRead (f : FuncId) (s : State) : Host.Outcome State Fault Refusal :=
  .next (match s.partOfFn f, s.findEntry f (fun e => e.kind == 5 && !e.registered) with
    | some n, some (i, e) =>
      let code := s.readRefusal n e
      if code = 0 then s.modEntry f i fun e => { e with registered := true } else s.finish f i code e.stepValue 0
    | _, _ => s)

/-- READ_BEGIN (R508): the step has committed, and the bytes go to the host. -/
def execReadBegin (f : FuncId) (tag : Word32) (s : State) : Host.Outcome State Fault Refusal :=
  .next (match s.partOfFn f, s.findEntry f (fun e => e.kind == 5 && e.registered && !e.running && e.tag == tag) with
    | some n, some (i, e) =>
      let p := s.parts.get n
      if !s.gateRoom f n i ∨ !s.gateOpen n e then s
      else
        let bs := p.weights.read ⟨e.handle, .data, false⟩ e.offset e.length
        s.modEntry f i fun e => { e with running := true, data := bs }
    | _, _ => s)

/-- HOST_TRANSFER_COMPLETE (R503, R505 to R511): the completion of a transfer is written after its data. A completed WRITE is kept for a retry of its step. -/
def execHostTransferComplete (f : FuncId) (tag : Word32) (s : State) : Host.Outcome State Fault Refusal :=
  .next (match (if s.linkUp f then s.findEntry f (fun e => e.running && e.tag == tag) else none) with
    | none => s
    | some (i, e) =>
      match e.kind with
      | 4 => (s.finish f i 0 e.stepValue 0).modFn f fun h => { h with fed := h.fed ++ [{ e with running := false, before := [] }] }
      | 5 => s.finish f i 0 e.stepValue 0
      | _ => s.finish f i e.status e.value e.detail.toNat)

/-! ### The start of a step (R78, R380, R506) -/

/-- Every scale table and every wire scale table of the step is present (R78). -/
def Partition.tablesPresent (p : Partition) (m : Image) : Bool :=
  (m.tensors.all fun d => !d.scaled || (p.tableNow d.handle).isSome) && m.bucketHandles.all fun h => (p.tableNow h).isSome

/-- The reference record of the step and the chain value before it: 0 for step 0, else that of the record before it where it is known (R377, R380). -/
def Partition.chainBefore (p : Partition) : Option Nat :=
  if p.run.step = 0 then some 0
  else match Assoc.get (p.run.step - 1) p.replay.references with
    | some r => some (recordChain r)
    | none => if p.run.committed.isSome then some p.replay.refChain else none

/-- A mode that needs a reference record is in force. -/
def Partition.needsReference (p : Partition) : Bool := p.replay.inForce == .replay || p.replay.inForce == .compare

/-- What an open entry of the host keeps from starting: the step that a WRITE feeds, or the one after an ungated READ's (R506, R508). -/
def OpenEntry.blocks (e : OpenEntry) (step : Nat) : Bool :=
  (e.kind == 4 && e.arg.toNat == step) || (e.kind == 5 && e.gate.isNone && e.arg.toNat + 1 == step)

/-- The conditions of R506 but for the reference record. -/
def State.mayStart (s : State) (n : PartId) (m : Image) : Bool :=
  let p := s.parts.get n
  p.state == .loaded && p.run.allowance != 0 && !p.run.running && p.run.retry.isNone && p.run.record.isNone &&
  (p.run.committed.isSome || p.tablesPresent m) &&
  (match p.func with
    | some f => !(s.fns.get f).entries.any fun e => e.blocks p.run.step
    | none => true)

/-- Every context of the partition issues the first command of the step, and the allowance falls by 1 (R186, R506). -/
def State.startStep (s : State) (n : PartId) (refChain : Nat) : State :=
  let s := s.modPart n fun p => { p with
    run := { p.run with running := true, allowance := p.run.allowance - 1 }
    replay := { p.replay with
      stepStart := if p.run.committed.isNone then s.time else p.replay.stepStart
      refChain := refChain } }
  let s := s.modTiles (s.parts.get n).workers fun x => { x with seqr := { x.seqr with
    ctxs := x.seqr.ctxs.map fun c => { c with state := .issuing, pos := 0 } } }
  s.park n false

/-- STEP_START (R78, R186, R380, R506): the next step starts when the allowance, the inputs, the outputs before it and the reference record allow it; a
reference record that fails its checks is a reference fault. -/
def execStepStart (n : PartId) (s : State) : Host.Outcome State Fault Refusal :=
  .next (
    let p := s.parts.get n
    match p.image with
    | none => s
    | some m =>
      if !s.mayStart n m then s
      else if !p.needsReference then s.startStep n p.replay.refChain
      else match p.referenceNow with
        | none => s
        | some r =>
          if recordSound r p.chainBefore && s.recordFits n m r then s.startStep n (recordChain r)
          else (s.modPart n fun p => { p with replay := { p.replay with refFaults := p.replay.refFaults + 1 } }).recordOwn
            (s.mkReport 0x0309 0 0 (some n) epControl 0))

/-! ### State images (R510, R511)

The header and the section headers have a layout of the model's own (DESIGN CHOICE, log entry 22). -/

/-- A section of a state image: kind, handle, first index, count, bytes. -/
structure StateSection where
  kind : Nat
  handle : Nat
  first : Nat
  count : Nat
  bytes : List Byte
  deriving DecidableEq, Repr

/-- Bytes of one entry of a section kind. -/
def stateUnit (kind : Nat) : Nat :=
  match kind with
  | 1 | 2 | 3 => 4
  | 4 => 2
  | 5 => 32
  | 6 => 16
  | _ => 8

/-- Entries of a ring, oldest first: the entry after the one of the last committed step comes first. -/
def oldestFirst {α : Type} (next : Nat) (xs : List α) : List α := xs.drop (next % 16) ++ xs.take (next % 16)

/-- The slots whose rings this module holds: those of its shard for a weight, all of them otherwise (R72). -/
def Partition.slotsHeld (p : Partition) (m : Image) (d : TensorDecl) : Nat × Nat :=
  if d.kind = 1 then
    let (lo, hi) := p.unitsOf d p.shard
    (lo, min hi (m.slotCount d))
  else (0, m.slotCount d)

/-- Whole FP32 masters of this module's part of a weight (R79). -/
def Partition.masters (p : Partition) (d : TensorDecl) : List Byte :=
  let b := p.weights.bit d.handle
  let n := 4096 * p.groupsOf d
  let his := p.weights.read ⟨d.handle, .masterHigh, b⟩ 0 n
  let los := p.weights.read ⟨d.handle, .masterLow, b⟩ 0 n
  (recordsIn 2 (p.part d).2 los).zip (recordsIn 2 (p.part d).2 his) |>.flatMap fun x => x.1 ++ x.2

/-- The sections of the state image of a partition. -/
def Partition.stateSections (p : Partition) (m : Image) : List StateSection :=
  let next := p.run.step
  let ws := m.tensors.filter fun d => d.kind == 1
  let moment := fun (kind : Nat) (k : RegionKind) (ds : List TensorDecl) => ds.map fun d =>
    let (lo, n) := p.part d
    (⟨kind, d.handle, lo, n, p.weights.read ⟨d.handle, k, p.weights.bit (m.stateHandle d)⟩ 0 (4 * n)⟩ : StateSection)
  (ws.map fun d => ⟨1, d.handle, (p.part d).1, (p.part d).2, p.masters d⟩) ++
  moment 2 .moment1 (ws.filter fun d => m.ruleOf d != 0) ++ moment 3 .moment2 (ws.filter fun d => m.ruleOf d == 2) ++
  ((m.tensors.filter fun d => d.kind == 6).map fun d =>
    ⟨4, d.handle, 0, d.length / 2, p.weights.read ⟨d.handle, .data, p.weights.bit d.handle⟩ 0 (d.length / 2 * 2)⟩) ++
  ((m.tensors.filter (·.scaled)).map fun d =>
    let (lo, hi) := p.slotsHeld m d
    ⟨5, d.handle, lo, hi - lo, (List.range (hi - lo)).flatMap fun i => (oldestFirst next (p.weights.ring d.handle (lo + i))).flatMap fun v => leBytes 2 v.toNat⟩) ++
  (m.bucketHandles.flatMap fun h => ((List.range (m.bucketBlocks h)).filter fun b => p.chunkOf m h b == p.shard).map fun b =>
    ⟨6, h, b, 1, oldestFirst next (p.reduce.ring h b)⟩) ++
  ((List.range m.tiles).map fun l => ⟨7, l, 0, 4096, padTo 32768 (wordsBytes (p.snapshot l))⟩)

/-- A section as bytes: 32 bytes of header, then the content (DESIGN CHOICE, log entry 22). -/
def StateSection.toBytes (x : StateSection) : List Byte :=
  let head := [mkWord [at_ 32 x.handle, at_ 24 x.kind], BitVec.ofNat 64 x.first, BitVec.ofNat 64 x.count, 0]
  let crc := crc32c (wordsBytes head ++ x.bytes)
  wordsBytes (head.set 3 (at_ 32 crc)) ++ x.bytes

/-- The state image of a partition (R510). -/
def Partition.stateImage (p : Partition) (m : Image) : List Byte :=
  let xs := p.stateSections m
  let k := p.settings
  let head := sealCrc [mkWord [at_ 32 m.revision, at_ 16 k.logical.toNat, at_ 0 (xs.length % 2 ^ 16)],
    match p.run.committed with
      | some c => BitVec.ofNat 64 c
      | none => BitVec.allOnes 64,
    mkWord [at_ 48 k.shardWidth.toNat, at_ 32 k.expertWidth.toNat, at_ 16 k.depth.toNat, at_ 0 k.nodeSize.toNat],
    BitVec.ofNat 64 xs.length, 0, 0, 0, 0] 7
  wordsBytes head ++ xs.flatMap StateSection.toBytes

/-- STATE_OUT (R510): the state image of a parked partition goes to the host; a buffer that is too small is told the length needed. -/
def execStateOut (f : FuncId) (s : State) : Host.Outcome State Fault Refusal :=
  .next (match s.orderedData f 6 with
    | none => s
    | some (n, e) =>
      let p := s.parts.get n
      match p.image with
      | none => s.finish f 0 2 0 0
      | some m =>
        if p.state ≠ .loaded ∨ p.run.parked = false then s.finish f 0 2 0 0
        else
          let bs := p.stateImage m
          let len := BitVec.ofNat 64 bs.length
          if e.length < bs.length then s.finish f 0 8 len 0
          else s.modEntry f 0 fun e => { e with running := true, value := len, data := bs })

/-- Read sections, each behind its header; none where a header or a CRC is wrong. -/
def readSections : Nat → List Byte → Option (List StateSection)
  | 0, _ => some []
  | n + 1, bs =>
    let head := bytesWords (bs.take 32)
    let kind := bits (wordAt head 0) 31 24
    let len := wordAt head 2 * stateUnit kind
    let body := (bs.drop 32).take len
    let sound := decide (32 ≤ bs.length) && body.length == len && decide (1 ≤ kind ∧ kind ≤ 7) && zeroField head 0 23 0 && zeroField head 3 31 0 &&
      crc32c (wordsBytes (head.set 3 0) ++ body) == bits (wordAt head 3) 63 32
    if sound then (readSections n (bs.drop (32 + len))).map (⟨kind, bits (wordAt head 0) 63 32, wordAt head 1, wordAt head 2, body⟩ :: ·) else none

/-- A section matches the bound image: its handle has the section's kind, and its range lies in what this module holds (R511). -/
def Partition.sectionFits (p : Partition) (m : Image) (x : StateSection) : Bool :=
  let inside := fun (lo n : Nat) => decide (lo ≤ x.first ∧ x.first + x.count ≤ lo + n)
  let weight := fun (ok : TensorDecl → Bool) => match m.tensor x.handle with
    | some d => d.kind == 1 && ok d && inside (p.part d).1 (p.part d).2
    | none => false
  match x.kind with
  | 1 => weight fun _ => true
  | 2 => weight fun d => m.ruleOf d != 0
  | 3 => weight fun d => m.ruleOf d == 2
  | 4 => match m.tensor x.handle with
    | some d => d.kind == 6 && inside 0 (d.length / 2)
    | none => false
  | 5 => match m.tensor x.handle with
    | some d => d.scaled && inside (p.slotsHeld m d).1 ((p.slotsHeld m d).2 - (p.slotsHeld m d).1)
    | none => false
  | 6 => m.bucketHandles.contains x.handle && inside 0 (m.bucketBlocks x.handle) &&
      (List.range x.count).all fun i => p.chunkOf m x.handle (x.first + i) == p.shard
  | _ => decide (x.handle < m.tiles) && x.first == 0 && x.count == 4096

/-- The ring entries of a kind 5 section are empty ones or codes that a ring holds (R72, R511). -/
def StateSection.ringsOk (x : StateSection) : Bool :=
  x.kind != 5 || (recordsIn 2 (16 * x.count) x.bytes).all fun b => leNat b == 0xFFFF || decide (leNat b ≤ 0x7F7F)

/-- Write one section into the current buffers (R511). -/
def Partition.restore (p : Partition) (m : Image) (x : StateSection) : Partition :=
  let put := fun (k : RegionKey) (off : Nat) (bs : List Byte) => { p with weights := p.weights.write k off bs none }
  match x.kind, m.tensor x.handle with
  | 1, some d =>
    let b := p.weights.bit x.handle
    let off := 2 * (x.first - (p.part d).1)
    let es := recordsIn 4 x.count x.bytes
    let w := p.weights.write ⟨x.handle, .masterLow, b⟩ off (es.flatMap (·.take 2)) none
    { p with weights := w.write ⟨x.handle, .masterHigh, b⟩ off (es.flatMap (·.drop 2)) none }
  | 2, some d => put ⟨x.handle, .moment1, p.weights.bit (m.stateHandle d)⟩ (4 * (x.first - (p.part d).1)) x.bytes
  | 3, some d => put ⟨x.handle, .moment2, p.weights.bit (m.stateHandle d)⟩ (4 * (x.first - (p.part d).1)) x.bytes
  | 4, some _ => put ⟨x.handle, .data, p.weights.bit x.handle⟩ (2 * x.first) x.bytes
  | 5, some _ => { p with weights := { p.weights with
      rings := (recordsIn 32 x.count x.bytes).zipIdx.foldl (fun (rs : List ((Nat × Nat) × List (BitVec 16))) r =>
        Assoc.put (x.handle, x.first + r.2) ((recordsIn 2 16 r.1).map fun b => BitVec.ofNat 16 (leNat b)) rs) p.weights.rings } }
  | 6, _ => { p with reduce := { p.reduce with
      wireRings := (recordsIn 16 x.count x.bytes).zipIdx.foldl (fun (rs : List ((Nat × Nat) × List Byte)) r =>
        Assoc.put (x.handle, x.first + r.2) r.1 rs) p.reduce.wireRings } }
  | 7, _ =>
    let old := (p.snapshots.find? fun z => z.logical == x.handle).getD ⟨x.handle, none, none⟩
    { p with snapshots := (p.snapshots.filter fun z => z.logical != x.handle) ++ [{ old with slot1 := some (0, bytesWords x.bytes) }] }
  | _, _ => p

/-- No step that a table can serve: the tables of the first step are computed again after a STATE IN (R78). -/
def noStep : Nat := 2 ^ 64

/-- The tables of the step are computed anew, with later sequence numbers (R68, R78). -/
def Partition.staleTables (p : Partition) : Partition :=
  { p with
    weights := { p.weights with tables := p.weights.tables.map fun k => (k.1, { k.2 with step := noStep }) }
    reduce := { p.reduce with wireExps := [], fragments := [] } }

/-- STATE_IN (R78, R511): every section goes into the current buffers, or none does. -/
def execStateIn (f : FuncId) (data : List Byte) (s : State) : Host.Outcome State Fault Refusal :=
  .next (match s.orderedData f 7 with
    | none => s
    | some (n, e) =>
      let p := s.parts.get n
      match p.image with
      | none => s.finish f 0 2 0 0
      | some m =>
        let bs := data.take e.length
        let head := bytesWords (bs.take 64)
        if p.state ≠ .loaded ∨ p.run.parked = false ∨ p.run.step ≠ 0 ∨ p.run.running = true ∨ p.run.attempt ≠ 0 then s.finish f 0 2 0 0
        else if !(decide (64 ≤ bs.length) && crcOk head 7) then s.finish f 0 1 0 0
        else match readSections (wordAt head 3 % 2 ^ 16) (bs.drop 64) with
          | none => s.finish f 0 1 0 0
          | some xs =>
            if !(xs.all fun x => p.sectionFits m x && x.ringsOk) then s.finish f 0 3 0 0
            else
              let s := s.modPart n fun p => (xs.foldl (fun (p : Partition) x => p.restore m x) p).staleTables
              let s := (xs.filter fun x => x.kind == 7).foldl (fun (s : State) x => match p.physOf x.handle with
                | some t => s.modTile t fun y => { y with vec := { y.vec with gens := gensOf (bytesWords x.bytes) } }
                | none => s) s
              let s := s.modTiles p.workers fun y => { y with seqr := { y.seqr with
                tables := y.seqr.tables.map fun k => (k.1, { k.2 with step := noStep }) } }
              s.modEntry f 0 fun e => { e with running := true })

/-! ### Reference records (R380, R512) -/

/-- REFERENCE (R380, R512): a reference record for a step that has not started goes into the reference half of the Saddlebag area, in step order; it waits while
there is no room. -/
def execReference (f : FuncId) (data : List Byte) (s : State) : Host.Outcome State Fault Refusal :=
  .next (match s.orderedData f 8 with
    | none => s
    | some (n, e) =>
      let p := s.parts.get n
      let step := e.arg.toNat
      let kept := p.replay.references.filter fun r => decide (p.run.step ≤ r.1 + 1) && r.1 != step
      let bs := data.take e.length
      if p.state ≠ .loaded ∨ step < p.run.step ∨ (step = p.run.step ∧ p.run.running = true) then s.finish f 0 2 e.stepValue 0
      else if p.slices.length * 2 ^ 26 < (kept.map fun r => r.2.length).sum + bs.length then s
      else
        let s := s.modPart n fun p => { p with replay := { p.replay with references := insertBy (fun r : Nat × List Byte => r.1) (step, bs) kept } }
        s.finish f 0 0 e.stepValue 0)

/-- RECORD_OUT (R369, R502, R512): the partition's own record of a step goes to the host. -/
def execRecordOut (f : FuncId) (s : State) : Host.Outcome State Fault Refusal :=
  .next (match s.partOfFn f, s.findEntry f (fun e => e.kind == 9) with
    | some n, some (i, e) =>
      let p := s.parts.get n
      if s.linkUp f = false then s
      else if p.state ≠ .loaded then s.finish f i 2 e.stepValue 0
      else match Assoc.get e.arg.toNat p.replay.records with
        | none => s.finish f i 9 e.stepValue 0
        | some bs => s.finish f i (if e.length < bs.length then 8 else 0) e.stepValue 0
    | _, _ => s)

/-! ### Doorbells and registers (R499, R500, R503, R504) -/

/-- COMPLETION_HEAD (R496, R498, R503): slots are released, and held entries are written. -/
def execCompletionHead (f : FuncId) (head : Word32) (s : State) : Host.Outcome State Fault Refusal :=
  .next (if (s.served f).isNone then s
    else s.modFn f fun h => ({ h with completion := { h.completion with host := head.toNat } }).drain s.time h.held.length)

/-- RECORD_HEAD (R496, R498, R504). -/
def execRecordHead (f : FuncId) (head : Word32) (s : State) : Host.Outcome State Fault Refusal :=
  .next (if (s.served f).isNone then s else s.modFn f fun h => { h with record := { h.record with host := head.toNat } })

/-- A write of a ring base: a multiple of 4,096, while the ring is not enabled (R499). -/
def Ring.setBase (r : Ring) (v : Word64) : Ring := if r.enabled ∨ v.toNat % 4096 ≠ 0 then r else { r with base := v }

/-- A write of a ring control: while the ring is not enabled, with a size from 6 to 16; enabling starts indices, sequence numbers and the phase (R499, R501,
R503). `bit30` says that bit 30 means something there. -/
def Ring.setControl (r : Ring) (v : Nat) (bit30 : Bool) : Ring :=
  let size := bits v 4 0
  if r.enabled ∨ size < 6 ∨ 16 < size then r
  else
    let c := (if bitAt v 31 then 2 ^ 31 else 0) + (if bit30 && bitAt v 30 then 2 ^ 30 else 0) + size
    if bitAt v 31 then { Ring.reset with base := r.base, control := BitVec.ofNat 32 c } else { r with control := BitVec.ofNat 32 c }

/-- RING_CONTROL_WRITE (R499): a write of a register of BAR0; reserved bits are not stored, and values out of range change nothing. -/
def execRingControlWrite (f : FuncId) (off : BitVec 16) (value : Word64) (s : State) : Host.Outcome State Fault Refusal :=
  .next (s.modFn f fun h =>
    let v := value.toNat
    match off.toNat with
    | 0x0100 => { h with submission := h.submission.setBase value }
    | 0x0108 => { h with submission := h.submission.setControl v false }
    | 0x0110 => { h with completion := h.completion.setBase value }
    | 0x0118 => { h with completion := h.completion.setControl v false }
    | 0x0120 => { h with record := h.record.setBase value }
    | 0x0128 => { h with record := h.record.setControl v (f.1 % 16 == 0) }
    | 0x0130 => if 1000 < bits v 15 0 then h else { h with interrupt := BitVec.ofNat 32 (bits v 31 29 * 2 ^ 29 + bits v 15 0) }
    | _ => h)

/-- INTERRUPT_INTERVAL_EXPIRY (R500): a vector that waited out its least interval is raised. -/
def execInterruptIntervalExpiry (f : FuncId) (v : Fin 3) (s : State) : Host.Outcome State Fault Refusal :=
  .next (s.modFn f fun h =>
    if (h.vectors.get v).pending && bitAt h.interrupt.toNat (29 + v.1) then
      { h with vectors := vmod h.vectors v fun m => { m with raised := m.raised + 1, last := some s.time, pending := false } }
    else h)

/-! ### Resets and failed accesses (R496, R513) -/

/-- FUNCTION_LEVEL_RESET (R513): a function-level reset, D3hot or the loss of the data-link layer resets the function's partition and its rings. -/
def execFunctionLevelReset (f : FuncId) (s : State) : Host.Outcome State Fault Refusal :=
  .next (match s.partOfFn f with
    | some n => (s.resetPartition n 0).freeFn f
    | none => s.freeFn f)

/-- PCIE_LINK_TRAINED (R496, R499, R500): rate, width and the below-service bit of the functions of the port change; in service, the entries held for its link are
written. -/
def execPcieLinkTrained (portB : Bool) (rate width : BitVec 8) (s : State) : Host.Outcome State Fault Refusal :=
  .next (
    let port : Fin 2 := if portB then 1 else 0
    if (s.pcie.get port) = ⟨rate, width⟩ then s
    else
      let s := { s with pcie := vmod s.pcie port fun _ => ⟨rate, width⟩ }
      { s with fns := s.fns.mapFinIdx fun i h hi => 
        if fnPort ⟨i, hi⟩ = port then
          let h := h.raiseVector s.time 2
          if s.linkUp ⟨i, hi⟩ then h.drain s.time h.held.length else h
        else h })

/-- The last slot that was written into a ring is dropped. -/
def Ring.dropLast (r : Ring) : Ring := { r with slots := Assoc.del ((r.next + 2 ^ 32 - 1) % 2 ^ 32 % r.size) r.slots }

/-- HOST_ACCESS_FAIL (R513): a WRITE is not applied for its step and takes the allowance away; a READ releases its hold; any other transfer completes with
status 7 too, and an image whose LOAD fails so is not bound. A completion or a record is dropped and counted. -/
def execHostAccessFail (f : FuncId) (a : HostAccess) (s : State) : Host.Outcome State Fault Refusal :=
  .next (match a with
    | .completion => s.modFn f fun h => { h with completion := h.completion.dropLast, completionsDropped := h.completionsDropped + 1 }
    | .record => s.modFn f fun h => { h with record := h.record.dropLast, recordsDropped := h.recordsDropped + 1 }
    | .transfer tag =>
      match s.findEntry f (fun e => e.tag == tag) with
      | none => s
      | some (i, e) =>
        let s := match e.kind, s.partOfFn f with
          | 4, some n => (if e.running then s.feed n e.handle e.offset e.before else s).setAllowance n 0
          | 1, some n => if e.running then s.release n else s
          | _, _ => s
        s.finish f i 7 e.stepValue 0)

end Sys2Proof.Machine
end

