-- ==== Sys2Proof/Machine/Rein.lean ====
section
/-! DEFINITION. Rein: frames and datagrams, the seal, cyclic access, the mailbox, link delays and the distributed clock, and Rein resets (R515 to
R538). -/

namespace Sys2Proof.Machine

/-! ### Datagrams (R519 to R521) -/

/-- The header's bytes. -/
def dgHeader (g : Datagram) : List Byte := wordsBytes [g.h0, g.h1]

/-- Command code. -/
def dgCode (g : Datagram) : Nat := bits g.h0.toNat 63 56

/-- Address mode: 0 station, 1 serial, 2 broadcast. -/
def dgMode (g : Datagram) : Nat := bits g.h0.toNat 55 54

/-- The station address of mode 0. -/
def dgAddress (g : Datagram) : Nat := bits g.h0.toNat 47 32

/-- The parameter. -/
def dgParameter (g : Datagram) : Nat := bits g.h1.toNat 63 32

/-- The CRC-32C over header and data. -/
def dgCrc (g : Datagram) : Nat := crc32c (dgHeader g ++ g.data)

/-- The incoming check passes. -/
def dgSound (g : Datagram) : Bool := dgCrc g == bits g.trailer.toNat 31 0

/-- The bytes of a datagram. -/
def dgBytes (g : Datagram) : List Byte := dgHeader g ++ g.data ++ wordsBytes [g.trailer]

/-- Reserved fields and those that a mode leaves at 0 are 0, and the length is the data's (R519). -/
def dgClean (g : Datagram) : Bool :=
  let w := g.h0.toNat
  bits w 53 48 == 0 && bits w 15 0 == 0 && bits g.h1.toNat 31 0 == 0 && bits w 31 16 == g.data.length && decide (g.data.length ≤ 1468) &&
  decide (dgMode g ≤ 2) && (dgMode g == 0 || dgAddress g == 0)

/-- What a command takes: its address modes, its parameter and its data (R521). -/
def dgForm (g : Datagram) : Bool :=
  let n := g.data.length
  match dgCode g with
  | 0x00 => dgParameter g == 0
  | 0x01 => dgMode g == 2 && dgParameter g == 0 && n % 16 == 0 && decide (16 ≤ n ∧ n ≤ 1456)
  | 0x02 => dgMode g == 1 && bits (dgParameter g) 15 0 == 0 && bits (dgParameter g) 31 16 != 0 && n == 16 && field g.data 12 4 == 0
  | 0x03 => dgMode g == 0
  | 0x04 => dgMode g == 0 && dgParameter g == 0
  | 0x05 => dgMode g == 0 && dgParameter g == 0
  | 0x06 => dgMode g == 2 && dgParameter g == 0 && n == 8
  | 0x07 => dgMode g == 2 && dgParameter g == 0 && n == 24 && bits (field g.data 0 8) 47 1 == 0
  | 0x08 => dgMode g == 0 && dgParameter g == 0x4E494552 && n == 0
  | _ => false

/-- The fold of a station address into a seal: the CRC-32C register loaded with the seal and taken through the address, low byte first (R521). -/
def foldSeal (start address : Nat) : Nat := (leBytes 2 address).foldl (crcByte 0x82F63B78) start

/-- What a datagram leaves with: its data, the folded seal where the incoming check passed, and the CRC over what leaves, inverted where it
failed (R521). -/
def dgLeaves (g : Datagram) (data : List Byte) (fold : Option Nat) : Datagram :=
  let start := bits g.trailer.toNat 63 32
  let h := { g with data := data }
  if dgSound g then { h with trailer := mkWord [at_ 32 (match fold with
      | some a => foldSeal start a
      | none => start), at_ 0 (dgCrc h)] }
  else { h with trailer := mkWord [at_ 32 start, at_ 0 (0xFFFFFFFF - dgCrc h)] }

/-- The views that a datagram addresses, the module view first (R520, R522). -/
def dgViews (addresses : Vector (BitVec 16) 17) (g : Datagram) : List ViewId :=
  match dgMode g with
  | 0 => if dgAddress g = 0 then [] else
      (moduleView :: (allFin 17).filter (· != moduleView)).filter fun v => (addresses.get v).toNat == dgAddress g
  | 1 => if g.data.take 12 = Config.serial then [moduleView] else []
  | _ => [moduleView]

/-- Count a datagram that is not processed (R539). -/
def State.countUnprocessed (s : State) (v : ViewId) : State := s.modView v fun w => { w with unprocessed := w.unprocessed + 1 }

/-! ### Cyclic access (R527 to R529) -/

/-- Bytes of a mapped entry. -/
def State.mappedBytes (s : State) (e : MapEntry) : Nat :=
  (((odIndex e.index.toNat).bind fun x => s.odEntry x e.sub.toNat).bind fun d => d.ty.bytes).getD 0

/-- The command length C or the report length R of a map. -/
def State.mapLength (s : State) (es : List MapEntry) : Nat := (es.map s.mappedBytes).sum

/-- The report image of a view: an entry that it cannot read contributes zero bytes (R523, R528). -/
def State.reportImage (s : State) (v : ViewId) : List Byte :=
  (s.rein.views.get v).reportMap.flatMap fun e =>
    match s.odRead v e.index.toNat e.sub.toNat with
    | .ok bs => bs
    | .error _ => List.replicate (s.mappedBytes e) 0

/-- A cycle number is newer than the last one (R529). -/
def newerCycle (last : Option Word32) (n : Nat) : Bool :=
  match last with
  | none => true
  | some l => decide (0 < (n + 2 ^ 32 - l.toNat) % 2 ^ 32 ∧ (n + 2 ^ 32 - l.toNat) % 2 ^ 32 < 2 ^ 31)

/-- CYC at a view (R528, R529): the report image is written whatever the cycle number, and the command image of a newer one waits to be applied. -/
def State.cycle (s : State) (v : ViewId) (g : Datagram) (act : Bool) : State × List Byte :=
  let w := s.rein.views.get v
  let c := s.mapLength w.commandMap
  let out := g.data.take c ++ s.reportImage v
  if act && newerCycle w.lastCycle (dgParameter g) then
    (s.modView v fun w => { w with lastCycle := some (BitVec.ofNat 32 (dgParameter g)), images := w.images ++ [g.data.take c] }, out)
  else (s, out)

/-- Apply a command image in map order; entries that are refused by their own rules are counted (R523, R529). -/
def State.applyImage (s : State) (v : ViewId) (image : List Byte) : State :=
  let w := s.rein.views.get v
  let (s, _, refused) := w.commandMap.foldl (fun (a : State × List Byte × Nat) e =>
    let n := a.1.mappedBytes e
    let (code, s) := a.1.odWrite v e.index.toNat e.sub.toNat (a.2.1.take n)
    (s, a.2.1.drop n, if code = 0 ∨ code = 0x07 then a.2.2 else a.2.2 + 1)) (s, image, 0)
  s.modView v fun w => { w with refused := refused }

/-! ### Clock (R534 to R536) -/

/-- A U64 of all ones. -/
def allOnes : Nat := 2 ^ 64 - 1

/-- LINK (R534): the neighbour's downstream turn for the previous datagram is read and this module's is written; the link delay follows from it and
this module's upstream turn for the previous datagram. -/
def State.linkTurn (s : State) (g : Datagram) (act : Bool) (arrive depart : Nat) : State × List Byte :=
  let r := s.rein
  let own := r.turns
  let t := field g.data 0 8
  let delay := match own.up with
    | some u => if t = allOnes then none else some ((t - u) / 2)
    | none => none
  let now : Turns := if r.loops then ⟨some arrive, none, none, some depart⟩ else ⟨some arrive, some depart, none, none⟩
  let out := leBytes 8 (own.down.getD allOnes)
  if act then ({ s with rein := { r with prevTurns := own, turns := now, linkDelay := delay, synchronized := r.synchronized && (r.reference || delay.isSome) } }, out)
  else (s, out)

/-- A partition is Loaded. -/
def State.anyLoaded (s : State) : Bool := s.parts.toList.any fun p => p.state == .loaded

/-- The module corrects its clock by an error in ns: a step beyond 1 µs while no partition is Loaded, and else a slew of at most 0.1 % (R535). -/
def State.correctClock (s : State) (e : Int) : State :=
  if (1000 < e ∨ e < -1000) ∧ s.anyLoaded = false then
    { s with time := ((s.time : Int) - e).toNat, rein := { s.rein with steps := s.rein.steps + 1, rate := 0 } }.syncTime
  else { s with rein := { s.rein with rate := clampInt (-1000000) 1000000 (Config.slewRate e) } }

/-- TIME (R535, R536): the first module becomes the reference, and every later one computes its error, adds its delays to the correction and corrects its
clock. -/
def State.timePass (s : State) (g : Datagram) (act : Bool) (arrive depart : Nat) : State × List Byte :=
  let ws := bytesWords g.data
  let r := s.rein
  if bits (wordAt ws 0) 0 0 = 0 then
    let out := wordsBytes [mkWord [at_ 48 (r.views.get moduleView).address.toNat, at_ 0 1], BitVec.ofNat 64 depart, 0]
    (if act then { s with rein := { r with reference := true, synchronized := true, lastTime := some arrive } } else s, out)
  else
    let c := wordAt ws 2
    let l : Int := ((r.linkDelay.getD 0 : Nat) : Int) + r.trim
    let e := (4 * (arrive : Int) - (4 * (wordAt ws 1 : Int) + (c : Int) + 4 * l)) / 4
    let c' := (c : Int) + 4 * (l + (depart : Int) - (arrive : Int))
    let out := (g.data.take 16) ++ leBytes 8 (ofSigned 64 c')
    let good := if -20 ≤ e ∧ e ≤ 20 then min 3 (r.good + 1) else 0
    let s' := { s with rein := { r with
      reference := false
      lastError := e
      good := good
      lastTime := some arrive
      synchronized := r.linkDelay.isSome && decide (3 ≤ good) } }
    (if act then s'.correctClock e else s, out)

/-! ### The mailbox in datagrams (R530, R531) -/

/-- Data hold a mailbox message: its length fits its data length, and its CRC passes (R530). -/
def messageOk (bs : List Byte) : Bool :=
  let ws := bytesWords bs
  let n := bits (wordAt ws 0) 15 0
  bs.length % 8 == 0 && decide (24 ≤ bs.length ∧ bs.length ≤ 504) && bs.length == 24 + roundUp 8 n && crcOk ws (ws.length - 1)

/-- MBX-W (R531): the request is taken when the mailbox is free and the message's CRC passes. -/
def State.takeRequest (s : State) (v : ViewId) (g : Datagram) (act : Bool) : State × Bool :=
  if (s.rein.views.get v).mailbox.request.isSome || !messageOk g.data then (s, false)
  else (if act then s.modView v fun w => { w with mailbox := { w.mailbox with request := some g.data } } else s, true)

/-- MBX-R (R531): a response that is ready and fits is given, zero-filled to the end. -/
def State.giveResponse (s : State) (v : ViewId) (g : Datagram) (act : Bool) : State × Option (List Byte) :=
  match (s.rein.views.get v).mailbox.response with
  | none => (s, none)
  | some bs =>
    if g.data.length < bs.length then (s, none)
    else (if act then s.modView v fun w => { w with mailbox := { w.mailbox with response := none } } else s, some (fixTo g.data.length bs))

/-! ### Processing (R518, R520 to R522) -/

/-- The data that a SCAN leaves with, or none where no slot is free (R521). -/
def State.scanSlot (s : State) (g : Datagram) : Option (List Byte) :=
  let ports := match s.odView moduleView 0x02 with
    | some e => e.val
    | none => [0]
  let slot := fixTo 12 Config.serial ++ leBytes 2 (s.rein.views.get moduleView).address.toNat ++ ports ++ [0]
  ((List.range (g.data.length / 16)).find? fun i => g.data.getD (16 * i) 0 == 0).map fun i =>
    g.data.take (16 * i) ++ slot ++ g.data.drop (16 * i + 16)

/-- A view processes a datagram (R521): what it leaves with, and the module as it then stands. Only where both checks pass does the module act on what it
carries. -/
def State.processAt (s : State) (v : ViewId) (address : Nat) (g : Datagram) (arrive depart : Nat) : State × Datagram :=
  let act := dgSound g && g.fcsOk
  match dgCode g with
  | 0x01 => match s.scanSlot g with
    | some bs => (s, dgLeaves g bs (some address))
    | none => (s, dgLeaves g g.data none)
  | 0x02 => (if act then s.modView moduleView fun w => { w with address := BitVec.ofNat 16 (bits (dgParameter g) 31 16) } else s,
      dgLeaves g g.data (some address))
  | 0x03 => let (s, out) := s.cycle v g act; (s, dgLeaves g out (some address))
  | 0x04 => let (s, took) := s.takeRequest v g act; (s, dgLeaves g g.data (if took then some address else none))
  | 0x05 => match s.giveResponse v g act with
    | (s, some out) => (s, dgLeaves g out (some address))
    | (s, none) => (s, dgLeaves g g.data none)
  | 0x06 => let (s, out) := s.linkTurn g act arrive depart; (s, dgLeaves g out (some address))
  | 0x07 => let (s, out) := s.timePass g act arrive depart; (s, dgLeaves g out (some address))
  | 0x08 => (if act then s.reinReset v else s, dgLeaves g g.data (some address))
  | _ => (s, dgLeaves g g.data none)

/-- A datagram passes (R518, R520, R522, R528): one that no view processes leaves with every byte unchanged and is counted. Station addresses are those in
force when the frame arrived. -/
def State.passDatagram (s : State) (addresses : Vector (BitVec 16) 17) (g : Datagram) (arrive depart : Nat) : State × Datagram :=
  match s.module.state, dgViews addresses g with
  | .booting, _ => (s.countUnprocessed moduleView, g)
  | _, [] => (s.countUnprocessed moduleView, g)
  | _, v :: others =>
    if !dgClean g || !dgForm g then (s.countUnprocessed moduleView, g)
    else
      let w := s.rein.views.get v
      if dgCode g = 0x03 ∧ g.data.length ≠ s.mapLength w.commandMap + s.mapLength w.reportMap then (s.countUnprocessed v, g)
      else
        let s := if others.isEmpty then s else s.countUnprocessed v
        let s := if dgSound g then s else s.modView v fun w => { w with failures := w.failures + 1 }
        s.processAt v (addresses.get v).toNat g arrive depart

/-- Station addresses in force, by view. -/
def State.addresses (s : State) : Vector (BitVec 16) 17 := s.rein.views.map (·.address)

/-- The port that a processed frame leaves by, true for REIN_B: downstream, or upstream in a loop-back (R516). -/
def Rein.leavesB (r : Rein) : Bool := (r.upstream.getD false) == r.loops

/-- One datagram of a command passes in a frame of its own; a datagram of another command is no event of that row. -/
def State.datagramRow (s : State) (code : Nat) (g : Datagram) (arrive depart : Nat) : State :=
  if s.module.state = .off ∨ dgCode g ≠ code then s
  else
    let (s, out) := s.passDatagram s.addresses g arrive depart
    { s with rein := { s.rein with out := dgBytes out, outB := s.rein.leavesB, outFcsGood := g.fcsOk } }

/-- NOP (R521). -/
def execNop (g : Datagram) (s : State) : Host.Outcome State Fault Refusal := .next (s.datagramRow 0x00 g 0 0)

/-- SCAN (R521). -/
def execScan (g : Datagram) (s : State) : Host.Outcome State Fault Refusal := .next (s.datagramRow 0x01 g 0 0)

/-- ADDR (R521, R522). -/
def execAddr (g : Datagram) (s : State) : Host.Outcome State Fault Refusal := .next (s.datagramRow 0x02 g 0 0)

/-- CYC (R527 to R529). -/
def execCyc (g : Datagram) (s : State) : Host.Outcome State Fault Refusal := .next (s.datagramRow 0x03 g 0 0)

/-- MBX_W (R531). -/
def execMbxW (g : Datagram) (s : State) : Host.Outcome State Fault Refusal := .next (s.datagramRow 0x04 g 0 0)

/-- MBX_R (R531). -/
def execMbxR (g : Datagram) (s : State) : Host.Outcome State Fault Refusal := .next (s.datagramRow 0x05 g 0 0)

/-- LINK (R534): `arrive` and `depart` are the latches of the processing pass. -/
def execLink (g : Datagram) (arrive depart : Word64) (s : State) : Host.Outcome State Fault Refusal :=
  .next (s.datagramRow 0x06 g arrive.toNat depart.toNat)

/-- TIME (R535, R536). -/
def execTime (g : Datagram) (arrive depart : Word64) (s : State) : Host.Outcome State Fault Refusal :=
  .next (s.datagramRow 0x07 g arrive.toNat depart.toNat)

/-- RESET (R538). -/
def execReset (g : Datagram) (s : State) : Host.Outcome State Fault Refusal := .next (s.datagramRow 0x08 g 0 0)

/-- COMMAND_IMAGE_APPLY (R529): the first command image that waits at a view is applied. -/
def execCommandImageApply (v : ViewId) (s : State) : Host.Outcome State Fault Refusal :=
  .next (match s.module.state, (s.rein.views.get v).images with
  | .off, _ => s
  | .booting, _ => s
  | _, [] => s
  | _, im :: rest => (s.modView v fun w => { w with images := rest }).applyImage v im)

/-! ### Frames (R515 to R518) -/

/-- The datagrams that stand end to end in some bytes, and the bytes behind the last whole one. -/
def dgSplit (fuel : Nat) (bs : List Byte) (fcsOk : Bool) : List Datagram × List Byte :=
  match fuel with
  | 0 => ([], bs)
  | k + 1 =>
    let n := field bs 2 2
    if bs.length < 24 + n ∨ bs.length < 24 then ([], bs)
    else
      let ws := bytesWords (bs.take 16)
      let g : Datagram := ⟨ws.getD 0 0, ws.getD 1 0, slice bs 16 n, (bytesWords (slice bs (16 + n) 8)).getD 0 0, fcsOk⟩
      let (gs, rest) := dgSplit k (bs.drop (24 + n)) fcsOk
      (g :: gs, rest)

/-- The frame is of EtherType 0x88B5, in network byte order (R515). -/
def reinType (bs : List Byte) : Bool := slice bs 12 2 == [0x88, 0xB5]

/-- Bytes of the datagrams of a frame, none where the header rules them out: another version, or more bytes than the frame has. -/
def datagramBytes (bs : List Byte) : Option Nat :=
  let w := field bs 14 8
  let n := bits w 47 32
  if bits w 63 56 = 1 ∧ 24 ≤ n ∧ n ≤ 1492 ∧ 22 + n ≤ bs.length then some n else none

/-- The upstream port as a Rein frame arrives (R517): the first port on which one arrives, or the other port once the upstream link is down. A change
clears the link delay. -/
def State.chooseUpstream (s : State) (onB : Bool) : State :=
  let r := s.rein
  match r.upstream with
  | none => { s with rein := { r with upstream := some onB } }
  | some u =>
    let up := if u then r.linkB else r.linkA
    if u ≠ onB ∧ up = false then
      { s with rein := { r with
        upstream := some onB
        linkDelay := none
        turns := ⟨none, none, none, none⟩
        prevTurns := ⟨none, none, none, none⟩
        synchronized := false } }
    else s

/-- A frame leaves by a port. -/
def State.leaves (s : State) (bs : List Byte) (onB good : Bool) : State :=
  { s with rein := { s.rein with out := bs, outB := onB, outFcsGood := good } }

/-- The return path: the frame goes on to the upstream port without processing; the latches of a LINK datagram on its way back are taken (R516, R534). -/
def State.returnPath (s : State) (fr : ReinFrame) : State :=
  let n := (datagramBytes fr.bytes).getD 0
  let gs := (dgSplit 64 (slice fr.bytes 22 n) fr.fcsOk).1
  let s := if gs.any (fun g => dgCode g == 0x06) && s.rein.turns.a.isSome && s.rein.turns.d.isNone then
      { s with rein := { s.rein with turns := { s.rein.turns with d := some fr.arrive.toNat, c := some fr.depart.toNat } } }
    else s
  s.leaves fr.bytes (s.rein.upstream.getD false) fr.fcsOk

/-- A frame that enters on the upstream port (R516, R518, R521): its datagrams pass in order. -/
def State.processFrame (s : State) (fr : ReinFrame) (n : Nat) : State :=
  let at0 := s.addresses
  let (gs, rest) := dgSplit 64 (slice fr.bytes 22 n) fr.fcsOk
  let (s, outs) := gs.foldl (fun (a : State × List Byte) g =>
    let (s, h) := a.1.passDatagram at0 g fr.arrive.toNat fr.depart.toNat
    (s, a.2 ++ dgBytes h)) (s, [])
  let s := { s with rein := { s.rein with
    framesProcessed := if s.module.state = ModuleState.booting then s.rein.framesProcessed else s.rein.framesProcessed + 1
    frameFailures := if fr.fcsOk then s.rein.frameFailures else s.rein.frameFailures + 1 } }
  s.leaves (fr.bytes.take 22 ++ outs ++ rest ++ fr.bytes.drop (22 + n)) s.rein.leavesB fr.fcsOk

/-- A frame that is forwarded unchanged and counted leaves by the other port, or by its own where that one has no link. -/
def State.forwardFrame (s : State) (fr : ReinFrame) : State :=
  let other := if fr.onB then fr.linkA else fr.linkB
  let s := { s with rein := { s.rein with framesForwarded := s.rein.framesForwarded + 1 } }
  s.leaves fr.bytes (if other then !fr.onB else fr.onB) fr.fcsOk

/-- REIN_FRAME (R515 to R518): a whole frame on a port. -/
def execReinFrame (fr : ReinFrame) (s : State) : Host.Outcome State Fault Refusal :=
  .next (
    if s.module.state = .off then s
    else
      let s := { s with rein := { s.rein with linkA := fr.linkA, linkB := fr.linkB } }
      if !reinType fr.bytes then s.forwardFrame fr
      else
        let s := s.chooseUpstream fr.onB
        if s.rein.upstream ≠ some fr.onB then s.returnPath fr
        else match datagramBytes fr.bytes with
          | none => s.forwardFrame fr
          | some n => s.processFrame fr n)

/-! ### Mailbox services (R530 to R533) -/

/-- The fields of a mailbox message. -/
structure MailMessage where
  service : Nat
  abort : Nat
  index : Nat
  sub : Nat
  reserved : Nat
  length : Nat
  value : Nat
  seq : Word32
  data : List Byte
  deriving Repr

/-- The fields that a message's bytes spell (R530). -/
def mailOf (bs : List Byte) : MailMessage :=
  let ws := bytesWords bs
  let w := wordAt ws 0
  let n := bits w 15 0
  { service := bits w 63 56
    abort := bits w 55 48
    index := bits w 47 32
    sub := bits w 31 24
    reserved := bits w 23 16 + bits (wordAt ws (ws.length - 1)) 31 0
    length := n
    value := bits (wordAt ws 1) 63 32
    seq := BitVec.ofNat 32 (bits (wordAt ws 1) 31 0)
    data := slice bs 16 n }

/-- A message's bytes with its CRC. -/
def mailBytes (service abort index sub value : Nat) (seq : Word32) (data : List Byte) : List Byte :=
  let ws := [mkWord [at_ 56 service, at_ 48 abort, at_ 32 index, at_ 24 sub, at_ 0 data.length], mkWord [at_ 32 value, at_ 0 seq.toNat]] ++
    bytesWords (padTo 8 data) ++ [0]
  wordsBytes (sealCrc ws (ws.length - 1))

/-- A request names a service and leaves reserved fields 0, with at most 480 bytes of data; an offset is a multiple of 8. -/
def MailMessage.wellFormed (m : MailMessage) : Bool :=
  decide (1 ≤ m.service ∧ m.service ≤ 4 ∧ m.abort = 0 ∧ m.reserved = 0 ∧ m.length ≤ 480) &&
  (decide (m.service ≠ 2) || decide (m.length ≤ m.value)) && (decide (m.service < 3) || decide (m.value % 8 = 0)) &&
  (decide (m.service ≠ 1 ∧ m.service ≠ 3) || decide (m.length = 0))

/-- The outcome of a request: an abort code, or a response's value field and data. -/
abbrev MailResult := Except Nat (Nat × List Byte)

/-- Service 1 (R533): the first 480 bytes and the total length; later segments come from the value as it stands now. -/
def State.serveRead (s : State) (v : ViewId) (m : MailMessage) : State × MailResult :=
  match s.odRead v m.index m.sub with
  | .error c => (s.modView v fun w => { w with mailbox := { w.mailbox with readValue := none } }, .error c)
  | .ok bs => (s.modView v fun w => { w with mailbox := { w.mailbox with readValue := some (BitVec.ofNat 16 m.index, BitVec.ofNat 8 m.sub, bs) } },
      .ok (bs.length, bs.take 480))

/-- Apply a value that has arrived in whole. -/
def State.serveValue (s : State) (v : ViewId) (m : MailMessage) (bs : List Byte) (value : Nat) : State × MailResult :=
  let (code, s) := s.odWrite v m.index m.sub bs
  (s, if code = 0 then .ok (value, []) else .error code)

/-- Service 2 (R525, R533): the write is made, or a segmented write is opened. -/
def State.serveWrite (s : State) (v : ViewId) (m : MailMessage) : State × MailResult :=
  let s := s.modView v fun w => { w with mailbox := { w.mailbox with readValue := none, writing := none } }
  if m.value = m.length then s.serveValue v m m.data m.value
  else (s.modView v fun w => { w with mailbox := { w.mailbox with
    writing := some (BitVec.ofNat 16 m.index, BitVec.ofNat 8 m.sub, m.value, m.data) } }, .ok (m.value, []))

/-- Service 3 (R533): up to 480 bytes from an offset of the value that was read. -/
def State.serveSegmentRead (s : State) (v : ViewId) (m : MailMessage) : State × MailResult :=
  (s, match (s.rein.views.get v).mailbox.readValue with
  | none => .error 0x09
  | some (i, sub, bs) =>
    if i.toNat ≠ m.index ∨ sub.toNat ≠ m.sub ∨ bs.length < m.value then .error 0x09
    else .ok (m.value, slice bs m.value 480))

/-- Service 4 (R533): a segment at the next offset; the value takes effect, in whole, when its total has arrived. -/
def State.serveSegmentWrite (s : State) (v : ViewId) (m : MailMessage) : State × MailResult :=
  let drop := s.modView v fun w => { w with mailbox := { w.mailbox with writing := none } }
  match (s.rein.views.get v).mailbox.writing with
  | none => (s, .error 0x09)
  | some (i, sub, total, bs) =>
    if i.toNat ≠ m.index ∨ sub.toNat ≠ m.sub ∨ m.value ≠ bs.length ∨ total < bs.length + m.length then (drop, .error 0x09)
    else if bs.length + m.length = total then drop.serveValue v m (bs ++ m.data) m.value
    else (s.modView v fun w => { w with mailbox := { w.mailbox with writing := some (i, sub, total, bs ++ m.data) } }, .ok (m.value, []))

/-- A response is ready. -/
def State.respond (s : State) (v : ViewId) (bs : List Byte) (aborted : Bool) : State :=
  s.modView v fun w => { w with
    aborts := if aborted then w.aborts + 1 else w.aborts
    mailbox := { w.mailbox with request := none, response := some bs } }

/-- Execute a request (R531): its response is stored, unless a Rein reset that it caused has discarded it (R538, R547). -/
def State.execute (s : State) (v : ViewId) (m : MailMessage) (run : State → ViewId → MailMessage → State × MailResult) : State :=
  let before := (s.rein.views.get v).resets
  let (t, r) := if m.wellFormed then run s v m else (s, .error 0x08)
  let t := t.modView v fun w => { w with executed := w.executed + 1 }
  if (t.rein.views.get v).resets ≠ before then t
  else
    let bs := match r with
      | .error c => mailBytes 0xFF c m.index m.sub 0 m.seq []
      | .ok (value, data) => mailBytes (0x80 + m.service) 0 m.index m.sub value m.seq data
    let aborted := match r with
      | .error _ => true
      | .ok _ => false
    (t.respond v bs aborted).modView v fun w => { w with mailbox := { w.mailbox with lastSeq := some m.seq, stored := some bs } }

/-- Serve the request in a view's mailbox by its sequence number (R531): a repeated number is answered from the stored response, and any other but the next one with
abort 0x0C, which carries the expected number. -/
def State.serveRequest (s : State) (v : ViewId) (mine : Nat → Bool) (run : State → ViewId → MailMessage → State × MailResult) : State :=
  let w := s.rein.views.get v
  match s.module.state, w.mailbox.request with
  | .off, _ => s
  | .booting, _ => s
  | _, none => s
  | _, some bs =>
    let m := mailOf bs
    if !mine m.service then s
    else match w.mailbox.lastSeq with
      | none => s.execute v m run
      | some q =>
        if m.seq = q then s.modView v fun w => { w with mailbox := { w.mailbox with request := none, response := w.mailbox.stored } }
        else if m.seq ≠ q + 1 then s.respond v (mailBytes 0xFF 0x0C m.index m.sub (q + 1).toNat m.seq []) true
        else s.execute v m run

/-- MAILBOX_READ (R533); a request whose service is reserved is answered here, with abort 0x08. -/
def execMailboxRead (v : ViewId) (s : State) : Host.Outcome State Fault Refusal :=
  .next (s.serveRequest v (fun k => !(k == 2 || k == 3 || k == 4)) State.serveRead)

/-- MAILBOX_WRITE (R525, R533). -/
def execMailboxWrite (v : ViewId) (s : State) : Host.Outcome State Fault Refusal := .next (s.serveRequest v (· == 2) State.serveWrite)

/-- SEGMENT_READ (R533). -/
def execSegmentRead (v : ViewId) (s : State) : Host.Outcome State Fault Refusal := .next (s.serveRequest v (· == 3) State.serveSegmentRead)

/-- SEGMENT_WRITE (R533). -/
def execSegmentWrite (v : ViewId) (s : State) : Host.Outcome State Fault Refusal := .next (s.serveRequest v (· == 4) State.serveSegmentWrite)

/-! ### Resets and the sync watch (R536, R538) -/

/-- REIN_RESET (R538). -/
def execReinReset (v : ViewId) (s : State) : Host.Outcome State Fault Refusal :=
  .next (if s.module.state = .off then s else s.reinReset v)

/-- REIN_LINK_LOSS (R538): both links have been down for 1 s. -/
def execReinLinkLoss (s : State) : Host.Outcome State Fault Refusal :=
  .next (if s.module.state = .off then s
    else ({ s with rein := { s.rein with linkA := false, linkB := false } }).reinReset moduleView)

/-- SYNC_WATCH_EXPIRY (R536): the sync watch has passed since the last TIME datagram. -/
def execSyncWatchExpiry (s : State) : Host.Outcome State Fault Refusal := .next { s with rein := { s.rein with synchronized := false } }

end Sys2Proof.Machine
end

