-- ==== Sys2Proof/Machine/Dispatch.lean ====
section
/-! DEFINITION. The dispatcher: one arm per command, each a direct call of its meaning. -/

namespace Sys2Proof.Machine

/-- The effect of a command on everything but the queue. -/
def exec (i : Instr) (s : State) : Host.Outcome State Fault Refusal :=
  match i with
  | .loadw t o => Sys2Proof.Machine.execLoadw t o s
  | .blockLoaded t => Sys2Proof.Machine.execBlockLoaded t s
  | .mmul t o => Sys2Proof.Machine.execMmul t o s
  | .drain t o => Sys2Proof.Machine.execDrain t o s
  | .checkStatusFinal t w passed => Sys2Proof.Machine.execCheckStatusFinal t w passed s
  | .residueMismatch t layer => Sys2Proof.Machine.execResidueMismatch t layer s
  | .add t o => Sys2Proof.Machine.execAdd t o s
  | .sub t o => Sys2Proof.Machine.execSub t o s
  | .mul t o => Sys2Proof.Machine.execMul t o s
  | .fma t o => Sys2Proof.Machine.execFma t o s
  | .max t o => Sys2Proof.Machine.execMax t o s
  | .min t o => Sys2Proof.Machine.execMin t o s
  | .abs t o => Sys2Proof.Machine.execAbs t o s
  | .neg t o => Sys2Proof.Machine.execNeg t o s
  | .cmp t o => Sys2Proof.Machine.execCmp t o s
  | .sel t o => Sys2Proof.Machine.execSel t o s
  | .icvt t o => Sys2Proof.Machine.execIcvt t o s
  | .wid t o => Sys2Proof.Machine.execWid t o s
  | .nar t o => Sys2Proof.Machine.execNar t o s
  | .div t o => Sys2Proof.Machine.execDiv t o s
  | .recip t o => Sys2Proof.Machine.execRecip t o s
  | .sqrt t o => Sys2Proof.Machine.execSqrt t o s
  | .rsqrt t o => Sys2Proof.Machine.execRsqrt t o s
  | .exp t o => Sys2Proof.Machine.execExp t o s
  | .exp2 t o => Sys2Proof.Machine.execExp2 t o s
  | .log t o => Sys2Proof.Machine.execLog t o s
  | .log2 t o => Sys2Proof.Machine.execLog2 t o s
  | .rsum t o => Sys2Proof.Machine.execRsum t o s
  | .rsumsq t o => Sys2Proof.Machine.execRsumsq t o s
  | .rmax t o => Sys2Proof.Machine.execRmax t o s
  | .rmin t o => Sys2Proof.Machine.execRmin t o s
  | .trn t o => Sys2Proof.Machine.execTrn t o s
  | .ld t o => Sys2Proof.Machine.execLd t o s
  | .st t o => Sys2Proof.Machine.execSt t o s
  | .rngu t o => Sys2Proof.Machine.execRngu t o s
  | .rngr t o => Sys2Proof.Machine.execRngr t o s
  | .rngsv t o => Sys2Proof.Machine.execRngsv t o s
  | .rngrs t o => Sys2Proof.Machine.execRngrs t o s
  | .flags t o => Sys2Proof.Machine.execFlags t o s
  | .arm t q idx => Sys2Proof.Machine.execArm t q idx s
  | .send t q => Sys2Proof.Machine.execSend t q s
  | .recv t q => Sys2Proof.Machine.execRecv t q s
  | .arrive t c o => Sys2Proof.Machine.execArrive t c o s
  | .wait t c o => Sys2Proof.Machine.execWait t c o s
  | .arrwait t c o => Sys2Proof.Machine.execArrwait t c o s
  | .hintHeavy t amps lead layer => Sys2Proof.Machine.execHintHeavy t amps lead layer s
  | .hintLight t amps lead layer => Sys2Proof.Machine.execHintLight t amps lead layer s
  | .mark t phase layer marker => Sys2Proof.Machine.execMark t phase layer marker s
  | .step t c => Sys2Proof.Machine.execStep t c s
  | .stepReady t => Sys2Proof.Machine.execStepReady t s
  | .transferIssue t => Sys2Proof.Machine.execTransferIssue t s
  | .transferComplete t answer => Sys2Proof.Machine.execTransferComplete t answer s
  | .transferRefused t p => Sys2Proof.Machine.execTransferRefused t p s
  | .bindingRepublish t what => Sys2Proof.Machine.execBindingRepublish t what s
  | .pageFetch t c p => Sys2Proof.Machine.execPageFetch t c p s
  | .pageArrival t c p => Sys2Proof.Machine.execPageArrival t c p s
  | .putTileReceive t p => Sys2Proof.Machine.execPutTileReceive t p s
  | .stackWriteReceive k p => Sys2Proof.Machine.execStackWriteReceive k p s
  | .stackReadRequest k p => Sys2Proof.Machine.execStackReadRequest k p s
  | .getWeightPart k p => Sys2Proof.Machine.execGetWeightPart k p s
  | .coreStateRequest t target fence => Sys2Proof.Machine.execCoreStateRequest t target fence s
  | .quiesceRequest t => Sys2Proof.Machine.execQuiesceRequest t s
  | .finalPointers t => Sys2Proof.Machine.execFinalPointers t s
  | .quiesceAck t => Sys2Proof.Machine.execQuiesceAck t s
  | .coreClockStop t => Sys2Proof.Machine.execCoreClockStop t s
  | .quiesceTimeout t => Sys2Proof.Machine.execQuiesceTimeout t s
  | .coreRailLoss t => Sys2Proof.Machine.execCoreRailLoss t s
  | .localPortHead t p symbolErrors => Sys2Proof.Machine.execLocalPortHead t p symbolErrors s
  | .wakeRequest t cls => Sys2Proof.Machine.execWakeRequest t cls s
  | .softStartEnd t millivolts => Sys2Proof.Machine.execSoftStartEnd t millivolts s
  | .readyWord t scrubOk => Sys2Proof.Machine.execReadyWord t scrubOk s
  | .weltFault t => Sys2Proof.Machine.execWeltFault t s
  | .dieRailLoss d => Sys2Proof.Machine.execDieRailLoss d s
  | .buckleArriveMsg words => Sys2Proof.Machine.execBuckleArriveMsg words s
  | .buckleWatchMsg words => Sys2Proof.Machine.execBuckleWatchMsg words s
  | .buckleArriveWatchMsg words => Sys2Proof.Machine.execBuckleArriveWatchMsg words s
  | .buckleSatisfyMsg t words => Sys2Proof.Machine.execBuckleSatisfyMsg t words s
  | .closingWindowExpiry n => Sys2Proof.Machine.execClosingWindowExpiry n s
  | .auditMarker h balance received => Sys2Proof.Machine.execAuditMarker h balance received s
  | .auditNow v => Sys2Proof.Machine.execAuditNow v s
  | .buckleProbe b => Sys2Proof.Machine.execBuckleProbe b s
  | .headFlitRoute t port pool p symbolErrors => Sys2Proof.Machine.execHeadFlitRoute t port pool p symbolErrors s
  | .historyEntryExpiry dest src flow vc => Sys2Proof.Machine.execHistoryEntryExpiry dest src flow vc s
  | .agingWaitExpiry p vc => Sys2Proof.Machine.execAgingWaitExpiry p vc s
  | .neighbourSilent t port => Sys2Proof.Machine.execNeighbourSilent t port s
  | .stuckOutput t port vc pool => Sys2Proof.Machine.execStuckOutput t port vc pool s
  | .stuckProbe site origin => Sys2Proof.Machine.execStuckProbe site origin s
  | .probeReturn t => Sys2Proof.Machine.execProbeReturn t s
  | .spillOrder t origin => Sys2Proof.Machine.execSpillOrder t origin s
  | .escapeSpill slice p => Sys2Proof.Machine.execEscapeSpill slice p s
  | .reinjection t => Sys2Proof.Machine.execReinjection t s
  | .cablePresence p present identity => Sys2Proof.Machine.execCablePresence p present identity s
  | .trainingAttempt p r => Sys2Proof.Machine.execTrainingAttempt p r s
  | .trainingRetryTimer p => Sys2Proof.Machine.execTrainingRetryTimer p s
  | .viletFlitReceive p f => Sys2Proof.Machine.execViletFlitReceive p f s
  | .nakReceive p ack => Sys2Proof.Machine.execNakReceive p ack s
  | .replayTimeout p => Sys2Proof.Machine.execReplayTimeout p s
  | .retrain p cause passing => Sys2Proof.Machine.execRetrain p cause passing s
  | .downTimeout p => Sys2Proof.Machine.execDownTimeout p s
  | .laneSignalLoss p => Sys2Proof.Machine.execLaneSignalLoss p s
  | .identity p fields => Sys2Proof.Machine.execIdentity p fields s
  | .drainRequest p => Sys2Proof.Machine.execDrainRequest p s
  | .drainDone p => Sys2Proof.Machine.execDrainDone p s
  | .probe p stamp => Sys2Proof.Machine.execProbe p stamp s
  | .echo p stamp => Sys2Proof.Machine.execEcho p stamp s
  | .retrainNotice p trigger => Sys2Proof.Machine.execRetrainNotice p trigger s
  | .viletDrainLimit p => Sys2Proof.Machine.execViletDrainLimit p s
  | .portEnable p => Sys2Proof.Machine.execPortEnable p s
  | .portDisable p => Sys2Proof.Machine.execPortDisable p s
  | .portRetrain p passing => Sys2Proof.Machine.execPortRetrain p passing s
  | .vauxOvercurrent p => Sys2Proof.Machine.execVauxOvercurrent p s
  | .portTable n member table => Sys2Proof.Machine.execPortTable n member table s
  | .portMatchConfirm p matched => Sys2Proof.Machine.execPortMatchConfirm p matched s
  | .gradientPacket l n p => Sys2Proof.Machine.execGradientPacket l n p s
  | .contributionTrailer n bytes => Sys2Proof.Machine.execContributionTrailer n bytes s
  | .segmentProcess n bucket chunk seg => Sys2Proof.Machine.execSegmentProcess n bucket chunk seg s
  | .markList n bytes => Sys2Proof.Machine.execMarkList n bytes s
  | .passRequest n logical bucket => Sys2Proof.Machine.execPassRequest n logical bucket s
  | .passResend n logical bucket block => Sys2Proof.Machine.execPassResend n logical bucket block s
  | .bucketDeadline n bucket => Sys2Proof.Machine.execBucketDeadline n bucket s
  | .omissionNotice n logical bucket => Sys2Proof.Machine.execOmissionNotice n logical bucket s
  | .accumulationDelivery n bucket block => Sys2Proof.Machine.execAccumulationDelivery n bucket block s
  | .nodeCopy n bucket bytes => Sys2Proof.Machine.execNodeCopy n bucket bytes s
  | .gatherRequest l n member p => Sys2Proof.Machine.execGatherRequest l n member p s
  | .normTrailer n member bytes => Sys2Proof.Machine.execNormTrailer n member bytes s
  | .permuteBlockMove n decl entry data => Sys2Proof.Machine.execPermuteBlockMove n decl entry data s
  | .ringTimeout l n bucket => Sys2Proof.Machine.execRingTimeout l n bucket s
  | .scaleFragment n bytes => Sys2Proof.Machine.execScaleFragment n bytes s
  | .scaleTableCompute n handle => Sys2Proof.Machine.execScaleTableCompute n handle s
  | .scaleTableReceive t bytes => Sys2Proof.Machine.execScaleTableReceive t bytes s
  | .sweepBegin k n => Sys2Proof.Machine.execSweepBegin k n s
  | .ringMaxima k n handle slot maxCode overflow => Sys2Proof.Machine.execRingMaxima k n handle slot maxCode overflow s
  | .burnisherUpdate k g => Sys2Proof.Machine.execBurnisherUpdate k g s
  | .engineMismatch k g burnisher => Sys2Proof.Machine.execEngineMismatch k g burnisher s
  | .updateCompleteSend n => Sys2Proof.Machine.execUpdateCompleteSend n s
  | .updateCompleteReceive n words => Sys2Proof.Machine.execUpdateCompleteReceive n words s
  | .commitPoint n => Sys2Proof.Machine.execCommitPoint n s
  | .commitFlip k n => Sys2Proof.Machine.execCommitFlip k n s
  | .commitAcksIn n => Sys2Proof.Machine.execCommitAcksIn n s
  | .layerStampTable t layer => Sys2Proof.Machine.execLayerStampTable t layer s
  | .compareStep n => Sys2Proof.Machine.execCompareStep n s
  | .compareContinue n => Sys2Proof.Machine.execCompareContinue n s
  | .compareRetry n => Sys2Proof.Machine.execCompareRetry n s
  | .compareLeave n => Sys2Proof.Machine.execCompareLeave n s
  | .cinchEdge quarterNs highNs => Sys2Proof.Machine.execCinchEdge quarterNs highNs s
  | .holdWindowExpiry n => Sys2Proof.Machine.execHoldWindowExpiry n s
  | .cinchTestPulse v => Sys2Proof.Machine.execCinchTestPulse v s
  | .inputSample millivolts => Sys2Proof.Machine.execInputSample millivolts s
  | .converterFailure j => Sys2Proof.Machine.execConverterFailure j s
  | .phaseCheck t bad controllerFault => Sys2Proof.Machine.execPhaseCheck t bad controllerFault s
  | .verticalStagePhaseLoss d phase => Sys2Proof.Machine.execVerticalStagePhaseLoss d phase s
  | .boost t => Sys2Proof.Machine.execBoost t s
  | .shunt t => Sys2Proof.Machine.execShunt t s
  | .measurementInterval r => Sys2Proof.Machine.execMeasurementInterval r s
  | .governorLoop r => Sys2Proof.Machine.execGovernorLoop r s
  | .slopeInterval demand => Sys2Proof.Machine.execSlopeInterval demand s
  | .wakeDeferralTimeout t => Sys2Proof.Machine.execWakeDeferralTimeout t s
  | .rampStart t => Sys2Proof.Machine.execRampStart t s
  | .rampReleaseTimeout t => Sys2Proof.Machine.execRampReleaseTimeout t s
  | .droopRecovery t => Sys2Proof.Machine.execDroopRecovery t s
  | .temperatureSample t tenths => Sys2Proof.Machine.execTemperatureSample t tenths s
  | .edgeDieOvertemp d tenths => Sys2Proof.Machine.execEdgeDieOvertemp d tenths s
  | .coolantSample inlet outlet flow => Sys2Proof.Machine.execCoolantSample inlet outlet flow s
  | .slackNoticeReceive n words => Sys2Proof.Machine.execSlackNoticeReceive n words s
  | .coefficientRefit fits error => Sys2Proof.Machine.execCoefficientRefit fits error s
  | .errorReport pt r => Sys2Proof.Machine.execErrorReport pt r s
  | .coalescingWindowEnd pt j => Sys2Proof.Machine.execCoalescingWindowEnd pt j s
  | .recordPublish j => Sys2Proof.Machine.execRecordPublish j s
  | .uncorrectableWord w => Sys2Proof.Machine.execUncorrectableWord w s
  | .patrolRead k corrected uncorrectable slice => Sys2Proof.Machine.execPatrolRead k corrected uncorrectable slice s
  | .controlStructureFail f => Sys2Proof.Machine.execControlStructureFail f s
  | .stepRetry n code => Sys2Proof.Machine.execStepRetry n code s
  | .retryNotice n words => Sys2Proof.Machine.execRetryNotice n words s
  | .retryQuiesced n => Sys2Proof.Machine.execRetryQuiesced n s
  | .retryQuiesceTimeout n => Sys2Proof.Machine.execRetryQuiesceTimeout n s
  | .partitionReset n code => Sys2Proof.Machine.execPartitionReset n code s
  | .resetNotice n words => Sys2Proof.Machine.execResetNotice n words s
  | .oddNumbersCheck n => Sys2Proof.Machine.execOddNumbersCheck n s
  | .oddContinue n => Sys2Proof.Machine.execOddContinue n s
  | .oddRetry n => Sys2Proof.Machine.execOddRetry n s
  | .oddContinueClear n => Sys2Proof.Machine.execOddContinueClear n s
  | .alertAcknowledge v => Sys2Proof.Machine.execAlertAcknowledge v s
  | .readoutSequence seq => Sys2Proof.Machine.execReadoutSequence seq s
  | .readoutStep n step => Sys2Proof.Machine.execReadoutStep n step s
  | .rebindAdd words => Sys2Proof.Machine.execRebindAdd words s
  | .rebindRemove words => Sys2Proof.Machine.execRebindRemove words s
  | .rebindDissolve words => Sys2Proof.Machine.execRebindDissolve words s
  | .substitution t cause => Sys2Proof.Machine.execSubstitution t cause s
  | .migration t => Sys2Proof.Machine.execMigration t s
  | .migrationQuiesced t => Sys2Proof.Machine.execMigrationQuiesced t s
  | .migrationAbandon t => Sys2Proof.Machine.execMigrationAbandon t s
  | .testRequest words => Sys2Proof.Machine.execTestRequest words s
  | .tileTest t r => Sys2Proof.Machine.execTileTest t r s
  | .stackBaseTest k r => Sys2Proof.Machine.execStackBaseTest k r s
  | .linkDieTest l r => Sys2Proof.Machine.execLinkDieTest l r s
  | .fieldTestDue t => Sys2Proof.Machine.execFieldTestDue t s
  | .deferredTestRetry t => Sys2Proof.Machine.execDeferredTestRetry t s
  | .submissionTail f tail entries => Sys2Proof.Machine.execSubmissionTail f tail entries s
  | .load f data => Sys2Proof.Machine.execLoad f data s
  | .release f => Sys2Proof.Machine.execRelease f s
  | .run f => Sys2Proof.Machine.execRun f s
  | .write f => Sys2Proof.Machine.execWrite f s
  | .writeGateOpen f tag data => Sys2Proof.Machine.execWriteGateOpen f tag data s
  | .read f => Sys2Proof.Machine.execRead f s
  | .readBegin f tag => Sys2Proof.Machine.execReadBegin f tag s
  | .stateOut f => Sys2Proof.Machine.execStateOut f s
  | .stateIn f data => Sys2Proof.Machine.execStateIn f data s
  | .reference f data => Sys2Proof.Machine.execReference f data s
  | .recordOut f => Sys2Proof.Machine.execRecordOut f s
  | .stepStart n => Sys2Proof.Machine.execStepStart n s
  | .completionHead f head => Sys2Proof.Machine.execCompletionHead f head s
  | .recordHead f head => Sys2Proof.Machine.execRecordHead f head s
  | .functionLevelReset f => Sys2Proof.Machine.execFunctionLevelReset f s
  | .hostAccessFail f a => Sys2Proof.Machine.execHostAccessFail f a s
  | .reinFrame fr => Sys2Proof.Machine.execReinFrame fr s
  | .nop g => Sys2Proof.Machine.execNop g s
  | .scan g => Sys2Proof.Machine.execScan g s
  | .addr g => Sys2Proof.Machine.execAddr g s
  | .cyc g => Sys2Proof.Machine.execCyc g s
  | .commandImageApply v => Sys2Proof.Machine.execCommandImageApply v s
  | .mbxW g => Sys2Proof.Machine.execMbxW g s
  | .mbxR g => Sys2Proof.Machine.execMbxR g s
  | .link g arrive depart => Sys2Proof.Machine.execLink g arrive depart s
  | .time g arrive depart => Sys2Proof.Machine.execTime g arrive depart s
  | .reset g => Sys2Proof.Machine.execReset g s
  | .mailboxRead v => Sys2Proof.Machine.execMailboxRead v s
  | .mailboxWrite v => Sys2Proof.Machine.execMailboxWrite v s
  | .segmentRead v => Sys2Proof.Machine.execSegmentRead v s
  | .segmentWrite v => Sys2Proof.Machine.execSegmentWrite v s
  | .reinReset v => Sys2Proof.Machine.execReinReset v s
  | .store flashOk => Sys2Proof.Machine.execStore flashOk s
  | .restoreFactory flashOk => Sys2Proof.Machine.execRestoreFactory flashOk s
  | .odWrite v idx sub data => Sys2Proof.Machine.execOdWrite v idx sub data s
  | .faultEntry code => Sys2Proof.Machine.execFaultEntry code s
  | .powerOn c r => Sys2Proof.Machine.execPowerOn c r s
  | .coolantRecheck c r => Sys2Proof.Machine.execCoolantRecheck c r s
  | .droopDetect t => Sys2Proof.Machine.execDroopDetect t s
  | .edgeDieRailFailure d => Sys2Proof.Machine.execEdgeDieRailFailure d s
  | .laneErrorRatioAlarm p lane ratio => Sys2Proof.Machine.execLaneErrorRatioAlarm p lane ratio s
  | .nakRepeatTimeout p => Sys2Proof.Machine.execNakRepeatTimeout p s
  | .pcieLinkTrained portB rate width => Sys2Proof.Machine.execPcieLinkTrained portB rate width s
  | .ringControlWrite f off value => Sys2Proof.Machine.execRingControlWrite f off value s
  | .interruptIntervalExpiry f v => Sys2Proof.Machine.execInterruptIntervalExpiry f v s
  | .hostTransferComplete f tag => Sys2Proof.Machine.execHostTransferComplete f tag s
  | .auditPeriod => Sys2Proof.Machine.execAuditPeriod s
  | .alternateSetInForce => Sys2Proof.Machine.execAlternateSetInForce s
  | .inputLoss => Sys2Proof.Machine.execInputLoss s
  | .epoAssert => Sys2Proof.Machine.execEpoAssert s
  | .epoRelease => Sys2Proof.Machine.execEpoRelease s
  | .coolantFault => Sys2Proof.Machine.execCoolantFault s
  | .reinLinkLoss => Sys2Proof.Machine.execReinLinkLoss s
  | .syncWatchExpiry => Sys2Proof.Machine.execSyncWatchExpiry s
  | .moduleReset => Sys2Proof.Machine.execModuleReset s
  | .enterStandby => Sys2Proof.Machine.execEnterStandby s
  | .leaveStandby => Sys2Proof.Machine.execLeaveStandby s
  | .leaveFault => Sys2Proof.Machine.execLeaveFault s
  | .cinchInFall => Sys2Proof.Machine.execCinchInFall s

end Sys2Proof.Machine
end

