-- ==== Sys2Proof/Machine/Tick.lean ====
section
/-! DEFINITION. What one nanosecond of module time adds to the times that the module sums: throttled, ballast and slack time, the classes of a step's time,
the time in the band Low, the engines' floor time and the waits for a reference record (R218, R375, R380, R403, R442, R446, R452). -/

namespace Sys2Proof.Machine

/-- The class of a nanosecond of a logical tile, by its place in a tile entry (R374, R375): forward, backward, reduce, update, gather, wait-at-Buckle, wait-at-Cinch
and idle. -/
def Partition.timeClass (p : Partition) (x : Option Tile) (phase : Nat) : Nat :=
  if p.run.heldSince.isSome ∧ (p.window.map fun w => w.closed.isNone).getD false then 6
  else match x with
    | none => 7
    | some x =>
      let has := fun (k : CtxState) => x.seqr.ctxs.toList.any fun c => c.state == k
      if x.island.state ≠ .running ∨ x.seqr.stepReady = true ∨ !(has .issuing || has .atBuckle || has .waiting) then 7
      else if !(has .issuing || has .waiting) then 5
      else if phase = 0 then 7 else phase - 1

/-- A nanosecond of a logical tile: its class, and the reason for which its tile is throttled (R375, R442). -/
def TileTimes.tick (k : TileTimes) (cls : Nat) (reason : Option Nat) : TileTimes :=
  { k with
    classes := vmod k.classes (Fin.ofNat 8 cls) (· + 1)
    throttled := match reason with
      | some r => vmod k.throttled (Fin.ofNat 8 r) (· + 1)
      | none => k.throttled }

/-- The reason for which a Running tile is throttled now (R441). -/
def State.throttle (s : State) (x : Tile) : Option Nat :=
  if x.island.state = .running then x.reason s.governor.binding s.governor.target.toNat else none

/-- A nanosecond of a tile: its welt's copy of module time, the cycles in which a context waits for a page, the refusals of its store, and its own sums (R35,
R162, R189, R442, R452). -/
def State.tickTile (s : State) (t : TileId) (x : Tile) : Tile :=
  let waits := x.island.state == .running && x.seqr.ctxs.toList.any fun c => c.pageWait
  { x with
    seqr := { x.seqr with pageWaits := if waits then x.seqr.pageWaits + x.island.clock else x.seqr.pageWaits }
    stream := { x.stream with storeRefusals := x.stream.storeRefusals + BitVec.ofNat 64 (Config.storeRefusals t s.time) }
    island := { x.island with time := if x.island.weltFailed then x.island.time else BitVec.ofNat 64 (s.time + 1) }
    power := { x.power with
    durations := match s.throttle x with
      | some r => vmod x.power.durations (Fin.ofNat 8 r) (· + 1)
      | none => x.power.durations
    ballastTime := if 0 < x.power.ballast then x.power.ballastTime + 1 else x.power.ballastTime } }

/-- A nanosecond of a partition: the classes of its logical tiles from the step's start, and a wait for a reference record (R375, R380). -/
def State.tickPart (s : State) (n : PartId) (p : Partition) : Partition :=
  match p.image with
  | none => p
  | some m =>
    if p.state ≠ .loaded ∨ (p.run.running = false ∧ p.run.committed = none) then p
    else
      let r := (List.range m.tiles).foldl (fun (r : Replay) l =>
        let x := (p.physOf l).map fun t => s.tiles.get t
        r.modTimes l fun k => k.tick (p.timeClass x k.phase) (x.bind s.throttle)) p.replay
      let waits := p.needsReference && p.referenceNow.isNone && s.mayStart n m
      { p with replay := { r with refWaits := if waits then r.refWaits + 1 else r.refWaits } }

/-- The engines of a stack run at the floor share (R191, R218, R439). -/
def State.atFloor (s : State) (k : StackId) : Bool :=
  let hot := decide (950 ≤ s.thermal.edgeTemps.get (Fin.ofNat 33 k.1))
  (s.stackDies.get k).power == .up && decide ((if hot then s.governor.stackFloor.toNat else s.governor.stackShare) ≤ 800)

/-- Running tiles under a slack ceiling (R446). -/
def State.slackTiles (s : State) : Nat :=
  (s.tiles.toList.filter fun x => x.island.state == .running && decide (x.power.slackCeiling < 900)).length

/-- A nanosecond passes, which is one welt cycle of the fabric (R35): balances are checked, notices of a retry arrive, the re-bind service goes on, and tests that wait begin where they may
(R222, R272, R469, R487). While the module is Off, no time runs. -/
def State.tick (s : State) : State :=
  match s.module.state with
  | .off => s
  | _ =>
    let s := s.fabricCycle.checkBalances.takeNotices.serveRebinds.startTests
    { s with
      time := s.time + 1
      tiles := s.tiles.mapFinIdx fun i x h => s.tickTile ⟨i, h⟩ x
      parts := s.parts.mapFinIdx fun i p h => s.tickPart ⟨i, h⟩ p
      stackDies := s.stackDies.mapFinIdx fun i k h => if s.atFloor ⟨i, h⟩ then { k with floorTime := k.floorTime + 1 } else k
      governor := { s.governor with slackTime := s.governor.slackTime + s.slackTiles }
      input := { s.input with lowTime := if s.input.band = .low then s.input.lowTime + 1 else s.input.lowTime } }

end Sys2Proof.Machine
end

