-- ==== Sys2Proof/Safety.lean ====
section
/-! DEFINITION. What a safe state and a safe run are, in the terms that the statements use: ranges that registers keep, memories in
canonical form, when a context takes a command, and what a command may change beside its own effect. -/

namespace Sys2Proof.Machine

/-! ### Ranges and memories -/

/-- The Rein clock registers are in the ranges that the manual gives them: the trim within 1000 ns, the steering rate within
10^6 ppb, the count of good errors at most 3 (R535). -/
def Rein.inRange (r : Rein) : Bool :=
  decide (-1000 ≤ r.trim) && decide (r.trim ≤ 1000) && decide (-1000000 ≤ r.rate) && decide (r.rate ≤ 1000000) && decide (r.good ≤ 3)

/-- Every byte memory of the state is in canonical form: activation stores, the blocks of the arrays, and the partitions' regions. -/
def State.memoriesOk (s : State) : Bool :=
  s.tiles.toList.all (fun x => Cells.wf x.store && ([x.array.active, x.array.shadow, x.array.loading].all fun b =>
    (b.map fun b => Cells.wf b.data).getD true)) &&
  s.parts.toList.all fun p => p.weights.regions.all fun r => Cells.wf r.2.cells

/-! ### When a context takes a command -/

/-- A context of a tile takes command `i` (R182, R185): it is live, its page is present, the words at its position spell `i`, and a tag is free; `e` is what the
tile works for. -/
structure Takes (i : Instr) (s : State) (t : TileId) (c : CtxId) (e : Seat) : Prop where
  live : s.live t c = true
  page : ((s.tiles.get t).seqr.ctxs.get c).pageHere = true
  next : ((s.tiles.get t).seqr.ctxs.get c).nextCommand t c = some i
  tag : ((s.tiles.get t).seqr.ctxs.get c).outstanding.length < 16
  seat : s.seat t = some e

/-! ### What a command may change beside its own effect -/

/-- Only one tile differs. -/
structure OnlyTile (t : TileId) (s s' : State) : Prop where
  rest : s' = { s with tiles := s'.tiles }
  others : ∀ u, u ≠ t → s'.tiles.get u = s.tiles.get u

/-- Only one stack differs. -/
structure OnlyStack (k : StackId) (s s' : State) : Prop where
  rest : s' = { s with stackDies := s'.stackDies }
  others : ∀ u, u ≠ k → s'.stackDies.get u = s.stackDies.get u

/-- Only one Vilet port differs. -/
structure OnlyPort (p : PortId) (s s' : State) : Prop where
  rest : s' = { s with ports := s'.ports }
  others : ∀ u, u ≠ p → s'.ports.get u = s.ports.get u

/-- Only one partition differs. -/
structure OnlyPart (n : PartId) (s s' : State) : Prop where
  rest : s' = { s with parts := s'.parts }
  others : ∀ u, u ≠ n → s'.parts.get u = s.parts.get u

/-- Only one host function differs. -/
structure OnlyFn (f : FuncId) (s s' : State) : Prop where
  rest : s' = { s with fns := s'.fns }
  others : ∀ u, u ≠ f → s'.fns.get u = s.fns.get u

/-- Only the Rein block differs. -/
def OnlyRein (s s' : State) : Prop := s' = { s with rein := s'.rein }

/-- What a command of a tile's context changes beside its own effect on the tile's units: its context and, for the arrivals that its
completion releases, the Buckles, the packets sent and the audit's sums. No other tile, no partition, and none of the tile's
stores, registers and regulators. -/
structure IssueFrame (t : TileId) (s s' : State) : Prop where
  rest : s' = { s with tiles := s'.tiles, ranges := s'.ranges, audit := s'.audit, fabric := s'.fabric }
  others : ∀ u, u ≠ t → s'.tiles.get u = s.tiles.get u
  power : (s'.tiles.get t).power = (s.tiles.get t).power
  faults : (s'.tiles.get t).faults = (s.tiles.get t).faults
  test : (s'.tiles.get t).test = (s.tiles.get t).test
  stamp : (s'.tiles.get t).stamp = (s.tiles.get t).stamp
  stream : (s'.tiles.get t).stream = (s.tiles.get t).stream

/-- The tile's array, vector registers and activation store stand as they were. -/
structure SameData (t : TileId) (s s' : State) : Prop where
  array : (s'.tiles.get t).array = (s.tiles.get t).array
  regs : (s'.tiles.get t).vec.regs = (s.tiles.get t).vec.regs
  gens : (s'.tiles.get t).vec.gens = (s.tiles.get t).vec.gens
  laneFlags : (s'.tiles.get t).vec.laneFlags = (s.tiles.get t).vec.laneFlags
  phaseFlags : (s'.tiles.get t).vec.phaseFlags = (s.tiles.get t).vec.phaseFlags
  store : (s'.tiles.get t).store = (s.tiles.get t).store
  storeStatus : (s'.tiles.get t).storeStatus = (s.tiles.get t).storeStatus

/-! ### Families of commands -/

/-- The tile's array and store stand as they were, and of its vector engine only the rows `rs` of register `d`, the lane flags, the phase flag
word and the marks for a layer re-run may differ. -/
structure VectorFrame (t : TileId) (d : Nat) (rs : List Nat) (s s' : State) : Prop where
  array : (s'.tiles.get t).array = (s.tiles.get t).array
  store : (s'.tiles.get t).store = (s.tiles.get t).store
  storeStatus : (s'.tiles.get t).storeStatus = (s.tiles.get t).storeStatus
  gens : (s'.tiles.get t).vec.gens = (s.tiles.get t).vec.gens
  rows : ∀ (g : Fin 8) (r : Fin 64), (g.1 ≠ d ∨ r.1 ∉ rs) →
    ((s'.tiles.get t).vec.regs.get g).get r = ((s.tiles.get t).vec.regs.get g).get r

/-- A context's next command has been issued (R182): the position has moved on by one, and only this context of the tile has changed. -/
structure Issued (t : TileId) (c : CtxId) (s s' : State) : Prop where
  pos : ((s'.tiles.get t).seqr.ctxs.get c).pos = ((s.tiles.get t).seqr.ctxs.get c).pos + 1
  state : ((s'.tiles.get t).seqr.ctxs.get c).state = .issuing
  others : ∀ d, d ≠ c → (s'.tiles.get t).seqr.ctxs.get d = (s.tiles.get t).seqr.ctxs.get d
  records : (s'.tiles.get t).seqr.records = (s.tiles.get t).seqr.records
  tables : (s'.tiles.get t).seqr.tables = (s.tiles.get t).seqr.tables

/-- The frame of a command that counts events (R71, R74, R107): beside `IssueFrame`, the counts and the slot maxima of partition `n`. -/
structure CountedFrame (t : TileId) (n : PartId) (s s' : State) : Prop where
  frame : IssueFrame t { s with parts := s'.parts } s'
  parts : ∀ m, m ≠ n → s'.parts.get m = s.parts.get m
  part : s'.parts.get n = { s.parts.get n with
    replay := { (s.parts.get n).replay with counts := (s'.parts.get n).replay.counts }
    weights := { (s.parts.get n).weights with maxima := (s'.parts.get n).weights.maxima } }

/-- What LD and ST find of their tensor at a state: the table of a block format, where it is present. -/
def State.moveArgs (s : State) (t : TileId) (e : Seat) (r : OperandRecord) : MoveArgs :=
  ⟨e.image, r, if fmtNarrow r.fmt then (s.tiles.get t).tableOf r.handle (s.parts.get e.part).run.step else none⟩

/-- The scale table that a tensor of a block format needs is present in the tile for the current step (R89). -/
def State.tableHere (s : State) (t : TileId) (e : Seat) (fmt h : Nat) : Bool :=
  !fmtNarrow fmt || ((s.tiles.get t).tableOf h (s.parts.get e.part).run.step).isSome

/-- Store rows of an LD or ST: one per register row, or per FP64 row. -/
def moveRows (o : VecOp) : Nat := if o.prec = 2 then (o.count.toNat + 1) / 2 else o.count.toNat + 1

/-- The codes of store row `i` of an ST in layout 0 (R67, R128). -/
def MoveArgs.stCodes (a : MoveArgs) (v : VectorEngine) (o : VecOp) (i : Nat) : List Nat :=
  (List.range 512).map fun j =>
    if o.prec = 2 then v.wide o.a.toNat ((o.first.toNat + 2 * i) / 2) j
    else (a.stElem (a.record.firstK + j)
      (!fmtNarrow a.record.fmt || decide (a.record.firstK + j < ((a.image.tensor a.record.handle).map (·.k)).getD 0))
      (v.word o.a.toNat (o.first.toNat + i) j)).out.code

/-- The element code that a staged block at `base` of a store holds for a K index of its span and a column (R88). -/
def storeCode (fmt : Nat) (m : List Host.Cell) (base k j : Nat) : Nat :=
  let b := (Cells.read m (base + cellOffset fmt k j)).toNat
  if fmtBits fmt = 4 then (if k % 2 = 0 then b % 16 else b / 16)
  else if fmt = codeBF16 then b + 256 * (Cells.read m (base + cellOffset fmt k j + 1)).toNat
  else b

/-- The code that an ST into a staged block gives the element at a K index of the span and a column; beyond the tensor's K or N it is a zero (R65, R88, R128). -/
def State.stagedCode (s : State) (t : TileId) (e : Seat) (r : OperandRecord) (o : VecOp) (k j : Nat) : Nat :=
  let kk := r.span * spanDepth r.fmt + k
  let d := e.image.tensor r.handle
  ((s.moveArgs t e r).stElem kk (decide (kk < (d.map (·.k)).getD 0 ∧ r.panel * panelWidth r.fmt + j < (d.map (·.n)).getD 0))
    ((s.tiles.get t).vec.word o.a.toNat (k - bits o.addr.toNat 15 6) j)).out.code

/-- An MMUL in mode 0 or 1 finds all that it needs (R89, R94, R102, R157, R173). -/
structure MmulReady (s : State) (t : TileId) (e : Seat) (o : MmulOp) (r : OperandRecord) (b : Block) (swap : Bool) : Prop where
  record : (s.tiles.get t).recordAt o.record.toNat = some r
  fields : o.ok = true
  group : decide (o.group = 3) = e.image.exact_
  block : (s.tiles.get t).array.select o.span.toNat o.panel.toNat = .block b swap
  table : s.tableHere t e r.fmt r.handle = true
  stationary : fmtIsInt b.fmt = true → ((s.tiles.get t).tableOf b.handle (s.parts.get e.part).run.step).isSome = true
  here : ∀ i, i ≤ o.rows.toNat → (s.tiles.get t).filling (o.addr.toNat + i * r.stride) (ceilDiv (b.depth * fmtBits r.fmt) 8) = false

/-- What the array reads for an MMUL at a state. -/
def State.mmulArgs (s : State) (t : TileId) (e : Seat) (o : MmulOp) (r : OperandRecord) (b : Block) : ArrayOperands :=
  { block := b, rowFmt := r.fmt, aferarel := e.image.exact_, group := o.group.toNat
    table := if fmtNarrow r.fmt then (s.tiles.get t).tableOf r.handle (s.parts.get e.part).run.step else none }

/-- The panel exponent of an MMUL (R100); 0 for FP32 results. -/
def State.mmulExponent (s : State) (t : TileId) (e : Seat) (o : MmulOp) (r : OperandRecord) (b : Block) : Int :=
  match fmtIsInt b.fmt, (s.mmulArgs t e o r b).table, (s.tiles.get t).tableOf b.handle (s.parts.get e.part).run.step with
  | true, some tr, some ts => panelExponent tr ts o.panel.toNat (((e.image.tensor b.handle).map (·.k)).getD 0)
  | _, _, _ => 0

/-- The element that an MMUL writes, from the value that it starts from (R99, R100, R102). -/
def State.mmulElement (s : State) (t : TileId) (e : Seat) (o : MmulOp) (r : OperandRecord) (b : Block) (i j : Nat)
    (start : Option (Word32 × BitVec 4)) : Word32 × BitVec 4 :=
  let row := (s.tiles.get t).storeRead (o.addr.toNat + i * r.stride) (ceilDiv (b.depth * fmtBits r.fmt) 8)
  if fmtIsInt b.fmt then (s.mmulArgs t e o r b).elementInt (s.mmulExponent t e o r b) row j start
  else (s.mmulArgs t e o r b).elementFp row j start

/-- What an MMUL leaves of the array beside its elements (R94, R102): the metadata of the written rows, every other row, the selected block in the
active slots and, after a swap, free shadow slots. -/
structure MmulWrites (t : TileId) (o : MmulOp) (b : Block) (swap : Bool) (s s' : State) : Prop where
  written : ∀ r : Fin 4096, o.base.toNat ≤ r.1 → r.1 ≤ o.base.toNat + o.rows.toNat →
    ((s'.tiles.get t).array.acc.get r).panel = o.panel.toNat ∧ ((s'.tiles.get t).array.acc.get r).lastSpan = o.span.toNat ∧
    ((s'.tiles.get t).array.acc.get r).group = o.group ∧ ((s'.tiles.get t).array.acc.get r).isInt = fmtIsInt b.fmt ∧
    (∀ j : Fin 512, panelWidth b.fmt ≤ j.1 → ((s'.tiles.get t).array.acc.get r).vals.get j = ((s.tiles.get t).array.acc.get r).vals.get j ∧
      ((s'.tiles.get t).array.acc.get r).flags.get j = ((s.tiles.get t).array.acc.get r).flags.get j)
  kept : ∀ r : Fin 4096, (r.1 < o.base.toNat ∨ o.base.toNat + o.rows.toNat < r.1) →
    (s'.tiles.get t).array.acc.get r = (s.tiles.get t).array.acc.get r
  active : (s'.tiles.get t).array.active = some b
  shadow : (s'.tiles.get t).array.shadow = if swap then none else (s.tiles.get t).array.shadow
  store : (s'.tiles.get t).store = (s.tiles.get t).store
  vec : (s'.tiles.get t).vec = (s.tiles.get t).vec

/-- The rows of a DRAIN share one panel, last span, group size and kind (R104). -/
def Tile.drainable (x : Tile) (o : DrainOp) : Bool :=
  let row := fun (i : Nat) => x.array.acc.get (Fin.ofNat 4096 (o.first.toNat + i))
  (List.range (o.rows.toNat + 1)).all fun i =>
    (row i).panel == (row 0).panel && (row i).lastSpan == (row 0).lastSpan && (row i).group == (row 0).group && (row i).isInt == (row 0).isInt

/-- The block that a LOADW names, before its bytes are copied (R93, R173): depth and width are written minus 1. -/
def State.loadwBlock (s : State) (t : TileId) (o : LoadwOp) (r : OperandRecord) : Block :=
  { handle := r.handle, fmt := o.fmt.toNat, span := o.span.toNat, panel := o.panel.toNat, depth := o.depth.toNat + 1, width := o.width.toNat + 1,
    addr := o.addr.toNat, scales := [], data := [], cmd := s.posOf t arrayCtx, status := .passed, parity := [] }

/-- A vector command that its context takes faults as malformed where its fields are not allowed, and with an order fault where only the kinds of its rows are not. -/
def FieldsAndKinds (i : Instr) (fields kinds : Bool) (s : State) (t : TileId) (e : Seat) : Prop :=
  Takes i s t vecCtx e →
    (fields = false → exec i s = .next (s.malformed t vecCtx e vecClass 8)) ∧
    (fields = true → kinds = false → exec i s = .next (s.orderFault t vecCtx e vecClass))

/-- An elementwise command is taken (R117 to R119): its context takes it, its fields are right for a function that reads B, that reads C and that is offered in
FP64, and it meets no INT32 row. -/
structure ElementwiseReady (i : Instr) (o : VecOp) (readsB readsC wide : Bool) (s : State) (t : TileId) (e : Seat) : Prop where
  takes : Takes i s t vecCtx e
  fields : o.elemOk readsB readsC wide = true
  kinds : (s.tiles.get t).vec.noInt (opReadsAll o readsB readsC) = true

/-- The result of an elementwise function at a row and a lane, in FP32. -/
def lane32 (v : VectorEngine) (o : VecOp) (f : LaneFn) (r j : Nat) : FRes :=
  f fmtFP32 (v.word o.a.toNat r j) (v.word o.b.toNat (opB o r j).1 (opB o r j).2) (v.word o.c.toNat r j)

/-- The result of an elementwise function at an FP64 row and a lane. -/
def lane64 (v : VectorEngine) (o : VecOp) (f : LaneFn) (i j : Nat) : FRes :=
  f fmtFP64 (v.wide o.a.toNat i j) (v.wide o.b.toNat (if o.bcast = 1 then o.brow.toNat / 2 else i) j) (v.wide o.c.toNat i j)

/-- What an elementwise command with function `f` leaves (R117, R118, R130, R137): in every selected row its function of the operands with one rounding each, kind 0
and the worst check status of the rows that it read and its own; the flags that it raised in the lanes; and nothing else changed. -/
structure ElementwiseDone (f : LaneFn) (o : VecOp) (readsB readsC : Bool) (t : TileId) (e : Seat) (s s' : State) : Prop where
  frame : IssueFrame t s s'
  issued : Issued t vecCtx s s'
  vector : VectorFrame t o.d.toNat (opRows o) s s'
  single : o.prec = 0 → ∀ r ∈ opRows o, ∀ j : Fin 512,
    (s'.tiles.get t).vec.word o.d.toNat r j.1 = aferarelNaN e.image.exact_ (lane32 (s.tiles.get t).vec o f r j.1).code % 2 ^ 32
  double : o.prec = 2 → ∀ i, 2 * i ∈ opRows o → ∀ j : Fin 512,
    (s'.tiles.get t).vec.wide o.d.toNat i j.1 = (lane64 (s.tiles.get t).vec o f i j.1).code % 2 ^ 64
  status : o.prec = 0 → ∀ r ∈ opRows o, ((s'.tiles.get t).vec.row o.d.toNat r).kind = 0 ∧
    ((s'.tiles.get t).vec.row o.d.toNat r).status =
      (CheckStatus.pending [s.opOf t]).worst ((s.tiles.get t).vec.worstOf (opReads o readsB readsC r))
  flags : ∀ j : Fin 512, (s'.tiles.get t).vec.laneFlags.get j = (s.tiles.get t).vec.laneFlags.get j |||
    orFlags (if o.prec = 2 then (List.range ((o.count.toNat + 1) / 2)).map fun i => (lane64 (s.tiles.get t).vec o f (o.first.toNat / 2 + i) j.1).flags.toBits
      else (opRows o).map fun r => (lane32 (s.tiles.get t).vec o f r j.1).flags.toBits)

/-- The state with the queues and counters of tile `t`'s stream unit as in another state: the frames of stream commands are stated from it. -/
def State.withStream (s : State) (t : TileId) (u : StreamUnit) : State := s.modTile t fun x => { x with stream := u }

/-- Only queue `q` of tile `t` and the named counters of its stream unit differ. -/
def OnlyQueue (t : TileId) (q : Fin 32) (s s' : State) : Prop :=
  (∀ r, r ≠ q → (s'.tiles.get t).stream.queues.get r = (s.tiles.get t).stream.queues.get r) ∧
  (s'.tiles.get t).stream.binding = (s.tiles.get t).stream.binding

/-- A Buckle is counted in its tile: its home is no welt (R255, R257). -/
def State.tileScope (s : State) (n : PartId) (b : Nat) : Prop := ∀ w, (s.parts.get n).homeOf ((s.parts.get n).physBuckle b) ≠ some (.welt w)

/-- The counter of a logical Buckle of a partition. -/
def State.logicalBuckle (s : State) (n : PartId) (b : Nat) : Nat := s.buckle ((s.parts.get n).physBuckle b)

/-- An answer stands where the core reads it (R36, R140): a data packet read whole from its inbound data crossing, or an acknowledgement in its inbound control crossing. -/
def State.answerHere (s : State) (t : TileId) (r : Answer) : Prop :=
  match r with
  | .data p => (s.tiles.get t).stream.received.contains p = true ∧ pktKind p = 3
  | .ack w => (s.tiles.get t).island.inCtl.contains w = true ∧ bits w.toNat 63 56 = 5

/-- A negative acknowledgement answers a packet that was sent: same sequence number, kind and address, and not refused before (R152, R282). -/
def refusalHits (p : Packet) (z : Asked) : Bool :=
  z.refused.isNone && pktSeq z.packet == bits (wordAt (bytesWords p.payload) 0) 63 32 && pktKind z.packet == bits (wordAt (bytesWords p.payload) 0) 27 22 &&
  z.packet.w1.toNat == wordAt (bytesWords p.payload) 1

/-- A run of bytes of a memory after a write: the written bytes, and every other byte as before. -/
def cellsWritten (m m' : List Host.Cell) (a : Nat) (bs : List Byte) : Prop :=
  ∀ i, Cells.read m' i = if a ≤ i ∧ i < a + bs.length then bs.getD (i - a) 0 else Cells.read m i

/-- The last packet that the module has put in flight beside those of `ps`. -/
def State.sentAfter (s' : State) (ps : List Packet) (p : Packet) : Prop := s'.fabric.inFlight = ps ++ [p]

/-- The elements of a group as the Burnisher updates them, from the current buffers and the accumulation buffer (R205 to R208). -/
def State.newElements (s : State) (n : PartId) (m : Image) (d : TensorDecl) (u : UpdateProgram) (g : Nat) : List NewElement :=
  let p := s.parts.get n
  let w := p.weights
  let cur := w.bit d.handle
  let curM := w.bit (m.stateHandle d)
  let q := p.run.step + u.offset
  let his := halves (w.read ⟨d.handle, .masterHigh, cur⟩ (4096 * g) 4096)
  let los := halves (w.read ⟨d.handle, .masterLow, cur⟩ (4096 * g) 4096)
  let m1 := words32 (w.read ⟨d.handle, .moment1, curM⟩ (8192 * g) 8192)
  let m2 := words32 (w.read ⟨d.handle, .moment2, curM⟩ (8192 * g) 8192)
  let accs := words32 (p.readAcc d.handle (8192 * g) 8192)
  (List.range 2048).map fun j =>
    updateElement (u.consts q) d m.seed q ((p.part d).1 + 2048 * g + j) (accs.getD j 0) (his.getD j 0 * 2 ^ 16 + los.getD j 0) (m1.getD j 0) (m2.getD j 0)

/-- A Buckle message of a kind reaches the home of its Buckle, a welt, and passes its checks (R258 to R260, R264). -/
structure HomeReady (s : State) (kind : Nat) (words : List Word64) (n : PartId) (w : TileId) : Prop where
  part : (match s.messagePacket words with
    | some p => some (pktPart p)
    | none => s.partOfBuckle (buckleOfWords words).buckle) = some n
  home : (s.parts.get n).homeOf (buckleOfWords words).buckle = some (.welt w)
  alive : ∀ u, tileOfEp (s.messageDst (some n) words (buckleOfWords words)) = some u → (s.tiles.get u).island.weltFailed = false
  kindOk : (buckleOfWords words).kind = kind
  length : words.length = 4
  crc : crcOk words 3 = true
  seq : BitVec.ofNat 32 (bits (wordAt words 3) 31 0) =
    (Assoc.get (s.messageSource (some n) words (buckleOfWords words), s.messageDst (some n) words (buckleOfWords words)) s.fabric.buckleSeqIn).getD 0
  generation : (buckleOfWords words).generation = (s.ranges.get (rangeOf (buckleOfWords words).buckle)).generation

/-- What a message of the current generation changes at a home on a welt: the Buckle's range, the watches of that welt, and what is in flight. -/
structure AtHome (b : Nat) (w : TileId) (s s' : State) : Prop where
  parts : s'.parts = s.parts
  ranges : ∀ r, r ≠ rangeOf b → s'.ranges.get r = s.ranges.get r
  tiles : ∀ u, u ≠ w → s'.tiles.get u = s.tiles.get u
  data : SameData w s s'

/-- The source endpoint of a satisfy message: that of the packet that carries it, else the Buckle's home (R258). -/
def State.satisfySource (s : State) (n : PartId) (words : List Word64) : Nat :=
  match s.messagePacket words with
  | some p => pktSrc p
  | none => match (s.parts.get n).homeOf (buckleOfWords words).buckle with
    | some (.welt w) => epWelt w
    | _ => epControl

/-- An engine cannot go on with a bucket yet: it has not started, or this member's contribution is neither full nor late (R338, R342). -/
def Bucket.quiet (b : Bucket) : Prop := b.start = none ∨ (b.full = false ∧ b.late = false)

/-- The values that a final block delivers (R344, R348): its sums, scaled and divided once, added to what a declaration of a lower number has written. -/
def Partition.deliveredValues (p : Partition) (m : Image) (d : TensorDecl) (r : BucketRange) (first : Nat) (w : WireBlock) : List Nat :=
  let codes := (if w.fate = .carried then List.replicate 32 0 else w.sums).map fun v => deliveredCode v w.exponent w.count
  let old := words32 (p.readAcc d.handle (4 * (first - (p.part d).1)) (4 * codes.length))
  codes.zipIdx.map fun (c, j) =>
    if m.lowerCovers d.handle r.number (first + j) then (fmtFP32.add (fmtFP32.decode (old.getD j 0)) (fmtFP32.decode c)).code else c

/-- ACCUMULATION_DELIVERY finds a decided block, after the deliveries of lower declarations (R348). -/
structure DeliveryReady (s : State) (n : PartId) (h block : Nat) (m : Image) (l : LinkId) (w : WireBlock) (r : BucketRange) (d : TensorDecl) : Prop where
  seat : s.bucketSeat n h = some (s.parts.get n, m, l)
  found : ((s.parts.get n).bucketOr m h).block block = some w
  range : m.rangeAt h block = some r
  tensor : m.tensor r.weight = some d
  fresh : w.delivered = false
  decided : w.fate = .carried ∨ (w.fate = .final ∧ w.sums ≠ [])
  holds : (s.parts.get n).holdsBlock m h block = true
  order : let first := r.first + (32 * block - r.offset)
    let lo := ((s.parts.get n).part d).1
    (s.parts.get n).lowerDelivered m r.weight r.number (lo + (first - lo) / 1024 * 1024)
      (lo + (first - lo + 31) / 1024 * 1024 + 1024 - (lo + (first - lo) / 1024 * 1024)) = true

/-- The rails have fallen (R404, R405, R552): the module is Off, nothing is left of its volatile state, and signed flash keeps its saved set. -/
structure RailsFell (s s' : State) : Prop where
  off : s'.module.state = .off
  tiles : s'.tiles = State.reset.tiles
  stackDies : s'.stackDies = State.reset.stackDies
  ports : s'.ports = State.reset.ports
  parts : s'.parts = State.reset.parts
  fns : s'.fns = State.reset.fns
  fabric : s'.fabric = State.reset.fabric
  saved : s'.flash.saved = s.flash.saved
  queue : s'.pending = s.pending

/-- The module is past its boot and not in Fault. -/
def ModuleState.serves (m : ModuleState) : Prop := m ≠ .off ∧ m ≠ .booting ∧ m ≠ .fault

/-- The module is in Fault with a cause (R553): no partition is left, no core is clocked, no base die serves, and a port that is still Up is disabled once it has drained. -/
structure InFault (code : BitVec 16) (s' : State) : Prop where
  state : s'.module.state = .fault
  cause : s'.module.faultCause = code
  parts : ∀ n, (s'.parts.get n).state = .free
  tiles : ∀ t, (s'.tiles.get t).island.state = .off
  stackDies : ∀ k, (s'.stackDies.get k).power ≠ .up
  ports : ∀ p, (s'.ports.get p).state = .up → (s'.ports.get p).disableAfter = true

/-- A step retry may be called for a partition (R468, R470): it is Loaded, in a step that is not yet complete, and an attempt is left. -/
structure MayRetry (n : PartId) (s : State) : Prop where
  loaded : (s.parts.get n).state = .loaded
  retry : (s.parts.get n).run.retry = none
  record : (s.parts.get n).run.record = none
  sent : (s.parts.get n).run.updateSent = false
  left : (s.parts.get n).run.attempt + 1 ≤ s.faults.retryLimit.toNat

/-- A step retry has been called (R468, R469): its cause and its attempt are held, it is counted, an odd-numbers hold ends, and its notices are on their way to the
units of this module. -/
structure RetryCalled (n : PartId) (code : BitVec 16) (attempt : Nat) (s s' : State) : Prop where
  cause : (s'.parts.get n).run.retry = some code
  to_ : (s'.parts.get n).run.retryTo = attempt
  counted : s'.faults.retries = s.faults.retries + 1
  hold : (s'.parts.get n).odd.held = false
  noticed : (s'.parts.get n).run.noticed = false
  step : (s'.parts.get n).run.step = (s.parts.get n).run.step
  attempt : (s'.parts.get n).run.attempt = (s.parts.get n).run.attempt

/-- A partition has been reset (R76, R471, R564): Composed, without its program, its step, its moves and its weights, whose rings stand as the last commit left them; its
settings take their defaults, its slices stay, and of its tiles those that a move had taken from outside are given back. -/
structure WasReset (n : PartId) (s s' : State) : Prop where
  composed : (s'.parts.get n).state = .composed
  image : (s'.parts.get n).image = none
  run : (s'.parts.get n).run = StepRun.reset
  weights : (s'.parts.get n).weights = { Weights.reset with rings := (s.parts.get n).weights.rings }
  settings : (s'.parts.get n).settings = PartSettings.reset
  moves : (s'.parts.get n).moves = []
  tiles : (s'.parts.get n).tiles = (s.parts.get n).tiles.filter fun t => !(((s.parts.get n).moves.filter fun v => !v.own).map (·.target)).contains t
  slices : (s'.parts.get n).slices = (s.parts.get n).slices

/-- The transfers of an arming add up at its end (R270, R272). -/
def Arming.closes (a : Arming) : Prop := a.completed + a.cancelled = a.desc.transfers

/-- The armings of a tile that no transfer keeps open add up once their refused and unissued transfers are cancelled (R270). -/
def Tile.cancelsClose (x : Tile) : Prop :=
  ∀ q, ∀ a ∈ (x.stream.queues.get q).active.toList ++ (x.stream.queues.get q).shadow.toList, a.cancel.1.outstanding = [] → a.cancel.1.closes

/-- The partition that owns an uncorrectable word; one of a tile under test has no owner (R455, R493). -/
def State.wordOwner (s : State) : WordPlace → Option PartId
  | .store t _ => if (s.tiles.get t).test.last = .running then none else s.partOfTile t
  | .stack c _ => s.partOfSlice c
  | .fabric n _ _ _ => some n
  | .bucket n _ => some n
  | .link q => s.partOfPort q

/-- The homes of a partition's Buckles stand on tiles of it, whose welts work (R263). -/
def State.homesStand (s : State) (n : PartId) : Prop :=
  ∀ m, (s.parts.get n).image = some m → ∀ b ∈ m.buckles, ∀ w, (s.parts.get n).homeOf ((s.parts.get n).physBuckle b) = some (.welt w) →
    w ∈ (s.parts.get n).workers ∧ (s.tiles.get w).island.weltFailed = false

/-- A notice of another member passes its checks (R457, R468). -/
structure NoticeReady (n : PartId) (words : List Word64) (s : State) : Prop where
  length : words.length = 4
  crc : crcOk words 3 = true
  seq : bits (wordAt words 3) 31 0 = (Assoc.get (bits (wordAt words 0) 63 48) (s.parts.get n).run.noticeIn).getD 0
  zero1 : zeroField words 0 39 32 = true
  zero2 : zeroField words 0 15 0 = true
  zero3 : wordAt words 2 = 0
  member : (s.parts.get n).others.contains (bits (wordAt words 0) 63 48) = true

/-- A test of a unit is queued or under way, or, for a tile that no tile can take over, it is deferred (R485, R490). -/
def State.testHeld (s' : State) (scope unit : Nat) : Prop :=
  (∃ x ∈ s'.selfTest.tests, x.scope = scope ∧ x.unit = unit) ∨ (scope = 1 ∧ (s'.tiles.get (Fin.ofNat 288 unit)).test.waiting.isSome = true)

/-- No other test names the tile. -/
def State.onlyTest (s : State) (k : PendingTest) (t : TileId) : Prop := ∀ j ∈ s.selfTest.tests, j ≠ k → j.scope ≠ 1 ∨ j.unit ≠ t.1

/-- Entry `i` of a function leaves its list with its completion, which is written or held as the ring allows; one that is applied again after a retry writes none (R503, R509). -/
structure Completed (f : FuncId) (i : Nat) (status : Nat) (value : Word64) (detail : Nat) (s s' : State) : Prop where
  entries : (s'.fns.get f).entries = (s.fns.get f).entries.eraseIdx i
  written : ∀ e, (s.fns.get f).entries[i]? = some e → e.posted = false →
    let h := (s.fns.get f).post (s.linkUp f) s.time ⟨e.kind, status, e.tag, value, BitVec.ofNat 32 detail⟩
    (s'.fns.get f).completion = h.completion ∧ (s'.fns.get f).held = h.held

/-- Entry `i` of a function goes on waiting in its list, changed. -/
def Waits (f : FuncId) (i : Nat) (g : OpenEntry → OpenEntry) (s s' : State) : Prop :=
  (s'.fns.get f).entries = (s.fns.get f).entries.modify i g

/-- The rings of a function: submissions, completions, records. -/
def HostFn.ringOf (h : HostFn) : Fin 3 → Ring
  | 0 => h.submission
  | 1 => h.completion
  | 2 => h.record

/-- The state in which a load is checked: the stripe list and the order of the Buckle ranges are those of the partition's resources at the load (R230, R231), and the
member's own port table is with those of the others (R238). -/
def State.withOwnTable (s : State) (n : PartId) : State :=
  s.modPart n fun p => { p with place := { p.place with
    stripe := stripeOf p.slices
    ranges := sortBy (fun r => r.1) p.ranges
    tables := Assoc.put p.settings.logical.toNat (s.ownTable n) p.place.tables } }

/-- A datagram of a command passes every check at a view that it addresses (R519 to R522): it is of the command's form, it is sound, and it came in a sound frame. -/
structure DatagramTaken (code : Nat) (g : Datagram) (v : ViewId) (s : State) : Prop where
  on : s.module.state ≠ .off
  up : s.module.state ≠ .booting
  code_ : dgCode g = code
  clean : dgClean g = true
  form : dgForm g = true
  view : (dgViews s.addresses g).head? = some v
  sound : dgSound g = true
  frame : g.fcsOk = true

/-- What leaves with a datagram, and that nothing but the Rein block has changed. -/
def Leaves (g : Datagram) (s s' : State) : Prop := OnlyRein s s' ∧ s'.rein.out = dgBytes g

/-- A request waits in a view's mailbox, well formed and with the next sequence number (R530, R531). -/
structure MailReady (v : ViewId) (service : Nat) (m : MailMessage) (s : State) : Prop where
  on : s.module.state ≠ .off
  up : s.module.state ≠ .booting
  request : (s.rein.views.get v).mailbox.request.map mailOf = some m
  service_ : m.service = service
  wellFormed : m.wellFormed = true
  next : ∀ q, (s.rein.views.get v).mailbox.lastSeq = some q → m.seq = q + 1

/-- A request has been executed and its response stored (R531). -/
structure MailAnswered (v : ViewId) (m : MailMessage) (response : List Byte) (s s' : State) : Prop where
  request : (s'.rein.views.get v).mailbox.request = none
  ready : (s'.rein.views.get v).mailbox.response = some response
  stored : (s'.rein.views.get v).mailbox.stored = some response
  seq : (s'.rein.views.get v).mailbox.lastSeq = some m.seq
  executed : (s'.rein.views.get v).executed = (s.rein.views.get v).executed + 1

/-- The views other than one stand as they were. -/
def OtherViews (v : ViewId) (s s' : State) : Prop := ∀ w, w ≠ v → s'.rein.views.get w = s.rein.views.get w

/-- The commands that may stop the model: samples and readings beyond the absolute maxima, where nothing is guaranteed (R583). -/
def Instr.mayStop : Instr → Bool
  | .inputSample mv => decide (1000000 < mv)
  | .coolantSample inlet _ _ => decide (500 < inlet)
  | .powerOn c _ => decide (500 < c.inlet)
  | .coolantRecheck c _ => decide (500 < c.inlet)
  | _ => false

/-- Nothing is under way that a nanosecond of module time carries on: no flit in a router or a crossing, no credit on its way back, no broken balance, no notice of a
retry, no re-bind request and no test that waits (R222, R272, R286, R469, R487). -/
structure Quiet (s : State) : Prop where
  routers : ∀ t, (s.tiles.get t).router.bufs = [] ∧ (s.tiles.get t).router.edgeHeld = [] ∧ (s.tiles.get t).router.edgeCrossing = []
  crossings : ∀ t, (s.tiles.get t).island.inPackets = [] ∧ (s.tiles.get t).island.outPackets = [] ∧ (s.tiles.get t).island.state ≠ .draining
  pointers : ∀ t, (s.tiles.get t).island.inSeen = (s.tiles.get t).island.inRead ∧ (s.tiles.get t).island.outSeen = (s.tiles.get t).island.outRead
  credits : ∀ t, s.returnCredits t = s
  balances : s.overBalances = []
  retries : ∀ n, (s.parts.get n).run.retry = none
  requests : s.placer.requests = [] ∧ s.placer.service = none
  tests : s.selfTest.tests = []

end Sys2Proof.Machine
end

