-- ==== Sys2Proof/Certificates/Slice0/Obligations.lean ====
section
/-! DEFINITION. The statements for the provers, family by family. -/

open Sys2Proof Sys2Proof.Machine

/-! ### The vector engine -/

/-- Every elementwise command that its vector context takes completes, and writes its function of the operands into every lane of every selected
row, with one rounding each, in FP32 and, where it is offered, in FP64 row-pair form, with the flags and the check statuses of the rows; nothing else of the machine's
data changes (R117, R118, R130, R137).

WID widens FP32 row i into FP64 row i, and NAR narrows FP64 row i, or in lane-pair form the pairs of even lanes, into FP32 row i (R117; log entry 8). The odd
lanes of a lane-pair NAR hold free values (log entry 3). NAR counts its overflows and its non-finite sources (R69, R71; log entry 69), and nothing where there are none.

A vector command that its context takes with fields that its function does not allow is a malformed command, and one with sound fields that meets a row of
a kind that it may not read is an order fault (R14, R116, R117, R119, R184).

The model's own choices under it: log entries 3, 8, 10, 68 and 69. -/
def Obligations.ElementwiseAndWideCommandsWriteTheirFunction : Prop :=
  (∀ (t : TileId) (o : VecOp) (s : State) (e : Seat),
    (o.opts = 0 → ElementwiseReady (.add t o) o true false true s t e → ∃ s', exec (.add t o) s = .next s' ∧ ElementwiseDone laneAdd o true false t e s s') ∧
    (o.opts = 0 → ElementwiseReady (.sub t o) o true false true s t e → ∃ s', exec (.sub t o) s = .next s' ∧ ElementwiseDone laneSub o true false t e s s') ∧
    (o.opts = 0 → ElementwiseReady (.mul t o) o true false true s t e → ∃ s', exec (.mul t o) s = .next s' ∧ ElementwiseDone laneMul o true false t e s s') ∧
    (o.opts = 0 → ElementwiseReady (.fma t o) o true true true s t e → ∃ s', exec (.fma t o) s = .next s' ∧ ElementwiseDone laneFma o true true t e s s') ∧
    (o.opts = 0 → ElementwiseReady (.max t o) o true false true s t e → ∃ s', exec (.max t o) s = .next s' ∧ ElementwiseDone laneMax o true false t e s s') ∧
    (o.opts = 0 → ElementwiseReady (.min t o) o true false true s t e → ∃ s', exec (.min t o) s = .next s' ∧ ElementwiseDone laneMin o true false t e s s') ∧
    (o.opts = 0 → ElementwiseReady (.abs t o) o false false true s t e → ∃ s', exec (.abs t o) s = .next s' ∧ ElementwiseDone laneAbs o false false t e s s') ∧
    (o.opts = 0 → ElementwiseReady (.neg t o) o false false true s t e → ∃ s', exec (.neg t o) s = .next s' ∧ ElementwiseDone laneNeg o false false t e s s') ∧
    (o.opts.toNat ≤ 5 → ElementwiseReady (.cmp t o) o true false true s t e → ∃ s', exec (.cmp t o) s = .next s' ∧ ElementwiseDone (laneCmp o.opts.toNat) o true false t e s s') ∧
    (o.opts = 0 → ElementwiseReady (.sel t o) o true true true s t e → ∃ s', exec (.sel t o) s = .next s' ∧ ElementwiseDone laneSel o true true t e s s') ∧
    (o.opts = 0 → ElementwiseReady (.div t o) o true false true s t e → ∃ s', exec (.div t o) s = .next s' ∧ ElementwiseDone laneDiv o true false t e s s') ∧
    (o.opts = 0 → ElementwiseReady (.recip t o) o false false false s t e → ∃ s', exec (.recip t o) s = .next s' ∧ ElementwiseDone laneRecip o false false t e s s') ∧
    (o.opts = 0 → ElementwiseReady (.sqrt t o) o false false true s t e → ∃ s', exec (.sqrt t o) s = .next s' ∧ ElementwiseDone laneSqrt o false false t e s s') ∧
    (o.opts = 0 → ElementwiseReady (.rsqrt t o) o false false false s t e → ∃ s', exec (.rsqrt t o) s = .next s' ∧ ElementwiseDone laneRsqrt o false false t e s s') ∧
    (o.opts = 0 → ElementwiseReady (.exp t o) o false false false s t e → ∃ s', exec (.exp t o) s = .next s' ∧ ElementwiseDone laneExp o false false t e s s') ∧
    (o.opts = 0 → ElementwiseReady (.exp2 t o) o false false false s t e → ∃ s', exec (.exp2 t o) s = .next s' ∧ ElementwiseDone laneExp2 o false false t e s s') ∧
    (o.opts = 0 → ElementwiseReady (.log t o) o false false false s t e → ∃ s', exec (.log t o) s = .next s' ∧ ElementwiseDone laneLog o false false t e s s') ∧
    (o.opts = 0 → ElementwiseReady (.log2 t o) o false false false s t e → ∃ s', exec (.log2 t o) s = .next s' ∧ ElementwiseDone laneLog2 o false false t e s s')) ∧
  (∀ (t : TileId) (o : VecOp) (s : State) (e : Seat), let v := (s.tiles.get t).vec
    (Takes (.wid t o) s t vecCtx e → o.convertOk false = true → o.opts = 0 → (∀ i ∈ opRows o, (v.row o.a.toNat i).kind ≠ 1) →
      ∃ s', exec (.wid t o) s = .next s' ∧ IssueFrame t s s' ∧ Issued t vecCtx s s' ∧
        VectorFrame t o.d.toNat ((opRows o).flatMap fun i => [2 * i, 2 * i + 1]) s s' ∧
        ∀ i ∈ opRows o, ∀ j : Fin 512, (s'.tiles.get t).vec.wide o.d.toNat i j.1 = (laneWid (v.word o.a.toNat i j.1)).code % 2 ^ 64) ∧
    (Takes (.nar t o) s t vecCtx e → o.convertOk false = true → o.opts = 0 →
      (∀ i ∈ opRows o, ∀ r ∈ [2 * i, 2 * i + 1], (v.row o.a.toNat r).kind ≠ 1) →
      ∃ s', exec (.nar t o) s = .next s' ∧ CountedFrame t e.part s s' ∧ Issued t vecCtx s s' ∧ VectorFrame t o.d.toNat (opRows o) s s' ∧
        (∀ i ∈ opRows o, ∀ j : Fin 512, (s'.tiles.get t).vec.word o.d.toNat i j.1 =
          aferarelNaN e.image.exact_ (laneNar (v.wide o.a.toNat i j.1)).code % 2 ^ 32) ∧
        ((∀ i ∈ opRows o, ∀ j : Fin 512, (laneNar (v.wide o.a.toNat i j.1)).flags.ovf = false ∧ oddWide (v.wide o.a.toNat i j.1) = false) →
          s'.parts = s.parts)) ∧
    (Takes (.nar t o) s t vecCtx e → o.convertOk true = true → o.opts = 1 → (∀ i ∈ opRows o, (v.row o.a.toNat i).kind ≠ 1) →
      ∃ s', exec (.nar t o) s = .next s' ∧ s'.free = s.free + 512 * 64 ∧ CountedFrame t e.part { s with free := s'.free } s' ∧ Issued t vecCtx s s' ∧
        VectorFrame t o.d.toNat (opRows o) s s' ∧
        ∀ i ∈ opRows o, ∀ j : Fin 512, j.1 % 2 = 0 → (s'.tiles.get t).vec.word o.d.toNat i j.1 =
          aferarelNaN e.image.exact_ (laneNar (v.lanePair o.a.toNat i j.1)).code % 2 ^ 32)) ∧
  (∀ (t : TileId) (o : VecOp) (s : State) (e : Seat), let v := (s.tiles.get t).vec
    FieldsAndKinds (.add t o) (o.elemOk true false true && o.opts == 0) (v.noInt (opReadsAll o true false)) s t e ∧
    FieldsAndKinds (.sub t o) (o.elemOk true false true && o.opts == 0) (v.noInt (opReadsAll o true false)) s t e ∧
    FieldsAndKinds (.mul t o) (o.elemOk true false true && o.opts == 0) (v.noInt (opReadsAll o true false)) s t e ∧
    FieldsAndKinds (.fma t o) (o.elemOk true true true && o.opts == 0) (v.noInt (opReadsAll o true true)) s t e ∧
    FieldsAndKinds (.max t o) (o.elemOk true false true && o.opts == 0) (v.noInt (opReadsAll o true false)) s t e ∧
    FieldsAndKinds (.min t o) (o.elemOk true false true && o.opts == 0) (v.noInt (opReadsAll o true false)) s t e ∧
    FieldsAndKinds (.abs t o) (o.elemOk false false true && o.opts == 0) (v.noInt (opReadsAll o false false)) s t e ∧
    FieldsAndKinds (.neg t o) (o.elemOk false false true && o.opts == 0) (v.noInt (opReadsAll o false false)) s t e ∧
    FieldsAndKinds (.cmp t o) (o.elemOk true false true && decide (o.opts.toNat ≤ 5)) (v.noInt (opReadsAll o true false)) s t e ∧
    FieldsAndKinds (.sel t o) (o.elemOk true true true && o.opts == 0) (v.noInt (opReadsAll o true true)) s t e ∧
    FieldsAndKinds (.div t o) (o.elemOk true false true && o.opts == 0) (v.noInt (opReadsAll o true false)) s t e ∧
    FieldsAndKinds (.recip t o) (o.elemOk false false false && o.opts == 0) (v.noInt (opReadsAll o false false)) s t e ∧
    FieldsAndKinds (.sqrt t o) (o.elemOk false false true && o.opts == 0) (v.noInt (opReadsAll o false false)) s t e ∧
    FieldsAndKinds (.rsqrt t o) (o.elemOk false false false && o.opts == 0) (v.noInt (opReadsAll o false false)) s t e ∧
    FieldsAndKinds (.exp t o) (o.elemOk false false false && o.opts == 0) (v.noInt (opReadsAll o false false)) s t e ∧
    FieldsAndKinds (.exp2 t o) (o.elemOk false false false && o.opts == 0) (v.noInt (opReadsAll o false false)) s t e ∧
    FieldsAndKinds (.log t o) (o.elemOk false false false && o.opts == 0) (v.noInt (opReadsAll o false false)) s t e ∧
    FieldsAndKinds (.log2 t o) (o.elemOk false false false && o.opts == 0) (v.noInt (opReadsAll o false false)) s t e ∧
    FieldsAndKinds (.icvt t o) (o.elemOk false false false && o.opts == 0) ((opRows o).all fun r => (v.row o.a.toNat r).kind == 1) s t e ∧
    FieldsAndKinds (.wid t o) (o.convertOk false && o.opts == 0) (v.noInt ((opRows o).map fun i => (o.a.toNat, i))) s t e ∧
    FieldsAndKinds (.rmax t o) o.extremeOk
      (v.noInt ((opRows o).map (fun r => (o.a.toNat, r)) ++ [(o.b.toNat, o.brow.toNat)] ++ opResultRows o true)) s t e ∧
    FieldsAndKinds (.rmin t o) o.extremeOk
      (v.noInt ((opRows o).map (fun r => (o.a.toNat, r)) ++ [(o.b.toNat, o.brow.toNat)] ++ opResultRows o true)) s t e ∧
    FieldsAndKinds (.rsum t o) (o.sumOk && !(e.image.exact_ && o.prec == 1))
      (v.noInt ((opRows o).map (fun r => (o.a.toNat, r)) ++ opResultRows o (sumReadsTwo o))) s t e ∧
    FieldsAndKinds (.rsumsq t o) (o.sumOk && !(e.image.exact_ && o.prec == 1))
      (v.noInt ((opRows o).map (fun r => (o.a.toNat, r)) ++ opResultRows o (sumReadsTwo o))) s t e ∧
    FieldsAndKinds (.trn t o) o.trnOk ((List.range 64).all fun r =>
      (v.row o.a.toNat r).kind == (v.row o.a.toNat 0).kind && (v.row o.a.toNat r).exponent == (v.row o.a.toNat 0).exponent) s t e ∧
    FieldsAndKinds (.rngu t o) o.drawOk true s t e ∧ FieldsAndKinds (.rngr t o) o.drawOk true s t e ∧
    FieldsAndKinds (.rngsv t o) o.countersOk true s t e ∧ FieldsAndKinds (.rngrs t o) o.countersOk true s t e ∧
    FieldsAndKinds (.flags t o) o.flagsOk true s t e)

/-- HINT_HEAVY plans a ramp whose target is the least of the expected current and the allowance, HINT_LIGHT enters its current in the governor's fit, and MARK
takes the phase flag word into the record and begins its phase (R131, R179, R180, R436, R437).

STEP holds its context at the end of its list until the commit, once every earlier command has completed and, in the stream list, every queue is empty; the
step-ready message writes the generator counters into the snapshot slot of the step (R186, R465).

A context requests a page of its list within the eight from its read position, and a page that it reads and that agrees with its trailer is then present; one that
does not is requested again, and the second failure in the attempt faults the context and calls for a step retry (R171, R184, R185, R457).

A command fault while a retry is possible (R184, R459, R468): the context has faulted and issues no more, the tile's last fault names list, command index, class and
opcode, the partition's step retry is called with the next attempt, and the data of the tile and of every other tile stand.

The model's own choices under it: log entries 14, 40 and 62. -/
def Obligations.HintsMarksStepsAndPages : Prop :=
  (∀ (t : TileId) (s : State) (e : Seat),
    (∀ (amps : BitVec 8) (lead layer : BitVec 16), 1 ≤ amps.toNat → amps.toNat ≤ 128 →
      (Takes (.hintHeavy t amps lead layer) s t controlCtx e → ∃ s' start, exec (.hintHeavy t amps lead layer) s = .next s' ∧ Issued t controlCtx s s' ∧ SameData t s s' ∧
        s'.governor.hints = s.governor.hints + 1 ∧ s'.parts = s.parts ∧
        s'.governor.shortLead = s.governor.shortLead + (if lead.toNat < 8 then 1 else 0) ∧
        (s'.tiles.get t).power.ramp = some (min amps.toNat (s.tiles.get t).power.allowance, start, s.time - s.time % 256 + 1000 * lead.toNat) ∧
        (lead.toNat < 8 → start = s.time - s.time % 256) ∧ start % 256 = 0) ∧
      (Takes (.hintLight t amps lead layer) s t controlCtx e → ∃ s', exec (.hintLight t amps lead layer) s = .next s' ∧ IssueFrame t { s with governor := s'.governor } s' ∧ Issued t controlCtx s s' ∧
        SameData t s s' ∧ s'.governor.hints = s.governor.hints + 1 ∧
        s'.governor.fit = (s.governor.fit.filter fun (f : TileId × Nat × Nat) => f.1 != t) ++ [(t, amps.toNat, s.time + 1000 * lead.toNat)])) ∧
    (∀ (phase : BitVec 4) (layer : BitVec 16) (marker : BitVec 32), 1 ≤ phase.toNat → phase.toNat ≤ 5 → Takes (.mark t phase layer marker) s t controlCtx e →
      ∃ s' k, exec (.mark t phase layer marker) s = .next s' ∧ Issued t controlCtx s s' ∧ (s'.tiles.get t).vec.phaseFlags = 0 ∧
        (s'.tiles.get t).vec.regs = (s.tiles.get t).vec.regs ∧ (s'.tiles.get t).store = (s.tiles.get t).store ∧
        Assoc.get e.logical (s'.parts.get e.part).replay.times = some k ∧ k.phase = phase.toNat ∧
        let old := (Assoc.get e.logical (s.parts.get e.part).replay.times).getD TileTimes.zero
        k.markers = old.markers ++ [(phase.toNat, layer.toNat, marker.toNat, (s.tiles.get t).island.time.toNat)] ∧
        (1 ≤ old.phase → old.phase ≤ 5 → k.phaseFlags.get (Fin.ofNat 5 (old.phase - 1)) =
          old.phaseFlags.get (Fin.ofNat 5 (old.phase - 1)) ||| (s.tiles.get t).vec.phaseFlags))) ∧
  (∀ (t : TileId) (s : State) (e : Seat),
    (∀ c : CtxId, Takes (.step t c) s t c e →
      ((((s.tiles.get t).seqr.ctxs.get c).outstanding = [] ∧ (c = 2 → (s.tiles.get t).stream.allEmpty = true)) →
        ∃ s', exec (.step t c) s = .next s' ∧ OnlyTile t s s' ∧ SameData t s s' ∧
          ((s'.tiles.get t).seqr.ctxs.get c).state = .atStep ∧ ((s'.tiles.get t).seqr.ctxs.get c).pages = [] ∧
          ((s'.tiles.get t).seqr.ctxs.get c).pos = ((s.tiles.get t).seqr.ctxs.get c).pos + 1 ∧
          ∀ d, d ≠ c → (s'.tiles.get t).seqr.ctxs.get d = (s.tiles.get t).seqr.ctxs.get d) ∧
      ((((s.tiles.get t).seqr.ctxs.get c).outstanding ≠ [] ∨ (c = 2 ∧ (s.tiles.get t).stream.allEmpty = false)) →
        exec (.step t c) s = .next (s.waitCtx t c))) ∧
    (s.seat t = some e → (s.tiles.get t).seqr.stepReady = false → (∀ c, ((s.tiles.get t).seqr.ctxs.get c).state = .atStep) →
      (s.tiles.get t).allPassed = true → (s.tiles.get t).island.state = .running → (s.parts.get e.part).run.halted = false →
      ∃ s', exec (.stepReady t) s = .next s' ∧ (s'.tiles.get t).seqr = { (s.tiles.get t).seqr with stepReady := true } ∧
        (s'.tiles.get t).vec = { (s.tiles.get t).vec with phaseFlags := 0 } ∧ (s'.tiles.get t).store = (s.tiles.get t).store ∧
        (s'.parts.get e.part).run.ready = (s.parts.get e.part).run.ready ++ [e.logical] ∧
        ∃ z ∈ (s'.parts.get e.part).snapshots, z.logical = e.logical ∧
          (if (s.parts.get e.part).run.step % 2 = 0 then z.slot0 else z.slot1) = some ((s.parts.get e.part).run.step, (s.tiles.get t).vec.counters))) ∧
  (∀ (t : TileId) (c : CtxId) (s : State) (e : Seat), s.seat t = some e →
    let k := (s.tiles.get t).seqr.ctxs.get c
    (∀ p : Nat, (s.tiles.get t).island.state = .running → p < (e.image.listPages e.logical c.1).2 → k.firstPage ≤ p → p < k.firstPage + 8 →
      k.pages.any (fun g => g.page == p) = false → k.pages.length < 8 →
      (s.tiles.get t).stream.outstanding [3, 4] + (s.tiles.get t).seqr.pageReads < (s.parts.get e.part).allowance →
      ∃ s', exec (.pageFetch t c p) s = .next s' ∧ (s'.tiles.get t).seqr.ctxs.get c = { k with pages := k.pages ++ [⟨p, none⟩] } ∧
        SameData t s s' ∧ s'.parts = s.parts ∧ s'.fabric.inFlight.length = s.fabric.inFlight.length + 1) ∧
    (∀ p : Packet, (s.tiles.get t).stream.received.contains p = true → pktKind p = 3 → pktFlow p = 32 + c.1 →
      let g := bits p.w1.toNat 31 0
      let page := p.payload.take (pktLength p)
      k.pages.any (fun z => z.page == g && z.bytes.isNone) = true →
      (pageOk page e.logical c.1 g = true →
        ∃ s', exec (.pageArrival t c p) s = .next s' ∧ OnlyTile t { s with fabric := s'.fabric } s' ∧ SameData t s s' ∧
          (s'.tiles.get t).seqr.ctxs.get c = { k with
            pageWait := k.pageWait && k.pos / 255 != g
            pages := k.pages.map fun z => if z.page = g then { z with bytes := some page } else z }) ∧
      (pageOk page e.logical c.1 g = false →
        let f : StructFail := { part := e.part, tile := some t, held := true, kind := 1, handle := BitVec.ofNat 32 (c.1 * 2 ^ 24 + g),
                                seq := BitVec.ofNat 32 (bits (wordAt (bytesWords page) 510) 31 0) }
        ∃ s', exec (.pageArrival t c p) s = .next s' ∧ SameData t s s' ∧ ((s'.tiles.get t).seqr.ctxs.get c).pages = k.pages ∧
          (s'.tiles.get t).seqr.pageFails = (s.tiles.get t).seqr.pageFails + 1 ∧
          ((s.parts.get e.part).run.structFails.any (sameStruct f) = false →
            (s'.tiles.get t).seqr.ctxs.get c = k ∧ (s'.parts.get e.part).run.structFails = (s.parts.get e.part).run.structFails ++ [f]) ∧
          ((s.parts.get e.part).run.structFails.any (sameStruct f) = true → MayRetry e.part s →
            ((s'.tiles.get t).seqr.ctxs.get c).state = .faulted ∧ (s'.parts.get e.part).run.retry = some 0x0203)))) ∧
  (∀ (t : TileId) (c : CtxId) (s : State) (e : Seat) (classOp code a b : Nat) (q g d : Option Nat), s.seat t = some e → MayRetry e.part s →
    let s' := s.commandFault t c e (s.posOf t c) classOp code a b q g d
    ((s'.tiles.get t).seqr.ctxs.get c).state = .faulted ∧
    (s'.tiles.get t).seqr.lastFault = mkWord [at_ 62 c.1, at_ 54 classOp, at_ 0 (s.posOf t c)] ∧
    (∀ d, d ≠ c → (s'.tiles.get t).seqr.ctxs.get d = (s.tiles.get t).seqr.ctxs.get d) ∧
    (s'.parts.get e.part).run.retry = some (BitVec.ofNat 16 code) ∧ (s'.parts.get e.part).run.retryTo = (s.parts.get e.part).run.attempt + 1 ∧
    s'.faults.retries = s.faults.retries + 1 ∧ SameData t s s' ∧ (∀ u, u ≠ t → SameData u s s' ∧ (s'.tiles.get u).seqr = (s.tiles.get u).seqr))

/-- R121: ICVT converts the two's-complement word v of a row of kind 1 to the FP32 value nearest to v × 2^E, where E is the row's exponent, with ties to even, in
every lane of every selected row. -/
def Obligations.IcvtConvertsRowsOfKindOne : Prop :=
  ∀ (t : TileId) (o : VecOp) (s : State) (e : Seat), Takes (.icvt t o) s t vecCtx e →
    o.elemOk false false false = true → o.opts = 0 → (∀ r ∈ opRows o, ((s.tiles.get t).vec.row o.a.toNat r).kind = 1) →
      ∃ s', exec (.icvt t o) s = .next s' ∧ IssueFrame t s s' ∧ Issued t vecCtx s s' ∧ VectorFrame t o.d.toNat (opRows o) s s' ∧
        ∀ r ∈ opRows o, ∀ j : Fin 512, (s'.tiles.get t).vec.word o.d.toNat r j.1 =
          (let v := (((s.tiles.get t).vec.row o.a.toNat r).words.get j).toInt
           fmtFP32.rne (decide (v < 0)) v.natAbs ((s.tiles.get t).vec.row o.a.toNat r).exponent.toInt).code % 2 ^ 32

/-- Reductions: each completes, and its vector engine is that of the tree of R122 to R126 over the selected rows; the words that it does not name
keep their values.

The model's own choices under it: log entries 8, 10, 29 and 68. -/
def Obligations.ReductionsCompleteWithTheirTree : Prop :=
  ∀ (t : TileId) (o : VecOp) (s : State) (e : Seat),
    (Takes (.rsum t o) s t vecCtx e → o.sumOk = true → (e.image.exact_ = false ∨ o.prec ≠ 1) → (s.tiles.get t).vec.noInt ((opRows o).map (fun r => (o.a.toNat, r)) ++ opResultRows o (sumReadsTwo o)) = true →
      ∃ s', exec (.rsum t o) s = .next s' ∧ IssueFrame t s s' ∧ Issued t vecCtx s s' ∧
        (s'.tiles.get t).vec.regs = ((s.tiles.get t).vec.sums o e.image.exact_ false (.pending [s.opOf t])).regs ∧
        (s'.tiles.get t).vec.laneFlags = ((s.tiles.get t).vec.sums o e.image.exact_ false (.pending [s.opOf t])).laneFlags ∧
        (s'.tiles.get t).store = (s.tiles.get t).store ∧ (s'.tiles.get t).array = (s.tiles.get t).array) ∧
    (Takes (.rsumsq t o) s t vecCtx e → o.sumOk = true → (e.image.exact_ = false ∨ o.prec ≠ 1) → (s.tiles.get t).vec.noInt ((opRows o).map (fun r => (o.a.toNat, r)) ++ opResultRows o (sumReadsTwo o)) = true →
      ∃ s', exec (.rsumsq t o) s = .next s' ∧ IssueFrame t s s' ∧ Issued t vecCtx s s' ∧
        (s'.tiles.get t).vec.regs = ((s.tiles.get t).vec.sums o e.image.exact_ true (.pending [s.opOf t])).regs ∧
        (s'.tiles.get t).vec.laneFlags = ((s.tiles.get t).vec.sums o e.image.exact_ true (.pending [s.opOf t])).laneFlags ∧
        (s'.tiles.get t).store = (s.tiles.get t).store ∧ (s'.tiles.get t).array = (s.tiles.get t).array) ∧
    (Takes (.rmax t o) s t vecCtx e → o.extremeOk = true → (s.tiles.get t).vec.noInt ((opRows o).map (fun r => (o.a.toNat, r)) ++ [(o.b.toNat, o.brow.toNat)] ++ opResultRows o true) = true →
      ∃ s', exec (.rmax t o) s = .next s' ∧ IssueFrame t s s' ∧ Issued t vecCtx s s' ∧
        (s'.tiles.get t).vec.regs = ((s.tiles.get t).vec.extremes o e.image.exact_ true (.pending [s.opOf t])).regs ∧
        (s'.tiles.get t).vec.laneFlags = ((s.tiles.get t).vec.extremes o e.image.exact_ true (.pending [s.opOf t])).laneFlags ∧
        (s'.tiles.get t).store = (s.tiles.get t).store ∧ (s'.tiles.get t).array = (s.tiles.get t).array) ∧
    (Takes (.rmin t o) s t vecCtx e → o.extremeOk = true → (s.tiles.get t).vec.noInt ((opRows o).map (fun r => (o.a.toNat, r)) ++ [(o.b.toNat, o.brow.toNat)] ++ opResultRows o true) = true →
      ∃ s', exec (.rmin t o) s = .next s' ∧ IssueFrame t s s' ∧ Issued t vecCtx s s' ∧
        (s'.tiles.get t).vec.regs = ((s.tiles.get t).vec.extremes o e.image.exact_ false (.pending [s.opOf t])).regs ∧
        (s'.tiles.get t).vec.laneFlags = ((s.tiles.get t).vec.extremes o e.image.exact_ false (.pending [s.opOf t])).laneFlags ∧
        (s'.tiles.get t).store = (s.tiles.get t).store ∧ (s'.tiles.get t).array = (s.tiles.get t).array)

/-- TRN: d(r, 64 q + c) = a(c, 64 q + r) for every block of 64 lanes, with the kind and the exponent of the source rows (R129).

RNGU and RNGR draw, in every lane of every selected row in ascending order, the word of the run seed, the logical lane, the stream and the lane's
counter, which they then advance (R133). RNGSV saves the 4,096 counters and RNGRS restores them (R134). FLAGS reads the lane flags and clears
them (R131).

The model's own choices under it: log entry 10. -/
def Obligations.TransposeGeneratorsAndLaneFlags : Prop :=
  (∀ (t : TileId) (o : VecOp) (s : State) (e : Seat), Takes (.trn t o) s t vecCtx e → o.trnOk = true →
    (∀ r : Fin 64, ((s.tiles.get t).vec.row o.a.toNat r.1).kind = ((s.tiles.get t).vec.row o.a.toNat 0).kind ∧
      ((s.tiles.get t).vec.row o.a.toNat r.1).exponent = ((s.tiles.get t).vec.row o.a.toNat 0).exponent) →
    ∃ s', exec (.trn t o) s = .next s' ∧ IssueFrame t s s' ∧ Issued t vecCtx s s' ∧ VectorFrame t o.d.toNat (List.range 64) s s' ∧
      (s'.tiles.get t).vec.laneFlags = (s.tiles.get t).vec.laneFlags ∧
      ∀ (r c : Fin 64) (q : Fin 8),
        (s'.tiles.get t).vec.word o.d.toNat r.1 (64 * q.1 + c.1) = (s.tiles.get t).vec.word o.a.toNat c.1 (64 * q.1 + r.1) ∧
        ((s'.tiles.get t).vec.row o.d.toNat r.1).kind = ((s.tiles.get t).vec.row o.a.toNat 0).kind ∧
        ((s'.tiles.get t).vec.row o.d.toNat r.1).exponent = ((s.tiles.get t).vec.row o.a.toNat 0).exponent) ∧
  (∀ (t : TileId) (o : VecOp) (s : State) (e : Seat),
    (Takes (.rngu t o) s t vecCtx e → o.drawOk = true →
      ∃ s', exec (.rngu t o) s = .next s' ∧ IssueFrame t s s' ∧ Issued t vecCtx s s' ∧
        (∀ i : Nat, i ≤ o.count.toNat → ∀ j : Fin 512,
          (s'.tiles.get t).vec.word o.d.toNat (o.first.toNat + i) j.1 = (rngUniform (rngWord e.image.seed (512 * e.logical + j.1) o.opts.toNat
            (((s.tiles.get t).vec.gens.get j).get (Fin.ofNat 8 o.opts.toNat) + BitVec.ofNat 64 i))).toNat) ∧
        (∀ i : Nat, i ≤ o.count.toNat → ((s'.tiles.get t).vec.row o.d.toNat (o.first.toNat + i)).kind = 0) ∧
        (∀ (j : Fin 512) (g : Fin 8), ((s'.tiles.get t).vec.gens.get j).get g =
          ((s.tiles.get t).vec.gens.get j).get g + (if g.1 = o.opts.toNat then BitVec.ofNat 64 (o.count.toNat + 1) else 0))) ∧
    (Takes (.rngr t o) s t vecCtx e → o.drawOk = true →
      ∃ s', exec (.rngr t o) s = .next s' ∧ IssueFrame t s s' ∧ Issued t vecCtx s s' ∧
        (∀ i : Nat, i ≤ o.count.toNat → ∀ j : Fin 512,
          (s'.tiles.get t).vec.word o.d.toNat (o.first.toNat + i) j.1 = (rngWord e.image.seed (512 * e.logical + j.1) o.opts.toNat
            (((s.tiles.get t).vec.gens.get j).get (Fin.ofNat 8 o.opts.toNat) + BitVec.ofNat 64 i)).toNat) ∧
        (∀ i : Nat, i ≤ o.count.toNat → ((s'.tiles.get t).vec.row o.d.toNat (o.first.toNat + i)).kind = 2) ∧
        (∀ (j : Fin 512) (g : Fin 8), ((s'.tiles.get t).vec.gens.get j).get g =
          ((s.tiles.get t).vec.gens.get j).get g + (if g.1 = o.opts.toNat then BitVec.ofNat 64 (o.count.toNat + 1) else 0))) ∧
    (Takes (.rngsv t o) s t vecCtx e → o.countersOk = true →
      ∃ s', exec (.rngsv t o) s = .next s' ∧ IssueFrame t s s' ∧ Issued t vecCtx s s' ∧
        (s'.tiles.get t).store = Cells.write (s.tiles.get t).store o.addr.toNat (wordsBytes (s.tiles.get t).vec.counters) ∧
        (s'.tiles.get t).vec.gens = (s.tiles.get t).vec.gens ∧ (s'.tiles.get t).vec.regs = (s.tiles.get t).vec.regs) ∧
    (Takes (.rngrs t o) s t vecCtx e → o.countersOk = true →
      ∃ s', exec (.rngrs t o) s = .next s' ∧ IssueFrame t s s' ∧ Issued t vecCtx s s' ∧
        (s'.tiles.get t).vec.gens = gensOf (bytesWords (Cells.readList (s.tiles.get t).store o.addr.toNat 32768)) ∧
        (s'.tiles.get t).store = (s.tiles.get t).store ∧ (s'.tiles.get t).vec.regs = (s.tiles.get t).vec.regs) ∧
    (Takes (.flags t o) s t vecCtx e → o.flagsOk = true →
      ∃ s', exec (.flags t o) s = .next s' ∧ IssueFrame t s s' ∧ Issued t vecCtx s s' ∧ VectorFrame t o.d.toNat [o.first.toNat] s s' ∧
        (∀ j : Fin 512, (s'.tiles.get t).vec.word o.d.toNat o.first.toNat j.1 = ((s.tiles.get t).vec.laneFlags.get j).toNat) ∧
        (∀ j : Fin 512, (s'.tiles.get t).vec.laneFlags.get j = 0) ∧
        ((s'.tiles.get t).vec.row o.d.toNat o.first.toNat).kind = 2 ∧
        (s'.tiles.get t).vec.phaseFlags = (s.tiles.get t).vec.phaseFlags))

/-- LD reads store row i at its address plus i times the record's stride, widens each element with its tensor's scale for the step, and writes it into the
selected register rows, in FP32 or in FP64 row-pair form (R67, R127).

ST narrows the selected rows with their tensor's scales and writes them into the store, as an element region or into a staged block with its scale
area; nothing else of the store changes (R67, R88, R128; log entry 9 on the rows of a staged block).

The model's own choices under it: log entries 9, 28 and 68. -/
def Obligations.LoadsAndStoresMoveRows : Prop :=
  (∀ (t : TileId) (o : VecOp) (s : State) (e : Seat) (r : OperandRecord), Takes (.ld t o) s t vecCtx e →
    (s.tiles.get t).recordAt o.record.toNat = some r → o.moveOk true = true → moveFmtOk r.fmt o.prec true = true → o.addr.toNat % 64 = 0 →
    s.tableHere t e r.fmt r.handle = true →
    (∀ i, i < moveRows o → (s.tiles.get t).filling (o.addr.toNat + i * r.stride) (rowBytes r.fmt) = false) →
    ∃ s', exec (.ld t o) s = .next s' ∧ CountedFrame t e.part s s' ∧ Issued t vecCtx s s' ∧ VectorFrame t o.d.toNat (opRows o) s s' ∧
      ∀ i, i < moveRows o → ∀ j : Fin 512,
        let w := (((s.moveArgs t e r).ldRow (o.prec == 2) ((s.tiles.get t).storeRead (o.addr.toNat + i * r.stride) (rowBytes r.fmt))).get j).1.code
        (o.prec = 0 → (s'.tiles.get t).vec.word o.d.toNat (o.first.toNat + i) j.1 = w % 2 ^ 32) ∧
        (o.prec = 2 → (s'.tiles.get t).vec.wide o.d.toNat (o.first.toNat / 2 + i) j.1 = w % 2 ^ 64)) ∧
  (∀ (t : TileId) (o : VecOp) (s : State) (e : Seat) (r : OperandRecord), Takes (.st t o) s t vecCtx e →
    (s.tiles.get t).recordAt o.record.toNat = some r → o.moveOk false = true → moveFmtOk r.fmt o.prec false = true → o.addr.toNat % 64 = 0 →
    s.tableHere t e r.fmt r.handle = true →
    (r.fmt = codeFP32 ∨ (s.tiles.get t).vec.noInt ((opRows o).map fun q => (o.a.toNat, q)) = true) →
    (r.staged = false →
      ∃ s', exec (.st t o) s = .next s' ∧ CountedFrame t e.part s s' ∧ Issued t vecCtx s s' ∧
        (s'.tiles.get t).array = (s.tiles.get t).array ∧ (s'.tiles.get t).vec.regs = (s.tiles.get t).vec.regs ∧
        (s'.tiles.get t).store = (List.range (moveRows o)).foldl (fun m i =>
          Cells.write m (o.addr.toNat + i * r.stride) (elemBytes r.fmt ((s.moveArgs t e r).stCodes (s.tiles.get t).vec o i))) (s.tiles.get t).store) ∧
    (r.staged = true → r.fmt ≤ 6 → o.prec = 0 → bits o.addr.toNat 15 6 + o.first.toNat + o.count.toNat < spanDepth r.fmt →
      ∃ s', exec (.st t o) s = .next s' ∧ CountedFrame t e.part s s' ∧ Issued t vecCtx s s' ∧
        (s'.tiles.get t).array = (s.tiles.get t).array ∧ (s'.tiles.get t).vec.regs = (s.tiles.get t).vec.regs ∧
        (∀ a, a < 4096 * (o.addr.toNat / 2 ^ 16) ∨ 4096 * (o.addr.toNat / 2 ^ 16) + stagedBytes ≤ a →
          Cells.read (s'.tiles.get t).store a = Cells.read (s.tiles.get t).store a) ∧
        (∀ k j, k < spanDepth r.fmt → j < panelWidth r.fmt →
          storeCode r.fmt (s'.tiles.get t).store (4096 * (o.addr.toNat / 2 ^ 16)) k j =
            if bits o.addr.toNat 15 6 + o.first.toNat ≤ k ∧ k ≤ bits o.addr.toNat 15 6 + o.first.toNat + o.count.toNat then
              (s.stagedCode t e r o k j) % 2 ^ fmtBits r.fmt
            else storeCode r.fmt (s.tiles.get t).store (4096 * (o.addr.toNat / 2 ^ 16)) k j) ∧
        ∀ tb, (s.moveArgs t e r).table = some tb → ∀ i, i < blockScales r.fmt →
          r.span * spanDepth r.fmt / 32 + i < ceilDiv (((e.image.tensor r.handle).map (·.k)).getD 0) 32 →
          (Cells.read (s'.tiles.get t).store (4096 * (o.addr.toNat / 2 ^ 16) + i)).toNat =
            tb.byte (r.panel * ceilDiv (((e.image.tensor r.handle).map (·.k)).getD 0) 32 + (r.span * spanDepth r.fmt / 32 + i))))

/-! ### The multiply-accumulate array -/

/-- LOADW takes its staged block for loading, and BLOCK_LOADED copies the block, once every byte of it is present, with its scale bytes into the free slots;
the block that is active stays (R89, R93).

CHECK_STATUS_FINAL: what the named row or word awaits becomes final, passed or failed, there and wherever a status of the tile derives from it (of a failure, its
newest operation; log entry 67); a status that awaits nothing of it stays, and no value changes (R110, R137, R156).

The model's own choices under it: log entry 67. -/
def Obligations.BlocksLoadAndCheckStatusesBecomeFinal : Prop :=
  (∀ (t : TileId) (s : State) (e : Seat),
    (∀ (o : LoadwOp) (r : OperandRecord), Takes (.loadw t o) s t arrayCtx e → (s.tiles.get t).recordAt o.record.toNat = some r → o.ok = true →
      (s.tiles.get t).array.shadow = none → (s.tiles.get t).array.loading = none →
      s.tableHere t e o.fmt.toNat r.handle = true →
      (∀ k, (s.tiles.get t).tableOf r.handle (s.parts.get e.part).run.step = some k → fmtNarrow o.fmt.toNat = true →
        (s.tiles.get t).staged o.addr.toNat = true → State.scaleMismatch (s.tiles.get t) e.image k (s.loadwBlock t o r) = false) →
      ∃ s', exec (.loadw t o) s = .next s' ∧ IssueFrame t s s' ∧ Issued t arrayCtx s s' ∧
        (s'.tiles.get t).vec = (s.tiles.get t).vec ∧ (s'.tiles.get t).store = (s.tiles.get t).store ∧
        (s'.tiles.get t).array = { (s.tiles.get t).array with loading := some (s.loadwBlock t o r) }) ∧
    (∀ b : Block, s.seat t = some e → (s.tiles.get t).island.state = .running → (s.tiles.get t).array.loading = some b →
      (s.tiles.get t).staged b.addr = true →
      (∀ k, (s.tiles.get t).tableOf b.handle (s.parts.get e.part).run.step = some k → fmtNarrow b.fmt = true →
        State.scaleMismatch (s.tiles.get t) e.image k b = false) →
      ∃ s', exec (.blockLoaded t) s = .next s' ∧ IssueFrame t s s' ∧
        (s'.tiles.get t).vec = (s.tiles.get t).vec ∧ (s'.tiles.get t).store = (s.tiles.get t).store ∧
        (s'.tiles.get t).array = { (s.tiles.get t).array with loading := none, shadow := (s'.tiles.get t).array.shadow } ∧
        ∃ b', (s'.tiles.get t).array.shadow = some b' ∧ b'.handle = b.handle ∧ b'.fmt = b.fmt ∧ b'.span = b.span ∧ b'.panel = b.panel ∧
          b'.depth = b.depth ∧ b'.width = b.width ∧ b'.scales = (s.tiles.get t).storeRead b.addr (blockScales b.fmt) ∧ b'.parityOk = true ∧
          b'.status = (s.tiles.get t).storeWorst b.addr stagedBytes ∧
          ∀ i, i < stagedBytes → Cells.read b'.data i = Cells.read (s.tiles.get t).store (b.addr + i))) ∧
  (∀ (t : TileId) (w : StatusTarget) (ok : Bool) (s : State), ((s.tiles.get t).storeStatus.map (·.1)).Nodup →
    ∃ s', exec (.checkStatusFinal t w ok) s = .next s' ∧ OnlyTile t s s' ∧
      (∀ v, (s'.tiles.get t).statusOf v = ((s.tiles.get t).statusOf v).settle (outcomeOps ((s.tiles.get t).statusOf w).ops ok) ok) ∧
      (∀ ps, (s.tiles.get t).statusOf w = .pending ps → ps ≠ [] → (s'.tiles.get t).statusOf w = if ok then .passed else .failed) ∧
      (s'.tiles.get t).store = (s.tiles.get t).store ∧ (s'.tiles.get t).seqr = (s.tiles.get t).seqr ∧
      (∀ r : Fin 4096, ((s'.tiles.get t).array.acc.get r).vals = ((s.tiles.get t).array.acc.get r).vals) ∧
      (∀ (g : Fin 8) (r : Fin 64), (((s'.tiles.get t).vec.regs.get g).get r).words = (((s.tiles.get t).vec.regs.get g).get r).words))

/-- MMUL (R94, R99 to R102): in every written row, each column of the panel takes the span's value, from nothing in mode 0, from the element's own value
in mode 1, and in mode 2 from the carried-in region, with +0 and clear flags beyond the block's valid width.

The model's own choices under it: log entries 7, 24, 28, 65 and 66. -/
def Obligations.MultiplyAccumulateWritesEveryRow : Prop :=
  ∀ (t : TileId) (o : MmulOp) (s : State) (e : Seat) (r : OperandRecord) (b : Block) (swap : Bool), Takes (.mmul t o) s t arrayCtx e →
    MmulReady s t e o r b swap →
    (o.mode ≠ 2 →
      (∀ i, i ≤ o.rows.toNat → ((s.tiles.get t).array.acc.get (Fin.ofNat 4096 (o.base.toNat + i))).modeOk o.mode.toNat o (fmtIsInt b.fmt) = true) →
      ∃ s', exec (.mmul t o) s = .next s' ∧ CountedFrame t e.part s s' ∧ Issued t arrayCtx s s' ∧ MmulWrites t o b swap s s' ∧
        ∀ i, i ≤ o.rows.toNat → ∀ j : Fin 512, j.1 < panelWidth b.fmt →
          let q := Fin.ofNat 4096 (o.base.toNat + i)
          let old := (s.tiles.get t).array.acc.get q
          (((s'.tiles.get t).array.acc.get q).vals.get j, ((s'.tiles.get t).array.acc.get q).flags.get j) =
            s.mmulElement t e o r b i j.1 (if o.mode = 0 then none else some (old.vals.get j, old.flags.get j)) ∧
          ((s'.tiles.get t).array.acc.get q).exponent =
            (if fmtIsInt b.fmt then BitVec.ofInt 16 (s.mmulExponent t e o r b + intFactor b.fmt) else 0) ∧
          ((s'.tiles.get t).array.acc.get q).status =
            ((((if b.parityOk then CheckStatus.pending [s.opOf t + i] else .failed).worst (if o.mode = 1 then old.status else .passed)).worst
              ((s.tiles.get t).storeWorst (o.addr.toNat + i * r.stride) (ceilDiv (b.depth * fmtBits r.fmt) 8))).worst b.status)) ∧
    (o.mode = 2 → ∀ (k : OperandRecord) (tr : Trailer), (s.tiles.get t).recordAt o.carry.toNat = some k → minStride b.width ≤ k.stride →
      trailerOf (bytesWords ((s.tiles.get t).storeRead (k.carryAddr + (o.rows.toNat + 1) * k.stride) 64)) = some tr →
      tr.carryOk k.handle o (fmtIsInt b.fmt) (s.parts.get e.part).run = true →
      ∃ s', exec (.mmul t o) s = .next s' ∧ CountedFrame t e.part s s' ∧ Issued t arrayCtx s s' ∧ MmulWrites t o b swap s s' ∧
        ∀ i, i ≤ o.rows.toNat → ∀ j : Fin 512, j.1 < panelWidth b.fmt →
          let q := Fin.ofNat 4096 (o.base.toNat + i)
          let old := (s.tiles.get t).array.acc.get q
          let in_ := BitVec.ofNat 32 (field ((s.tiles.get t).storeRead (k.carryAddr + i * k.stride) (4 * b.width)) (4 * j.1) 4)
          (((s'.tiles.get t).array.acc.get q).vals.get j, ((s'.tiles.get t).array.acc.get q).flags.get j) =
            s.mmulElement t e o r b i j.1 (if j.1 < b.width then some (in_, old.flags.get j) else some (0, 0)))

/-- DRAIN moves accumulator rows: to a tile register with their kind, exponent and check status; to the store as rows of 32-bit words of the valid columns
with a drain trailer after the last. Accumulator rows keep their contents (R103, R104, R174).

The model's own choices under it: log entries 65 and 67. -/
def Obligations.DrainMovesAccumulatorRows : Prop :=
  ∀ (t : TileId) (o : DrainOp) (s : State) (e : Seat), Takes (.drain t o) s t arrayCtx e → o.ok = true → (s.tiles.get t).drainable o = true →
    (o.toStore = false →
      ∃ s', exec (.drain t o) s = .next s' ∧ IssueFrame t s s' ∧ Issued t arrayCtx s s' ∧ VectorFrame t o.reg.toNat
          ((List.range (o.rows.toNat + 1)).map (o.firstReg.toNat + ·)) s s' ∧
        ∀ i, i ≤ o.rows.toNat →
          let a := (s.tiles.get t).array.acc.get (Fin.ofNat 4096 (o.first.toNat + i))
          (s'.tiles.get t).vec.row o.reg.toNat (o.firstReg.toNat + i) =
            { words := a.vals, kind := if a.isInt then 1 else 0, exponent := a.exponent, status := a.status }) ∧
    (o.toStore = true → ∀ r : OperandRecord, (s.tiles.get t).recordAt o.record.toNat = some r →
      minStride ((s.tiles.get t).array.acc.get (Fin.ofNat 4096 o.first.toNat)).width ≤ r.stride →
      ∃ s', exec (.drain t o) s = .next s' ∧ IssueFrame t s s' ∧ Issued t arrayCtx s s' ∧
        (∀ q : Fin 4096, { (s'.tiles.get t).array.acc.get q with drained := false } = { (s.tiles.get t).array.acc.get q with drained := false }) ∧
        (s'.tiles.get t).vec = (s.tiles.get t).vec ∧
        let row := fun (i : Nat) => (s.tiles.get t).array.acc.get (Fin.ofNat 4096 (o.first.toNat + i))
        let tr := (s.tiles.get t).drainTrailer o r.handle (s.parts.get e.part).run
        let worst := (List.range (o.rows.toNat + 1)).foldl (fun c i => c.worst (row i).status) CheckStatus.passed
        (∀ w, (w ∈ wordsOfRun (o.addr.toNat + (o.rows.toNat + 1) * r.stride) 64 ∨
            ∃ i, i ≤ o.rows.toNat ∧ w ∈ wordsOfRun (o.addr.toNat + i * r.stride) (4 * min 512 (row 0).width)) →
          (s'.tiles.get t).statusOf (.storeWord w) = worst) ∧
        tr.step = (s.parts.get e.part).run.step ∧ tr.attempt = (s.parts.get e.part).run.attempt ∧ tr.rows = o.rows.toNat + 1 ∧
        (s'.tiles.get t).store = Cells.write ((List.range (o.rows.toNat + 1)).foldl (fun m i =>
            Cells.write m (o.addr.toNat + i * r.stride) (((row i).vals.toList.take (row 0).width).flatMap fun w => leBytes 4 w.toNat))
            (s.tiles.get t).store)
          (o.addr.toNat + (o.rows.toNat + 1) * r.stride) (wordsBytes (trailerWords tr)))

/-! ### The stream unit and the sequencer -/

/-- ARM copies a descriptor that passes its checks into the active slot of its queue, or into the shadow slot while an arming is active (R143, R145); the
generation is the queue's arm count modulo 256.

SEND starts the oldest arming of its queue that has not started, when it is outbound, and RECV when it is inbound; a start for a shadow arming is
recorded; where there is none to start, or it goes the other way, the start is an order fault (R146).

The model's own choices under it: log entries 42 and 73. -/
def Obligations.ArmingsAreMadeAndStarted : Prop :=
  (∀ (t : TileId) (q : Fin 32) (idx : BitVec 32) (s : State) (e : Seat) (ws : List Word64), Takes (.arm t q idx) s t streamCtx e →
    (s.tiles.get t).seqr.descriptors[idx.toNat]? = some ws → crcOk ws 7 = true → bits (wordAt ws 5) 63 32 = idx.toNat →
    descriptorBad e idx.toNat ws = none →
    let k := (s.tiles.get t).stream.queues.get q
    (k.keptArm (s.posOf t streamCtx) = true →
      ∃ s', exec (.arm t q idx) s = .next s' ∧ IssueFrame t s s' ∧ Issued t streamCtx s s' ∧ SameData t s s') ∧
    (k.keptArm (s.posOf t streamCtx) = false → (∀ z ∈ (s.tiles.get t).faults.spent, z.1 ≠ s.posOf t streamCtx) →
      (k.faulted = true →
        ∃ s', exec (.arm t q idx) s = .next s' ∧ Issued t streamCtx s s' ∧ OnlyQueue t q s s' ∧ (s'.tiles.get t).stream.queues.get q = k ∧
          (s'.tiles.get t).stream.ignoredArms = (s.tiles.get t).stream.ignoredArms + 1) ∧
      (k.faulted = false → (k.active = none ∨ k.shadow = none) →
        ∃ s' a, exec (.arm t q idx) s = .next s' ∧ IssueFrame t (s.withStream t (s'.tiles.get t).stream) s' ∧ Issued t streamCtx s s' ∧
          OnlyQueue t q s s' ∧ SameData t s s' ∧
          a.desc = descOf ws ∧ a.gen = BitVec.ofNat 8 (k.armCount + 1).toNat ∧ a.next = 0 ∧ a.outstanding = [] ∧ a.cmd = s.posOf t streamCtx ∧
          (s'.tiles.get t).stream.queues.get q =
            (if k.active = none then { k with armCount := k.armCount + 1, active := some a }
             else { k with armCount := k.armCount + 1, shadow := some a }) ∧
          a.started = (a.desc.startOnArm && k.active.isNone) ∧
          s'.audit.planned = s.audit.planned + BitVec.ofNat 64 (descOf ws).transfers) ∧
      (∀ act sh, k.faulted = false → k.active = some act → k.shadow = some sh → MayRetry e.part s →
        ∃ s', exec (.arm t q idx) s = .next s' ∧ OnlyQueue t q s s' ∧ SameData t s s' ∧
          (s'.tiles.get t).stream.queues.get q = { k with
            armCount := k.armCount + 1
            shadow := none
            faulted := true
            active := some { act with next := act.desc.transfers, cancelled := act.cancelled + (act.desc.transfers - act.next) } } ∧
          (s'.tiles.get t).stream.rearmOverruns = (s.tiles.get t).stream.rearmOverruns + 1 ∧
          (s'.parts.get e.part).run.retry = some 0x0304))) ∧
  (∀ (t : TileId) (q : Fin 32) (s : State) (e : Seat),
    ((s.tiles.get t).stream.queues.get q).keptStart (s.posOf t streamCtx) = false →
    (∀ z ∈ (s.tiles.get t).faults.spent, z.2 ≠ s.posOf t streamCtx) →
    let k := (s.tiles.get t).stream.queues.get q
    (∀ k', k.start true (s.posOf t streamCtx) = some k' → Takes (.send t q) s t streamCtx e →
      ∃ s', exec (.send t q) s = .next s' ∧ IssueFrame t (s.withStream t (s'.tiles.get t).stream) s' ∧ Issued t streamCtx s s' ∧ OnlyQueue t q s s' ∧
        (s'.tiles.get t).stream.queues.get q = k' ∧ SameData t s s') ∧
    (∀ k', k.start false (s.posOf t streamCtx) = some k' → Takes (.recv t q) s t streamCtx e →
      ∃ s', exec (.recv t q) s = .next s' ∧ IssueFrame t (s.withStream t (s'.tiles.get t).stream) s' ∧ Issued t streamCtx s s' ∧ OnlyQueue t q s s' ∧
        (s'.tiles.get t).stream.queues.get q = k' ∧ SameData t s s') ∧
    (∀ (out : Bool) (a : Arming), k.faulted = false → k.active = some a →
      (a.started = false → outbound a.desc.kind = out →
        k.start out (s.posOf t streamCtx) = some { k with active := some { a with started := true, startCmd := s.posOf t streamCtx } }) ∧
      (∀ b, a.started = true → k.shadow = some b → b.startRecorded = false → outbound b.desc.kind = out →
        k.start out (s.posOf t streamCtx) = some { k with shadow := some { b with startRecorded := true, startCmd := s.posOf t streamCtx } }) ∧
      (a.started = false → outbound a.desc.kind ≠ out → k.start out (s.posOf t streamCtx) = none)) ∧
    (k.start true (s.posOf t streamCtx) = none → Takes (.send t q) s t streamCtx e → exec (.send t q) s = .next (s.commandFault t streamCtx e
      (s.posOf t streamCtx) 0x32 0x0302 0 0 (some q.1) (k.active.map (·.gen.toNat)) (k.active.map (·.desc.index)))) ∧
    (k.start false (s.posOf t streamCtx) = none → Takes (.recv t q) s t streamCtx e → exec (.recv t q) s = .next (s.commandFault t streamCtx e
      (s.posOf t streamCtx) 0x33 0x0302 0 0 (some q.1) (k.active.map (·.gen.toNat)) (k.active.map (·.desc.index)))))

/-- TRANSFER_ISSUE issues the next transfer of the ready queue that issued least recently; a PUT-TILE sends the store's bytes to the tile that the binding table
names (R139, R140, R144).

TRANSFER_COMPLETE: the core reads an answer, data into the store; with the last answer of a transfer it completes, its arming with its last transfer, and the shadow
arming moves up with its recorded start. TRANSFER_REFUSED keeps the transfer outstanding with its cause, and tells the placer; once a step retry has stopped issue it is
cancelled (R140, R148, R152, R153).

The model's own choices under it: log entries 12, 15 and 42. -/
def Obligations.QueuesIssueAndTransfersEnd : Prop :=
  (∀ (t : TileId) (s : State) (e : Seat) (q : Fin 32) (a : Arming), s.streamLive t = some e → s.withhold t e = s → s.readyQueue t e = some q →
    ((s.tiles.get t).stream.queues.get q).active = some a →
    ∃ s' tr, exec (.transferIssue t) s = .next s' ∧ OnlyQueue t q s s' ∧ tr.idx = a.next ∧ tr.issued = s.time ∧ tr.refused = none ∧
      (s'.tiles.get t).stream.serves = (s.tiles.get t).stream.serves + 1 ∧
      (s'.tiles.get t).stream.queues.get q = { (s.tiles.get t).stream.queues.get q with
        lastServed := (s.tiles.get t).stream.serves + 1
        active := some { a with next := a.next + 1, outstanding := a.outstanding ++ [tr] } } ∧
      (s'.tiles.get t).store = (s.tiles.get t).store ∧ (s'.tiles.get t).seqr = (s.tiles.get t).seqr ∧
      (a.desc.kind = 1 → ∃ u p, (s.tiles.get t).stream.binding[bits a.desc.target 63 56]? = some (some u) ∧
        (s'.tiles.get t).island.outPackets = (s.tiles.get t).island.outPackets ++ [p] ∧ pktKind p = 1 ∧ pktDst p = epTile u ∧
        p.payload = (s.tiles.get t).storeRead (a.desc.piece a.next).1 (a.desc.piece a.next).2 ∧ tr.asked = [⟨p, none⟩]) ∧
      (∀ r, r ≠ q → s.queueOpen (s.tiles.get t) e ((s.tiles.get t).stream.queues.get r) = true →
        (∀ b, ((s.tiles.get t).stream.queues.get r).active = some b → (s.tiles.get t).sourceStatus b = .passed →
          ((s.tiles.get t).stream.queues.get q).lastServed ≤ ((s.tiles.get t).stream.queues.get r).lastServed))) ∧
  (∀ (t : TileId) (q : Fin 32) (s : State) (e : Seat) (a : Arming), s.seat t = some e →
    let k := (s.tiles.get t).stream.queues.get q
    k.active = some a → k.ended a = false →
    (∀ (r : Answer) (tr : Transfer) (z : Asked), answerNames r = (q, a.gen) → s.answerHere t r →
      ((s.tiles.get t).island.state = .running ∨ (s.tiles.get t).island.state = .draining) →
      (a.outstanding.findSome? fun tr => (tr.asked.find? (answerEnds r)).map fun z => (tr, z)) = some (tr, z) →
      ∃ s', exec (.transferComplete t r) s = .next s' ∧ OnlyQueue t q s s' ∧
        (s'.tiles.get t).store = (match r with
          | .data p => Cells.write (s.tiles.get t).store (bits p.w1.toNat 31 0) (a.stored z (p.payload.take (pktLength p)))
          | .ack _ => (s.tiles.get t).store) ∧
        (tr.asked.erase z ≠ [] → (s'.tiles.get t).stream.queues.get q = { k with active := some { a with
          outstanding := a.outstanding.map fun y => if y = tr then { tr with asked := tr.asked.erase z } else y } }) ∧
        (tr.asked.erase z = [] → a.cancelled = 0 → s'.audit.completed = s.audit.completed + 1 ∧
          (s'.tiles.get t).stream.queues.get q =
            (if a.completed + 1 = a.desc.transfers then { k with active := k.shadow.map fun b => { b with started := b.startRecorded }, shadow := none }
             else { k with active := some { a with outstanding := a.outstanding.filter fun y => y.idx != tr.idx, completed := a.completed + 1 } }))) ∧
    (∀ (p : Packet) (tr : Transfer), (s.tiles.get t).stream.received.contains p = true → (pktKind p = 8 ∨ pktKind p = 9) →
      bits (wordAt (bytesWords p.payload) 0) 13 8 = q.1 → BitVec.ofNat 8 (bits (wordAt (bytesWords p.payload) 0) 21 14) = a.gen →
      (a.outstanding.find? fun y => y.asked.any (refusalHits p)) = some tr →
      let cause := BitVec.ofNat 4 (bits (wordAt (bytesWords p.payload) 0) 31 28)
      ∃ s', exec (.transferRefused t p) s = .next s' ∧ OnlyQueue t q s s' ∧ (s'.tiles.get t).store = (s.tiles.get t).store ∧
        (s'.tiles.get t).stream.refusals = (s.tiles.get t).stream.refusals + (if tr.refused.isSome then 0 else 1) ∧
        ((s.parts.get e.part).run.halted = false →
          (s'.tiles.get t).stream.queues.get q = { k with active := some { a with outstanding := a.outstanding.map fun y =>
            if y = tr then { tr with asked := tr.asked.map fun z => if refusalHits p z then { z with refused := some cause } else z, sawRefusal := true } else y } } ∧
          ∃ w, (s'.parts.get e.part).place.refusals = (s.parts.get e.part).place.refusals ++ [w] ∧ w.logical = e.logical ∧ w.queue = q ∧ w.idx = tr.idx ∧ w.cause = cause) ∧
        ((s.parts.get e.part).run.halted = true →
          (s'.tiles.get t).stream.queues.get q = { k with active := some { a with outstanding := a.outstanding.erase tr, cancelled := a.cancelled + 1 } } ∧
          s'.audit.cancelled = s.audit.cancelled + 1)))

/-- BINDING_REPUBLISH takes the new physical tile and re-sends the refused transfers that the entry releases, and a reopened route those that were refused at its edge
port (R150, R152). PUT_TILE_RECEIVE writes a packet that its queue's started EXPECT covers, and the EXPECT completes with its last byte; a packet that none covers is a
stray write, writes nothing and calls for a step retry (R140, R144).

The model's own choices under it: log entry 11. -/
def Obligations.PutTilesReachTheirDestination : Prop :=
  ∀ (t : TileId) (s : State) (e : Seat), s.seat t = some e →
    (∀ (l : BitVec 8) (u : TileId), (s.parts.get e.part).physOf l.toNat = some u → (s.tiles.get u).island.state = .running →
      (s.tiles.get u).island.ingressOpen = true → l.toNat < (s.tiles.get t).stream.binding.length →
      ((s.tiles.get t).stream.binding[l.toNat]?.join = some u ∨ (s.tiles.get t).stream.freeOf l.toNat = true) → (s.parts.get e.part).run.halted = false →
      ∃ s', exec (.bindingRepublish t (.entry l u)) s = .next s' ∧
        (s'.tiles.get t).stream.binding = (s.tiles.get t).stream.binding.set l.toNat (some u) ∧ SameData t s s' ∧
        (s'.tiles.get t).seqr = (s.tiles.get t).seqr ∧
        ∀ (q : Fin 32) (a : Arming), ((s.tiles.get t).stream.queues.get q).active = some a →
          ∃ o, ((s'.tiles.get t).stream.queues.get q).active = some { a with outstanding := o } ∧ o.map (·.idx) = a.outstanding.map (·.idx) ∧
            ∀ tr ∈ o, ∀ z ∈ tr.asked, toLogical l.toNat a z = true → z.refused = none) ∧
    (∀ dst : Fin 1024, s.routeBack t dst.1 = true → (s.parts.get e.part).run.halted = false →
      ∃ s', exec (.bindingRepublish t (.route dst)) s = .next s' ∧ (s'.tiles.get t).stream.binding = (s.tiles.get t).stream.binding ∧ SameData t s s' ∧
        ∀ (q : Fin 32) (a : Arming), ((s.tiles.get t).stream.queues.get q).active = some a → a.desc.kind ≠ 1 →
          ∃ o, ((s'.tiles.get t).stream.queues.get q).active = some { a with outstanding := o } ∧ o.map (·.idx) = a.outstanding.map (·.idx) ∧
            ∀ tr ∈ o, ∀ z ∈ tr.asked, ¬ (pktDst z.packet = dst.1 ∧ z.refused = some 7)) ∧
    (∀ (p : Packet), ((s.tiles.get t).island.state = .running ∨ (s.tiles.get t).island.state = .draining) → pktKind p = 1 →
      (s.tiles.get t).stream.received.contains p = true →
      let q : Fin 32 := Fin.ofNat 32 (pktQueue p)
      let k := (s.tiles.get t).stream.queues.get q
      (∀ a : Arming, k.active = some a → a.desc.kind = 5 → a.started = true → a.desc.covers (bits p.w1.toNat 31 0) p.payload.length = true →
        ∃ s', exec (.putTileReceive t p) s = .next s' ∧ OnlyQueue t q s s' ∧
          (s'.tiles.get t).store = Cells.write (s.tiles.get t).store (bits p.w1.toNat 31 0) p.payload ∧
          (s'.tiles.get t).stream.received = (s.tiles.get t).stream.received.erase p ∧
          (s'.tiles.get t).stream.queues.get q =
            (if a.received + p.payload.length < a.desc.rows * a.desc.rowLen then { k with active := some { a with received := a.received + p.payload.length } }
             else if a.cancelled = 0 then { k with active := k.shadow.map fun b => { b with started := b.startRecorded }, shadow := none }
             else { k with active := some { a with
               received := a.received + p.payload.length, completed := a.desc.transfers - a.cancelled } })) ∧
      (k.active = none → MayRetry e.part s →
        ∃ s', exec (.putTileReceive t p) s = .next s' ∧ SameData t s s' ∧ (s'.parts.get e.part).run.retry = some 0x0305))

/-- Buckle commands (R177, R178, R256 to R258, R267): an ARRIVE that covers nothing outstanding adds its count to a Buckle counted in its tile, and to one whose home is a
welt it sends an arrive message, unless the sent map already holds the command; a WAIT, and an ARRWAIT after its arrival, issue once a counter of the tile has reached
the target and otherwise hold their list; at a welt's Buckle they send their watch and hold it until the satisfy message. -/
def Obligations.BuckleCommandsCountAndWait : Prop :=
  ∀ (t : TileId) (c : CtxId) (o : BuckleOp) (s : State) (e : Seat), e.buckleOk o.buckle.toNat = true →
    let k := (s.tiles.get t).seqr.ctxs.get c
    k.arrivals = [] →
    (s.tileScope e.part o.buckle.toNat →
      (Takes (.arrive t c o) s t c e → o.arriveOk = true → k.outstanding = [] →
        ∃ s', exec (.arrive t c o) s = .next s' ∧ IssueFrame t s s' ∧ Issued t c s s' ∧ SameData t s s' ∧
          s'.logicalBuckle e.part o.buckle.toNat = (s.logicalBuckle e.part o.buckle.toNat + o.count.toNat) % 2 ^ 32) ∧
      (Takes (.wait t c o) s t c e → o.waitOk = true →
        ∃ s', exec (.wait t c o) s = .next s' ∧ IssueFrame t s s' ∧ SameData t s s' ∧
          s'.logicalBuckle e.part o.buckle.toNat = s.logicalBuckle e.part o.buckle.toNat ∧
          (if o.target = 0 ∨ o.target.toNat ≤ s.logicalBuckle e.part o.buckle.toNat then Issued t c s s'
           else ((s'.tiles.get t).seqr.ctxs.get c).state = .atBuckle ∧ ((s'.tiles.get t).seqr.ctxs.get c).pos = k.pos)) ∧
      (Takes (.arrwait t c o) s t c e → o.arrwaitOk = true → k.outstanding = [] → k.arrwaitSent = false →
        let v := (s.logicalBuckle e.part o.buckle.toNat + o.count.toNat) % 2 ^ 32
        ∃ s', exec (.arrwait t c o) s = .next s' ∧ IssueFrame t s s' ∧ SameData t s s' ∧ s'.logicalBuckle e.part o.buckle.toNat = v ∧
          (if o.target = 0 ∨ o.target.toNat ≤ v then Issued t c s s'
           else ((s'.tiles.get t).seqr.ctxs.get c).state = .atBuckle ∧ ((s'.tiles.get t).seqr.ctxs.get c).arrwaitSent = true))) ∧
    (∀ w, (s.parts.get e.part).homeOf ((s.parts.get e.part).physBuckle o.buckle.toNat) = some (.welt w) →
      (Takes (.arrive t c o) s t c e → o.arriveOk = true → k.outstanding = [] →
        ∃ s', exec (.arrive t c o) s = .next s' ∧ IssueFrame t s s' ∧ Issued t c s s' ∧ SameData t s s' ∧
          k.pos ∈ ((s'.tiles.get t).router.sentMaps.get c).sent ∧
          (if k.pos ∈ ((s.tiles.get t).router.sentMaps.get c).sent then s'.fabric = s.fabric ∧ s'.audit.suppressed = s.audit.suppressed + 1
           else ∃ p, s'.fabric.inFlight = s.fabric.inFlight ++ [p] ∧ pktKind p = 7 ∧ pktDst p = epWelt w ∧
             s'.audit.sent = s.audit.sent + BitVec.ofNat 64 o.count.toNat)) ∧
      (Takes (.wait t c o) s t c e → o.waitOk = true → o.target ≠ 0 → k.arrwaitSent = false →
        ∃ s' p, exec (.wait t c o) s = .next s' ∧ IssueFrame t s s' ∧ SameData t s s' ∧
          ((s'.tiles.get t).seqr.ctxs.get c).state = .atBuckle ∧ ((s'.tiles.get t).seqr.ctxs.get c).arrwaitSent = true ∧
          ((s'.tiles.get t).seqr.ctxs.get c).pos = k.pos ∧
          s'.fabric.inFlight = s.fabric.inFlight ++ [p] ∧ pktKind p = 7 ∧ pktDst p = epWelt w))

/-! ### The base dies: stacks, Skiver and Burnisher -/

/-- A base die stores a write packet for a bound slice, and every other byte and region stays; it answers a read request with the bytes of the page or of the
region, and a clean block reads zeros; a region that transfers may not name is neither read nor written by a packet (R82, R191, R194, R226).

GET_WEIGHT_PART: the Skiver of the stack that holds a part's group serves the scale area, zeros for a part wholly beyond the block's valid depth, and otherwise the group's
bytes in the narrowed image, or the master highs of a BF16 weight; a group that is not swept yet is swept first, and nothing is served from one marked failed (R88, R198, R200 to
R202).

The model's own choices under it: log entry 12. -/
def Obligations.BaseDiesServeSlicesAndWeights : Prop :=
  (∀ (k : StackId) (p : Packet) (s : State) (q : Partition) (m : Image) (off : Nat),
    (∀ key at0, s.stackSeat k p = some (q, m, .byte key at0, off) →
      ((pktKind p = 1 ∨ pktKind p = 6) → isRead p = false → q.open_ m key true = true →
        ∃ s' ack, exec (.stackWriteReceive k p) s = .next s' ∧ s' = { s with parts := s'.parts, fabric := s'.fabric } ∧
          s'.sentAfter (s.fabric.inFlight.erase p) ack ∧
          (∀ n, n ≠ pktPart p → s'.parts.get n = s.parts.get n) ∧
          cellsWritten ((s.parts.get (pktPart p)).weights.region key).cells ((s'.parts.get (pktPart p)).weights.region key).cells at0 p.payload ∧
          (∀ key', key' ≠ key → (s'.parts.get (pktPart p)).weights.region key' = (s.parts.get (pktPart p)).weights.region key') ∧
          (∀ b ∈ blocksOf at0 p.payload.length, b ∈ ((s'.parts.get (pktPart p)).weights.region key).written)) ∧
      (isRead p = true → q.open_ m key false = true →
        ∃ s' ans, exec (.stackReadRequest k p) s = .next s' ∧ s' = { s with fabric := s'.fabric } ∧ s'.sentAfter (s.fabric.inFlight.erase p) ans ∧
          ans.payload = (s.parts.get (pktPart p)).weights.read key at0 (bits (wordAt (bytesWords p.payload) 0) 31 0))) ∧
    (∀ g, s.stackSeat k p = some (q, m, .page g, off) → isRead p = true →
      ∃ s' ans, exec (.stackReadRequest k p) s = .next s' ∧ s' = { s with fabric := s'.fabric } ∧ s'.sentAfter (s.fabric.inFlight.erase p) ans ∧
        ans.payload = m.pages.getD g []) ∧
    (∀ key at0, s.stackSeat k p = some (q, m, .byte key at0, off) →
      (q.open_ m key true = false → exec (.stackWriteReceive k p) s = .next s) ∧ (q.open_ m key false = false → exec (.stackReadRequest k p) s = .next s))) ∧
  (∀ (k : StackId) (q : Packet) (s : State) (m : Image) (d : TensorDecl),
    let p := s.parts.get (pktPart q)
    let a := partAsk q
    let g := a.group - (p.part d).1 / 2048
    let depth := roundUp 32 d.k * panelWidth d.fmt
    p.image = some m → m.tensor a.handle = some d → pktKind q = 2 → pktDst q = epStack k → p.state = .loaded → d.kind = 1 →
    (s.stackDies.get k).power = .up → p.partStack m d a.group = some k →
    ((a.part = 0 ∧ (d.swept = false ∨ (p.tableNow d.handle).isSome = true)) ∨ (a.part ≠ 0 ∧ a.beyond d = true) ∨
        (a.part ≠ 0 ∧ p.weights.group d.handle g ≠ .updateFailed ∧ (d.swept = false ∨ (p.weights.group d.handle g).due = false)) →
      ∃ s' ans, exec (.getWeightPart k q) s = .next s' ∧ s' = { s with stackDies := s'.stackDies, fabric := s'.fabric } ∧
        s'.sentAfter (s.fabric.inFlight.erase q) ans ∧ (s'.stackDies.get k).parts = (s.stackDies.get k).parts + 1 ∧
        (∀ j, j ≠ k → s'.stackDies.get j = s.stackDies.get j) ∧
        ans.payload = (if a.part = 0 then p.scaleArea d (2048 * a.group % depth / panelWidth d.fmt / spanDepth d.fmt) (2048 * a.group / depth) a.depth
          else if a.beyond d then List.replicate (partBytes d) 0
          else p.partData d a.group)) ∧
    (a.part ≠ 0 → a.beyond d = false → d.swept = true → (p.weights.group d.handle g).due = true → (p.tableNow d.handle).isSome = true →
      ∃ s' ans, exec (.getWeightPart k q) s = .next s' ∧ (s'.parts.get (pktPart q)).weights.group d.handle g = .swept ∧
        (s'.stackDies.get k).sweepWaits = (s.stackDies.get k).sweepWaits + 1 ∧ (s'.stackDies.get k).parts = (s.stackDies.get k).parts + 1 ∧
        ans ∈ s'.fabric.inFlight ∧ ans.payload = (s'.parts.get (pktPart q)).partData d a.group) ∧
    (a.part ≠ 0 → a.beyond d = false → p.weights.group d.handle g = .updateFailed → exec (.getWeightPart k q) s = .next s))

/-- SWEEP_BEGIN sweeps every due group of the partition on its stack once the step's tables are present, and RING_MAXIMA combines a slot's maximum and overflow
at its ring holder (R74, R198, R199).

ENGINE_MISMATCH sends a group back to its engine: the first one of a group and an attempt marks it to be done again, and the die goes on (R202, R210, R466).

The model's own choices under it: log entry 15. -/
def Obligations.TheSweepNarrowsAndMismatchesRepeat : Prop :=
  (∀ (k : StackId) (n : PartId) (s : State) (m : Image), (s.parts.get n).image = some m →
    ((s.parts.get n).state = .loaded → (s.parts.get n).run.halted = false → (s.stackDies.get k).power = .up → (∀ d ∈ m.sweepOrder, ((s.parts.get n).tableNow d.handle).isSome = true) →
      ∃ s', exec (.sweepBegin k n) s = .next s' ∧ (s'.parts.get n).weights.sweeping = true ∧
        (s'.stackDies.get k).lastSweep = BitVec.ofNat 64 (s.parts.get n).run.step ∧
        (s'.parts.get n).weights.tables = (s.parts.get n).weights.tables ∧ s'.tiles = s.tiles ∧
        (∀ d ∈ m.sweepOrder, ∀ g ∈ (s.parts.get n).groupsOn m d k, ((s.parts.get n).weights.group d.handle g).due = true →
          (s'.parts.get n).weights.group d.handle g = .swept) ∧
        (∀ h g, ((s.parts.get n).weights.group h g).due = false → (s'.parts.get n).weights.group h g = (s.parts.get n).weights.group h g)) ∧
    (∀ (h : BitVec 32) (slot : Nat) (c : BitVec 32) (ovf : Bool) (d : TensorDecl), m.tensor h.toNat = some d → (s.parts.get n).ringHolder m d slot = some k →
      let old := (Assoc.get (h.toNat, slot) (s.parts.get n).weights.maxima).getD (0, false)
      ∃ s', exec (.ringMaxima k n h slot c ovf) s = .next s' ∧ OnlyPart n s s' ∧
        s'.parts.get n = { s.parts.get n with weights := { (s.parts.get n).weights with maxima := (s'.parts.get n).weights.maxima } } ∧
        Assoc.get (h.toNat, slot) (s'.parts.get n).weights.maxima = some (BitVec.ofNat 32 (max old.1.toNat c.toNat), old.2 || ovf) ∧
        ∀ x, x ≠ (h.toNat, slot) → Assoc.get x (s'.parts.get n).weights.maxima = Assoc.get x (s.parts.get n).weights.maxima)) ∧
  (∀ (k : StackId) (r : GroupRef) (burn : Bool) (s : State) (m : Image) (d : TensorDecl), s.groupSeat k r = some (m, d) →
    ((s.parts.get r.part).weights.mismatched.contains (d.handle, r.group, burn) = false) →
    (if burn then (s.parts.get r.part).weights.group d.handle r.group = .updated ∨ (s.parts.get r.part).weights.group d.handle r.group = .updateFailed
     else (s.parts.get r.part).weights.group d.handle r.group = .swept ∨ (s.parts.get r.part).weights.group d.handle r.group = .sweepFailed) →
    ∃ s', exec (.engineMismatch k r burn) s = .next s' ∧ s'.tiles = s.tiles ∧
      (s'.parts.get r.part).weights.group d.handle r.group = (if burn then .updateFailed else .sweepFailed) ∧
      (s'.parts.get r.part).weights.regions = (s.parts.get r.part).weights.regions ∧
      (s'.parts.get r.part).weights.mismatched = (s.parts.get r.part).weights.mismatched ++ [(d.handle, r.group, burn)] ∧
      (s'.stackDies.get k).mismatches = (s.stackDies.get k).mismatches + 1 ∧ (s'.stackDies.get k).power = (s.stackDies.get k).power)

/-- BURNISHER_UPDATE writes the updated master and moments of every element of the group into the alternate buffers, from the current ones, which stay
(R205 to R208). -/
def Obligations.BurnisherWritesTheAlternateBuffers : Prop :=
  ∀ (k : StackId) (r : GroupRef) (s : State) (m : Image) (d : TensorDecl) (u : UpdateProgram), s.groupSeat k r = some (m, d) →
    m.programs[d.program - 1]? = some u → (s.stackDies.get k).power = .up → (s.parts.get r.part).updatable m d r.group = true →
    let p := s.parts.get r.part
    let cur := p.weights.bit d.handle
    let curM := p.weights.bit (m.stateHandle d)
    let es := s.newElements r.part m d u r.group
    ∃ s', exec (.burnisherUpdate k r) s = .next s' ∧ s'.tiles = s.tiles ∧ (∀ n, n ≠ r.part → s'.parts.get n = s.parts.get n) ∧
      (s'.parts.get r.part).weights.group d.handle r.group = .updated ∧ (s'.parts.get r.part).weights.current = p.weights.current ∧
      (∀ kind, (s'.parts.get r.part).weights.region ⟨d.handle, kind, if kind = .masterHigh ∨ kind = .masterLow then cur else curM⟩ =
        p.weights.region ⟨d.handle, kind, if kind = .masterHigh ∨ kind = .masterLow then cur else curM⟩) ∧
      (s'.parts.get r.part).weights.read ⟨d.handle, .masterHigh, !cur⟩ (4096 * r.group) 4096 = es.flatMap (fun x => leBytes 2 (x.master / 2 ^ 16)) ∧
      (s'.parts.get r.part).weights.read ⟨d.handle, .masterLow, !cur⟩ (4096 * r.group) 4096 = es.flatMap (fun x => leBytes 2 (x.master % 2 ^ 16)) ∧
      (s'.parts.get r.part).weights.read ⟨d.handle, .moment1, !curM⟩ (8192 * r.group) 8192 = es.flatMap (fun x => leBytes 4 x.m) ∧
      (u.rule = 2 → (s'.parts.get r.part).weights.read ⟨d.handle, .moment2, !curM⟩ (8192 * r.group) 8192 = es.flatMap (fun x => leBytes 4 x.v))

/-! ### Core islands and welts -/

/-- Requests for a core (R46, R50, R416, R418): a Running core begins its drain toward the target, a core in Retain goes Off at once, a request for Retain
there ends a wake that waits, and a wake is admitted with 40 A of headroom or deferred and counted.

The steps of a drain (R38, R45, R47): issue stops, the welt closes ingress and sends the four final write pointers, the core reads its inbound crossing up to them and
acknowledges, and once the outbound crossing is empty the core is Stopped and goes on to its target (R50); the core's halves of the crossings keep their pointers.

The model's own choices under it: log entries 32, 33 and 59. -/
def Obligations.CoreRequestsDrainAndWakeCores : Prop :=
  (∀ (t : TileId) (s : State),
    (∀ (g : BitVec 2) (fence : Bool), (s.tiles.get t).island.state = .running → (fence = true ∨ g ≠ 0) → (s.tiles.get t).island.inCtl.length < 8 →
      ∃ s', exec (.coreStateRequest t g fence) s = .next s' ∧ OnlyTile t s s' ∧ SameData t s s' ∧ (s'.tiles.get t).island.state = .draining ∧
        (s'.tiles.get t).island.target = some (if fence then .fence else if g = 1 then .retain else .off) ∧
        (s'.tiles.get t).island.fenced = (fence || (s.tiles.get t).island.fenced) ∧
        (s'.tiles.get t).island.inCtl = (s.tiles.get t).island.inCtl ++ [quiesceWord]) ∧
    (∀ g : BitVec 2, (s.tiles.get t).island.state = .retain → 2 ≤ g.toNat →
      ∃ s', exec (.coreStateRequest t g false) s = .next s' ∧ s' = { s with tiles := s'.tiles, dies := s'.dies } ∧
        (s'.tiles.get t).island.state = .off ∧ (s'.tiles.get t).power.rail = 0 ∧ (s'.tiles.get t).store = [] ∧
        ∀ u, u ≠ t → s'.tiles.get u = s.tiles.get u) ∧
    ((s.tiles.get t).island.state = .retain →
      ∃ s', exec (.coreStateRequest t 1 false) s = .next s' ∧ s' = { s with dies := s'.dies } ∧
        (s'.dies.get (dieOf t)).requests = (s.dies.get (dieOf t)).requests.filter fun r => r.tile != t) ∧
    (∀ cls : BitVec 2, ((s.tiles.get t).island.state = .retain ∨ (s.tiles.get t).island.state = .off) → (s.tiles.get t).island.fenced = false →
      (s.tiles.get t).island.weltFailed = false → (s.dies.get (dieOf t)).requests = [] →
      let c := if cls = 0 then 4 else cls.toNat
      ∃ s', exec (.wakeRequest t cls) s = .next s' ∧ s' = { s with tiles := s'.tiles, dies := s'.dies } ∧ (∀ u, u ≠ t → s'.tiles.get u = s.tiles.get u) ∧
        (if (s.dies.get (dieOf t)).softStartTile = none ∧ 40 ≤ s.headroom (dieOf t) t then
          (s'.tiles.get t).island.state = .waking ∧ (s'.tiles.get t).power.softStart = true ∧ (s'.tiles.get t).power.setpoint = railFor t 100 ∧
          (s'.tiles.get t).power.wakes = (s.tiles.get t).power.wakes + 1 ∧ (s'.dies.get (dieOf t)).softStartTile = some t
         else (s'.tiles.get t).island = (s.tiles.get t).island ∧ (s'.tiles.get t).power.wakesDeferred = (s.tiles.get t).power.wakesDeferred + 1 ∧
          (s'.dies.get (dieOf t)).requests = [⟨t, c, s.time, true⟩]))) ∧
  (∀ (t : TileId) (s : State),
    let i := (s.tiles.get t).island
    i.state = .draining →
    (i.inCtl.contains quiesceWord = true →
      ∃ s', exec (.quiesceRequest t) s = .next s' ∧ OnlyTile t { s with fabric := s'.fabric } s' ∧ SameData t s s' ∧
        (s'.tiles.get t).island.quiesced = true ∧ (s'.tiles.get t).stream = (s.tiles.get t).stream ∧ (s'.tiles.get t).island.outPackets = [] ∧
        (∀ c, (s'.tiles.get t).seqr.ctxs.get c = { (s.tiles.get t).seqr.ctxs.get c with state := .idle }) ∧
        (i.finalSent = false → (i.inCtl.erase quiesceWord).length ≤ 4 → ((s.tiles.get t).router.bufs.any fun e => e.won) = false →
          (s'.tiles.get t).island.ingressOpen = false ∧ (s'.tiles.get t).island.finalSent = true ∧
          (s'.tiles.get t).island.inCtl = i.inCtl.erase quiesceWord ++ (List.range 4).map fun v => finalWord v (i.inWritten.get (Fin.ofNat 4 v)))) ∧
    (i.quiesced = true → i.finalSent = true → (∀ w ∈ i.finals, i.inCtl.contains w = true) → i.outCtl.length < 8 →
      ∃ s', exec (.finalPointers t) s = .next s' ∧ OnlyTile t s s' ∧ SameData t s s' ∧ (s'.tiles.get t).island.inPackets = [] ∧
        (s'.tiles.get t).island.inRead = i.inWritten ∧ (s'.tiles.get t).island.outCtl = i.outCtl ++ [ackWord]) ∧
    (i.outCtl.contains ackWord = true →
      ∃ s', exec (.quiesceAck t) s = .next s' ∧ OnlyTile t s s' ∧ SameData t s s' ∧ (s'.tiles.get t).island.acked = true ∧
        (s'.tiles.get t).island.outCtl = i.outCtl.erase ackWord) ∧
    (i.acked = true → (s.tiles.get t).outboundEmpty = true → i.held = none →
      ∃ s', exec (.coreClockStop t) s = .next s' ∧ OnlyTile t { s with fabric := s'.fabric } s' ∧ (s'.tiles.get t).island.clock = 0 ∧
        (s'.tiles.get t).island.inCtl = [] ∧ (s'.tiles.get t).island.outCtl = [] ∧ (s'.tiles.get t).island.target = none ∧
        (s'.tiles.get t).island.forcedCloses = i.forcedCloses ∧
        (s'.tiles.get t).island.inRead = i.inRead ∧ (s'.tiles.get t).island.outWritten = i.outWritten ∧
        (s'.tiles.get t).island.state =
          (if i.fenced = true ∨ i.target = some .off ∨ i.target = some .fence then .off else if i.target = some .retain then .retain else .stopped) ∧
        ((s'.tiles.get t).island.state = .off → (s'.tiles.get t).store = []) ∧
        ((s'.tiles.get t).island.state ≠ .off → (s'.tiles.get t).store = (s.tiles.get t).store)))

/-- Forced closes (R48, R49): without an acknowledgement the welt closes the core by force, counts it, and the core goes on to its target; a core that loses its
rail is closed by force and fenced.

The end of a wake (R51, R417): in regulation, within 20 mV, the core starts at 100 MHz with an allowance of 20 A, and its ready word makes it Running at its
setpoint with ingress open; a rail out of regulation or a failed scrub fences the tile, and a tile that has left its partition is scrubbed and drains to Retain or Off (R224, R225).

The model's own choices under it: log entry 32. -/
def Obligations.ForcedClosesAndWakesEnd : Prop :=
  (∀ (t : TileId) (s : State),
    ((s.tiles.get t).island.state = .draining → (s.tiles.get t).island.acked = false → (s.tiles.get t).island.held = none →
      ∃ s', exec (.quiesceTimeout t) s = .next s' ∧ (s'.tiles.get t).island.forcedCloses = (s.tiles.get t).island.forcedCloses + 1 ∧
        (s'.tiles.get t).island.clock = 0 ∧ (s'.tiles.get t).island.inPackets = [] ∧ (s'.tiles.get t).island.outPackets = [] ∧ s'.parts = s.parts ∧
        (s'.tiles.get t).island.state =
          (if (s.tiles.get t).island.fenced = true ∨ (s.tiles.get t).island.target = some .off ∨ (s.tiles.get t).island.target = some .fence then .off
           else if (s.tiles.get t).island.target = some .retain then .retain else .stopped)) ∧
    ((s.tiles.get t).island.state ≠ .off →
      ∃ s', exec (.coreRailLoss t) s = .next s' ∧ (s'.tiles.get t).island.forcedCloses = (s.tiles.get t).island.forcedCloses + 1 ∧
        (s'.tiles.get t).island.fenced = true)) ∧
  (∀ (t : TileId) (s : State), (s.tiles.get t).island.state = .waking →
    (∀ mv, (s.tiles.get t).power.softStart = true → (s.tiles.get t).island.outCtl.length < 8 →
      ∃ s', exec (.softStartEnd t mv) s = .next s' ∧
        (if mv ≤ railFor t 100 + 20 ∧ railFor t 100 ≤ mv + 20 then
          (s'.tiles.get t).island.clock = 100 ∧ (s'.tiles.get t).island.outCtl = (s.tiles.get t).island.outCtl ++ [readyWord] ∧ (s'.tiles.get t).island.inRead = Vector.replicate 4 0 ∧
          (s'.tiles.get t).island.outWritten = Vector.replicate 4 0 ∧ (s'.tiles.get t).power.rail = mv ∧
          (s'.tiles.get t).power.allowance = 20
         else (s'.tiles.get t).island.fenced = true)) ∧
    ((s.tiles.get t).island.outCtl.contains readyWord = true →
      (∃ s', exec (.readyWord t false) s = .next s' ∧ (s'.tiles.get t).island.fenced = true) ∧
      ((s.tiles.get t).test.last = .running →
        ∃ s', exec (.readyWord t true) s = .next s' ∧ OnlyTile t s s' ∧ (s'.tiles.get t).island.clock = 800 ∧ (s'.tiles.get t).island.state = .waking ∧
          (s'.tiles.get t).island.ingressOpen = (s.tiles.get t).island.ingressOpen) ∧
      ((s.tiles.get t).test.last ≠ .running → (s.tiles.get t).island.scrubDue = false → (s.tiles.get t).island.fenced = false → (s.tiles.get t).island.held = none →
        ∃ s', exec (.readyWord t true) s = .next s' ∧ OnlyTile t s s' ∧ SameData t s s' ∧ (s'.tiles.get t).island.state = .running ∧
          (s'.tiles.get t).island.ingressOpen = true ∧ (s'.tiles.get t).island.outCtl = (s.tiles.get t).island.outCtl.erase readyWord ∧
          (s'.tiles.get t).island.clock = (s.tiles.get t).clockSetpoint ∧
          (s'.tiles.get t).power.rail = railFor t (s.tiles.get t).clockSetpoint) ∧
      ((s.tiles.get t).test.last ≠ .running → (s.tiles.get t).island.scrubDue = true → (s.tiles.get t).island.fenced = false →
        ∃ s', exec (.readyWord t true) s = .next s' ∧ OnlyTile t s s' ∧ (s'.tiles.get t).store = [] ∧ (s'.tiles.get t).vec = VectorEngine.reset ∧
          (s'.tiles.get t).array = MacArray.reset ∧ (s'.tiles.get t).island.state = .draining ∧ (s'.tiles.get t).island.ingressOpen = false ∧
          (s'.tiles.get t).island.scrubDue = false ∧
          (s'.tiles.get t).island.target = some (if s.placer.designated.contains t then .retain else .off))))

/-- LOCAL_PORT_HEAD (R36, R41, R43 to R45, R140, R283, R284): the head that has won the local port is checked; a sound packet with a fresh sequence number is delivered to a
core whose ingress is open, its first flit at once, and its number is recorded; a write acknowledgement goes over the control crossing. A core that takes none has the packet
answered with a negative acknowledgement; a header that fails its CRC and a flit that cannot be corrected are counted; a head that has not won the port waits.

A welt that fails is listed as failed, and a die that loses its rail loses its four welts (R53, R54).

The model's own choices under it: log entry 32. -/
def Obligations.TheLocalPortAndFailedUnits : Prop :=
  (∀ (t : TileId) (p : Packet) (errors : List Nat) (s : State), (s.tiles.get t).island.weltFailed = false →
    let a := s.atLocal t p
    (a.localWinner t = none → exec (.localPortHead t p errors) s = .next a) ∧
    (∀ e, a.localWinner t = some e → e.packet = p → e.cut = false →
      (uncorrectable errors = true →
        ∃ s', exec (.localPortHead t p errors) s = .next s' ∧ s'.fabric.uncorrectable = s.fabric.uncorrectable + 1) ∧
      (uncorrectable errors = false → pktCrcOk p = false →
        ∃ s', exec (.localPortHead t p errors) s = .next s' ∧ s'.fabric.headerFaults = s.fabric.headerFaults + 1) ∧
      (uncorrectable errors = false → pktCrcOk p = true → pktKindOk p = true → pktDst p ≠ epWelt t →
        ((s.tiles.get t).island.cause = none → s.seqFresh (epTile t) p = true →
          ∃ s', exec (.localPortHead t p errors) s = .next s' ∧ (∀ u, u ≠ t → s'.tiles.get u = s.tiles.get u) ∧ SameData t s s' ∧ s'.parts = s.parts ∧
            Assoc.get (epTile t, pktSrc p, pktFlow p, pktVc p) s'.fabric.history = some (BitVec.ofNat 32 (pktSeq p), s.time) ∧
            (if pktKind p = 4 then (s'.tiles.get t).island.inCtl = (s.tiles.get t).island.inCtl ++ [ackOf p]
             else (s'.tiles.get t).island.inPackets = (s.tiles.get t).island.inPackets ++ [⟨p, 1, 0, e.flits, false⟩] ∧
               (s'.tiles.get t).island.inWritten.get e.vcId = ((s.tiles.get t).island.inWritten.get e.vcId + 1) % 2 ^ 32)) ∧
        (∀ c, (s.tiles.get t).island.cause = some c →
          ∃ s', exec (.localPortHead t p errors) s = .next s' ∧ (s'.tiles.get t).island.inWritten = (s.tiles.get t).island.inWritten ∧
            (s'.tiles.get t).island.inPackets = (s.tiles.get t).island.inPackets ∧
            (s'.tiles.get t).island.nacks = (s.tiles.get t).island.nacks + 1 ∧ SameData t s s' ∧ s'.parts = s.parts)))) ∧
  (∀ (s : State),
    (∀ t : TileId, (s.tiles.get t).island.weltFailed = false →
      ∃ s', exec (.weltFault t) s = .next s' ∧ (s'.tiles.get t).island.weltFailed = true ∧ t ∈ s'.module.weltFailed) ∧
    (∀ d : DieId, (s.dies.get d).railLost = false →
      ∃ s', exec (.dieRailLoss d) s = .next s' ∧ (s'.dies.get d).railLost = true ∧
        ∀ t ∈ tilesOfDie d, (s'.tiles.get t).island.weltFailed = true))

/-! ### Buckles and the audit -/

/-- At its home an arrive message adds its tokens, a watch message registers its watch, and an arrive-and-watch message does both; afterwards no watch of the
Buckle stands whose target the counter has reached; a message of an older generation only has its tokens counted as retired (R256, R258 to R260, R264).

A satisfy message makes the wait at the front of its list issue (R258).

The closing window ends with one check for each closing count, passed where the count is its total and otherwise broken (R265, R274); a probe reads the stored
generation and counter of a Buckle with its total (R275).

The conservation audit (R272 to R275): a marker's sum that is the hop's depth passes and any other is a broken sum; markers with the sender's balance and count leave on every
open hop each period and when they are asked for, and then every pool of slots and every slice's escape slots are checked.

The model's own choices under it: log entries 54 and 63. -/
def Obligations.BuckleMessagesClosingsAndTheAudit : Prop :=
  (∀ (words : List Word64) (s : State) (n : PartId) (w : TileId),
    let m := buckleOfWords words
    let b := m.buckle
    (HomeReady s 1 words n w →
      ∃ s', exec (.buckleArriveMsg words) s = .next s' ∧ AtHome b w s s' ∧
        s'.buckle b = (s.buckle b + m.count) % 2 ^ 32 ∧ s'.audit.applied = s.audit.applied + BitVec.ofNat 64 (m.count) ∧
        ∀ y ∈ (s'.tiles.get w).router.watches, y.buckle = b → s'.buckle b < y.target) ∧
    (HomeReady s 2 words n w →
      ∃ s', exec (.buckleWatchMsg words) s = .next s' ∧ AtHome b w s s' ∧
        s'.buckle b = s.buckle b ∧ s'.audit.applied = s.audit.applied ∧
        ((⟨n.1, m.source, m.list, b, m.target, m.cmd⟩ : Watch) ∈ (s'.tiles.get w).router.watches ↔ s'.buckle b < m.target) ∧
        ∀ y ∈ (s'.tiles.get w).router.watches, y.buckle = b → s'.buckle b < y.target) ∧
    (HomeReady s 3 words n w →
      ∃ s', exec (.buckleArriveWatchMsg words) s = .next s' ∧ AtHome b w s s' ∧
        s'.buckle b = (s.buckle b + m.count) % 2 ^ 32 ∧ s'.audit.applied = s.audit.applied + BitVec.ofNat 64 (m.count) ∧
        ((⟨n.1, m.source, m.list, b, m.target, m.cmd⟩ : Watch) ∈ (s'.tiles.get w).router.watches ↔ s'.buckle b < m.target) ∧
        ∀ y ∈ (s'.tiles.get w).router.watches, y.buckle = b → s'.buckle b < y.target) ∧
    (m.kind = 1 → words.length = 4 → crcOk words 3 = true → s.messagePacket words = none → s.partOfBuckle b = some n →
      (∀ u, tileOfEp (s.messageDst (some n) words m) = some u → (s.tiles.get u).island.weltFailed = false) →
      m.generation.toNat < (s.ranges.get (rangeOf b)).generation.toNat → s.closingOf m = none →
      ∃ s', exec (.buckleArriveMsg words) s = .next s' ∧ s'.ranges = s.ranges ∧ s'.tiles = s.tiles ∧ s'.parts = s.parts ∧
        s'.audit.applied = s.audit.applied ∧ s'.audit.retired = s.audit.retired + BitVec.ofNat 64 m.count)) ∧
  (∀ (t : TileId) (words : List Word64) (s : State) (e : Seat), s.seat t = some e →
    let m := buckleOfWords words
    let c : CtxId := Fin.ofNat 4 m.list
    words.length = 4 → crcOk words 3 = true → m.kind = 4 →
    BitVec.ofNat 32 (bits (wordAt words 3) 31 0) = (Assoc.get (s.satisfySource e.part words, epTile t) s.fabric.buckleSeqIn).getD 0 →
    m.generation = (s.ranges.get (rangeOf m.buckle)).generation → m.source = e.logical → ((s.tiles.get t).seqr.ctxs.get c).pos = m.cmd →
    ((s.tiles.get t).seqr.ctxs.get c).arrwaitSent = true → s.live t c = true →
    ∃ s', exec (.buckleSatisfyMsg t words) s = .next s' ∧ IssueFrame t s s' ∧ Issued t c s s' ∧ SameData t s s') ∧
  (∀ (s : State),
    (∀ n : PartId,
      let all := (s.parts.get n).closing
      let cs := all.filter fun c => c.opened == (all.head?.map (·.opened)).getD 0
      ∃ s', exec (.closingWindowExpiry n) s = .next s' ∧
        s'.audit.checks = s.audit.checks + BitVec.ofNat 64 cs.length ∧
        s'.audit.closingPassed = s.audit.closingPassed + BitVec.ofNat 64 (cs.filter fun c => c.count == c.total).length ∧
        s'.audit.broken = s.audit.broken + BitVec.ofNat 32 (cs.filter fun c => c.count != c.total).length ∧
        ((∀ c ∈ cs, c.count = c.total) → OnlyPart n { s with audit := s'.audit } s' ∧
          s'.parts.get n = { s.parts.get n with closing := all.filter fun c => c.opened != (all.head?.map (·.opened)).getD 0 })) ∧
    (∀ b : BitVec 16,
      let v := (Assoc.get (b.toNat % 4096) (s.ranges.get (rangeOf b.toNat)).counters).getD (0, 0)
      let total := ((s.partOfBuckle b.toNat).map fun n => (s.parts.get n).totalOf b.toNat).getD 0
      ∃ s' home, exec (.buckleProbe b) s = .next s' ∧ s' = { s with audit := { s.audit with
          probe := b, probeResult := wordsBytes [v.1, v.2.setWidth 64, mkWord [at_ 32 home, at_ 0 total]] } } ∧
        (∀ n t, s.partOfBuckle b.toNat = some n → (s.parts.get n).homeOf b.toNat = some (.welt t) → home = t.1))) ∧
  (∀ (s : State),
    (∀ (h : Hop) (balance received depth ok : Nat), s.account h = some (depth, ok) →
      ∃ s', exec (.auditMarker h balance received) s = .next s' ∧ s'.audit.checks = s.audit.checks + 1 ∧
        s'.audit.broken = s.audit.broken +
          (if (balance + ok + hopModulus h - received % hopModulus h) % hopModulus h = depth % hopModulus h then 0 else 1)) ∧
    (s.module.state ≠ .off → s.module.state ≠ .booting →
      ∃ s', exec .auditPeriod s = .next s' ∧ s' = { s with ports := s'.ports, audit := s'.audit } ∧
        s'.audit = { s.audit with markers := s.audit.markers ++ s.waferMarkers } ∧
        ∀ h, h ∈ s.hopsUp → onWafer h = true → (h, s.senderEnd h) ∈ s'.audit.markers) ∧
    (let a := s.sendMarkers false
     (∀ z ∈ a.pools, z.2.2.2 = z.2.2.1) → (∀ c, a.escapeSum c = 16384) → a.overdrawn = [] →
      ∃ s', exec (.auditNow 1) s = .next s' ∧ s' = { s with ports := s'.ports, audit := s'.audit } ∧
        s'.audit = { s.audit with
          markers := s.audit.markers ++ s.waferMarkers
          checks := s.audit.checks + BitVec.ofNat 64 (a.pools.length + 192) }) ∧
    (∀ v : BitVec 8, v ≠ 1 → exec (.auditNow v) s = .next s))

/-! ### The fabric -/

/-- A sound head flit at a router input is routed to its output, or held while a failed welt is in its way, and its packet keeps its place among the others; one whose stream is in
spill mode at the input is not routed; a header that fails its checks and a flit that cannot be corrected consume the packet (R283, R291, R293, R299).

What an output takes at a slot (R286 to R288): a flit that is routed there, at the front of its input, with what it needs at the output, while no other packet of its VC and
pool is under way there; VC3 takes its one slot in 50, and otherwise no waiting flit is of a lower class. The flit frees its slot, spends a credit and stands in the next
buffer.

A history entry that has been idle is dropped, and the class of a head that holds credit and loses its output falls by one, down to 0, as does that of a starved queue of a Vilet
port (R284, R289, R317).

A silent neighbour's link is closed and its welt handled as failed; at an input, a packet whose head has gone there is discarded, a truncation tail ends one that comes from there
unfinished, and a head routed there is held; the alternate set, once in force, frees held heads to be routed again (R285, R292, R293).

The model's own choices under it: log entries 18 and 60. -/
def Obligations.RoutersMoveAgeAndRouteAround : Prop :=
  (∀ (t : TileId) (port : RPort) (pool : BitVec 2) (p q : Packet) (hop : NextHop) (errors : List Nat) (e : BufEntry) (s : State),
    (s.tiles.get t).island.weltFailed = false → (s.tiles.get t).router.headAt port pool.toNat p = some e → e.packet = p → e.out = none → 0 < e.got →
    (uncorrectable errors = false → pktCrcOk p = true → pktKindOk p = true →
      ((s.tiles.get t).router.spilling.contains (port, streamKey p) = false ∨ e.feed = .escape) → s.nextHop t p = (q, hop) →
      ∃ s', exec (.headFlitRoute t port pool p errors) s = .next s' ∧ s'.parts = s.parts ∧ SameData t s s' ∧
        (∀ x, x ≠ t → s'.tiles.get x = s.tiles.get x) ∧
        (s'.tiles.get t).router.bufs.length = (s.tiles.get t).router.bufs.length ∧
        (match hop with
          | .here => { e with packet := q, out := some localPort, held := false }
          | .edge o _ => { e with packet := q, out := some o, held := false }
          | .mesh o _ => { e with packet := q, out := some o, held := false }
          | .wait => { e with packet := q, held := true }) ∈ (s'.tiles.get t).router.bufs) ∧
    (uncorrectable errors = true →
      ∃ s', exec (.headFlitRoute t port pool p errors) s = .next s' ∧ s'.fabric.uncorrectable = s.fabric.uncorrectable + 1) ∧
    (uncorrectable errors = false → (pktCrcOk p = false ∨ pktKindOk p = false) →
      ∃ s', exec (.headFlitRoute t port pool p errors) s = .next s' ∧ s'.fabric.headerFaults = s.fabric.headerFaults + 1)) ∧
  (∀ (t : TileId) (o : RPort) (s : State) (e : BufEntry), s.pick t o = some e →
    let r := (s.tiles.get t).router
    (e ∈ r.bufs ∧ e.out = some o ∧ e.sent < e.got ∧ r.front e = true ∧ s.hasCredit t o e = true ∧
      (∀ f ∈ r.bufs, f ≠ e → f.out = some o → f.vc = e.vc → poolOf f.packet = poolOf e.packet → f.drop = false → f.sent = 0) ∧
      (if 49 ≤ r.sinceVc3.get o ∧ ∃ f ∈ s.candidates t o, f.vc = 3 then e.vc = 3 else ∀ f ∈ s.candidates t o, e.cls ≤ f.cls)) ∧
    (∀ u, neighbour t o = some u → o ≠ localPort →
      let s' := s.passFlit t o e
      (s'.tiles.get t).router.flits = r.flits + 1 ∧
      (s'.tiles.get t).router.credits t o e.vc (poolOf e.packet) = r.credits t o e.vc (poolOf e.packet) - 1 ∧
      (e.sent = 0 → e.flits = 1 → e.cut = false → (s'.tiles.get u).router.bufs =
        (s.tiles.get u).router.bufs ++ [newEntry (facing o) e.vc (poolOf e.packet) e.packet .link 1]) ∧
      s'.parts = s.parts ∧ s'.fabric = s.fabric ∧ SameData t s s' ∧ ∀ x, x ≠ t → x ≠ u → s'.tiles.get x = s.tiles.get x)) ∧
  (∀ (s : State),
    (∀ (dest src : BitVec 10) (flow : BitVec 6) (vc : VcId),
      ∃ s', exec (.historyEntryExpiry dest src flow vc) s = .next s' ∧ s' = { s with fabric := { s.fabric with history := s'.fabric.history } } ∧
        Assoc.get (dest.toNat, src.toNat, flow.toNat, vc.1) s'.fabric.history = none ∧
        ∀ k, k ≠ (dest.toNat, src.toNat, flow.toNat, vc.1) → Assoc.get k s'.fabric.history = Assoc.get k s.fabric.history) ∧
    (∀ (t : TileId) (port : RPort) (vc : VcId) (pool : BitVec 2) (e : BufEntry), s.starving t port vc.1 pool.toNat = some e → 0 < e.cls →
      ∃ s', exec (.agingWaitExpiry (.router t port pool) vc) s = .next s' ∧ OnlyTile t s s' ∧ SameData t s s' ∧
        (s'.tiles.get t).router.bufs = (s.tiles.get t).router.bufs.map (fun k => if k = e then { e with cls := e.cls - 1 } else k) ∧
        (s'.tiles.get t).router.classRaises = (s.tiles.get t).router.classRaises + 1) ∧
    (∀ (t : TileId) (port : RPort) (vc : VcId) (pool : BitVec 2), s.starving t port vc.1 pool.toNat = none →
      exec (.agingWaitExpiry (.router t port pool) vc) s = .next s) ∧
    (∀ (p : PortId) (vc : VcId) (src : Fin 3), (s.ports.get p).classes.get (sourceAt vc src.1) ≠ 0 → (s.ports.get p).starves vc src.1 = true →
      ∃ s', exec (.agingWaitExpiry (.vilet p src) vc) s = .next s' ∧ OnlyPort p s s' ∧
        (∀ i, (s'.ports.get p).classes.get i = (s.ports.get p).classes.get i - (if i = sourceAt vc src.1 then 1 else 0)) ∧
        (s'.ports.get p).classRaises = (s.ports.get p).classRaises + 1 ∧ (s'.ports.get p).outQueue = (s.ports.get p).outQueue) ∧
    (∀ (p : PortId) (vc : VcId) (src : Fin 3), (s.ports.get p).starves vc src.1 = false → exec (.agingWaitExpiry (.vilet p src) vc) s = .next s)) ∧
  (∀ (s : State),
    (∀ (t u : TileId) (port : RPort), neighbour t port = some u → (s.tiles.get t).router.up port = true →
      (s.tiles.get t).island.weltFailed = false →
      ∃ s', exec (.neighbourSilent t port) s = .next s' ∧ (s'.tiles.get t).router.up port = false ∧ (s'.tiles.get u).island.weltFailed = true) ∧
    (∀ (x : Tile) (e : BufEntry) (port : RPort), x.router.bufs = [e] →
      (e.out = some port → 0 < e.sent → e.flits ≤ e.got → (x.loseSide port).router.bufs = []) ∧
      ((e.out ≠ some port ∨ e.sent = 0) → e.port = port → e.got < e.flits → e.drop = false → ∃ f, (x.loseSide port).router.bufs = [f] ∧
        f.cut = true ∧ f.packet = e.packet ∧ f.got = e.got + 1 ∧ f.flits = e.got + 1) ∧
      (e.out = some port → e.sent = 0 → (e.port ≠ port ∨ e.flits ≤ e.got) → (x.loseSide port).router.bufs = [{ e with out := none, held := true }])) ∧
    (s.fabric.alternates = false →
      ∃ s', exec .alternateSetInForce s = .next s' ∧ s'.fabric.alternates = true ∧
        ((∀ n, ({ s with fabric := { s.fabric with alternates := true }, tiles := s.tiles.map fun x => { x with
              router := { x.router with bufs := x.router.bufs.map fun e => { e with held := false } } } } : State).cutOff n = []) →
          ∀ t, (s'.tiles.get t).router.bufs = (s.tiles.get t).router.bufs.map fun e => { e with held := false })))

/-- The stall watchdog (R297): an output without credit that a head waits on launches a probe that has met the oldest packet waiting there; a welt or an edge die without a stuck head
drops a probe, and one with a stuck head takes its oldest packet into account.

A probe that returns has found a cycle: it is counted and a spill order for the oldest stream goes around it; a blocked packet of the stream goes to an escape
slot, whose base die stores it; the welt reads it back, none earlier than 1 µs after the spill, and puts it into the input that it left when that has room (R297 to R299).

The model's own choices under it: log entries 18 and 60. -/
def Obligations.StuckCyclesAreFoundAndBroken : Prop :=
  (∀ (s : State),
    (∀ (t : TileId) (port : RPort) (vc : VcId) (pool : BitVec 2),
      ((s.tiles.get t).noCredit t port vc pool.toNat = false → exec (.stuckOutput t port vc pool) s = .next s) ∧
      (∀ p, (s.tiles.get t).noCredit t port vc pool.toNat = true →
        oldest s.time (((s.tiles.get t).router.blockedOn port vc.1 pool.toNat).map fun e => e.probe (epWelt t)) = some p →
        ∃ s', exec (.stuckOutput t port vc pool) s = .next s' ∧ OnlyTile t s s' ∧ SameData t s s' ∧
          (s'.tiles.get t).router.stuck.contains (port, vc.1, pool.toNat) = true ∧ (s'.tiles.get t).router.bufs = (s.tiles.get t).router.bufs ∧
          (s'.tiles.get t).router.probe = (if (s.tiles.get t).router.probe.isSome then (s.tiles.get t).router.probe else some p))) ∧
    (∀ (t origin : TileId) (port : RPort) (p : Probe), (s.tiles.get origin).router.probe = some p → t ≠ origin →
      let goes := (s.tiles.get t).router.anyStuck && !((s.tiles.get t).router.probe.isSome && decide (t.1 < origin.1))
      (goes = false →
        ∃ s', exec (.stuckProbe (.welt t port) origin) s = .next s' ∧ OnlyTile origin s s' ∧ (s'.tiles.get origin).router.probe = none) ∧
      (goes = true →
        ∃ s' q, exec (.stuckProbe (.welt t port) origin) s = .next s' ∧ OnlyTile origin s s' ∧ (s'.tiles.get origin).router.probe = some q ∧
          (q = p ∨ q ∈ ((s.tiles.get t).router.stuckAt port).map fun e => e.probe (epWelt t)))) ∧
    (∀ (t origin : TileId) (port : RPort) (ep : Nat) (p : Probe), (s.tiles.get origin).router.probe = some p → edgeAt t = some (port, ep) →
      (s.stuckDie t port ep = [] →
        ∃ s', exec (.stuckProbe (.die t) origin) s = .next s' ∧ OnlyTile origin s s' ∧ (s'.tiles.get origin).router.probe = none) ∧
      (s.stuckDie t port ep ≠ [] →
        ∃ s' q, exec (.stuckProbe (.die t) origin) s = .next s' ∧ OnlyTile origin s s' ∧ (s'.tiles.get origin).router.probe = some q ∧
          (q = p ∨ q ∈ (s.stuckDie t port ep).map fun e => e.probe ep)))) ∧
  (∀ (s : State),
    (∀ (t : TileId) (p : Probe), (s.tiles.get t).router.probe = some p →
      ∃ s', exec (.probeReturn t) s = .next s' ∧ (s'.tiles.get t).router.probe = none ∧ s'.fabric.cyclesBroken = s.fabric.cyclesBroken + 1 ∧
        Assoc.get t.1 s'.fabric.spillOrders = some p.key) ∧
    (∀ (t origin : TileId) (k : StreamKey) (e : BufEntry) (j slot : Nat) (c : SliceId), Assoc.get origin.1 s.fabric.spillOrders = some k →
      (s.tiles.get t).blockedStream t k = [e] → s.escapeSlot (pktPart e.packet) = some (j, c, slot) →
      ∃ s', exec (.spillOrder t origin) s = .next s' ∧ s'.fabric.spilled = s.fabric.spilled + 1 ∧
        s'.fabric.escape = s.fabric.escape ++ [⟨t, e.port, e.pool, c, slot, s.fabric.spillOrder, e.packet, false, false, s.time⟩] ∧
        (s'.tiles.get t).router.spilling.contains (e.port, streamKey e.packet) = true ∧
        (e.flits ≤ e.got → (s'.tiles.get t).router.bufs = (s.tiles.get t).router.bufs.erase e)) ∧
    (∀ (slice : SliceId) (p : Packet), pktKind p = 0x0C → escapeOffset 0 ≤ bits p.w1.toNat 33 0 →
      ∃ s', exec (.escapeSpill slice p) s = .next s' ∧ s' = { s with fabric := s'.fabric } ∧
        s'.fabric.escape = s.fabric.escape.map fun e =>
          if e.slice = slice ∧ e.slot = (bits p.w1.toNat 33 0 - escapeOffset 0) / 4096 then { e with stored := true } else e) ∧
    (∀ (t : TileId) (z : Spilled), (s.fabric.escape.filter fun e => e.welt == t && (e.stored || e.back)) = [z] → z.stored = true →
      (z.back = true → s.roomFor z = true →
        ∃ s', exec (.reinjection t) s = .next s' ∧ s'.fabric.escape = s.fabric.escape.erase z ∧ s'.fabric.reinjected = s.fabric.reinjected + 1 ∧
          (∃ f ∈ (s'.tiles.get t).router.bufs, f.packet = z.packet ∧ f.port = z.port ∧ f.out = none) ∧ SameData t s s') ∧
      (z.back = false → z.at_ + 1000 ≤ s.time → pktFlits z.packet ≤ 128 →
        ∃ s', exec (.reinjection t) s = .next s' ∧ s'.fabric.reinjected = s.fabric.reinjected + (if s.roomFor z then 1 else 0) ∧ SameData t s s') ∧
      (z.back = false → s.time < z.at_ + 1000 → exec (.reinjection t) s = .next s)))

/-! ### The Vilet ports -/

/-- A NAK acknowledges the flits up to its number and makes the sender replay the rest; without an acknowledge within the replay timeout everything after the last
one is replayed in order (R314). A NAK that is still outstanding leaves again with the next flit (R313).

VILET_FLIT_RECEIVE (R313, R316, R318): the flit with the expected number is accepted; an undecoded frame, a header that fails its CRC, a reserved type and a number
that is neither expected nor a duplicate's are discarded and set NAK; a duplicate is dropped, and an idle flit is used for its acknowledge and credit fields alone.

The model's own choices under it: log entry 19. -/
def Obligations.FlitsAreAcceptedAndReplayed : Prop :=
  (∀ (p : PortId) (s : State), (s.ports.get p).carries = true →
    let x := s.ports.get p
    (∀ (ack : BitVec 16) (i : Nat), x.replayBuf.findIdx? (fun f => f.seq == ack.toNat) = some i → i + 1 < x.replayBuf.length →
      ∃ s', exec (.nakReceive p ack) s = .next s' ∧ (s'.ports.get p).replays = x.replays + 1 ∧
        (s'.ports.get p).replayed = x.replayed + BitVec.ofNat 64 (x.replayBuf.length - (i + 1)) ∧ (s'.ports.get p).lastAck = ack.toNat ∧
        x.replayBuf.drop (i + 1) <+: (s'.ports.get p).replayBuf ∧ s'.parts = s.parts ∧ ∀ q, q ≠ p → s'.ports.get q = s.ports.get q) ∧
    (x.replayBuf ≠ [] →
      ∃ s', exec (.replayTimeout p) s = .next s' ∧ s'.parts = s.parts ∧ (∀ q, q ≠ p → s'.ports.get q = s.ports.get q) ∧
        (s'.ports.get p).lineOut.map (·.payload) = x.replayBuf.getLast?.map (·.payload) ∧
        s'.ports.get p = { x with
          replays := x.replays + 1, replayed := x.replayed + BitVec.ofNat 64 x.replayBuf.length, replaysInRow := x.replaysInRow + 1
          lineOut := (s'.ports.get p).lineOut, nakDue := false
          creditTurn := (s'.ports.get p).creditTurn, creditSent := (s'.ports.get p).creditSent }) ∧
    (x.nak = true →
      ∃ s', exec (.nakRepeatTimeout p) s = .next s' ∧ OnlyPort p s s' ∧ (s'.ports.get p).nak = true ∧ (s'.ports.get p).nakDue = false ∧
        (s'.ports.get p).rxSeq = x.rxSeq)) ∧
  (∀ (p : PortId) (f : ViletFlit) (s : State), (s.ports.get p).carries = true →
    let x := s.ports.get p
    let type := bits f.w0.toNat 63 60
    let behind := (x.rxSeq + 65536 - bits f.w0.toNat 15 0) % 65536
    (f.decoded = false → ∃ s', exec (.viletFlitReceive p f) s = .next s' ∧ OnlyPort p s s' ∧ (s'.ports.get p).nak = true ∧
      (s'.ports.get p).uncorrectable = x.uncorrectable + 1 ∧ (s'.ports.get p).rxSeq = x.rxSeq) ∧
    (f.decoded = true → viletHeaderOk f = false → ∃ s', exec (.viletFlitReceive p f) s = .next s' ∧ OnlyPort p s s' ∧ (s'.ports.get p).nak = true ∧
      (s'.ports.get p).headerFails = x.headerFails + 1 ∧ (s'.ports.get p).rxSeq = x.rxSeq) ∧
    (f.decoded = true → viletHeaderOk f = true →
      (3 < type ∨ (1 ≤ type ∧ 4096 < behind) → ∃ s', exec (.viletFlitReceive p f) s = .next s' ∧ OnlyPort p s s' ∧ (s'.ports.get p).nak = true ∧
        (s'.ports.get p).rxSeq = x.rxSeq ∧ (s'.ports.get p).accepted = x.accepted) ∧
      (type = 0 → ∃ s', exec (.viletFlitReceive p f) s = .next s' ∧ OnlyPort p s s' ∧ (s'.ports.get p).nak = x.nak ∧
        (s'.ports.get p).rxSeq = x.rxSeq ∧ (s'.ports.get p).accepted = x.accepted ∧ (s'.ports.get p).rxHeld = x.rxHeld) ∧
      (1 ≤ type → type ≤ 3 → behind = 0 → ∃ s', exec (.viletFlitReceive p f) s = .next s' ∧ (s'.ports.get p).rxSeq = (x.rxSeq + 1) % 65536 ∧
        (s'.ports.get p).accepted = x.accepted + 1 ∧ (s'.ports.get p).nak = false) ∧
      (1 ≤ type → type ≤ 3 → behind ≠ 0 → behind ≤ 4096 → ∃ s', exec (.viletFlitReceive p f) s = .next s' ∧ OnlyPort p s s' ∧
        (s'.ports.get p).rxSeq = x.rxSeq ∧ (s'.ports.get p).accepted = x.accepted ∧ (s'.ports.get p).nak = x.nak ∧
        (s'.ports.get p).rxHeld = x.rxHeld ∧ (s'.ports.get p).returned = x.returned)))

/-- A port that loses its link goes Down and is counted as lost: after the down timeout, at the loss of every lane, at an overcurrent of its supply and at the
drain limit, after which it trains again, and at the end of its cable's presence (R320, R321, R575, R576). A port in training goes Down uncounted.

Retrains (R320): on a notice a port stops carrying flits and only relocks; a relock, by a trigger or a port command, ends Up in the present mode, else in mode 3 or 4
at the same rate where it is permitted and passes, else the port stays Retraining, where it relocks again.

The model's own choices under it: log entry 19. -/
def Obligations.LostPortsGoDownAndRetrain : Prop :=
  (∀ (p : PortId) (s : State),
    ((s.ports.get p).state = .retraining →
      ∃ s', exec (.downTimeout p) s = .next s' ∧ (s'.ports.get p).state = .down ∧ s'.links.lost = s.links.lost + 1) ∧
    ((s.ports.get p).state = .up ∨ (s.ports.get p).state = .draining ∨ (s.ports.get p).state = .retraining →
      (∃ s', exec (.laneSignalLoss p) s = .next s' ∧ (s'.ports.get p).state = .down ∧ s'.links.lost = s.links.lost + 1) ∧
      ((s.ports.get p).vaux = true →
        ∃ s', exec (.vauxOvercurrent p) s = .next s' ∧ (s'.ports.get p).state = .down ∧ (s'.ports.get p).vaux = false ∧
          s'.links.lost = s.links.lost + 1) ∧
      (∀ identity, s.module.state ≠ .off → s.module.state ≠ .booting → (s.ports.get p).present = true →
        ∃ s', exec (.cablePresence p false identity) s = .next s' ∧ (s'.ports.get p).state = .down ∧ (s'.ports.get p).present = false ∧
          (s'.ports.get p).matched = false ∧ (s'.ports.get p).identity = List.replicate 32 0xFF ∧ s'.links.lost = s.links.lost + 1)) ∧
    ((s.ports.get p).state = .training →
      ∃ s', exec (.laneSignalLoss p) s = .next s' ∧ OnlyPort p s s' ∧ (s'.ports.get p).state = .down) ∧
    ((s.ports.get p).state = .draining →
      ∃ s', exec (.viletDrainLimit p) s = .next s' ∧ s'.links.lost = s.links.lost + 1 ∧
        (s'.ports.get p).state = (if (s'.ports.get p).present then .training else .down))) ∧
  (∀ (p : PortId) (s : State),
    let x := s.ports.get p
    let relocked := fun (s' : State) (passing : BitVec 16) =>
      (s'.ports.get p).passing = passing ∧
      (modePasses x.mode passing = true → (s'.ports.get p).state = .up ∧ (s'.ports.get p).mode = x.mode ∧ (s'.ports.get p).replaysInRow = 0) ∧
      (modePasses x.mode passing = false → x.mode = 2 ∨ ([3, 4].find? fun m => bitAt x.permitted.toNat m && modePasses m passing) = none →
        (s'.ports.get p).state = .retraining ∧ (s'.ports.get p).mode = x.mode) ∧
      (modePasses x.mode passing = false → x.mode ≠ 2 → ∀ m, ([3, 4].find? fun m => bitAt x.permitted.toNat m && modePasses m passing) = some m →
        (s'.ports.get p).state = .up ∧ (s'.ports.get p).mode = m)
    (∀ trigger : BitVec 8, x.carries = true → 1 ≤ trigger.toNat → trigger.toNat ≤ 3 →
      ∃ s', exec (.retrainNotice p trigger) s = .next s' ∧ OnlyPort p s s' ∧ (s'.ports.get p).state = .retraining ∧
        (s'.ports.get p).retrains = x.retrains + 1 ∧ (s'.ports.get p).replayBuf = x.replayBuf) ∧
    (∀ passing : BitVec 16, x.drainSent = false → x.disableAfter = false →
      (x.state = .up →
        (∃ s', exec (.portRetrain p passing) s = .next s' ∧ (s'.ports.get p).retrains = x.retrains + 1 ∧ relocked s' passing) ∧
        (∀ cause : RetrainCause, (cause = .replayLimit → s.links.retrainLimit.toNat ≤ x.replaysInRow) →
          ∃ s', exec (.retrain p cause passing) s = .next s' ∧ (s'.ports.get p).retrains = x.retrains + 1 ∧ relocked s' passing)) ∧
      (x.state = .retraining →
        (∃ s', exec (.portRetrain p passing) s = .next s' ∧ (s'.ports.get p).retrains = x.retrains ∧ relocked s' passing) ∧
        ∀ cause : RetrainCause, ∃ s', exec (.retrain p cause passing) s = .next s' ∧ (s'.ports.get p).retrains = x.retrains ∧ relocked s' passing)))

/-- Cables, training and port commands (R306 to R308, R320, R321, R325, R576): a cable that is plugged in starts training; an attempt that takes frame lock, finds a
mode that both ends pass and permit and has a round trip within the mode's limit ends Up with full credits, and its identity flit leaves; one that finds no mode at the
full rate is followed by a half-rate attempt; any other ends Down. A Down port tries again; a port is enabled for training and, drained first where it carries flits,
disabled.

The model's own choices under it: log entry 19. -/
def Obligations.PortsTrainAndAreDisabled : Prop :=
  ∀ (p : PortId) (s : State),
    let x := s.ports.get p
    (∀ identity, s.module.state ≠ .off → s.module.state ≠ .booting → x.present = false →
      ∃ s', exec (.cablePresence p true identity) s = .next s' ∧ OnlyPort p s s' ∧
        s'.ports.get p = (let y := { x with present := true, vaux := true, identity := cableIdentity identity }
          if x.state = .down then { y with state := .training, probeMax := 0, echoes := 0 } else y)) ∧
    (∀ r : TrainingResult, x.state = .training → x.present = true → r.halfRate = x.halfNext → (s.linkDies.get (linkOf p)).failed = false →
      (s.linkDies.get (linkOf p)).clockStopped = false →
      let mode := chooseMode r x
      ∃ s', exec (.trainingAttempt p r) s = .next s' ∧ OnlyPort p s s' ∧ (s'.ports.get p).passing = r.passing ∧
        (if r.locked = true ∧ mode ≠ 0 ∧ x.probeMax ≤ (if mode = 1 then 1250 else 2500) ∧ 64 ≤ x.echoes then
          (s'.ports.get p).state = .up ∧ (s'.ports.get p).mode = mode ∧ (s'.ports.get p).roundTrip = BitVec.ofNat 32 x.probeMax ∧
          (s'.ports.get p).txSeq = 1 ∧ (s'.ports.get p).rxSeq = 0 ∧
          (s'.ports.get p).replayBuf.map (·.payload.take 1) = [[1]] ∧ ∀ v : VcId, (s'.ports.get p).credits.get v = viletDepth v.1
         else if r.locked = true ∧ mode = 0 ∧ r.halfRate = false then (s'.ports.get p).state = .training ∧ (s'.ports.get p).halfNext = true
         else (s'.ports.get p).state = .down ∧ (s'.ports.get p).mode = 0)) ∧
    (x.state = .down → x.present = true →
      ∃ s', exec (.trainingRetryTimer p) s = .next s' ∧ OnlyPort p s s' ∧
        s'.ports.get p = { x with state := .training, halfNext := false, probeMax := 0, echoes := 0 }) ∧
    (x.state = .disabled →
      ∃ s', exec (.portEnable p) s = .next s' ∧ OnlyPort p s s' ∧
        s'.ports.get p = if x.present then { x with state := .training, halfNext := false, probeMax := 0, echoes := 0 }
          else { x with state := .down, halfNext := false }) ∧
    (x.state = .down ∨ x.state = .training →
      ∃ s', exec (.portDisable p) s = .next s' ∧ OnlyPort p s s' ∧ (s'.ports.get p).state = .disabled ∧ (s'.ports.get p).mode = 0) ∧
    (x.state = .up → x.drainSent = false → x.drainDoneGot = false →
      ∃ s', exec (.portDisable p) s = .next s' ∧ OnlyPort p s s' ∧ (s'.ports.get p).state = .draining ∧ (s'.ports.get p).disableAfter = true ∧
        (s'.ports.get p).drainSent = true) ∧
    (x.state = .draining ∨ x.state = .retraining →
      ∃ s', exec (.portDisable p) s = .next s' ∧ OnlyPort p s s' ∧ s'.ports.get p = { x with disableAfter := true })

/-- Port-control commands (R306 to R308, R310, R321): an identity is kept, and in training the attempt's 64 probes leave after it; a drain request starts a drain, which
ends once both ends are done; a probe's echo is the next flit to leave, and an echo gives the round trip since its probe.

The error ratio of a lane is kept, a member's port table is kept for the cut assignment of a partition that is not yet Loaded, and a match is confirmed only for a
port that is bound; a port whose ends do not match is assigned to no cut (R227, R238, R324).

The model's own choices under it: log entries 19 and 54. -/
def Obligations.PortControlTablesAndAlarms : Prop :=
  (∀ (p : PortId) (s : State),
    let x := s.ports.get p
    (∀ fields : List Byte, x.carries = true ∨ x.state = .training → 18 ≤ fields.length →
      ∃ s', exec (.identity p fields) s = .next s' ∧ OnlyPort p s s' ∧ (s'.ports.get p).peer = fields.take 14 ++ [0, 0] ∧
        (s'.ports.get p).peerPermitted = fields.getD 14 0 ∧ (s'.ports.get p).peerPassing = BitVec.ofNat 16 (field fields 16 2) ∧
        (x.state = .training → x.outQueue = [] → x.replayBuf.length + 64 ≤ 4096 → x.txSeq < 65536 →
          (s'.ports.get p).probeMax = 0 ∧ (s'.ports.get p).echoes = 0 ∧ (s'.ports.get p).outQueue = [] ∧
          (s'.ports.get p).replayBuf = x.replayBuf ++
            (List.range 64).map fun i => { controlFlit 4 (leBytes 8 s.time) with seq := (x.txSeq + i) % 65536 })) ∧
    (x.state = .up → x.drainSent = false → x.drainDoneGot = false →
      ∃ s', exec (.drainRequest p) s = .next s' ∧ OnlyPort p s s' ∧ (s'.ports.get p).state = .draining ∧ (s'.ports.get p).drainSent = true) ∧
    (x.state = .draining →
      (x.drainDoneSent = true → ∃ s', exec (.drainDone p) s = .next s' ∧ OnlyPort p s s' ∧
        (s'.ports.get p).state = (if x.disableAfter then .disabled else .up) ∧ (s'.ports.get p).drainSent = false) ∧
      (x.drainDoneSent = false → x.drainSent = false → ∃ s', exec (.drainDone p) s = .next s' ∧ OnlyPort p s s' ∧
        (s'.ports.get p).state = .draining ∧ (s'.ports.get p).drainDoneGot = true)) ∧
    (∀ stamp : Word64, x.carries = true ∨ x.state = .training →
      (∃ s', exec (.probe p stamp) s = .next s' ∧ OnlyPort p s s' ∧
          x.replayBuf ++ [{ controlFlit 5 (leBytes 8 stamp.toNat) with seq := x.txSeq }] <+: (s'.ports.get p).replayBuf) ∧
      (∃ s', exec (.echo p stamp) s = .next s' ∧ OnlyPort p s s' ∧
        s'.ports.get p = { x with probeMax := max x.probeMax (s.time - stamp.toNat), echoes := x.echoes + 1 }))) ∧
  (∀ (s : State),
    (∀ (p : PortId) (lane : Fin 16) (ratio : Word32),
      ∃ s', exec (.laneErrorRatioAlarm p lane ratio) s = .next s' ∧ (s'.ports.get p).errorRatio = ratio ∧ s'.parts = s.parts ∧
        (ratio.toNat ≤ s.links.errorAlarm.toNat → OnlyPort p s s')) ∧
    (∀ (n : PartId) (member : BitVec 16) (table : List Byte), (s.parts.get n).state ≠ .free → (s.parts.get n).state ≠ .loaded → 264 ≤ table.length →
      member.toNat < (s.parts.get n).settings.modules.toNat → member ≠ (s.parts.get n).settings.logical →
      ∃ s', exec (.portTable n member table) s = .next s' ∧ OnlyPart n s s' ∧ Assoc.get member.toNat (s'.parts.get n).place.tables = some table ∧
        ∀ m, m ≠ member.toNat → Assoc.get m (s'.parts.get n).place.tables = Assoc.get m (s.parts.get n).place.tables) ∧
    (∀ (p : PortId) (matched : Bool), matched = true ∨ s.partOfPort p = none ∨
      (∃ n, s.partOfPort p = some n ∧ Assoc.get p (s.parts.get n).place.cuts = none) →
      ∃ s', exec (.portMatchConfirm p matched) s = .next s' ∧ OnlyPort p s s' ∧
        s'.ports.get p = { s.ports.get p with matched := matched && (s.partOfPort p).isSome }) ∧
    (∀ (p : PortId) (n : PartId), s.partOfPort p = some n → (s.parts.get n).state ≠ .loaded →
      ∃ s', exec (.portMatchConfirm p false) s = .next s' ∧ (s'.ports.get p).matched = false ∧ Assoc.get p (s'.parts.get n).place.cuts = none))

/-! ### Collectives -/

/-- GRADIENT_PACKET keeps the codes of its blocks and marks them as written, and CONTRIBUTION_TRAILER the magnitudes of its blocks, while the member's contribution is
not complete (R331, R332).

The model's own choices under it: log entry 15. -/
def Obligations.ContributionsAreGathered : Prop :=
  ∀ (l : LinkId) (n : PartId) (s : State) (h : Nat) (m : Image), s.bucketSeat n h = some (s.parts.get n, m, l) →
    (∀ (p : Packet) (d : CollDecl), m.decls[bits p.w1.toNat 45 32 - 1]? = some d → bits (wordAt d.words 0) 63 32 = h → d.kind = 1 → pktKind p = 5 →
      pktPart p = n → pktDst p = epLink l → bits p.w1.toNat 47 46 = 0 → (s.parts.get n).run.running = true →
      let off := bits p.w1.toNat 31 0
      let b := (s.parts.get n).bucketOr m h
      let blocks := (List.range ((codesOf 1 p.payload).length / 32)).map (off / 32 + ·)
      let seen := b.coveredWritten ++ blocks.filter fun i => !b.coveredWritten.contains i
      (∃ i, i < m.bucketBlocks h ∧ i ∉ seen) →
      ∃ s' b', exec (.gradientPacket l n p) s = .next s' ∧ b' = (s'.parts.get n).bucketOr m h ∧ b'.coveredWritten = seen ∧ b'.full = false ∧
        b'.blocks = b.blocks.map (fun w =>
          if blocks.contains w.index && w.pass == 1 then { w with codes := cut (codesOf 1 p.payload) (32 * w.index - off) 32 } else w) ∧
        (s'.parts.get n).weights = (s.parts.get n).weights ∧ s'.fabric.inFlight.length = (s.fabric.inFlight.erase p).length + 1) ∧
    (∀ bytes : List Byte,
      let ws := bytesWords bytes
      let first := bits (wordAt ws 0) 31 0
      let pass := bits (wordAt ws 1) 63 56
      let count := bits (wordAt ws 1) 31 0
      let b := (s.parts.get n).bucketOr m h
      bits (wordAt ws 0) 63 32 = h → crcOk ws 3 = true →
      bits (wordAt ws 3) 31 0 = (s.parts.get n).ctl (0x200 + bits (wordAt ws 1) 47 32, h) → wordAt ws 2 = (s.parts.get n).run.step →
      bits (wordAt ws 1) 55 48 = (s.parts.get n).run.attempt → b.quiet →
      ∃ s', exec (.contributionTrailer n bytes) s = .next s' ∧
        ((s'.parts.get n).bucketOr m h).blocks = b.blocks.map (fun w => if first ≤ w.index ∧ w.index < first + count ∧ w.pass = pass then
          { w with
            mu := ((List.range count).map fun i => if pass = 4 then field bytes (32 + 2 * i) 2 else field bytes (32 + i) 1).getD (w.index - first) 0
            muKnown := true }
          else w) ∧
        (s'.parts.get n).weights = (s.parts.get n).weights)

/-- A segment that reaches an engine before its member's contribution is complete starts the bucket and is held; a mark list ends its pass for the chunk's blocks, and the
packet that a block was asked for again in brings its codes (R338, R340 to R342).

The model's own choices under it: log entry 15. -/
def Obligations.SegmentsWaitAndMarksEndPasses : Prop :=
  ∀ (n : PartId) (bucket : BitVec 32) (s : State) (m : Image) (l : LinkId), s.bucketSeat n bucket.toNat = some (s.parts.get n, m, l) →
    let b := (s.parts.get n).bucketOr m bucket.toNat
    (∀ (chunk : BitVec 16) (x : SegmentIn), s.heldSegments l < 4096 → x.trailer.length = 38 → crcOk x.trailer 37 = true →
      bits (wordAt x.trailer 36) 63 32 = (Assoc.get (m.bucketReverse bucket.toNat).toNat (s.parts.get n).reduce.segIn).getD 0 →
      bits (wordAt x.trailer 0) 63 32 = bucket.toNat → bits (wordAt x.trailer 0) 31 16 = chunk.toNat →
      wordAt x.trailer 2 = (s.parts.get n).run.step → bits (wordAt x.trailer 3) 63 56 = (s.parts.get n).run.attempt →
      (s.parts.get n).run.running = true → b.full = false → b.late = false → (s.parts.get n).replay.replaying = false →
      ∃ s', exec (.segmentProcess n bucket chunk (some x)) s = .next s' ∧
        ((s'.parts.get n).bucketOr m bucket.toNat).held = b.held ++ [x] ∧
        ((s'.parts.get n).bucketOr m bucket.toNat).start = some (b.start.getD s.time) ∧
        ((s'.parts.get n).bucketOr m bucket.toNat).blocks = b.blocks) ∧
    (∀ bytes : List Byte,
      let ws := bytesWords bytes
      let chunk := bits (wordAt ws 0) 31 16
      let pass := bits (wordAt ws 0) 15 8
      bits (wordAt ws 0) 63 32 = bucket.toNat → crcOk ws 3 = true → bits (wordAt ws 3) 31 0 = (s.parts.get n).ctl (chanMarkIn chunk, bucket.toNat) →
      wordAt ws 1 = (s.parts.get n).run.step → bits (wordAt ws 2) 63 56 = (s.parts.get n).run.attempt → chunk ≠ (s.parts.get n).shard → b.quiet →
      ∃ s', exec (.markList n bytes) s = .next s' ∧
        ((s'.parts.get n).bucketOr m bucket.toNat).blocks = b.blocks.map (fun w =>
          if (s.parts.get n).chunkOf m bucket.toNat w.index = chunk ∧ w.pass = pass then w.endPass (marksOf ws) pass b.late false else w) ∧
        s'.collective.carried = s.collective.carried + BitVec.ofNat 64 ((marksOf ws).filter fun k => k.increase.isNone).length ∧
        ((marksOf ws).any (fun k => k.increase.isSome) = false → chunk ∈ ((s'.parts.get n).bucketOr m bucket.toNat).chunksDone)) ∧
    (∀ (logical : BitVec 8) (block : Nat) (w : WireBlock) (k : Packet), b.block block = some w → w.asked = true →
      s.resendPacket n m l bucket.toNat w = some k → ((s.parts.get n).reduce.contributions.any fun c => c.logical == logical.toNat && c.covers bucket.toNat block) = true → b.quiet →
      ∃ s', exec (.passResend n logical bucket block) s = .next s' ∧
        ((s'.parts.get n).bucketOr m bucket.toNat).blocks = b.blocks.map (fun w =>
          if w.index = block then { w with codes := codesOf w.pass k.payload, asked := false } else w))

/-- At a tile, a pass request converts every marked block that the tile covers again, and an omission notice rewrites its residuals and is acknowledged
(R331, R340, R345).

A member whose contribution is not full at its deadline is late for the bucket, and an operation that receives nothing for the ring timeout is counted
(R342, R343, R355).

The model's own choices under it: log entry 15. -/
def Obligations.TilesRewriteAndLateMembersAreLeftOut : Prop :=
  (∀ (n : PartId) (logical : BitVec 8) (bucket : BitVec 32) (s : State) (m : Image) (l : LinkId) (t : TileId),
    s.bucketSeat n bucket.toNat = some (s.parts.get n, m, l) → s.runningTile n logical.toNat = some t →
    let b := (s.parts.get n).bucketOr m bucket.toNat
    let xs := b.resendDue (s.parts.get n).reduce.contributions logical.toNat
    (∃ s', exec (.passRequest n logical bucket) s = .next s' ∧ s'.collective.passResends = s.collective.passResends + BitVec.ofNat 64 xs.length ∧
      (∀ x ∈ xs, ((((s'.parts.get n).bucketOr m bucket.toNat).block x.1.index).map fun w => w.asked) = some true)) ∧
    (b.rewrites.contains logical.toNat = true →
      let ys := b.rewriteList (s.parts.get n).reduce.contributions logical.toNat
      ∃ s', exec (.omissionNotice n logical bucket) s = .next s' ∧
        s'.collective.rewrites = s.collective.rewrites + BitVec.ofNat 64 (32 * ys.length) ∧
        ((s'.parts.get n).bucketOr m bucket.toNat).rewrites = b.rewrites.erase logical.toNat ∧
        ((s'.parts.get n).bucketOr m bucket.toNat).rewritten = b.rewritten + 32 * ys.length)) ∧
  (∀ (n : PartId) (bucket : BitVec 32) (s : State) (m : Image) (l : LinkId), s.bucketSeat n bucket.toNat = some (s.parts.get n, m, l) →
    let b := (s.parts.get n).bucketOr m bucket.toNat
    (∀ st, b.start = some st → b.full = false → b.late = false → s.collective.late = 0 → (s.parts.get n).replay.replaying = false →
      1 < (s.parts.get n).width →
      ∃ s', exec (.bucketDeadline n bucket) s = .next s' ∧ ((s'.parts.get n).bucketOr m bucket.toNat).late = true ∧
        ((s'.parts.get n).bucketOr m bucket.toNat).deadlineAt = st + s.bucketDeadline m bucket.toNat ∧
        s'.collective.omissions = s.collective.omissions + 1) ∧
    ((s.parts.get n).waitingPass m bucket.toNat ≠ none →
      ∃ s', exec (.ringTimeout l n bucket) s = .next s' ∧ s'.collective = { s.collective with timeouts := s.collective.timeouts + 1 }))

/-- A final block's sums, scaled and divided once, go into the accumulation buffer with the tag of the step, and a node copy brings them to another member of the
node (R197, R344, R348, R349).

A gather is served to the member that asks by the Skiver that holds the group, unless that member has already finished the step; a peer's norm sums of the previous
step are kept; a permuted block goes into the alternate buffer of its destination, or to the destination's module (R24, R350, R352, R354).

The model's own choices under it: log entries 15, 17, 25 and 64. -/
def Obligations.FinalBlocksGathersAndPermutes : Prop :=
  (∀ (n : PartId) (bucket : BitVec 32) (s : State),
    (∀ (block : Nat) (m : Image) (l : LinkId) (w : WireBlock) (r : BucketRange) (d : TensorDecl), DeliveryReady s n bucket.toNat block m l w r d →
      let first := r.first + (32 * block - r.offset)
      ∃ s', exec (.accumulationDelivery n bucket block) s = .next s' ∧
        (s'.parts.get n).readAcc d.handle (4 * (first - ((s.parts.get n).part d).1))
            (4 * ((s.parts.get n).deliveredValues m d r first w).length) =
          ((s.parts.get n).deliveredValues m d r first w).flatMap (leBytes 4) ∧
        ((((s'.parts.get n).bucketOr m bucket.toNat).block block).map (·.delivered)) = some true ∧
        (s'.parts.get n).run = (s.parts.get n).run) ∧
    (∀ (bytes : List Byte) (m : Image) (l : LinkId), s.bucketSeat n bucket.toNat = some (s.parts.get n, m, l) →
      let ws := bytesWords bytes
      let block := bits (wordAt ws 0) 31 0
      let lead := (s.parts.get n).chunkOf m bucket.toNat block
      bits (wordAt ws 0) 63 32 = bucket.toNat → crcOk ws 3 = true → bits (wordAt ws 3) 31 0 = (s.parts.get n).ctl (chanCopyIn lead, bucket.toNat) →
      wordAt ws 2 = (s.parts.get n).run.step → bits (wordAt ws 1) 63 56 = (s.parts.get n).run.attempt → lead ≠ (s.parts.get n).shard →
      (s.parts.get n).holdsBlock m bucket.toNat block = true →
      ∃ s', exec (.nodeCopy n bucket bytes) s = .next s' ∧ OnlyPart n s s' ∧ ∀ w ∈ ((s'.parts.get n).bucketOr m bucket.toNat).blocks, w.index = block →
        w.fate = (if bitAt (wordAt ws 1) 47 then .carried else .final) ∧
        w.sums = (if bitAt (wordAt ws 1) 47 then [] else (words32 (slice bytes 32 128)).map (signed 32)) ∧
        w.count = bits (wordAt ws 1) 46 16 ∧ w.exponent = signed 16 (bits (wordAt ws 1) 15 0))) ∧
  (∀ (n : PartId) (s : State) (m : Image), (s.parts.get n).image = some m → (s.parts.get n).state = .loaded →
    (∀ (l : LinkId) (member : BitVec 16) (q : Packet) (ask : LinkAsk) (d : TensorDecl) (k : StackId) (port : PortId),
      let p := s.parts.get n
      let a := partAsk q
      let g := a.group - (p.part d).1 / 2048
      let depth := roundUp 32 d.k * panelWidth d.fmt
      (s.linkDies.get l).asks.find? (fun z => z.part == n && z.member == member.toNat && z.packet == q) = some ask →
      m.tensor a.handle = some d → d.kind = 1 → p.partStack m d a.group = some k → (s.stackDies.get k).power = .up →
      (p.mayServe member.toNat = false → exec (.gatherRequest l n member q) s = .next s) ∧
      (p.mayServe member.toNat = true → p.matchedPort s.ports member.toNat = some port →
        ((a.part = 0 ∧ (d.swept = false ∨ (p.tableNow d.handle).isSome = true)) ∨ (a.part ≠ 0 ∧ a.beyond d = true) ∨
          (a.part ≠ 0 ∧ p.weights.group d.handle g ≠ .updateFailed ∧ (d.swept = false ∨ (p.weights.group d.handle g).due = false))) →
        ∃ s' ans, exec (.gatherRequest l n member q) s = .next s' ∧ s'.collective.gatherServed = s.collective.gatherServed + 1 ∧
          (s'.stackDies.get k).parts = (s.stackDies.get k).parts + 1 ∧ s'.tiles = s.tiles ∧ (s'.parts.get n).weights = p.weights ∧
          (s'.linkDies.get l).asks = (s.linkDies.get l).asks.erase ask ∧ pktKind ans = 6 ∧ pktVc ans = 1 ∧
          (s.ports.get port).outQueue ++ viletFlits ans member.toNat 1 <+: (s'.ports.get port).outQueue ∧
          ans.payload = (if a.part = 0 then p.scaleArea d (2048 * a.group % depth / panelWidth d.fmt / spanDepth d.fmt) (2048 * a.group / depth) a.depth
            else if a.beyond d then List.replicate (partBytes d) 0
            else p.partData d a.group))) ∧
    (∀ (member : BitVec 16) (bytes : List Byte),
      let ws := bytesWords bytes
      let h := bits (wordAt ws 0) 63 32
      crcOk ws 3 = true → bits (wordAt ws 3) 31 0 = (s.parts.get n).ctl (chanNormIn member.toNat, h) → wordAt ws 1 + 1 = (s.parts.get n).run.step →
      ∃ s', exec (.normTrailer n member bytes) s = .next s' ∧ OnlyPart n s s' ∧
        (s'.parts.get n).reduce.trailers = ((s.parts.get n).reduce.trailers.filter fun z => !(z.1 == h && z.2.1 == member.toNat)) ++
          [(h, member.toNat, ⟨sumOfWords ws 4, sumOfWords ws 14, sumOfWords ws 24⟩)]) ∧
    (∀ (decl entry : Nat) (data : List Byte) (d : CollDecl), m.decls[decl - 1]? = some d → decl ≠ 0 → d.kind = 3 → (s.parts.get n).run.running = true →
      (s.parts.get n).run.halted = false → entry < wordAt d.words 1 → (s.parts.get n).reduce.permuted.contains (decl, entry) = false →
      let p := s.parts.get n
      let h := bits (wordAt d.words 0) 63 32
      let map := bits (wordAt d.words 0) 31 0
      let me := p.settings.logical.toNat
      let e := p.mapEntry m map entry
      p.mapSound m h map (wordAt d.words 1) = true →
      (e.2.2.1 = me → (e.1 ≠ me → data.length = 4096) →
        ∃ s', exec (.permuteBlockMove n decl entry data) s = .next s' ∧ (s'.parts.get n).reduce.permuted = p.reduce.permuted ++ [(decl, entry)] ∧
          (s'.parts.get n).weights = p.weights.writeRuns (p.movedRegions m h true) e.2.2.2
            (if e.1 = me then p.weights.readRuns (p.movedRegions m h false) e.2.1 4096 else data) (p.writeTag m)) ∧
      (e.1 = me → e.2.2.1 ≠ me →
        ∃ s', exec (.permuteBlockMove n decl entry data) s = .next s' ∧ (s'.parts.get n).reduce.permuted = p.reduce.permuted ++ [(decl, entry)] ∧
          (s'.parts.get n).weights = p.weights)))

/-! ### Scales -/

/-- SCALE_TABLE_COMPUTE gives a tensor that the module alone uses its table for the step from its rings; SCALE_FRAGMENT keeps a member's fragment of the next
step; SCALE_TABLE_RECEIVE puts a table that passes its checks into the tile (R68, R73, R335).

The model's own choices under it: log entry 15. -/
def Obligations.ScaleTablesComeFromTheRings : Prop :=
  ∀ (s : State),
    (∀ (n : PartId) (h : BitVec 32) (m : Image) (d : TensorDecl), (s.parts.get n).image = some m → (s.parts.get n).state = .loaded →
      (s.parts.get n).run.record = none → m.tensor h.toNat = some d → d.handle = h.toNat → d.scaled = true → d.kind ≠ 1 →
      (s.parts.get n).tableNow h.toNat = none →
      ((s.parts.get n).reduce.fragments.any (fun f => f.1 == (s.parts.get n).run.step && f.2.1 == h.toNat &&
        ((s.parts.get n).ownScales m h.toNat).any fun x => x.1 == f.2.2.1)) = false →
      ∃ s' k, exec (.scaleTableCompute n h) s = .next s' ∧ (s'.parts.get n).tableNow h.toNat = some k ∧
        (k.shift, k.scales) = (((s.parts.get n).slotScales m d).1, ((s.parts.get n).slotScales m d).2.map (BitVec.ofNat 8)) ∧
        k.fmt = d.fmt ∧ k.kind = d.blockKind ∧ k.headroom = d.headroom ∧ k.seq = (s.parts.get n).nextTableSeq h.toNat ∧
        (s'.parts.get n).weights.rings = (s.parts.get n).weights.rings ∧ ∀ q, q ≠ n → s'.parts.get q = s.parts.get q) ∧
    (∀ (n : PartId) (bytes : List Byte) (m : Image), (s.parts.get n).image = some m → (s.parts.get n).state = .loaded →
      let ws := bytesWords bytes
      crcOk ws 3 = true → bits (wordAt ws 3) 31 0 = (s.parts.get n).ctl (chanFragIn (bits (wordAt ws 1) 63 48), bits (wordAt ws 0) 63 32) →
      wordAt ws 2 = (s.parts.get n).run.step + 1 →
      ∃ s', exec (.scaleFragment n bytes) s = .next s' ∧ OnlyPart n s s' ∧ (s'.parts.get n).weights = (s.parts.get n).weights ∧
        (s'.parts.get n).reduce.fragments = (s.parts.get n).reduce.fragments ++
          [(wordAt ws 2, bits (wordAt ws 0) 63 32, bits (wordAt ws 0) 31 0, slice bytes 32 (bits (wordAt ws 1) 15 0))]) ∧
    (∀ (t : TileId) (bytes : List Byte) (e : Seat) (c : ScaleTable), s.seat t = some e → tableSound bytes = true →
      Assoc.get (tableOfBytes bytes).handle (s.parts.get e.part).weights.tables = some c → c.seq = (tableOfBytes bytes).seq →
      c.step = (tableOfBytes bytes).step →
      ∃ s', exec (.scaleTableReceive t bytes) s = .next s' ∧ OnlyTile t s s' ∧ SameData t s s' ∧
        Assoc.get (tableOfBytes bytes).handle (s'.tiles.get t).seqr.tables = some (tableOfBytes bytes) ∧
        ∀ h, h ≠ (tableOfBytes bytes).handle → Assoc.get h (s'.tiles.get t).seqr.tables = Assoc.get h (s.tiles.get t).seqr.tables)

/-! ### The step boundary -/

/-- The end of a step's computing (R214, R215, R366, R382 to R384, R457): a closed layer's table goes to the controller; the update-complete message leaves at the
boundary, a sound one is held for its sender; a Compare step that agrees may send, one that differs stops the partition, and a stop ends as it is commanded.

The model's own choices under it: log entries 14 and 72. -/
def Obligations.UpdatesCompleteAndStepsAreCompared : Prop :=
  ∀ (n : PartId) (s : State),
    let p := s.parts.get n
    (∀ (t : TileId) (layer : Nat) (e : Seat) (fs : List Fingerprint), s.seat t = some e → s.layerClosed t e layer = true →
      Assoc.get layer (s.tiles.get t).stamp.tables = some fs →
      ∃ s', exec (.layerStampTable t layer) s = .next s' ∧ s' = { s with tiles := s'.tiles, parts := s'.parts } ∧
        (∀ u, u ≠ t → s'.tiles.get u = s.tiles.get u) ∧ (s'.tiles.get t).stamp.sent = (s.tiles.get t).stamp.sent + 1 ∧
        Assoc.get layer (s'.tiles.get t).stamp.tables = none ∧ (∀ k, k ≠ e.part → s'.parts.get k = s.parts.get k) ∧
        (s'.parts.get e.part).replay.tables = (s.parts.get e.part).replay.tables ++ [(e.logical, layer, fs)]) ∧
    (∀ m, p.image = some m → p.boundary m = true → (p.replay.inForce = .compare → p.replay.compared = true) →
      ∃ s', exec (.updateCompleteSend n) s = .next s' ∧ (s'.parts.get n).run.updateSent = true ∧
        (s'.parts.get n).run.updateOut = (p.run.updateOut + 1) % 2 ^ 32 ∧ s'.tiles = s.tiles ∧ (s'.parts.get n).weights = p.weights ∧
        ∀ k, k ≠ n → s'.parts.get k = s.parts.get k) ∧
    (∀ words : List Word64, p.state = .loaded → words.length = 4 → crcOk words 3 = true → zeroField words 0 39 0 = true → wordAt words 2 = 0 →
      let sender := bits (wordAt words 0) 63 48
      bits (wordAt words 3) 31 0 = (Assoc.get sender p.run.updateSeq).getD 0 → wordAt words 1 = p.run.step →
      bits (wordAt words 0) 47 40 = p.run.attempt → p.others.contains sender = true → p.run.updateIn.contains sender = false →
      ∃ s', exec (.updateCompleteReceive n words) s = .next s' ∧ OnlyPart n s s' ∧ (s'.parts.get n).run.updateIn = p.run.updateIn ++ [sender] ∧
        (s'.parts.get n).weights = p.weights) ∧
    (∀ m ref, p.image = some m → p.referenceNow = some ref → p.replay.inForce = .compare → p.replay.compared = false → p.replay.stopped = false →
      p.boundary m = true →
      ∃ s', exec (.compareStep n) s = .next s' ∧ (s'.parts.get n).weights = p.weights ∧
        (match firstDivergence ref ((s.collectTables n).buildRecord n m s.time).1 with
         | none => (s'.parts.get n).replay.compared = true ∧ (s'.parts.get n).replay.stopped = false ∧ (s'.parts.get n).run.updateSent = true
         | some d => (s'.parts.get n).replay.stopped = true ∧ (s'.parts.get n).replay.stops = p.replay.stops + 1 ∧
            (s'.parts.get n).replay.report = divergenceReport p.run.step d)) ∧
    (p.replay.stopped = true →
      (∃ s', exec (.compareContinue n) s = .next s' ∧ s'.tiles = s.tiles ∧
        (s'.parts.get n).replay.stopped = false ∧ (s'.parts.get n).replay.compared = true ∧ (s'.parts.get n).replay.setting = p.replay.setting ∧
        (∀ m, p.image = some m → p.boundary m = true → (s'.parts.get n).run.updateSent = true)) ∧
      (∃ s', exec (.compareLeave n) s = .next s' ∧ s'.tiles = s.tiles ∧
        (s'.parts.get n).replay.stopped = false ∧ (s'.parts.get n).replay.compared = true ∧ (s'.parts.get n).replay.setting = .record ∧
        (∀ m, p.image = some m → p.boundary m = true → (s'.parts.get n).run.updateSent = true)) ∧
      (p.state = .loaded → p.run.retry = none → p.run.record = none → p.run.updateSent = false → p.run.attempt + 1 ≤ s.faults.retryLimit.toNat →
        ∃ s', exec (.compareRetry n) s = .next s' ∧ (s'.parts.get n).replay.stopped = false ∧ (s'.parts.get n).run.retry = some 0x030A ∧
          (s'.parts.get n).run.retryTo = p.run.attempt + 1 ∧ s'.faults.retries = s.faults.retries + 1))

/-- The commit (R196, R214, R216): at the commit point the record of the step holds its number, its attempt and the tensors written in full; each base die of the
partition flips their current bits and acknowledges; with every acknowledgement in, the step number grows by one, at attempt 0, and every context is idle.

The model's own choices under it: log entries 15 and 34. -/
def Obligations.ACommitIsRecordedFlippedAndTaken : Prop :=
  ∀ (n : PartId) (s : State) (m : Image), (s.parts.get n).image = some m →
    let p := s.parts.get n
    (p.state = .loaded → p.run.record = none → p.allReady m = true → p.allUpdated m = true → p.allMembers = true → (p.written m).2 = [] →
      (∀ w, p.window = some w → w.closed ≠ none) → (∀ t ∈ p.place.totals, s.buckle t.1 ≤ t.2) →
      (∀ b ∈ m.buckles, ∀ w, p.homeOf (p.physBuckle b) = some (.welt w) → w ∈ p.workers ∧ (s.tiles.get w).island.weltFailed = false) →
      ∃ s', exec (.commitPoint n) s = .next s' ∧ (s'.parts.get n).run.record = some (p.run.step, p.run.attempt, (p.written m).1) ∧
        (s'.parts.get n).run.acksDue = (p.slices.map stackOf).eraseDups ∧ (s'.parts.get n).replay.events = [] ∧ (s'.parts.get n).replay.times = [] ∧ (s'.parts.get n).run.commitAt = s.time ∧
        (s'.parts.get n).run.step = p.run.step ∧ (s'.parts.get n).weights = p.weights ∧ s'.stackDies = s.stackDies) ∧
    (∀ (k : StackId) (step attempt : Nat) (hs : List Nat), p.run.record = some (step, attempt, hs) → hs.Nodup → p.run.acksDue.contains k = true →
      ∃ s', exec (.commitFlip k n) s = .next s' ∧ s' = { s with stackDies := s'.stackDies, parts := s'.parts } ∧
        (∀ j, j ≠ k → s'.stackDies.get j = s.stackDies.get j) ∧ (∀ j, j ≠ n → s'.parts.get j = s.parts.get j) ∧
        (s'.stackDies.get k).power = (s.stackDies.get k).power ∧ (s'.parts.get n).run.acksDue = p.run.acksDue.erase k ∧
        (∀ h ∈ hs, Assoc.get (n.1, h) (s'.stackDies.get k).current = some (!((Assoc.get (n.1, h) (s.stackDies.get k).current).getD false))) ∧
        (∀ x, (∀ h ∈ hs, x ≠ (n.1, h)) → Assoc.get x (s'.stackDies.get k).current = Assoc.get x (s.stackDies.get k).current)) ∧
    (∀ (step attempt : Nat) (hs : List Nat), p.run.record = some (step, attempt, hs) → hs.Nodup → p.run.acksDue = [] → p.run.retry = none →
      ∃ s', exec (.commitAcksIn n) s = .next s' ∧ s' = { s with parts := s'.parts, tiles := s'.tiles, fns := s'.fns } ∧
        (∀ j, j ≠ n → s'.parts.get j = s.parts.get j) ∧ (∀ t, t ∉ p.workers → s'.tiles.get t = s.tiles.get t) ∧
        (s'.parts.get n).run.step = p.run.step + 1 ∧ (s'.parts.get n).run.attempt = 0 ∧ (s'.parts.get n).run.record = none ∧
        (s'.parts.get n).run.committed = some p.run.step ∧ (s'.parts.get n).run.updateSent = false ∧
        (∀ h ∈ hs, (s'.parts.get n).weights.bit h = !(p.weights.bit h)) ∧ (∀ h, h ∉ hs → (s'.parts.get n).weights.bit h = p.weights.bit h) ∧
        (s'.parts.get n).weights.regions = p.weights.regions ∧
        ∀ t ∈ p.workers, ∀ c, ((s'.tiles.get t).seqr.ctxs.get c).state = .idle)

/-! ### Cinch -/

/-- An edge on CINCH_IN is timestamped to 1.25 ns, closes the open hold windows that it lies in and is ignored by the other partitions that watch; one within 40 ns of
another is filtered; Repeat mode follows the level (R391 to R395, R398).

A hold window that no edge has closed expires at its end and is counted; a write of 1 sends one test pulse in Configured with the output Idle, and otherwise is
counted as ignored (R394, R396, R398). -/
def Obligations.CinchEdgesWindowsAndPulses : Prop :=
  (∀ (s : State), s.module.state.cinchOn = true →
    (∀ (q : Word64) (high : Nat), 8 ≤ high →
      let near := (s.cinch.lastSeen.map fun x => decide (q.toNat < x + 160)).getD false
      let ts := q.toNat / 5 * 5
      let used := (allFin 16).filter fun n => s.watches n && ((s.parts.get n).window.map fun w => w.takes ts).getD false
      let unused := (allFin 16).filter fun n => s.watches n && !((s.parts.get n).window.map fun w => w.takes ts).getD false
      ∃ s', exec (.cinchEdge q high) s = .next s' ∧ s'.cinch.lastSeen = some q.toNat ∧ s'.cinch.level = true ∧
        (near = true → s'.cinch.filtered = s.cinch.filtered + 1 ∧ s'.cinch.accepted = s.cinch.accepted ∧ s'.parts = s.parts) ∧
        (near = false → s'.cinch.accepted = s.cinch.accepted + 1 ∧ s'.cinch.lastEdge = BitVec.ofNat 64 ts ∧
          s'.cinch.ignored = s.cinch.ignored + BitVec.ofNat 64 (if used.isEmpty then 1 else unused.length) ∧
          (s.cinch.outMode = 1 → s'.cinch.outLevel = true) ∧
          (∀ n ∈ used, ∀ w, (s.parts.get n).window = some w → (s'.parts.get n).window = some { w with closed := some (ts / 4, some ts) }) ∧
          (∀ n, n ∉ used → (s'.parts.get n).window = (s.parts.get n).window))) ∧
    (∃ s', exec .cinchInFall s = .next s' ∧ s' = { s with cinch := { s.cinch with
      level := false, outLevel := if s.cinch.outMode = 1 then false else s.cinch.outLevel } })) ∧
  (∀ (s : State),
    (∀ (n : PartId) (w : HoldWindow), (s.parts.get n).window = some w → w.closed = none →
      ∃ s', exec (.holdWindowExpiry n) s = .next s' ∧ s' = { s with parts := s'.parts, cinch := { s.cinch with expired := s.cinch.expired + 1 } } ∧
        (∀ k, k ≠ n → s'.parts.get k = s.parts.get k) ∧
        s'.parts.get n = { s.parts.get n with window := some { w with closed := some (w.opened + w.length, none) } }) ∧
    (exec (.cinchTestPulse 1) s = .next { s with cinch :=
      if s.module.state = .configured ∧ s.cinch.outMode = 0 then { s.cinch with pulses := s.cinch.pulses + 1 }
      else { s.cinch with testIgnored := s.cinch.testIgnored + 1 } }) ∧
    (∀ v : BitVec 8, v ≠ 1 → exec (.cinchTestPulse v) s = .next s))

/-! ### Power delivery, the governor and temperatures -/

/-- The input (R403 to R405, R581, R583): a sample is kept with its band and an entry into Low is counted; below 560 V, or after 1 ms Over, Lost or Absent, the
input is lost, which signed flash records; EPO_L stops every converter without a record. Beyond 1,000 V nothing is guaranteed, and the command stops.

The model's own choices under it: log entries 1 and 39. -/
def Obligations.TheInputHasBandsAndRailsFall : Prop :=
  ∀ (s : State),
    (∀ mv, 1000000 < mv → exec (.inputSample mv) s = .fault .beyondAbsoluteMaximum) ∧
    (∀ mv, mv ≤ 1000000 →
      let band : InputBand := if 900000 < mv then .over else if 720000 ≤ mv then .normal else if 640000 ≤ mv then .low else if mv = 0 then .absent else .lost
      ∃ s', exec (.inputSample mv) s = .next s' ∧ s'.input.sample = mv ∧ s'.input.band = band ∧
        (560000 ≤ mv → s'.module.state = s.module.state ∧ s'.tiles = s.tiles ∧ s'.parts = s.parts ∧
          s'.input.bandSince = (if band = s.input.band then s.input.bandSince else s.time) ∧
          s'.input.lowEntries = s.input.lowEntries + (if band = .low ∧ s.input.band ≠ .low ∧ s.module.state ≠ .off then 1 else 0)) ∧
        (mv < 560000 → s.module.state ≠ .off → RailsFell s s' ∧ s'.flash.inputLosses = s.flash.inputLosses + 1 ∧
          s'.flash.records.length = s.flash.records.length + 1)) ∧
    (s.module.state ≠ .off → s.input.band = .over ∨ s.input.band = .lost ∨ s.input.band = .absent →
      ∃ s', exec .inputLoss s = .next s' ∧ RailsFell s s' ∧ s'.flash.inputLosses = s.flash.inputLosses + 1 ∧
        s'.flash.records.length = s.flash.records.length + 1) ∧
    (s.module.state ≠ .off →
      ∃ s', exec .epoAssert s = .next s' ∧ RailsFell s s' ∧ s'.input.epo = true ∧ s'.input.epoPending = true ∧ s'.flash.records = s.flash.records) ∧
    exec .epoRelease s = .next { s with input := { s.input with epo := false } }

/-- Converters, regulator phases and droop (R33, R406, R407, R409, R412, R414, R420): a failed converter stays disconnected, and fewer than 20 put the module in
Fault; a phase that is bad three times in a row is lost; boosts, shunts and stretched cycles are counted; readings are published together. -/
def Obligations.ConvertersPhasesAndReadings : Prop :=
  ∀ (s : State),
    (∀ i : Fin 32, s.module.state ≠ .off → s.input.converters.get i ≠ .failed →
      ∃ s', exec (.converterFailure i) s = .next s' ∧ s'.input.converters.get i = .failed ∧
        (∀ j, j ≠ i → s'.input.converters.get j = s.input.converters.get j) ∧
        s'.module.converterWarning = decide (s'.workingConverters < 30) ∧
        (20 ≤ s'.workingConverters → s'.tiles = s.tiles ∧ s'.parts = s.parts) ∧
        (s'.workingConverters < 20 → s.module.state ≠ .booting → s'.module.state = .fault)) ∧
    (∀ (t : TileId) (bad : BitVec 8) (broken : Bool), (s.tiles.get t).island.state ≠ .off → (s.tiles.get t).power.controllerFault = false →
      let p := (s.tiles.get t).power
      let hit := fun i : Fin 8 => bitAt p.phases.toNat i.1 && bitAt bad.toNat i.1
      let gone := ((allFin 8).filter fun i => !bitAt p.phases.toNat i.1 || (hit i && decide (2 ≤ p.badChecks.get i))).length
      ∃ s', exec (.phaseCheck t bad broken) s = .next s' ∧
        ((broken = true ∨ (3 ≤ gone ∧ ∃ i, hit i = true ∧ 2 ≤ p.badChecks.get i)) → (s'.tiles.get t).island.fenced = true) ∧
        (broken = false → gone < 3 → (∀ u, u ≠ t → s'.tiles.get u = s.tiles.get u) ∧ s'.parts = s.parts ∧ SameData t s s' ∧
          (∀ i : Fin 8, bitAt (s'.tiles.get t).power.phases.toNat i.1 = (bitAt p.phases.toNat i.1 && !(hit i && decide (2 ≤ p.badChecks.get i)))) ∧
          (∀ i, (s'.tiles.get t).power.badChecks.get i = if hit i then min 3 (p.badChecks.get i + 1) else 0))) ∧
    (∀ (d : DieId) (phase : Fin 16), s.module.state ≠ .off → (s.dies.get d).railLost = false → bitAt (s.dies.get d).phases.toNat phase.1 = true →
      ∃ s', exec (.verticalStagePhaseLoss d phase) s = .next s' ∧
        (s'.dies.get d).phases = (s.dies.get d).phases &&& ~~~(BitVec.ofNat 16 (2 ^ phase.1)) ∧
        (s'.dies.get d).railLost = decide ((s'.dies.get d).working ≤ 13) ∧
        (∀ e, e ≠ d → (s'.dies.get e).phases = (s.dies.get e).phases)) ∧
    (∀ t : TileId, (s.tiles.get t).island.state ≠ .off →
      (∃ s', exec (.boost t) s = .next s' ∧ OnlyTile t s s' ∧
        s'.tiles.get t = { s.tiles.get t with power := { (s.tiles.get t).power with boosts := (s.tiles.get t).power.boosts + 1 } }) ∧
      (∃ s', exec (.shunt t) s = .next s' ∧ OnlyTile t s s' ∧
        s'.tiles.get t = { s.tiles.get t with power := { (s.tiles.get t).power with shunts := (s.tiles.get t).power.shunts + 1 } }) ∧
      ((s.tiles.get t).island.clock ≠ 0 → ∃ s', exec (.droopDetect t) s = .next s' ∧ OnlyTile t s s' ∧ SameData t s s' ∧
        (s'.tiles.get t).island = { (s.tiles.get t).island with
          stretched := (s.tiles.get t).island.stretched + 1, stretchedLoop := (s.tiles.get t).island.stretchedLoop + 1 })) ∧
    (∀ r : Readings, s.module.state ≠ .off → s.module.state ≠ .booting →
      ∃ s', exec (.measurementInterval r) s = .next s' ∧ s' = { s with input := s'.input, tiles := s'.tiles, dies := s'.dies, stackDies := s'.stackDies } ∧
        s'.input.inputMillivolts = r.inputMillivolts ∧ s'.input.inputMilliamps = r.inputMilliamps ∧ s'.input.inputWatts = r.inputWatts ∧
        s'.input.busMillivolts = r.busMillivolts ∧ s'.input.intervalEnd = s.time ∧
        ((r.tiles.map (·.1)).Nodup → ∀ v ∈ r.tiles, s'.tiles.get v.1 = { s.tiles.get v.1 with power := { (s.tiles.get v.1).power with
          rail := v.2.1, current := s.currentOf r v.1 v.2.1 v.2.2.1, peak := v.2.2.2.1, weltRail := v.2.2.2.2 } }))

/-- The governor (R426, R429, R431 to R437, R445, R448): a loop takes the cap in force and the least of the four limits; a slope interval changes a tile's current
by 8 A at most; deferred wakes, ramps, the droop ceiling, slack notices and the refit act as each says.

The model's own choices under it: log entry 20. -/
def Obligations.TheGovernorSharesTheLimit : Prop :=
  ∀ (s : State),
    (∀ r : LoopPowers, s.module.state ≠ .off → s.module.state ≠ .booting →
      ∃ s', exec (.governorLoop r) s = .next s' ∧ s'.governor.cap = s.governor.capNext ∧
        s'.governor.effective = min (min s.governor.capNext.toNat (inputTerm s.input.sample))
          (min (converterLimit s.workingConverters) (coolantLimit s.thermal.inlet s.thermal.flow)) ∧
        (s'.governor.ceiling ≤ s.governor.target.toNat ∨ s'.governor.ceiling = 100) ∧ s'.governor.stackShare ≤ max 3200 s.governor.stackFloor.toNat ∧
        ((∀ t : TileId, s.runningTest 1 t.1 = none) → ∀ t, SameData t s s' ∧ (s'.tiles.get t).island.state = (s.tiles.get t).island.state)) ∧
    (∀ demand : List (TileId × Nat), s.module.state ≠ .off → s.module.state ≠ .booting →
      ∃ s', exec (.slopeInterval demand) s = .next s' ∧
        ∀ t, (s.tiles.get t).island.clocked = true →
          (s'.tiles.get t).power.lastDraw ≤ (s.tiles.get t).power.lastDraw + 8 ∧ (s.tiles.get t).power.lastDraw ≤ (s'.tiles.get t).power.lastDraw + 8 ∧
          ((s.tiles.get t).power.lastDraw + 8 < (Assoc.get t demand).getD 0 → (s'.tiles.get t).power.withheld ≠ none)) ∧
    (∀ (t : TileId) (r : WakeReq), (s.dies.get (dieOf t)).nextRequest = some r → r.tile = t → (s.dies.get (dieOf t)).softStartTile = none →
      (s.dies.get (dieOf t)).lowering = false →
      ∃ s', exec (.wakeDeferralTimeout t) s = .next s' ∧ s' = { s with tiles := s'.tiles, dies := s'.dies } ∧ (s'.dies.get (dieOf t)).lowering = true ∧
        ∀ u, s'.tiles.get u =
          if dieOf u = dieOf t ∧ (s.tiles.get u).island.state = .running ∧ 20 < (s.tiles.get u).power.allowance then
            { s.tiles.get u with power := { (s.tiles.get u).power with allowance := max 20 ((s.tiles.get u).power.allowance - 8), lowered := true } }
          else s.tiles.get u) ∧
    (∀ t : TileId,
      (∀ a start heavy, (s.tiles.get t).power.ramp = some (a, start, heavy) →
        ∃ s', exec (.rampStart t) s = .next s' ∧ OnlyTile t s s' ∧
          s'.tiles.get t = { s.tiles.get t with power := { (s.tiles.get t).power with ramp := some (a, min start s.time, heavy) } }) ∧
      (∃ s', exec (.rampReleaseTimeout t) s = .next s' ∧ OnlyTile t s s' ∧
        s'.tiles.get t = { s.tiles.get t with power := { (s.tiles.get t).power with ramp := none } }) ∧
      (100 ≤ (s.tiles.get t).power.quietLoops → ∃ s', exec (.droopRecovery t) s = .next s' ∧ OnlyTile t s s' ∧
        s'.tiles.get t = { s.tiles.get t with power := { (s.tiles.get t).power with
          droopCeiling := min 900 ((s.tiles.get t).power.droopCeiling + 25), quietLoops := 0 } })) ∧
    (∀ (n : PartId) (words : List Word64), (s.parts.get n).state = .loaded → (s.parts.get n).run.retry = none → words.length = 4 → crcOk words 3 = true →
      zeroField words 0 31 0 = true →
      let sender := bits (wordAt words 0) 63 48
      bits (wordAt words 3) 31 0 = (Assoc.get sender (s.parts.get n).slack.expected).getD 0 → wordAt words 1 = (s.parts.get n).run.step →
      bits (wordAt words 0) 47 40 = (s.parts.get n).run.attempt →
      ∃ s', exec (.slackNoticeReceive n words) s = .next s' ∧ s'.governor.slackReceived = s.governor.slackReceived + 1 ∧
        (sender, wordAt words 1, wordAt words 2) ∈ (s'.parts.get n).slack.notices ∧ (s'.parts.get n).run = (s.parts.get n).run ∧
        ∀ m, m ≠ n → s'.parts.get m = s.parts.get m) ∧
    (∀ (fits : List (TileId × Coefficients)) (error : BitVec 16), s.governor.calibrated = true → (fits.map (·.1)).Nodup →
      ∃ s', exec (.coefficientRefit fits error) s = .next s' ∧ s' = { s with governor := s'.governor } ∧ s'.governor.estimateError = error ∧
        (∀ f ∈ fits, Assoc.get f.1 s'.governor.coefficients = some f.2) ∧
        ∀ t, t ∉ fits.map (·.1) → Assoc.get t s'.governor.coefficients = Assoc.get t s.governor.coefficients)

/-- Temperatures, the coolant and Fault (R409, R438 to R440, R467, R553, R583): samples are kept; a tile at 105 °C goes Off and is fenced, a hot one is timed; a hot or
failed edge die takes what it serves with it; a coolant fault and every cause of R553 put the module in Fault.

The model's own choices under it: log entries 35 and 39. -/
def Obligations.HeatCoolantAndFaultsActInTime : Prop :=
  ∀ (s : State), s.module.state.serves →
    (∀ (t : TileId) (tenths : Int), (s.tiles.get t).island.weltFailed = false →
      (1050 ≤ tenths → (s.tiles.get t).power.heatOff = false → ∃ s', exec (.temperatureSample t tenths) s = .next s' ∧
        s'.thermal.heatOffs = s.thermal.heatOffs + 1 ∧ (s'.tiles.get t).island.fenced = true) ∧
      (s.thermal.migrate.toInt ≤ tenths → tenths < 1050 → (s.thermal.hotSince.find? fun h => h.1 == t) = none →
        ∃ s', exec (.temperatureSample t tenths) s = .next s' ∧ (s'.tiles.get t).power.temp = tenths ∧
          s' = { s with tiles := s'.tiles, thermal := { s.thermal with hotSince := s.thermal.hotSince ++ [(t, s.time, false)] } }) ∧
      (tenths < s.thermal.migrate.toInt → tenths < 1050 → (s.tiles.get t).power.heatOff = false →
        ∃ s', exec (.temperatureSample t tenths) s = .next s' ∧ (∀ u, u ≠ t → s'.tiles.get u = s.tiles.get u) ∧
          s'.tiles.get t = { s.tiles.get t with power := { (s.tiles.get t).power with temp := tenths, peakTemp := max tenths (s.tiles.get t).power.peakTemp } } ∧
          s' = { s with tiles := s'.tiles, thermal := { s.thermal with hotSince := s.thermal.hotSince.filter fun h => h.1 != t } })) ∧
    (∀ (d : Fin 33) (tenths : Int), ∃ s', exec (.edgeDieOvertemp d tenths) s = .next s' ∧ s'.thermal.edgeTemps.get d = tenths ∧
      (tenths < 1050 → s' = { s with thermal := s'.thermal }) ∧
      (1050 ≤ tenths → d.1 < 24 → ∀ n, (s.parts.get n).slices.any (fun c => (stackOf c).1 == d.1) = true → (s.parts.get n).state = .loaded →
        (s'.parts.get n).state = .composed ∧ (s'.parts.get n).image = none) ∧
      (1050 ≤ tenths → d.1 = 32 → InFault 0x0514 s')) ∧
    (∀ (inlet outlet : Int) (flow : Nat),
      (500 < inlet → exec (.coolantSample inlet outlet flow) s = .fault .beyondAbsoluteMaximum) ∧
      (inlet ≤ 500 → ∃ s', exec (.coolantSample inlet outlet flow) s = .next s' ∧ s' = { s with thermal := s'.thermal } ∧
        s'.thermal.inlet = inlet ∧ s'.thermal.outlet = outlet ∧ s'.thermal.flow = flow ∧
        (s'.thermal.badSince.isSome = true ↔ (400 < inlet ∨ flow < 250 ∨ 600 < outlet)))) ∧
    (s.thermal.badSince ≠ none → s.module.coolantWait = false →
      ∃ s', exec .coolantFault s = .next s' ∧ s'.thermal.coolantFaults = s.thermal.coolantFaults + 1 ∧ InFault 0x0604 s') ∧
    (∀ code : BitVec 16, code = 0x0514 ∨ code = 0x0601 ∨ code = 0x0604 → ∃ s', exec (.faultEntry code) s = .next s' ∧ InFault code s') ∧
    (∀ d : Fin 33, ∃ s', exec (.edgeDieRailFailure d) s = .next s' ∧
      (d.1 < 24 → (s'.stackDies.get (Fin.ofNat 24 d.1)).power = .failed) ∧
      (24 ≤ d.1 → d.1 < 32 → (s'.linkDies.get (Fin.ofNat 8 (d.1 - 24))).failed = true) ∧
      (d.1 = 32 → InFault 0x0514 s'))

/-! ### Faults and their containment -/

/-- The first mismatch of a layer on a tile runs the layer again from its entry indices, and a second fences the tile (R460, R461); an uncorrectable word is counted and
its owner is reset (R454, R455); a structure that fails its check is noted while a copy is held, and otherwise calls a step retry (R457).

The model's own choices under it: log entries 30 and 56. -/
def Obligations.MismatchesAndMemoryErrorsAreContained : Prop :=
  ∀ (s : State),
    (∀ (t : TileId) (layer : Nat) (e : Seat), s.seat t = some e → layer ≠ preambleLayer → layer < e.image.layerCount → (s.parts.get e.part).run.retry = none →
      let f := (s.tiles.get t).faults
      ((Assoc.get (some layer) f.perLayer).getD 0 = 0 → (f.recent.filter fun r => decide (s.time < r + 1000000000)).length < s.faults.rerunLimit.toNat →
        f.rerun = none → (s.tiles.get t).cancelsClose →
        ∃ s', exec (.residueMismatch t layer) s = .next s' ∧ (s'.tiles.get t).faults.mismatches = f.mismatches + 1 ∧
          (s'.tiles.get t).faults.rerun = some layer ∧ s'.faults.reruns = s.faults.reruns + 1 ∧ (s'.tiles.get t).store = (s.tiles.get t).store ∧
          (s'.parts.get e.part).run.ready = (s.parts.get e.part).run.ready.filter (· != e.logical) ∧
          ∀ c, ((s'.tiles.get t).seqr.ctxs.get c).pos = e.image.entry e.logical layer c.1 ∧
            ((s'.tiles.get t).seqr.ctxs.get c).state = (if (s.parts.get e.part).run.running then .issuing else .idle)) ∧
      (1 ≤ (Assoc.get (some layer) f.perLayer).getD 0 →
        ∃ s', exec (.residueMismatch t layer) s = .next s' ∧ (s'.tiles.get t).island.fenced = true)) ∧
    (∀ w : WordPlace, s.module.state ≠ .off →
      ∃ s', exec (.uncorrectableWord w) s = .next s' ∧
        (∀ n, s.wordOwner w = some n → (s.parts.get n).state = .loaded → WasReset n s s') ∧ (s.wordOwner w = none → (∀ t a, w = .store t a → (s.tiles.get t).island.state ≠ .waking) → s'.parts = s.parts) ∧
        (match w with
         | .store t _ => (s'.tiles.get t).faults.uncorrectable = (s.tiles.get t).faults.uncorrectable + 1
         | .stack c _ => (s'.stackDies.get (stackOf c)).uncorrectable = (s.stackDies.get (stackOf c)).uncorrectable + 1
         | .fabric _ _ _ _ => s'.fabric.uncorrectable = s.fabric.uncorrectable + 1
         | .bucket _ l => (s'.linkDies.get l).uncorrectable = (s.linkDies.get l).uncorrectable + 1
         | .link q => (s'.linkDies.get (linkOf q)).uncorrectable = (s.linkDies.get (linkOf q)).uncorrectable + 1)) ∧
    (∀ (k : StackId) (corrected uncorrectable : Nat) (slice : Fin 8), (s.stackDies.get k).power = .up → s.module.state ≠ .off →
      ∃ s', exec (.patrolRead k corrected uncorrectable slice) s = .next s' ∧
        (s'.stackDies.get k).corrected = (s.stackDies.get k).corrected + BitVec.ofNat 64 corrected ∧
        (s'.stackDies.get k).uncorrectable = (s.stackDies.get k).uncorrectable + BitVec.ofNat 32 uncorrectable ∧
        (uncorrectable = 0 → OnlyStack k s s') ∧
        (uncorrectable ≠ 0 → ∀ n, s.partOfSlice (Fin.ofNat 192 (8 * k.1 + slice.1)) = some n → (s.parts.get n).state = .loaded → WasReset n s s')) ∧
    (∀ f : StructFail,
      ((s.parts.get f.part).state = .loaded → f.held = true → (s.parts.get f.part).run.structFails.any (sameStruct f) = false →
        ∃ s', exec (.controlStructureFail f) s = .next s' ∧ s'.tiles = s.tiles ∧
          (s'.parts.get f.part).run = { (s.parts.get f.part).run with structFails := (s.parts.get f.part).run.structFails ++ [f] }) ∧
      (f.held = false → MayRetry f.part s →
        ∃ s', exec (.controlStructureFail f) s = .next s' ∧ RetryCalled f.part 0x0204 ((s.parts.get f.part).run.attempt + 1) s s'))

/-- A step retry stops a step that is not yet complete and otherwise resets the partition; a sound notice of another member is joined; once its notices have arrived and every
tile is quiet, the next attempt starts every context at index 0; a quiesce that takes too long, a reset command and a reset notice reset the partition (R468 to R471, R564).

The model's own choices under it: log entries 34, 35, 56 and 62. -/
def Obligations.RetriesAndResetsRestartTheStep : Prop :=
  ∀ (n : PartId) (s : State),
    let p := s.parts.get n
    (∀ code : BitVec 16,
      (MayRetry n s → ∃ s', exec (.stepRetry n code) s = .next s' ∧ RetryCalled n code (p.run.attempt + 1) s s' ∧ (s'.parts.get n).weights = p.weights) ∧
      (p.state = .loaded → p.run.retry = none → p.run.record = none → p.run.updateSent = true ∨ s.faults.retryLimit.toNat < p.run.attempt + 1 →
        ∃ s', exec (.stepRetry n code) s = .next s' ∧ WasReset n s s')) ∧
    (∀ words : List Word64, p.state = .loaded → NoticeReady n words s → p.run.record = none → wordAt words 1 = p.run.step →
      let attempt := bits (wordAt words 0) 47 40
      p.run.attempt < attempt → attempt ≠ 0xFF → attempt ≤ s.faults.retryLimit.toNat →
      (p.run.retry = none → ∃ s', exec (.retryNotice n words) s = .next s' ∧
        RetryCalled n (BitVec.ofNat 16 (bits (wordAt words 0) 31 16)) attempt s s') ∧
      (p.run.retry ≠ none → ∃ s', exec (.retryNotice n words) s = .next s' ∧ OnlyPart n s s' ∧
        (s'.parts.get n).run.retryTo = max p.run.retryTo attempt ∧ (s'.parts.get n).run.retry = p.run.retry)) ∧
    (p.state = .loaded → p.run.retry ≠ none → p.run.noticed = false ∨ p.run.record ≠ none ∨ s.retryMayStart p = false →
      exec (.retryQuiesced n) s = .next s) ∧
    (p.state = .loaded → p.run.retry ≠ none → p.run.noticed = true → p.run.record = none → s.retryMayStart p = true → s.homesStand n →
      (∀ t ∈ p.workers, ∀ q, ∀ a ∈ ((s.tiles.get t).stream.queues.get q).all, a.closes) →
      ∃ s', exec (.retryQuiesced n) s = .next s' ∧ (s'.parts.get n).run.attempt = max (p.run.attempt + 1) p.run.retryTo ∧
        (s'.parts.get n).run.retry = none ∧ (s'.parts.get n).run.step = p.run.step ∧ (s'.parts.get n).run.ready = [] ∧
        (s'.parts.get n).weights.groups = [] ∧ (s'.parts.get n).weights.current = p.weights.current ∧
        (s'.parts.get n).weights.rings = p.weights.rings ∧
        ∀ t ∈ p.workers, (s'.tiles.get t).array.active = none ∧ ∀ c, ((s'.tiles.get t).seqr.ctxs.get c).pos = 0 ∧
          ((s'.tiles.get t).seqr.ctxs.get c).state = (if p.run.running then .issuing else .idle)) ∧
    (p.run.retry ≠ none → p.state = .loaded → ∃ s', exec (.retryQuiesceTimeout n) s = .next s' ∧ WasReset n s s' ∧ s'.faults.resets = s.faults.resets + 1) ∧
    (∀ code : BitVec 16, p.state ≠ .free → p.state ≠ .resetting →
      ∃ s', exec (.partitionReset n code) s = .next s' ∧ WasReset n s s' ∧ s'.faults.resets = s.faults.resets + 1) ∧
    (∀ words : List Word64, p.state = .loaded → NoticeReady n words s → bits (wordAt words 0) 47 40 = 0xFF →
      ∃ s', exec (.resetNotice n words) s = .next s' ∧ WasReset n s s' ∧ s'.faults.resets = s.faults.resets + 1)

/-- The check for odd numbers holds the update-complete message where the action is hold, and a release ends the hold; a release without one is counted (R477, R478).

The model's own choices under it: log entries 21 and 48. -/
def Obligations.OddNumbersHoldTheBoundary : Prop :=
  ∀ (n : PartId) (s : State),
    let p := s.parts.get n
    let freed : Partition := { p with odd := { p.odd with held := false } }
    (∀ m, p.image = some m → p.state = .loaded → p.run.running = true → p.odd.checked = false → p.run.updateSent = false → p.allUpdated m = true →
      let found := (m.updatedWeights.filter fun h => (Assoc.get h p.weights.norms).isSome).flatMap fun h =>
        p.oddEvents h s.faults.gradThreshold.toNat s.faults.updThreshold.toNat
      ∃ s', exec (.oddNumbersCheck n) s = .next s' ∧ s'.tiles = s.tiles ∧ (s'.parts.get n).run = p.run ∧ (s'.parts.get n).weights = p.weights ∧
        (s'.parts.get n).odd.checked = true ∧ (s'.parts.get n).odd.held = (!found.isEmpty && s.faults.oddAction == 1) ∧
        s'.faults.oddEvents = s.faults.oddEvents + BitVec.ofNat 32 found.length) ∧
    (p.odd.held = true →
      (∃ s', exec (.oddContinue n) s = .next s' ∧ s'.tiles = s.tiles ∧ (s'.parts.get n).odd.held = false ∧ s'.faults.oddAction = s.faults.oddAction ∧
        (∀ m, p.image = some m → freed.boundary m = true → (p.replay.inForce = .compare → p.replay.compared = true) →
          (s'.parts.get n).run.updateSent = true)) ∧
      (∃ s', exec (.oddContinueClear n) s = .next s' ∧ s'.tiles = s.tiles ∧ (s'.parts.get n).odd.held = false ∧ s'.faults.oddAction = 0 ∧
        (∀ m, p.image = some m → freed.boundary m = true → (p.replay.inForce = .compare → p.replay.compared = true) →
          (s'.parts.get n).run.updateSent = true)) ∧
      (MayRetry n s → ∃ s', exec (.oddRetry n) s = .next s' ∧ RetryCalled n 0x0801 (p.run.attempt + 1) s s')) ∧
    (p.odd.held = false → ∀ c ∈ ([.oddContinue n, .oddRetry n, .oddContinueClear n] : List Instr),
      exec c s = .next { s with faults := { s.faults with oddIgnored := s.faults.oddIgnored + 1 } })

/-- Error records (R387, R474 to R476, R480): a report opens a window of its point or adds to one with its fault; a window that ends awaits publication or forwards its
sums; publication takes the next sequence number; an acknowledgement covers every record so far; the readouts select what is presented.

The model's own choices under it: log entry 6. -/
def Obligations.RecordsAreCoalescedAndPublished : Prop :=
  ∀ (s : State),
    (∀ (pt : CoalescePoint) (r : ErrorReport), s.module.state ≠ .off → ∃ s', exec (.errorReport pt r) s = .next s' ∧ s'.tiles = s.tiles ∧ s'.parts = s.parts ∧
      (pt = .entry → (∀ w ∈ s.faults.entryWindows, faultKey w.report ≠ faultKey r) → s.faults.entryWindows.length < 32 →
        s' = { s with faults := { s.faults with entryWindows := s.faults.entryWindows ++ [⟨r, s.time⟩] } }) ∧
      (pt = .entry → (∃ w ∈ s.faults.entryWindows, faultKey w.report = faultKey r) → s'.faults.merged = s.faults.merged + 1 ∧
        s'.faults.entryWindows.length = s.faults.entryWindows.length) ∧
      (∀ t : TileId, pt = .welt t → t.1 ≠ 279 →
        ((∃ w ∈ s.faults.weltWindows, w.1 = t ∧ faultKey w.2.report = faultKey r) →
          s' = { s with faults := { s.faults with weltWindows := s'.faults.weltWindows, merged := s.faults.merged + 1 } }) ∧
        ((∀ w ∈ s.faults.weltWindows, w.1 = t → faultKey w.2.report ≠ faultKey r) → (s.faults.weltWindows.filter fun w => w.1 == t).length < 32 →
          s'.faults.weltWindows = s.faults.weltWindows ++ [(t, ⟨{ r with witnesses := 0 }, s.time⟩)])) ∧
      (∀ l : LinkId, pt = .link l →
        ((∃ w ∈ s.faults.linkWindows, w.1 = l ∧ faultKey w.2.report = faultKey r) →
          s' = { s with faults := { s.faults with linkWindows := s'.faults.linkWindows, merged := s.faults.merged + 1 } }))) ∧
    (∀ (i : Nat) (w : CoWindow), s.faults.entryWindows[i]? = some w →
      ∃ s' again, exec (.coalescingWindowEnd .entry i) s = .next s' ∧ s' = { s with faults := { s.faults with
        entryWindows := s.faults.entryWindows.eraseIdx i, awaiting := s.faults.awaiting ++ [(w, again)] } } ∧
        (again = true ↔ faultKey w.report ∈ s.faults.keysSeen ∨ ∃ a ∈ s.faults.awaiting, faultKey a.1.report = faultKey w.report)) ∧
    (∀ (t : TileId) (i : Nat) (w : TileId × CoWindow), t.1 ≠ 279 → (s.faults.weltWindows.filter fun w => w.1 == t)[i]? = some w →
      ∃ s', exec (.coalescingWindowEnd (.welt t) i) s = .next s' ∧ s'.tiles = s.tiles ∧ s'.parts = s.parts ∧
        s'.faults.weltWindows = (s.faults.weltWindows.filter fun v => !(v.1 == t && faultKey v.2.report == faultKey w.2.report)) ∧
        (w.2.report.witnesses = 0 → s'.faults.entryWindows = s.faults.entryWindows)) ∧
    (∀ (i : Nat) (w : CoWindow × Bool), s.faults.awaiting[i]? = some w →
      ∃ s', exec (.recordPublish i) s = .next s' ∧ s'.tiles = s.tiles ∧ s'.parts = s.parts ∧ s'.faults.awaiting = s.faults.awaiting.eraseIdx i ∧
        s'.faults.nextSeq = s.faults.nextSeq + 1 ∧ s'.faults.published = s.faults.published + 1 ∧
        s'.faults.ring.getLast? = some ⟨s.faults.nextSeq, recordWords w.1.report s.faults.nextSeq w.2, w.1.report.cls.toNat, w.1.report.part.map (·.1)⟩) ∧
    (∃ s', exec (.alertAcknowledge 1) s = .next s' ∧ s'.faults.acked = s.faults.published ∧ s'.tiles = s.tiles ∧ s'.parts = s.parts) ∧
    (∀ v : BitVec 8, v ≠ 1 → exec (.alertAcknowledge v) s = .next s) ∧
    (∀ seq : BitVec 32, exec (.readoutSequence seq) s = .next { s with faults := { s.faults with readout := seq } }) ∧
    (∀ (n : PartId) (step : Word64), ∃ s', exec (.readoutStep n step) s = .next s' ∧ OnlyPart n s s' ∧
      s'.parts.get n = { s.parts.get n with replay := { (s.parts.get n).replay with readout := step } })

/-! ### The placer -/

/-- A re-bind request that finds no other one (R221 to R224): one that fails its checks changes nothing but the status, one whose partition moves a tile waits, and a
refused one takes its number. An add binds the granules that the placer chooses once its tiles are in Retain; a removal takes its granules at once, and a dissolve every
granule, and both are done when the tiles that left are clean.

The model's own choices under it: log entries 43, 55 and 71. -/
def Obligations.RebindsChangeTheGranules : Prop :=
  ∀ (words : List Word64) (s : State), s.placer.requests = [] → s.placer.service = none →
    let q := rebindOf words
    let p := s.parts.get q.part
    let waits := !p.moves.isEmpty || p.state == .resetting
    (∀ (c : Instr) (op : Nat), (c, op) ∈ ([(.rebindAdd words, 1), (.rebindRemove words, 2), (.rebindDissolve words, 3)] : List (Instr × Nat)) →
      (q.op ≠ op → 1 ≤ q.op → q.op ≤ 3 → exec c s = .next s) ∧
      (s.rebindOk words = false → (q.op = op ∨ q.op < 1 ∨ 3 < q.op) →
        exec c s = .next { s with placer := { s.placer with rebindStatus := 2, rebindNs := 0 } }) ∧
      (q.op = op → s.rebindOk words = true → waits = true → exec c s = .next { s with placer := { s.placer with requests := [words] } }) ∧
      (q.op = op → s.rebindOk words = true → waits = false → s.rebindRefusal q ≠ 0 → exec c s = .next { s with placer := { s.placer with
        rebindStatus := BitVec.ofNat 8 (s.rebindRefusal q), rebindNumber := s.placer.rebindNumber + 1, rebindNs := 0 } })) ∧
    (s.rebindOk words = true → waits = false → s.rebindRefusal q = 0 →
      (q.op = 1 →
        let ts := (s.tilesToAdd q.part).take q.tiles
        ((∃ t ∈ ts, (s.tiles.get t).island.state = .off) → ∃ s', exec (.rebindAdd words) s = .next s' ∧ s'.parts = s.parts ∧
          s'.placer.rebindStatus = 1 ∧ s'.placer.service = some ⟨words, s.time, ts⟩ ∧ s'.placer.rebindNumber = s.placer.rebindNumber) ∧
        ((∀ t ∈ ts, (s.tiles.get t).island.state = .retain) → ∃ s', exec (.rebindAdd words) s = .next s' ∧ s'.placer.rebindStatus = 0 ∧
          s'.placer.rebindNumber = s.placer.rebindNumber + 1 ∧ s'.placer.rebindCount = s.placer.rebindCount + 1 ∧
          (∀ n, n ≠ q.part → s'.parts.get n = s.parts.get n) ∧
          (s'.parts.get q.part).state = (if p.state = .free then .composed else p.state) ∧ (s'.parts.get q.part).tiles = p.tiles ++ ts ∧
          (s'.parts.get q.part).slices = p.slices ++ s.freeSlices.take q.slices ∧
          (s'.parts.get q.part).ranges = p.ranges ++ s.freeRanges.take q.ranges ∧ (s'.parts.get q.part).ports = p.ports ++ q.ports)) ∧
      (q.op = 2 → let ts := p.tilesToRemove.take q.tiles
        ∃ s', exec (.rebindRemove words) s = .next s' ∧ (∀ n, n ≠ q.part → s'.parts.get n = s.parts.get n) ∧ (s'.parts.get q.part).state = p.state ∧
          (∀ t, t ∈ (s'.parts.get q.part).tiles ↔ t ∈ p.tiles ∧ t ∉ ts) ∧
          (∀ c, c ∈ (s'.parts.get q.part).slices ↔ c ∈ p.slices ∧ c ∉ ((stripeOf p.slices).reverse).take q.slices) ∧
          (∀ r, r ∈ (s'.parts.get q.part).ranges ↔ r ∈ p.ranges ∧ r ∉ p.rangesToRemove.take q.ranges) ∧
          (∀ x, x ∈ (s'.parts.get q.part).ports ↔ x ∈ p.ports ∧ x ∉ q.ports) ∧
          (s'.placer.rebindStatus = 0 ∨ s'.placer.rebindStatus = 1 ∧ s'.placer.service = some ⟨words, s.time, ts⟩) ∧
          (ts = [] → s'.placer.rebindStatus = 0 ∧ s'.placer.rebindNumber = s.placer.rebindNumber + 1)) ∧
      (q.op = 3 →
        ∃ s', exec (.rebindDissolve words) s = .next s' ∧ (∀ n, n ≠ q.part → s'.parts.get n = s.parts.get n) ∧ (s'.parts.get q.part).image = none ∧
          (s'.parts.get q.part).tiles = [] ∧ (s'.parts.get q.part).slices = [] ∧ (s'.parts.get q.part).ranges = [] ∧ (s'.parts.get q.part).ports = [] ∧
          (s'.placer.rebindStatus = 0 ∧ (s'.parts.get q.part).state = .free ∨
            s'.placer.rebindStatus = 1 ∧ s'.placer.service = some ⟨words, s.time, p.tiles⟩ ∧ (s'.parts.get q.part).state = .composed) ∧
          (p.tiles = [] → s'.placer.rebindStatus = 0)))

/-- Substitutions and migrations (R150, R243 to R247): a fenced tile behind a logical tile is replaced by the tile that the placer chooses, which takes its place once it
is Running and every transfer to the logical tile has been refused; a migration holds its source, closes its ingress at the hold, copies its store and registers once no
transfer to it is outstanding, and may be abandoned.

The model's own choices under it: log entries 35, 42 and 55. -/
def Obligations.MovesGiveALogicalTileANewTile : Prop :=
  ∀ (t : TileId) (n : PartId) (s : State),
    let p := s.parts.get n
    (∀ (cause : SubstCause) (l : Nat) (u : TileId), (∀ m, ∀ v ∈ (s.parts.get m).moves, v.source ≠ t ∧ v.target ≠ t) → s.partOfTile t = some n →
      p.logicalOf t = some l → s.chooseTile n t (cause = .dieFault) = some u →
      ∃ s' v, exec (.substitution t cause) s = .next s' ∧ (s'.tiles.get t).island.fenced = true ∧ (s'.parts.get n).place.binding[l]? = some none ∧
        (s'.parts.get n).moves = p.moves ++ [v] ∧ v.migration = false ∧ v.logical = l ∧ v.source = t ∧ v.target = u ∧ v.own = p.tiles.contains u) ∧
    (∀ (cause : SubstCause) (m : Image) (v : Move), (∀ k, k ≠ n → ∀ w ∈ (s.parts.get k).moves, w.source ≠ t) →
      p.moves.find? (fun w => !w.migration) = some v → v.source = t → p.image = some m → (s.tiles.get v.target).island.state = .running →
      v.logical < p.place.binding.length → (p.run.retry ≠ none ∨ (MayRetry n s ∧ s.noneTo p v.logical = true)) →
      ∃ s', exec (.substitution t cause) s = .next s' ∧ s'.placer.substitutions = s.placer.substitutions + 1 ∧
        (s'.parts.get n).place.binding[v.logical]? = some (some v.target) ∧ v ∉ (s'.parts.get n).moves ∧ (s'.parts.get n).weights = p.weights) ∧
    (∀ (e : Seat) (u : TileId), s.seat t = some e → e.part = n → p.moves.any (fun v => v.source == t) = false → s.chooseTile n t false = some u →
      ∃ s', exec (.migration t) s = .next s' ∧
        (s'.parts.get n).moves = p.moves ++ [⟨true, e.logical, t, u, some (s.holdLayer t e.image e.logical), s.time, false, p.tiles.contains u⟩] ∧
        (s'.parts.get n).place = p.place ∧ SameData t s s') ∧
    (∀ (v : Move) (m : Image), s.migrationOf t = some (n, v) → v.target ≠ t → v.logical < p.place.binding.length →
      (p.image = some m → (s.tiles.get v.target).island.state = .running → s.atHold t m v = true →
        (s.noneTo p v.logical = false → ∃ s', exec (.migrationQuiesced t) s = .next s' ∧ OnlyTile t s s' ∧
          s'.tiles.get t = { s.tiles.get t with island := { (s.tiles.get t).island with ingressOpen := false } }) ∧
        (s.noneTo p v.logical = true → ∃ s', exec (.migrationQuiesced t) s = .next s' ∧ s'.placer.migrations = s.placer.migrations + 1 ∧
          (s'.parts.get n).place.binding[v.logical]? = some (some v.target) ∧ v ∉ (s'.parts.get n).moves ∧
          (s'.tiles.get v.target).vec = (s.tiles.get t).vec ∧ (s'.tiles.get v.target).array.acc = (s.tiles.get t).array.acc ∧
          (∃ k ∈ s'.selfTest.tests, k.scope = 1 ∧ k.unit = t.1) ∧
          (∀ c, ((s'.tiles.get v.target).seqr.ctxs.get c).pos = ((s.tiles.get t).seqr.ctxs.get c).pos))) ∧
      (∃ s', exec (.migrationAbandon t) s = .next s' ∧ s'.placer.abandoned = s.placer.abandoned + 1 ∧ v ∉ (s'.parts.get n).moves ∧
        (s'.parts.get n).place = p.place ∧ (s'.tiles.get v.source).power.heatOff = false))

/-! ### Self-tests -/

/-- A test request takes its status and, when it is well formed, its number (R484, R485), and an accepted one queues its tests; a result closes its test, clears or
sets the fence of a tile, and returns an edge die to service or takes it out (R483, R486 to R490, R493).

The model's own choices under it: log entry 44. -/
def Obligations.TestsAreQueuedAndDecideTheirUnits : Prop :=
  ∀ (s : State),
    (∀ words : List Word64, s.module.state ≠ .off → s.module.state ≠ .booting →
      (s.testOk words = false → exec (.testRequest words) s = .next { s with selfTest := { s.selfTest with status := 1 } }) ∧
      (s.testOk words = true → ∃ s', exec (.testRequest words) s = .next s' ∧ s'.selfTest.status = BitVec.ofNat 8 (s.testRefusal (testOf words)) ∧
        s'.selfTest.lastNumber = s.selfTest.lastNumber + 1 ∧
        (s.testRefusal (testOf words) = 0 → ∀ j ∈ s.testEntries (testOf words), s'.testHeld j.scope j.unit))) ∧
    (∀ (t : TileId) (k : PendingTest) (r : TestResult), s.runningTest 1 t.1 = some k → s.onlyTest k t →
      (r.aborted = true → ∃ s', exec (.tileTest t r) s = .next s' ∧ s'.selfTest.aborted = s.selfTest.aborted + 1 ∧ (s'.tiles.get t).island.fenced = true) ∧
      (r.aborted = false → (s.tiles.get t).island.state = .waking → (s.tiles.get t).island.clock = 800 →
        (k.passes r = true → r.scrubOk = true → ∃ s', exec (.tileTest t r) s = .next s' ∧ s'.selfTest.passed = s.selfTest.passed + 1 ∧
          (s'.tiles.get t).test.last = .passed ∧ (s'.tiles.get t).island.fenced = false ∧ (s'.tiles.get t).power.heatOff = false ∧
          (s'.tiles.get t).store = []) ∧
        (k.passes r = false → ∃ s', exec (.tileTest t r) s = .next s' ∧ s'.selfTest.failed = s.selfTest.failed + 1 ∧
          (s'.tiles.get t).test.last = .failed ∧ (s'.tiles.get t).island.fenced = true))) ∧
    (∀ (k : StackId) (q : PendingTest) (r : TestResult), s.runningTest 3 k.1 = some q → r.aborted = false →
      ∃ s', exec (.stackBaseTest k r) s = .next s' ∧ s'.tiles = s.tiles ∧ s'.parts = s.parts ∧ (∀ j, j ≠ k → s'.stackDies.get j = s.stackDies.get j) ∧
        (if q.passes r then (s'.stackDies.get k).power = .up ∧ (s'.stackDies.get k).portsClosed = false ∧ s'.selfTest.passed = s.selfTest.passed + 1
         else (s'.stackDies.get k).power = .failed ∧ s'.selfTest.failed = s.selfTest.failed + 1)) ∧
    (∀ (l : LinkId) (q : PendingTest) (r : TestResult), s.runningTest 4 l.1 = some q → r.aborted = false →
      ∃ s', exec (.linkDieTest l r) s = .next s' ∧ s'.tiles = s.tiles ∧ s'.parts = s.parts ∧
        (if q.passes r then s'.selfTest.passed = s.selfTest.passed + 1 ∧ s'.linkDies = s.linkDies ∧
          (∀ p : PortId, linkOf p = l → (s'.ports.get p).state = if (s.ports.get p).present then .training else .down)
         else (s'.linkDies.get l).failed = true ∧ s'.selfTest.failed = s.selfTest.failed + 1 ∧ s'.ports = s.ports)) ∧
    (∀ t : TileId, s.selfTest.interval ≠ 0 → bits s.selfTest.fieldTests.toNat 1 0 ≠ 0 → s.testPending 1 t.1 = false → (s.tiles.get t).island.weltFailed = false →
      s.module.state.serves → s.module.state ≠ .init →
      ∃ s', exec (.fieldTestDue t) s = .next s' ∧ s'.testHeld 1 t.1 ∧ s'.selfTest.status = s.selfTest.status) ∧
    (∀ (t : TileId) (k : PendingTest), (s.tiles.get t).test.waiting = some k → k.scope = 1 → k.unit = t.1 → s.onlyTest k t → k ∉ s.selfTest.tests →
      ∃ s', exec (.deferredTestRetry t) s = .next s' ∧ s'.testHeld 1 t.1 ∧ s'.selfTest.status = s.selfTest.status)

/-! ### The host interface -/

/-- Doorbells, ring registers and resets (R496 to R504, R513): a submission doorbell has the entries up to its index read; the head doorbells release slots; a ring's base
and control are written while it is not enabled; an interval's end raises a pending vector; a function-level reset and failed accesses act as R513 says.

The model's own choices under it: log entries 4, 5, 31 and 53. -/
def Obligations.RingsAndDoorbells : Prop :=
  ∀ (f : FuncId) (s : State),
    let h := s.fns.get f
    (∀ (tail : Word32) (entries : List (List Word64)), s.served f ≠ none → h.submission.enabled = true → h.submission.next < 2 ^ 32 →
      entries.length = (tail.toNat + 2 ^ 32 - h.submission.next) % 2 ^ 32 →
      ∃ s', exec (.submissionTail f tail entries) s = .next s' ∧ OnlyFn f s s' ∧ (s'.fns.get f).submission.next = tail.toNat ∧
        (s'.fns.get f).submission.host = tail.toNat ∧
        (∀ ws, entries = [ws] →
          (ws.length = 8 → crcOk ws 7 = true → bits (wordAt ws 6) 63 32 = h.submission.seq.toNat → entrySound ws = true →
            (s'.fns.get f).entries = h.entries ++ [entryOf ws] ∧ (s'.fns.get f).completion = h.completion) ∧
          (entrySound ws = false → (s'.fns.get f).entries = h.entries ∧
            (s'.fns.get f).completion = (h.post true s.time ⟨(entryOf ws).kind, 1, (entryOf ws).tag, (entryOf ws).stepValue, 0⟩).completion))) ∧
    (∀ head : Word32, s.served f ≠ none →
      (∃ s', exec (.completionHead f head) s = .next s' ∧ OnlyFn f s s' ∧ (s'.fns.get f).completion.host = head.toNat ∧ (s'.fns.get f).entries = h.entries ∧
        (s'.fns.get f).held <:+ h.held ∧ ((s'.fns.get f).held = [] ∨ (s'.fns.get f).completion.enabled = false ∨ (s'.fns.get f).completion.full = true)) ∧
      (∃ s', exec (.recordHead f head) s = .next s' ∧ OnlyFn f s s' ∧ s'.fns.get f = { h with record := { h.record with host := head.toNat } })) ∧
    (∀ (k : Fin 3) (value : Word64),
      (∃ s', exec (.ringControlWrite f (BitVec.ofNat 16 (0x100 + 16 * k.1)) value) s = .next s' ∧ OnlyFn f s s' ∧ (s'.fns.get f).ringOf k =
        (if (h.ringOf k).enabled = false ∧ value.toNat % 4096 = 0 then { h.ringOf k with base := value } else h.ringOf k)) ∧
      (∃ s', exec (.ringControlWrite f (BitVec.ofNat 16 (0x108 + 16 * k.1)) value) s = .next s' ∧ OnlyFn f s s' ∧
        ((h.ringOf k).enabled = true → s' = s) ∧
        ((h.ringOf k).enabled = false → 6 ≤ bits value.toNat 4 0 → bits value.toNat 4 0 ≤ 16 →
          ((s'.fns.get f).ringOf k).enabled = bitAt value.toNat 31 ∧ ((s'.fns.get f).ringOf k).size = 2 ^ bits value.toNat 4 0 ∧
          ((s'.fns.get f).ringOf k).base = (h.ringOf k).base ∧
          (bitAt value.toNat 31 = true → ((s'.fns.get f).ringOf k).next = 0 ∧ ((s'.fns.get f).ringOf k).seq = 0 ∧ ((s'.fns.get f).ringOf k).host = 0)))) ∧
    (∀ v : Fin 3, (h.vectors.get v).pending = true → bitAt h.interrupt.toNat (29 + v.1) = true →
      ∃ s', exec (.interruptIntervalExpiry f v) s = .next s' ∧ OnlyFn f s s' ∧ ((s'.fns.get f).vectors.get v).pending = false ∧
        ((s'.fns.get f).vectors.get v).raised = (h.vectors.get v).raised + 1) ∧
    (∃ s', exec (.functionLevelReset f) s = .next s' ∧ (s'.fns.get f).submission = Ring.reset ∧ (s'.fns.get f).completion = Ring.reset ∧
      (s'.fns.get f).record = Ring.reset ∧ (s'.fns.get f).entries = [] ∧
      ∀ n, s.partOfFn f = some n → (s.parts.get n).state = .loaded → WasReset n s s') ∧
    (∀ (portB : Bool) (rate width : BitVec 8), s.pcie.get (if portB then 1 else 0) ≠ ⟨rate, width⟩ →
      ∃ s', exec (.pcieLinkTrained portB rate width) s = .next s' ∧ s' = { s with pcie := s'.pcie, fns := s'.fns } ∧
        s'.pcie.get (if portB then 1 else 0) = ⟨rate, width⟩ ∧ s'.pcie.get (if portB then 0 else 1) = s.pcie.get (if portB then 0 else 1) ∧
        (fnPort f ≠ (if portB then 1 else 0) → s'.fns.get f = h)) ∧
    (∃ s', exec (.hostAccessFail f .completion) s = .next s' ∧ OnlyFn f s s' ∧ (s'.fns.get f).completionsDropped = h.completionsDropped + 1) ∧
    (∃ s', exec (.hostAccessFail f .record) s = .next s' ∧ OnlyFn f s s' ∧ (s'.fns.get f).recordsDropped = h.recordsDropped + 1) ∧
    (∀ (tag : Word32) (i : Nat) (e : OpenEntry), s.findEntry f (fun e => e.tag == tag) = some (i, e) →
      ∃ s', exec (.hostAccessFail f (.transfer tag)) s = .next s' ∧ Completed f i 7 e.stepValue 0 s s' ∧
        (e.kind = 4 → ∀ n, s.partOfFn f = some n → (s'.parts.get n).run.allowance = 0))

/-- Programs and steps (R505, R506): a LOAD that passes every check binds its image, Loaded and parked at step 0 with no allowance, and one that fails completes with
status 5; RELEASE discards the image; RUN adds to the allowance; a step starts when it may, and takes one from the allowance.

The model's own choices under it: log entries 25, 26, 27, 38 and 52. -/
def Obligations.ProgramsLoadRunAndStart : Prop :=
  ∀ (s : State),
    (∀ (f : FuncId) (data : List Byte) (n : PartId) (e : OpenEntry), s.orderedData f 1 = some (n, e) →
      ((s.parts.get n).state ≠ .composed ∨ s.module.state = .standby →
        ∃ s', exec (.load f data) s = .next s' ∧ Completed f 0 2 0 0 s s' ∧ OnlyFn f s s') ∧
      ((s.parts.get n).state = .composed → s.module.state ≠ .standby → (s.parts.get n).tablesMissing = true →
        (e.registered = true → exec (.load f data) s = .next s) ∧
        (e.registered = false → ∃ s', exec (.load f data) s = .next s' ∧ Waits f 0 (fun e => { e with registered := true }) s s' ∧ (s'.parts.get n).state = .composed ∧
          (s'.parts.get n).image = (s.parts.get n).image ∧
          Assoc.get (s.parts.get n).settings.logical.toNat (s'.parts.get n).place.tables = some (s.ownTable n))) ∧
      ((s.parts.get n).state = .composed → s.module.state ≠ .standby → (s.parts.get n).tablesMissing = false →
        let bs := data.take e.length
        let len := wordAt (bytesWords (bs.take 64)) 3
        ∃ s', exec (.load f data) s = .next s' ∧ (match (s.withOwnTable n).loadBad n bs e.arg.toNat with
          | none => (s'.parts.get n).state = .loaded ∧ (s'.parts.get n).image = some (imageOf (bs.take len)) ∧
            (s'.parts.get n).run = { StepRun.reset with parked := true } ∧ (s'.parts.get n).weights = Weights.reset ∧
            Waits f 0 (fun e => { e with running := true, value := BitVec.ofNat 64 len }) s s'
          | some x => Completed f 0 5 0 x.1 s s' ∧ (s'.parts.get n).state = .composed ∧
            (s'.parts.get n).image = (s.parts.get n).image ∧ s'.tiles = s.tiles))) ∧
    (∀ (f : FuncId) (n : PartId) (e : OpenEntry), s.ordered f 2 = some (n, e) →
      ((s.parts.get n).state = .loaded → (s.parts.get n).run.parked = true →
        ∃ s', exec (.release f) s = .next s' ∧ Completed f 0 0 0 0 s s' ∧ (s'.parts.get n).state = .composed ∧ (s'.parts.get n).image = none ∧
          (s'.parts.get n).weights = Weights.reset ∧ (s'.parts.get n).tiles = (s.parts.get n).tiles ∧ (s'.parts.get n).settings = (s.parts.get n).settings) ∧
      ((s.parts.get n).state ≠ .loaded ∨ (s.parts.get n).run.parked = false →
        ∃ s', exec (.release f) s = .next s' ∧ Completed f 0 2 0 0 s s' ∧ OnlyFn f s s')) ∧
    (∀ (f : FuncId) (n : PartId) (e : OpenEntry), s.ordered f 3 = some (n, e) →
      ((s.parts.get n).state = .loaded → ∃ s', exec (.run f) s = .next s' ∧ Completed f 0 0 0 0 s s' ∧ s'.tiles = s.tiles ∧
        (s'.parts.get n).run.allowance = (s.parts.get n).run.allowance + e.arg ∧ (s'.parts.get n).run.parked = false ∧
        (s'.parts.get n).run.step = (s.parts.get n).run.step) ∧
      ((s.parts.get n).state ≠ .loaded → ∃ s', exec (.run f) s = .next s' ∧ Completed f 0 2 0 0 s s' ∧ OnlyFn f s s')) ∧
    (∀ (n : PartId) (m : Image), (s.parts.get n).image = some m → s.mayStart n m = true →
      ((s.parts.get n).needsReference = false ∨ ∃ r, (s.parts.get n).referenceNow = some r ∧ recordSound r (s.parts.get n).chainBefore = true ∧
          s.recordFits n m r = true) →
      ∃ s', exec (.stepStart n) s = .next s' ∧ (s'.parts.get n).run.running = true ∧ (s'.parts.get n).run.parked = false ∧
        (s'.parts.get n).run.allowance = (s.parts.get n).run.allowance - 1 ∧ (s'.parts.get n).run.step = (s.parts.get n).run.step ∧
        (s'.parts.get n).weights = (s.parts.get n).weights ∧ (∀ t, t ∉ (s.parts.get n).workers → s'.tiles.get t = s.tiles.get t) ∧
        ∀ t ∈ (s.parts.get n).workers, ∀ c, ((s'.tiles.get t).seqr.ctxs.get c).state = .issuing ∧ ((s'.tiles.get t).seqr.ctxs.get c).pos = 0)

/-- Inputs, outputs, state images and records (R503, R507 to R512): a WRITE or a READ is registered or refused; a WRITE whose gate is open puts its bytes into its tensor and
nowhere else; a READ of a committed step takes its bytes; a transfer's end writes its completion. While the port of the function is out of service, no data move (R496).

The model's own choices under it: log entries 17, 22 and 27. -/
def Obligations.HostDataMovesAsItsEntrySays : Prop :=
  ∀ (f : FuncId) (n : PartId) (s : State), s.partOfFn f = some n →
    let p := s.parts.get n
    (∀ i e, s.findEntry f (fun e => e.kind == 4 && !e.registered) = some (i, e) →
      ∃ s', exec (.write f) s = .next s' ∧ OnlyFn f s s' ∧
        (if s.writeRefusal f n e = 0 then Waits f i (fun e => { e with registered := true }) s s'
         else Completed f i (s.writeRefusal f n e) e.arg 0 s s')) ∧
    (∀ (tag : Word32) (data : List Byte) i e, s.findEntry f (fun e => e.kind == 4 && e.registered && !e.running && e.tag == tag) = some (i, e) →
      s.gateRoom f n i = true → s.writeOpen n e = true → data.length = e.length →
      let key : RegionKey := ⟨e.handle, .data, false⟩
      ∃ s' old, exec (.writeGateOpen f tag data) s = .next s' ∧ Waits f i (fun e => { e with running := true, data := data, before := old }) s s' ∧
        s'.tiles = s.tiles ∧ cellsWritten (p.weights.region key).cells ((s'.parts.get n).weights.region key).cells e.offset data ∧
        (∀ k, k ≠ key → (s'.parts.get n).weights.region k = p.weights.region k) ∧ ∀ m, m ≠ n → s'.parts.get m = s.parts.get m) ∧
    (∀ i e, s.findEntry f (fun e => e.kind == 5 && !e.registered) = some (i, e) →
      ∃ s', exec (.read f) s = .next s' ∧ OnlyFn f s s' ∧
        (if s.readRefusal n e = 0 then Waits f i (fun e => { e with registered := true }) s s' else Completed f i (s.readRefusal n e) e.arg 0 s s')) ∧
    (∀ (tag : Word32) i e, s.findEntry f (fun e => e.kind == 5 && e.registered && !e.running && e.tag == tag) = some (i, e) →
      s.gateRoom f n i = true → e.arg.toNat < p.run.step →
      ∃ s', exec (.readBegin f tag) s = .next s' ∧ OnlyFn f s s' ∧
        Waits f i (fun x => { x with running := true, data := p.weights.read ⟨e.handle, .data, false⟩ e.offset e.length }) s s') ∧
    (∀ (tag : Word32) i e, s.linkUp f = true → s.findEntry f (fun e => e.running && e.tag == tag) = some (i, e) →
      ∃ s', exec (.hostTransferComplete f tag) s = .next s' ∧ OnlyFn f s s' ∧
        (if e.kind = 4 ∨ e.kind = 5 then Completed f i 0 e.arg 0 s s' else Completed f i e.status e.value e.detail.toNat s s') ∧
        (s'.fns.get f).fed = (s.fns.get f).fed ++ (if e.kind = 4 then [{ e with running := false, before := [] }] else [])) ∧
    (∀ e m, s.orderedData f 6 = some (n, e) → p.image = some m → p.state = .loaded → p.run.parked = true →
      let bs := p.stateImage m
      ∃ s', exec (.stateOut f) s = .next s' ∧ OnlyFn f s s' ∧
        (if e.length < bs.length then Completed f 0 8 (BitVec.ofNat 64 bs.length) 0 s s'
         else Waits f 0 (fun e => { e with running := true, value := BitVec.ofNat 64 bs.length, data := bs }) s s')) ∧
    (∀ (data : List Byte) e m, s.orderedData f 7 = some (n, e) → p.image = some m → p.state = .loaded → p.run.parked = true → p.run.step = 0 →
      p.run.running = false → p.run.attempt = 0 →
      let bs := data.take e.length
      let secs := readSections (wordAt (bytesWords (bs.take 64)) 3 % 2 ^ 16) (bs.drop 64)
      (64 ≤ bs.length → crcOk (bytesWords (bs.take 64)) 7 = true → ∀ xs, secs = some xs → (xs.all fun x => p.sectionFits m x && x.ringsOk) = true →
        ∃ s', exec (.stateIn f data) s = .next s' ∧ Waits f 0 (fun e => { e with running := true }) s s' ∧
          s'.parts.get n = (xs.foldl (fun (p : Partition) x => p.restore m x) p).staleTables) ∧
      (bs.length < 64 ∨ crcOk (bytesWords (bs.take 64)) 7 = false ∨ secs = none →
        ∃ s', exec (.stateIn f data) s = .next s' ∧ OnlyFn f s s' ∧ Completed f 0 1 0 0 s s') ∧
      (64 ≤ bs.length → crcOk (bytesWords (bs.take 64)) 7 = true → ∀ xs, secs = some xs → (xs.all fun x => p.sectionFits m x && x.ringsOk) = false →
        ∃ s', exec (.stateIn f data) s = .next s' ∧ OnlyFn f s s' ∧ Completed f 0 3 0 0 s s')) ∧
    (∀ (data : List Byte) e, s.orderedData f 8 = some (n, e) → p.state = .loaded → p.run.step ≤ e.arg.toNat → (e.arg.toNat = p.run.step → p.run.running = false) →
      ((p.replay.references.filter fun r => decide (p.run.step ≤ r.1 + 1) && r.1 != e.arg.toNat).map fun r => r.2.length).sum + (data.take e.length).length
        ≤ p.slices.length * 2 ^ 26 →
      ∃ s', exec (.reference f data) s = .next s' ∧ Completed f 0 0 e.arg 0 s s' ∧ s'.tiles = s.tiles ∧
        Assoc.get e.arg.toNat (s'.parts.get n).replay.references = some (data.take e.length)) ∧
    (∀ i e, s.linkUp f = true → s.findEntry f (fun e => e.kind == 9) = some (i, e) → p.state = .loaded →
      ∃ s', exec (.recordOut f) s = .next s' ∧ OnlyFn f s s' ∧
        Completed f i (match Assoc.get e.arg.toNat p.replay.records with
          | none => 9
          | some bs => if e.length < bs.length then 8 else 0) e.arg 0 s s') ∧
    (s.linkUp f = false → ∀ (tag : Word32) (data : List Byte), exec (.load f data) s = .next s ∧ exec (.writeGateOpen f tag data) s = .next s ∧
      exec (.readBegin f tag) s = .next s ∧ exec (.hostTransferComplete f tag) s = .next s ∧ exec (.stateOut f) s = .next s ∧
      exec (.stateIn f data) s = .next s ∧ exec (.reference f data) s = .next s ∧ exec (.recordOut f) s = .next s)

/-! ### Rein -/

/-- Datagrams (R518 to R522, R528, R531, R534, R535, R538): one that no view processes leaves with every byte unchanged and is counted; each command of a datagram that
passes every check acts at the first view that it addresses, and leaves with the view's address folded into its seal where it did.

The model's own choices under it: log entries 49 and 51. -/
def Obligations.DatagramsActAtTheirView : Prop :=
  ∀ (g : Datagram) (arrive depart : Word64) (v : ViewId) (s : State),
    let r := s.rein
    let w := r.views.get v
    let seal_ := some w.address.toNat
    (∀ (code : Nat) (c : Instr), ([.nop g, .scan g, .addr g, .cyc g, .mbxW g, .mbxR g, .link g arrive depart, .time g arrive depart, .reset g] : List Instr)[code]? = some c →
      dgCode g = code → s.module.state ≠ .off →
      (s.module.state = .booting ∨ dgViews s.addresses g = [] ∨ dgClean g = false ∨ dgForm g = false) →
      ∃ s', exec c s = .next s' ∧ Leaves g s s' ∧ OtherViews moduleView s s' ∧
        (s'.rein.views.get moduleView).unprocessed = (r.views.get moduleView).unprocessed + 1) ∧
    (DatagramTaken 0 g v s → ∃ s', exec (.nop g) s = .next s' ∧ Leaves (dgLeaves g g.data none) s s') ∧
    (DatagramTaken 1 g v s → ∃ s', exec (.scan g) s = .next s' ∧ (s'.rein.views.get v).mailbox = w.mailbox ∧
      (∀ bs, s.scanSlot g = some bs → Leaves (dgLeaves g bs seal_) s s') ∧ (s.scanSlot g = none → Leaves (dgLeaves g g.data none) s s')) ∧
    (DatagramTaken 2 g v s → ∃ s', exec (.addr g) s = .next s' ∧ Leaves (dgLeaves g g.data seal_) s s' ∧
      (s'.rein.views.get moduleView).address = BitVec.ofNat 16 (bits (dgParameter g) 31 16)) ∧
    (DatagramTaken 3 g v s → g.data.length = s.mapLength w.commandMap + s.mapLength w.reportMap → (dgViews s.addresses g).length = 1 →
      ∃ s', exec (.cyc g) s = .next s' ∧ Leaves (dgLeaves g (g.data.take (s.mapLength w.commandMap) ++ s.reportImage v) seal_) s s' ∧
      (newerCycle w.lastCycle (dgParameter g) = true → (s'.rein.views.get v).lastCycle = some (BitVec.ofNat 32 (dgParameter g)) ∧
        (s'.rein.views.get v).images = w.images ++ [g.data.take (s.mapLength w.commandMap)]) ∧
      (newerCycle w.lastCycle (dgParameter g) = false → (s'.rein.views.get v).images = w.images)) ∧
    (DatagramTaken 4 g v s → messageOk g.data = true → w.mailbox.request = none →
      ∃ s', exec (.mbxW g) s = .next s' ∧ Leaves (dgLeaves g g.data seal_) s s' ∧ (s'.rein.views.get v).mailbox = { w.mailbox with request := some g.data }) ∧
    (∀ bs, DatagramTaken 5 g v s → w.mailbox.response = some bs → bs.length ≤ g.data.length →
      ∃ s', exec (.mbxR g) s = .next s' ∧ Leaves (dgLeaves g (fixTo g.data.length bs) seal_) s s' ∧
        (s'.rein.views.get v).mailbox = { w.mailbox with response := none }) ∧
    (DatagramTaken 6 g v s → ∃ s', exec (.link g arrive depart) s = .next s' ∧ Leaves (dgLeaves g (leBytes 8 (r.turns.down.getD allOnes)) seal_) s s' ∧
      s'.rein.linkDelay = (match r.turns.up with
        | some u => if field g.data 0 8 = allOnes then none else some ((field g.data 0 8 - u) / 2)
        | none => none) ∧ s'.rein.prevTurns = r.turns ∧ s'.rein.turns.b = some arrive.toNat) ∧
    (DatagramTaken 7 g v s → bits (wordAt (bytesWords g.data) 0) 0 0 = 0 →
      ∃ s', exec (.time g arrive depart) s = .next s' ∧ OnlyRein s s' ∧ s'.rein.reference = true ∧ s'.rein.synchronized = true ∧
        s'.rein.lastTime = some arrive.toNat) ∧
    (DatagramTaken 7 g v s → bits (wordAt (bytesWords g.data) 0) 0 0 = 1 →
      let l : Int := ((r.linkDelay.getD 0 : Nat) : Int) + r.trim
      let e := (4 * (arrive.toNat : Int) - (4 * (wordAt (bytesWords g.data) 1 : Int) + (wordAt (bytesWords g.data) 2 : Int) + 4 * l)) / 4
      ∃ s', exec (.time g arrive depart) s = .next s' ∧ s' = { s with rein := s'.rein, time := s'.time, tiles := s'.tiles } ∧
        (∀ t, s'.tiles.get t = { s.tiles.get t with island := { (s.tiles.get t).island with time := (s'.tiles.get t).island.time } }) ∧ s'.rein.lastError = e ∧ s'.rein.reference = false ∧
        s'.rein.good = (if -20 ≤ e ∧ e ≤ 20 then min 3 (r.good + 1) else 0) ∧
        (s'.rein.synchronized = true ↔ (r.linkDelay ≠ none ∧ 3 ≤ s'.rein.good)) ∧
        (if (1000 < e ∨ e < -1000) ∧ s.anyLoaded = false then s'.time = ((s.time : Int) - e).toNat ∧ s'.rein.steps = r.steps + 1
         else s'.time = s.time ∧ -1000000 ≤ s'.rein.rate ∧ s'.rein.rate ≤ 1000000)) ∧
    (DatagramTaken 8 g v s → ∃ s', exec (.reset g) s = .next s' ∧ Leaves (dgLeaves g g.data seal_) s s' ∧ (s'.rein.views.get v).resets = w.resets + 1 ∧
      (s'.rein.views.get v).mailbox = Mailbox.reset)

/-- Frames, images and resets (R515 to R518, R523, R529, R536, R538): another type of frame is forwarded; a frame on the return path goes upstream unchanged; one from the
upstream port is processed and counted; a waiting command image is applied in map order; a Rein reset clears its views.

The model's own choices under it: log entry 49. -/
def Obligations.FramesImagesAndReinResets : Prop :=
  ∀ (s : State), s.module.state ≠ .off →
    (∀ fr : ReinFrame,
      (reinType fr.bytes = false → ∃ s', exec (.reinFrame fr) s = .next s' ∧ OnlyRein s s' ∧ s'.rein.out = fr.bytes ∧
        s'.rein.framesForwarded = s.rein.framesForwarded + 1 ∧ s'.rein.views = s.rein.views ∧
        s'.rein.outB = (if (if fr.onB then fr.linkA else fr.linkB) then !fr.onB else fr.onB)) ∧
      (∀ u, reinType fr.bytes = true → s.rein.upstream = some u → u ≠ fr.onB → (if u then fr.linkB else fr.linkA) = true →
        ∃ s', exec (.reinFrame fr) s = .next s' ∧ OnlyRein s s' ∧ s'.rein.out = fr.bytes ∧ s'.rein.outB = u ∧ s'.rein.views = s.rein.views) ∧
      (∀ n, reinType fr.bytes = true → s.rein.upstream = none ∨ s.rein.upstream = some fr.onB → datagramBytes fr.bytes = some n → s.module.state ≠ .booting →
        ∃ s', exec (.reinFrame fr) s = .next s' ∧ s'.rein.framesProcessed = s.rein.framesProcessed + 1 ∧
          s'.rein.frameFailures = s.rein.frameFailures + (if fr.fcsOk then 0 else 1) ∧ s'.rein.outFcsGood = fr.fcsOk ∧
          s'.rein.out.take 22 = fr.bytes.take 22)) ∧
    (∀ (v : ViewId) (im : List Byte) (rest : List (List Byte)), s.module.state ≠ .booting → (s.rein.views.get v).images = im :: rest →
      let s1 := s.modView v fun w => { w with images := rest }
      ((s.rein.views.get v).commandMap = [] → exec (.commandImageApply v) s = .next (s1.modView v fun w => { w with refused := 0 })) ∧
      (∀ e, (s.rein.views.get v).commandMap = [e] →
        let z := s1.odWrite v e.index.toNat e.sub.toNat (im.take (s1.mappedBytes e))
        exec (.commandImageApply v) s = .next (z.2.modView v fun w => { w with refused := if z.1 = 0 ∨ z.1 = 0x07 then 0 else 1 }))) ∧
    (∀ v : ViewId, v ≠ moduleView → ∃ s', exec (.reinReset v) s = .next s' ∧ OnlyRein s s' ∧ OtherViews v s s' ∧
      s'.rein.views.get v = (s.rein.views.get v).cleared) ∧
    (∀ c ∈ ([.reinLinkLoss, .reinReset moduleView] : List Instr), ∃ s', exec c s = .next s' ∧ OnlyRein s s' ∧
      (∀ v, s'.rein.views.get v = (s.rein.views.get v).cleared) ∧ s'.rein.upstream = none ∧ s'.rein.linkDelay = none ∧ s'.rein.trim = 0 ∧
      s'.rein.synchronized = false ∧ (c = .reinLinkLoss → s'.rein.linkA = false ∧ s'.rein.linkB = false)) ∧
    exec .syncWatchExpiry s = .next { s with rein := { s.rein with synchronized := false } }

/-- The mailbox (R525, R530 to R533): a request with the next sequence number is executed and its response stored; a repeated number is answered from the stored response,
and any other with abort 0x0C; reads give the first 480 bytes, segments follow at their offsets, and a write that is not whole opens a segmented one.

The model's own choices under it: log entry 50. -/
def Obligations.MailboxServicesAnswer : Prop :=
  ∀ (v : ViewId) (m : MailMessage) (s : State),
    let w := s.rein.views.get v
    (∀ (service : Nat) (c : Instr), (service, c) ∈ ([(1, .mailboxRead v), (2, .mailboxWrite v), (3, .segmentRead v), (4, .segmentWrite v)] : List (Nat × Instr)) →
      ∀ q, s.module.state ≠ .off → s.module.state ≠ .booting → w.mailbox.request.map mailOf = some m → m.service = service → w.mailbox.lastSeq = some q →
      (m.seq = q → ∃ s', exec c s = .next s' ∧ OnlyRein s s' ∧ OtherViews v s s' ∧
        s'.rein.views.get v = { w with mailbox := { w.mailbox with request := none, response := w.mailbox.stored } }) ∧
      (m.seq ≠ q → m.seq ≠ q + 1 → ∃ s', exec c s = .next s' ∧ OnlyRein s s' ∧ OtherViews v s s' ∧
        s'.rein.views.get v = { w with aborts := w.aborts + 1, mailbox := { w.mailbox with
          request := none, response := some (mailBytes 0xFF 0x0C m.index m.sub (q + 1).toNat m.seq []) } })) ∧
    (MailReady v 1 m s →
      (∀ bs, s.odRead v m.index m.sub = .ok bs → ∃ s', exec (.mailboxRead v) s = .next s' ∧ OnlyRein s s' ∧ OtherViews v s s' ∧
        MailAnswered v m (mailBytes 0x81 0 m.index m.sub bs.length m.seq (bs.take 480)) s s' ∧
        (s'.rein.views.get v).mailbox.readValue = some (BitVec.ofNat 16 m.index, BitVec.ofNat 8 m.sub, bs)) ∧
      (∀ code, s.odRead v m.index m.sub = .error code → ∃ s', exec (.mailboxRead v) s = .next s' ∧ OnlyRein s s' ∧ OtherViews v s s' ∧
        MailAnswered v m (mailBytes 0xFF code m.index m.sub 0 m.seq []) s s' ∧ (s'.rein.views.get v).aborts = w.aborts + 1)) ∧
    (MailReady v 2 m s →
      (m.length < m.value → ∃ s', exec (.mailboxWrite v) s = .next s' ∧ OnlyRein s s' ∧ OtherViews v s s' ∧
        MailAnswered v m (mailBytes 0x82 0 m.index m.sub m.value m.seq []) s s' ∧
        (s'.rein.views.get v).mailbox.writing = some (BitVec.ofNat 16 m.index, BitVec.ofNat 8 m.sub, m.value, m.data)) ∧
      (m.value = m.length →
        let z := (s.modView v fun w => { w with mailbox := { w.mailbox with readValue := none, writing := none } }).odWrite v m.index m.sub m.data
        ((z.2.rein.views.get v).resets = w.resets → (z.2.rein.views.get v).executed = w.executed →
          ∃ s', exec (.mailboxWrite v) s = .next s' ∧ s' = { z.2 with rein := s'.rein } ∧
            MailAnswered v m (if z.1 = 0 then mailBytes 0x82 0 m.index m.sub m.value m.seq [] else mailBytes 0xFF z.1 m.index m.sub 0 m.seq []) s s'))) ∧
    (∀ bs, MailReady v 3 m s → w.mailbox.readValue = some (BitVec.ofNat 16 m.index, BitVec.ofNat 8 m.sub, bs) → m.index < 2 ^ 16 → m.sub < 2 ^ 8 →
      m.value ≤ bs.length → ∃ s', exec (.segmentRead v) s = .next s' ∧ OnlyRein s s' ∧ OtherViews v s s' ∧
        MailAnswered v m (mailBytes 0x83 0 m.index m.sub m.value m.seq (slice bs m.value 480)) s s') ∧
    (∀ total bs, MailReady v 4 m s → w.mailbox.writing = some (BitVec.ofNat 16 m.index, BitVec.ofNat 8 m.sub, total, bs) → m.index < 2 ^ 16 → m.sub < 2 ^ 8 →
      m.value = bs.length → bs.length + m.length < total → ∃ s', exec (.segmentWrite v) s = .next s' ∧ OnlyRein s s' ∧ OtherViews v s s' ∧
        MailAnswered v m (mailBytes 0x84 0 m.index m.sub m.value m.seq []) s s' ∧
        (s'.rein.views.get v).mailbox.writing = some (BitVec.ofNat 16 m.index, BitVec.ofNat 8 m.sub, total, bs ++ m.data))

/-! ### The object dictionary and the module's states -/

/-- Writes, stores and restores (R427, R525, R537, R546, R550): a power or thermal setting that is written reads back; a refused write changes nothing, but what its entry
counts; a store saves every setting of class M as it stands, and a restore discards the saved set.

The model's own choices under it: log entries 46 and 47. -/
def Obligations.WritesStoresAndRestores : Prop :=
  ∀ (s : State),
    (∀ (v : ViewId) (idx : BitVec 16) (sub : BitVec 8) (data : List Byte),
      let code := s.writeCode v idx.toNat sub.toNat (entryData idx.toNat sub.toNat data)
      (code ≠ 0 → ∃ s', exec (.odWrite v idx sub data) s = .next s' ∧ s' = { s with governor := s'.governor, parts := s'.parts } ∧
        s'.governor = { s.governor with capRefused := s'.governor.capRefused } ∧ (∀ n, (s'.parts.get n).settings = (s.parts.get n).settings) ∧
        (idx = 0x2500 → sub = 1 → code = 0x05 → s'.governor.capRefused = s.governor.capRefused + 1)) ∧
      (code = 0 → ∀ f ∈ moduleSettings, f.1 = idx.toNat → f.2.1 = sub.toNat → f.1 = 0x2500 ∨ f.1 = 0x2600 →
        ∃ s' x, exec (.odWrite v idx sub data) s = .next s' ∧ s' = { s with governor := s'.governor, thermal := s'.thermal } ∧
          odIndex idx.toNat = some x ∧ (s'.odEntry x sub.toNat).map (·.val) = some data)) ∧
    (∀ ok : Bool, s.flash.storing = none → s.module.state = .configured →
      (∃ s', exec (.store ok) s = .next s' ∧ s' = { s with flash := s'.flash } ∧ s'.flash.storing = none ∧
        s'.flash.storeStatus = (if ok then 2 else 3) ∧ s'.flash.stores = s.flash.stores + (if ok then 1 else 0) ∧
        (ok = false → s'.flash.saved = s.flash.saved) ∧
        (ok = true → ∃ es, s'.flash.saved = some es ∧ ∀ f ∈ factorySettings, ∀ x e, odIndex f.1 = some x → s.odEntry x f.2.1 = some e →
          (⟨BitVec.ofNat 16 f.1, BitVec.ofNat 8 f.2.1, e.val⟩ : Setting) ∈ es)) ∧
      (∃ s', exec (.restoreFactory ok) s = .next s' ∧ s' = { s with flash := s'.flash } ∧ s'.flash.storing = none ∧ s'.flash.stores = s.flash.stores ∧
        s'.flash.saved = (if ok then none else s.flash.saved) ∧ s'.flash.storeStatus = (if ok then 2 else 3)))

/-- The module's states (R552 to R558, R561, R562, R565): power-on brings up what its tests find, waits in Init on the coolant, and stays in Booting without a firmware
image; Standby takes the ports, the stacks and the idle cores down and its end brings them up; a module reset frees every partition and ends Configured.

The model's own choices under it: log entries 1, 35 and 45. -/
def Obligations.TheModuleChangesState : Prop :=
  ∀ (s : State),
    (∀ (c : CoolantReading) (r : PowerOnTests), s.module.state = .off → s.input.band = .normal → s.input.epo = false →
      (500 < c.inlet → exec (.powerOn c r) s = .fault .beyondAbsoluteMaximum) ∧
      (c.inlet ≤ 500 → ∃ s', exec (.powerOn c r) s = .next s' ∧ s'.time = 0 ∧
        s'.flash.epoCount = s.flash.epoCount + (if s.input.epoPending then 1 else 0) ∧
        (s.flash.installedOk = false → s.flash.otherOk = false → s'.module.state = .booting ∧ s'.flash.powerOns = s.flash.powerOns) ∧
        (s.flash.installedOk = true ∨ s.flash.otherOk = true → s'.flash.powerOns = s.flash.powerOns + 1 ∧
          (coolantBad c.inlet c.outlet c.flow = true → s'.module.state = .init ∧ s'.module.coolantWait = true) ∧
          (coolantBad c.inlet c.outlet c.flow = false →
            s'.module.state = (if 20 ≤ s'.workingConverters then .configured else .fault) ∧
            ∀ t, (s'.tiles.get t).island.weltFailed = r.welts.contains t)))) ∧
    (∀ (c : CoolantReading) (r : PowerOnTests), s.module.state = .init → s.module.coolantWait = true →
      (500 < c.inlet → exec (.coolantRecheck c r) s = .fault .beyondAbsoluteMaximum) ∧
      (c.inlet ≤ 500 → ∃ s', exec (.coolantRecheck c r) s = .next s' ∧
        (coolantBad c.inlet c.outlet c.flow = true → s' = { s with thermal := s'.thermal }) ∧
        (coolantBad c.inlet c.outlet c.flow = false → s'.module.state = (if 20 ≤ s'.workingConverters then .configured else .fault) ∧
          s'.module.coolantWait = false ∧ ∀ t, (s'.tiles.get t).island.weltFailed = r.welts.contains t))) ∧
    (∀ c ∈ ([(1, .moduleReset), (2, .enterStandby), (3, .leaveStandby), (4, .leaveFault)] : List (Nat × Instr)), s.commandOk c.1 = false → exec c.2 s = .next s) ∧
    (∀ c ∈ ([(1, .moduleReset), (4, .leaveFault)] : List (Nat × Instr)), s.commandOk c.1 = true →
      ∃ s', exec c.2 s = .next s' ∧ s'.time = s.time ∧ (∀ n, (s'.parts.get n).state = .free) ∧
        (∀ f, (s'.fns.get f).entries = [] ∧ (s'.fns.get f).submission = Ring.reset ∧ (s'.fns.get f).completion = Ring.reset) ∧
        (s.flash.installedOk = false → s.flash.otherOk = false → s'.module.state = .booting) ∧
        (s.flash.installedOk = true ∨ s.flash.otherOk = true → s'.flash.moduleResets = s.flash.moduleResets + 1 ∧
          s'.module.state = (if 20 ≤ s'.workingConverters then .configured else .fault))) ∧
    (s.commandOk 2 = true → ∃ s', exec .enterStandby s = .next s' ∧ s'.module.state = .standby ∧ s'.module.commandStatus = 2 ∧ s'.parts = s.parts ∧
      (∀ p, (s'.ports.get p).state ≠ .up) ∧ (∀ k, (s'.stackDies.get k).power ≠ .up) ∧ (∀ t, (s'.tiles.get t).island.state ≠ .retain)) ∧
    (s.commandOk 3 = true → ∃ s', exec .leaveStandby s = .next s' ∧ s'.module.commandStatus = 2 ∧
      (∀ l, (s'.linkDies.get l).clockStopped = false ∧ (s'.linkDies.get l).failed = (s.linkDies.get l).failed) ∧
      (s.selfTest.tests = [] → s'.module.state = .configured ∧ ∀ p ∈ s.module.linkUpBeforeStandby, (s'.ports.get p).state = (if (s.ports.get p).present then .training else .down)))

/-! ### The whole machine -/

/-- A step takes the command at the front of the queue and is `exec` of it with the rest of the queue. With no command waiting, the module idles: Off it stays as it is, and
otherwise one nanosecond of module time passes (the model's choice, log entry 2), which moves nothing but times and sums where nothing is under way. No word spells a command.

The model's own choices under it: log entries 2, 38, 59, 60 and 62. -/
def Obligations.AStepRunsTheFrontCommand : Prop :=
  (∀ (c : Instr) (rest : List Instr) (s : State), s.pending = c :: rest → step s = exec c { s with pending := rest }) ∧
  (∀ s : State, s.pending = [] → s.module.state = .off → step s = .next s) ∧
  (∀ s : State, s.pending = [] → s.module.state ≠ .off → ∃ s', step s = .next s' ∧ s'.time = s.time + 1 ∧ s'.pending = [] ∧ s'.rein = s.rein ∧
    (Quiet s → s'.module = s.module ∧ s'.fns = s.fns ∧ s'.fabric = s.fabric ∧ s'.placer = s.placer ∧ s'.ports = s.ports ∧ ∀ t, SameData t s s' ∧
      (s'.tiles.get t).router = (s.tiles.get t).router ∧
      (s'.tiles.get t).island = { (s.tiles.get t).island with time := (s'.tiles.get t).island.time } ∧
      ((s.tiles.get t).island.weltFailed = false → (s'.tiles.get t).island.time = BitVec.ofNat 64 s'.time) ∧
      (s'.tiles.get t).seqr = { (s.tiles.get t).seqr with pageWaits := (s'.tiles.get t).seqr.pageWaits } ∧
      (s'.tiles.get t).stream = { (s.tiles.get t).stream with storeRefusals := (s'.tiles.get t).stream.storeRefusals })) ∧
  (∀ (s : State) (nbits w : Nat), s.withFetchWord nbits w = s)

/-- The state after reset: the module is Off, no command waits, no partition is bound to anything, no core has power, every memory is empty and in canonical form, and the
Rein clock registers lie in their ranges.

The model's own choices under it: log entry 1. -/
def Obligations.ResetLeavesTheModuleOff : Prop :=
  State.reset.pending = [] ∧ State.reset.module.state = .off ∧ State.reset.time = 0 ∧
  (∀ n, (State.reset.parts.get n).state = .free ∧ (State.reset.parts.get n).image = none ∧ (State.reset.parts.get n).tiles = [] ∧
    (State.reset.parts.get n).weights.regions = []) ∧
  (∀ t, (State.reset.tiles.get t).island.state = .off ∧ (State.reset.tiles.get t).store = [] ∧ (State.reset.tiles.get t).array.active = none) ∧
  (∀ f, (State.reset.fns.get f).submission.enabled = false ∧ (State.reset.fns.get f).entries = []) ∧
  State.reset.fabric.inFlight = [] ∧ State.reset.memoriesOk = true ∧ State.reset.rein.inRange = true

/-- A write of bytes into a memory is read back, leaves every other byte as it was, and keeps the canonical form, so that equal memories are equal data.

The model's own choices under it: log entry 37. -/
def Obligations.MemoriesReadBackAndStayCanonical : Prop :=
  ∀ (m : List Host.Cell) (a : Nat) (bs : List Byte),
    cellsWritten m (Cells.write m a bs) a bs ∧
    (Cells.wf m = true → Cells.wf (Cells.write m a bs) = true) ∧
    (∀ m' : List Host.Cell, Cells.wf m = true → Cells.wf m' = true → (∀ i, Cells.read m i = Cells.read m' i) → m = m')

/-- No command is refused, and a command stops only where an input is beyond the absolute maxima of R583.

The model's own choices under it: log entry 39. -/
def Obligations.OnlyAbsoluteMaximaStopTheModule : Prop :=
  ∀ (c : Instr) (s : State),
    (∀ r, exec c s ≠ .refused r) ∧ (Instr.mayStop c = false → ∃ s', exec c s = .next s') ∧ (∀ e, exec c s = .fault e → e = .beyondAbsoluteMaximum)

/-- Every step takes one command from the queue and leaves the rest as it stood, and keeps the Rein clock registers in their ranges: the delay trim within 1,000 ns, the
steering rate within 0.1 %, and the count of good errors at most 3 (R535, R545).

The model's own choices under it: log entry 51. -/
def Obligations.EveryStepKeepsTheQueueAndTheClock : Prop :=
  ∀ (s s' : State), s.rein.inRange = true → step s = .next s' → s'.rein.inRange = true ∧ s'.pending = s.pending.tail

/-- R427: a write of the module cap outside 8,000 to 28,000 W, or below the sum of the base load, the link power and the floor powers of the last loop, is refused and
counted; one that is accepted takes effect at the next loop. -/
def Obligations.CapWritesAreCheckedAndTakeEffectAtTheLoop : Prop :=
  ∀ (data : List Byte) (s : State), s.module.state ≠ .off → s.module.state ≠ .booting → data.length = 4 →
    let w := leNat data
    let bad := w < 8000 ∨ 28000 < w ∨ w < s.governor.basePower + s.governor.linkPower + s.governor.floorPower
    (bad → exec (.odWrite moduleView 0x2500 0x01 data) s = .next { s with governor := { s.governor with capRefused := s.governor.capRefused + 1 } }) ∧
    (¬ bad → ∃ s', exec (.odWrite moduleView 0x2500 0x01 data) s = .next s' ∧ s' = { s with governor := s'.governor } ∧
      s'.governor = { s.governor with capNext := s'.governor.capNext } ∧ s'.governor.cap = s.governor.cap ∧
      ∀ r : LoopPowers, ∃ s'', exec (.governorLoop r) s' = .next s'' ∧ s''.governor.cap.toNat = w)

/-- R470: when a retry, called here or by another member, would make the attempt number exceed the retry limit, the partition is reset instead. -/
def Obligations.ARetryBeyondTheLimitResetsThePartition : Prop :=
  ∀ (n : PartId) (s : State), (s.parts.get n).state = .loaded → (s.parts.get n).run.retry = none → (s.parts.get n).run.record = none →
    (∀ code : BitVec 16, s.faults.retryLimit.toNat < (s.parts.get n).run.attempt + 1 →
      ∃ s', exec (.stepRetry n code) s = .next s' ∧ WasReset n s s' ∧ s'.faults.retries = s.faults.retries) ∧
    (∀ words : List Word64, NoticeReady n words s → wordAt words 1 = (s.parts.get n).run.step → bits (wordAt words 0) 47 40 ≠ 0xFF →
      (s.parts.get n).run.attempt < bits (wordAt words 0) 47 40 → s.faults.retryLimit.toNat < bits (wordAt words 0) 47 40 →
      ∃ s', exec (.retryNotice n words) s = .next s' ∧ WasReset n s s' ∧ s'.faults.retries = s.faults.retries)
end

