-- ==== Sys2Proof/Laws/Cells.lean ====
section
/-! SUPPORT. Byte memories: every operation on a list of cells keeps its canonical form, and the memories of the state after reset have it. -/

namespace Sys2Proof.Machine

/-- The cells of bytes laid out from address `a` lie within the bytes laid out. -/
theorem Cells.ofBytes_range (bs : List Byte) : ∀ (a : Nat) (c : Host.Cell), c ∈ Cells.ofBytes a bs → a ≤ c.1 ∧ c.1 < a + bs.length := by
  induction bs with
  | nil => intro a c h; simp [Cells.ofBytes] at h
  | cons b bs ih =>
    intro a c h
    have tail : c ∈ Cells.ofBytes (a + 1) bs → a ≤ c.1 ∧ c.1 < a + (b :: bs).length := fun h => by
      have := ih (a + 1) c h
      simp only [List.length_cons]; omega
    unfold Cells.ofBytes at h
    split at h
    · exact tail h
    · rcases List.mem_cons.1 h with rfl | h
      · simp
      · exact tail h

/-- No cell of bytes laid out holds the byte that an unlisted address reads as. -/
theorem Cells.ofBytes_ne_zero (bs : List Byte) : ∀ (a : Nat) (c : Host.Cell), c ∈ Cells.ofBytes a bs → c.2 ≠ 0 := by
  induction bs with
  | nil => intro a c h; simp [Cells.ofBytes] at h
  | cons b bs ih =>
    intro a c h
    unfold Cells.ofBytes at h
    split at h
    · exact ih _ c h
    · rcases List.mem_cons.1 h with rfl | h
      · assumption
      · exact ih _ c h

/-- The cells of bytes laid out stand in rising order. -/
theorem Cells.ofBytes_pairwise (bs : List Byte) : ∀ a : Nat, (Cells.ofBytes a bs).Pairwise fun x y => x.1 < y.1 := by
  induction bs with
  | nil => intro a; simp [Cells.ofBytes]
  | cons b bs ih =>
    intro a
    unfold Cells.ofBytes
    split
    · exact ih _
    · exact List.pairwise_cons.2 ⟨fun c h => by have := Cells.ofBytes_range bs (a + 1) c h; simp only; omega, ih _⟩

/-- The canonical form in words: rising addresses, and no cell that holds zero. -/
theorem Cells.wf_iff (m : List Host.Cell) : Cells.wf m = true ↔ (m.Pairwise fun x y => x.1 < y.1) ∧ ∀ c ∈ m, c.2 ≠ 0 := by
  simp [Cells.wf]

/-- A write keeps the canonical form. -/
theorem Cells.write_keeps_wf (m : List Host.Cell) (a : Nat) (bs : List Byte) (h : Cells.wf m = true) : Cells.wf (Cells.write m a bs) = true := by
  obtain ⟨hp, hz⟩ := (Cells.wf_iff m).1 h
  refine (Cells.wf_iff _).2 ⟨?_, ?_⟩
  · unfold Cells.write
    refine List.pairwise_append.2 ⟨List.pairwise_append.2 ⟨hp.filter _, Cells.ofBytes_pairwise bs a, ?_⟩, hp.filter _, ?_⟩
    · intro x hx y hy
      have h1 := (List.mem_filter.1 hx).2
      have h2 := Cells.ofBytes_range bs a y hy
      simp only [decide_eq_true_eq] at h1
      omega
    · intro x hx y hy
      have h2 := (List.mem_filter.1 hy).2
      simp only [decide_eq_true_eq] at h2
      rcases List.mem_append.1 hx with hx | hx
      · have h1 := (List.mem_filter.1 hx).2
        simp only [decide_eq_true_eq] at h1
        omega
      · have h1 := Cells.ofBytes_range bs a x hx
        omega
  · intro c hc
    unfold Cells.write at hc
    rcases List.mem_append.1 hc with hc | hc
    · rcases List.mem_append.1 hc with hc | hc
      · exact hz c (List.mem_filter.1 hc).1
      · exact Cells.ofBytes_ne_zero bs a c hc
    · exact hz c (List.mem_filter.1 hc).1

/-- The empty memory is in canonical form. -/
theorem Cells.wf_nil : Cells.wf [] = true := by decide

/-- Keeping only some cells keeps the canonical form: a tile that goes on with part of a store (R232), a block taken from a store. -/
theorem Cells.filter_keeps_wf (m : List Host.Cell) (p : Host.Cell → Bool) (h : Cells.wf m = true) : Cells.wf (m.filter p) = true := by
  obtain ⟨hp, hz⟩ := (Cells.wf_iff m).1 h
  exact (Cells.wf_iff _).2 ⟨hp.filter _, fun c hc => hz c (List.mem_filter.1 hc).1⟩

/-- The cells of a stretch of a memory, renumbered from its start, are in canonical form: the block that LOADW takes from the store (R93). -/
theorem Cells.stretch_keeps_wf (m : List Host.Cell) (a n : Nat) (h : Cells.wf m = true) :
    Cells.wf ((m.filter fun c => decide (a ≤ c.1 ∧ c.1 < a + n)).map fun c => (c.1 - a, c.2)) = true := by
  obtain ⟨hp, hz⟩ := (Cells.wf_iff m).1 h
  refine (Cells.wf_iff _).2 ⟨?_, ?_⟩
  · refine List.pairwise_map.2 ?_
    refine (hp.filter fun c => decide (a ≤ c.1 ∧ c.1 < a + n)).imp_of_mem ?_
    intro x y hx hy hxy
    have h1 := (List.mem_filter.1 hx).2
    have h2 := (List.mem_filter.1 hy).2
    simp only [decide_eq_true_eq] at h1 h2
    simp only
    omega
  · intro c hc
    obtain ⟨d, hd, rfl⟩ := List.mem_map.1 hc
    exact hz d (List.mem_filter.1 hd).1

/-- A write into a region keeps its cells in canonical form (R197, R226). -/
theorem Region.write_keeps_wf (r : Region) (off : Nat) (bs : List Byte) (tag : Option Tag) (h : Cells.wf r.cells = true) :
    Cells.wf (r.write off bs tag).cells = true := Cells.write_keeps_wf r.cells off bs h

/-- A region of clean blocks is in canonical form. -/
theorem Region.clean_wf : Cells.wf Region.clean.cells = true := by decide

/-- A write into an activation store keeps it in canonical form, whatever its check status (R155, R156). -/
theorem Tile.storeWrite_keeps_wf (x : Tile) (addr : Nat) (bs : List Byte) (st : CheckStatus) (h : Cells.wf x.store = true) :
    Cells.wf (x.storeWrite addr bs st).store = true := by
  unfold Tile.storeWrite
  split <;> first | exact h | exact Cells.write_keeps_wf x.store addr bs h

/-- The memories of the state after reset are in canonical form. -/
theorem State.reset_memories_wf : (∀ t, Cells.wf (State.reset.tiles.get t).store = true) ∧
    ∀ n, (State.reset.parts.get n).weights.regions = [] := by
  refine ⟨fun t => ?_, fun n => ?_⟩ <;> simp [State.reset] <;> rfl

end Sys2Proof.Machine
end

