-- ==== Sys2Proof/Laws/State.lean ====
section
/-! SUPPORT. Reading the state after one named update: the element changed, the elements not changed, and every other field. -/

namespace Sys2Proof.Machine

/-! ### One element of a vector -/

/-- The element that was changed. -/
@[simp] theorem vmod_get_same {α : Type} {n : Nat} (v : Vector α n) (i : Fin n) (f : α → α) : (vmod v i f).get i = f (v.get i) := by
  change (v.set i.1 (f (v.get i)) i.2)[i.1] = f (v.get i)
  simp

/-- Any other element. -/
theorem vmod_get_other {α : Type} {n : Nat} (v : Vector α n) {i j : Fin n} (f : α → α) (h : j ≠ i) : (vmod v i f).get j = v.get j := by
  have h' : i.1 ≠ j.1 := fun e => h (Fin.ext e.symm)
  change (v.set i.1 (f (v.get i)) i.2)[j.1] = v[j.1]
  simp [h']

/-- Any element. -/
theorem vmod_get {α : Type} {n : Nat} (v : Vector α n) (i j : Fin n) (f : α → α) : (vmod v i f).get j = if j = i then f (v.get i) else v.get j := by
  by_cases h : j = i
  · subst h; simp
  · simp [h, vmod_get_other v f h]

/-! ### modTile -/

@[simp] theorem State.modTile_get_same (s : State) (t : TileId) (f : Tile → Tile) : (s.modTile t f).tiles.get t = f (s.tiles.get t) := vmod_get_same _ _ _
theorem State.modTile_get_other (s : State) {t i : TileId} (f : Tile → Tile) (h : i ≠ t) : (s.modTile t f).tiles.get i = s.tiles.get i := vmod_get_other _ _ h
@[simp] theorem State.modTile_time (s : State) (t : TileId) (f : Tile → Tile) : (s.modTile t f).time = s.time := rfl
@[simp] theorem State.modTile_module (s : State) (t : TileId) (f : Tile → Tile) : (s.modTile t f).module = s.module := rfl
@[simp] theorem State.modTile_flash (s : State) (t : TileId) (f : Tile → Tile) : (s.modTile t f).flash = s.flash := rfl
@[simp] theorem State.modTile_placer (s : State) (t : TileId) (f : Tile → Tile) : (s.modTile t f).placer = s.placer := rfl
@[simp] theorem State.modTile_ranges (s : State) (t : TileId) (f : Tile → Tile) : (s.modTile t f).ranges = s.ranges := rfl
@[simp] theorem State.modTile_audit (s : State) (t : TileId) (f : Tile → Tile) : (s.modTile t f).audit = s.audit := rfl
@[simp] theorem State.modTile_fabric (s : State) (t : TileId) (f : Tile → Tile) : (s.modTile t f).fabric = s.fabric := rfl
@[simp] theorem State.modTile_links (s : State) (t : TileId) (f : Tile → Tile) : (s.modTile t f).links = s.links := rfl
@[simp] theorem State.modTile_collective (s : State) (t : TileId) (f : Tile → Tile) : (s.modTile t f).collective = s.collective := rfl
@[simp] theorem State.modTile_cinch (s : State) (t : TileId) (f : Tile → Tile) : (s.modTile t f).cinch = s.cinch := rfl
@[simp] theorem State.modTile_input (s : State) (t : TileId) (f : Tile → Tile) : (s.modTile t f).input = s.input := rfl
@[simp] theorem State.modTile_governor (s : State) (t : TileId) (f : Tile → Tile) : (s.modTile t f).governor = s.governor := rfl
@[simp] theorem State.modTile_thermal (s : State) (t : TileId) (f : Tile → Tile) : (s.modTile t f).thermal = s.thermal := rfl
@[simp] theorem State.modTile_faults (s : State) (t : TileId) (f : Tile → Tile) : (s.modTile t f).faults = s.faults := rfl
@[simp] theorem State.modTile_selfTest (s : State) (t : TileId) (f : Tile → Tile) : (s.modTile t f).selfTest = s.selfTest := rfl
@[simp] theorem State.modTile_rein (s : State) (t : TileId) (f : Tile → Tile) : (s.modTile t f).rein = s.rein := rfl
@[simp] theorem State.modTile_pcie (s : State) (t : TileId) (f : Tile → Tile) : (s.modTile t f).pcie = s.pcie := rfl
@[simp] theorem State.modTile_stackDies (s : State) (t : TileId) (f : Tile → Tile) : (s.modTile t f).stackDies = s.stackDies := rfl
@[simp] theorem State.modTile_linkDies (s : State) (t : TileId) (f : Tile → Tile) : (s.modTile t f).linkDies = s.linkDies := rfl
@[simp] theorem State.modTile_ports (s : State) (t : TileId) (f : Tile → Tile) : (s.modTile t f).ports = s.ports := rfl
@[simp] theorem State.modTile_dies (s : State) (t : TileId) (f : Tile → Tile) : (s.modTile t f).dies = s.dies := rfl
@[simp] theorem State.modTile_parts (s : State) (t : TileId) (f : Tile → Tile) : (s.modTile t f).parts = s.parts := rfl
@[simp] theorem State.modTile_fns (s : State) (t : TileId) (f : Tile → Tile) : (s.modTile t f).fns = s.fns := rfl
@[simp] theorem State.modTile_free (s : State) (t : TileId) (f : Tile → Tile) : (s.modTile t f).free = s.free := rfl
@[simp] theorem State.modTile_pending (s : State) (t : TileId) (f : Tile → Tile) : (s.modTile t f).pending = s.pending := rfl

/-! ### modStack -/

@[simp] theorem State.modStack_get_same (s : State) (k : StackId) (f : Stack → Stack) : (s.modStack k f).stackDies.get k = f (s.stackDies.get k) := vmod_get_same _ _ _
theorem State.modStack_get_other (s : State) {k i : StackId} (f : Stack → Stack) (h : i ≠ k) : (s.modStack k f).stackDies.get i = s.stackDies.get i := vmod_get_other _ _ h
@[simp] theorem State.modStack_time (s : State) (k : StackId) (f : Stack → Stack) : (s.modStack k f).time = s.time := rfl
@[simp] theorem State.modStack_module (s : State) (k : StackId) (f : Stack → Stack) : (s.modStack k f).module = s.module := rfl
@[simp] theorem State.modStack_flash (s : State) (k : StackId) (f : Stack → Stack) : (s.modStack k f).flash = s.flash := rfl
@[simp] theorem State.modStack_placer (s : State) (k : StackId) (f : Stack → Stack) : (s.modStack k f).placer = s.placer := rfl
@[simp] theorem State.modStack_ranges (s : State) (k : StackId) (f : Stack → Stack) : (s.modStack k f).ranges = s.ranges := rfl
@[simp] theorem State.modStack_audit (s : State) (k : StackId) (f : Stack → Stack) : (s.modStack k f).audit = s.audit := rfl
@[simp] theorem State.modStack_fabric (s : State) (k : StackId) (f : Stack → Stack) : (s.modStack k f).fabric = s.fabric := rfl
@[simp] theorem State.modStack_links (s : State) (k : StackId) (f : Stack → Stack) : (s.modStack k f).links = s.links := rfl
@[simp] theorem State.modStack_collective (s : State) (k : StackId) (f : Stack → Stack) : (s.modStack k f).collective = s.collective := rfl
@[simp] theorem State.modStack_cinch (s : State) (k : StackId) (f : Stack → Stack) : (s.modStack k f).cinch = s.cinch := rfl
@[simp] theorem State.modStack_input (s : State) (k : StackId) (f : Stack → Stack) : (s.modStack k f).input = s.input := rfl
@[simp] theorem State.modStack_governor (s : State) (k : StackId) (f : Stack → Stack) : (s.modStack k f).governor = s.governor := rfl
@[simp] theorem State.modStack_thermal (s : State) (k : StackId) (f : Stack → Stack) : (s.modStack k f).thermal = s.thermal := rfl
@[simp] theorem State.modStack_faults (s : State) (k : StackId) (f : Stack → Stack) : (s.modStack k f).faults = s.faults := rfl
@[simp] theorem State.modStack_selfTest (s : State) (k : StackId) (f : Stack → Stack) : (s.modStack k f).selfTest = s.selfTest := rfl
@[simp] theorem State.modStack_rein (s : State) (k : StackId) (f : Stack → Stack) : (s.modStack k f).rein = s.rein := rfl
@[simp] theorem State.modStack_pcie (s : State) (k : StackId) (f : Stack → Stack) : (s.modStack k f).pcie = s.pcie := rfl
@[simp] theorem State.modStack_tiles (s : State) (k : StackId) (f : Stack → Stack) : (s.modStack k f).tiles = s.tiles := rfl
@[simp] theorem State.modStack_linkDies (s : State) (k : StackId) (f : Stack → Stack) : (s.modStack k f).linkDies = s.linkDies := rfl
@[simp] theorem State.modStack_ports (s : State) (k : StackId) (f : Stack → Stack) : (s.modStack k f).ports = s.ports := rfl
@[simp] theorem State.modStack_dies (s : State) (k : StackId) (f : Stack → Stack) : (s.modStack k f).dies = s.dies := rfl
@[simp] theorem State.modStack_parts (s : State) (k : StackId) (f : Stack → Stack) : (s.modStack k f).parts = s.parts := rfl
@[simp] theorem State.modStack_fns (s : State) (k : StackId) (f : Stack → Stack) : (s.modStack k f).fns = s.fns := rfl
@[simp] theorem State.modStack_free (s : State) (k : StackId) (f : Stack → Stack) : (s.modStack k f).free = s.free := rfl
@[simp] theorem State.modStack_pending (s : State) (k : StackId) (f : Stack → Stack) : (s.modStack k f).pending = s.pending := rfl

/-! ### modPort -/

@[simp] theorem State.modPort_get_same (s : State) (p : PortId) (f : Port → Port) : (s.modPort p f).ports.get p = f (s.ports.get p) := vmod_get_same _ _ _
theorem State.modPort_get_other (s : State) {p i : PortId} (f : Port → Port) (h : i ≠ p) : (s.modPort p f).ports.get i = s.ports.get i := vmod_get_other _ _ h
@[simp] theorem State.modPort_time (s : State) (p : PortId) (f : Port → Port) : (s.modPort p f).time = s.time := rfl
@[simp] theorem State.modPort_module (s : State) (p : PortId) (f : Port → Port) : (s.modPort p f).module = s.module := rfl
@[simp] theorem State.modPort_flash (s : State) (p : PortId) (f : Port → Port) : (s.modPort p f).flash = s.flash := rfl
@[simp] theorem State.modPort_placer (s : State) (p : PortId) (f : Port → Port) : (s.modPort p f).placer = s.placer := rfl
@[simp] theorem State.modPort_ranges (s : State) (p : PortId) (f : Port → Port) : (s.modPort p f).ranges = s.ranges := rfl
@[simp] theorem State.modPort_audit (s : State) (p : PortId) (f : Port → Port) : (s.modPort p f).audit = s.audit := rfl
@[simp] theorem State.modPort_fabric (s : State) (p : PortId) (f : Port → Port) : (s.modPort p f).fabric = s.fabric := rfl
@[simp] theorem State.modPort_links (s : State) (p : PortId) (f : Port → Port) : (s.modPort p f).links = s.links := rfl
@[simp] theorem State.modPort_collective (s : State) (p : PortId) (f : Port → Port) : (s.modPort p f).collective = s.collective := rfl
@[simp] theorem State.modPort_cinch (s : State) (p : PortId) (f : Port → Port) : (s.modPort p f).cinch = s.cinch := rfl
@[simp] theorem State.modPort_input (s : State) (p : PortId) (f : Port → Port) : (s.modPort p f).input = s.input := rfl
@[simp] theorem State.modPort_governor (s : State) (p : PortId) (f : Port → Port) : (s.modPort p f).governor = s.governor := rfl
@[simp] theorem State.modPort_thermal (s : State) (p : PortId) (f : Port → Port) : (s.modPort p f).thermal = s.thermal := rfl
@[simp] theorem State.modPort_faults (s : State) (p : PortId) (f : Port → Port) : (s.modPort p f).faults = s.faults := rfl
@[simp] theorem State.modPort_selfTest (s : State) (p : PortId) (f : Port → Port) : (s.modPort p f).selfTest = s.selfTest := rfl
@[simp] theorem State.modPort_rein (s : State) (p : PortId) (f : Port → Port) : (s.modPort p f).rein = s.rein := rfl
@[simp] theorem State.modPort_pcie (s : State) (p : PortId) (f : Port → Port) : (s.modPort p f).pcie = s.pcie := rfl
@[simp] theorem State.modPort_tiles (s : State) (p : PortId) (f : Port → Port) : (s.modPort p f).tiles = s.tiles := rfl
@[simp] theorem State.modPort_stackDies (s : State) (p : PortId) (f : Port → Port) : (s.modPort p f).stackDies = s.stackDies := rfl
@[simp] theorem State.modPort_linkDies (s : State) (p : PortId) (f : Port → Port) : (s.modPort p f).linkDies = s.linkDies := rfl
@[simp] theorem State.modPort_dies (s : State) (p : PortId) (f : Port → Port) : (s.modPort p f).dies = s.dies := rfl
@[simp] theorem State.modPort_parts (s : State) (p : PortId) (f : Port → Port) : (s.modPort p f).parts = s.parts := rfl
@[simp] theorem State.modPort_fns (s : State) (p : PortId) (f : Port → Port) : (s.modPort p f).fns = s.fns := rfl
@[simp] theorem State.modPort_free (s : State) (p : PortId) (f : Port → Port) : (s.modPort p f).free = s.free := rfl
@[simp] theorem State.modPort_pending (s : State) (p : PortId) (f : Port → Port) : (s.modPort p f).pending = s.pending := rfl

/-! ### modLink -/

@[simp] theorem State.modLink_get_same (s : State) (l : LinkId) (f : LinkDie → LinkDie) : (s.modLink l f).linkDies.get l = f (s.linkDies.get l) := vmod_get_same _ _ _
theorem State.modLink_get_other (s : State) {l i : LinkId} (f : LinkDie → LinkDie) (h : i ≠ l) : (s.modLink l f).linkDies.get i = s.linkDies.get i := vmod_get_other _ _ h
@[simp] theorem State.modLink_time (s : State) (l : LinkId) (f : LinkDie → LinkDie) : (s.modLink l f).time = s.time := rfl
@[simp] theorem State.modLink_module (s : State) (l : LinkId) (f : LinkDie → LinkDie) : (s.modLink l f).module = s.module := rfl
@[simp] theorem State.modLink_flash (s : State) (l : LinkId) (f : LinkDie → LinkDie) : (s.modLink l f).flash = s.flash := rfl
@[simp] theorem State.modLink_placer (s : State) (l : LinkId) (f : LinkDie → LinkDie) : (s.modLink l f).placer = s.placer := rfl
@[simp] theorem State.modLink_ranges (s : State) (l : LinkId) (f : LinkDie → LinkDie) : (s.modLink l f).ranges = s.ranges := rfl
@[simp] theorem State.modLink_audit (s : State) (l : LinkId) (f : LinkDie → LinkDie) : (s.modLink l f).audit = s.audit := rfl
@[simp] theorem State.modLink_fabric (s : State) (l : LinkId) (f : LinkDie → LinkDie) : (s.modLink l f).fabric = s.fabric := rfl
@[simp] theorem State.modLink_links (s : State) (l : LinkId) (f : LinkDie → LinkDie) : (s.modLink l f).links = s.links := rfl
@[simp] theorem State.modLink_collective (s : State) (l : LinkId) (f : LinkDie → LinkDie) : (s.modLink l f).collective = s.collective := rfl
@[simp] theorem State.modLink_cinch (s : State) (l : LinkId) (f : LinkDie → LinkDie) : (s.modLink l f).cinch = s.cinch := rfl
@[simp] theorem State.modLink_input (s : State) (l : LinkId) (f : LinkDie → LinkDie) : (s.modLink l f).input = s.input := rfl
@[simp] theorem State.modLink_governor (s : State) (l : LinkId) (f : LinkDie → LinkDie) : (s.modLink l f).governor = s.governor := rfl
@[simp] theorem State.modLink_thermal (s : State) (l : LinkId) (f : LinkDie → LinkDie) : (s.modLink l f).thermal = s.thermal := rfl
@[simp] theorem State.modLink_faults (s : State) (l : LinkId) (f : LinkDie → LinkDie) : (s.modLink l f).faults = s.faults := rfl
@[simp] theorem State.modLink_selfTest (s : State) (l : LinkId) (f : LinkDie → LinkDie) : (s.modLink l f).selfTest = s.selfTest := rfl
@[simp] theorem State.modLink_rein (s : State) (l : LinkId) (f : LinkDie → LinkDie) : (s.modLink l f).rein = s.rein := rfl
@[simp] theorem State.modLink_pcie (s : State) (l : LinkId) (f : LinkDie → LinkDie) : (s.modLink l f).pcie = s.pcie := rfl
@[simp] theorem State.modLink_tiles (s : State) (l : LinkId) (f : LinkDie → LinkDie) : (s.modLink l f).tiles = s.tiles := rfl
@[simp] theorem State.modLink_stackDies (s : State) (l : LinkId) (f : LinkDie → LinkDie) : (s.modLink l f).stackDies = s.stackDies := rfl
@[simp] theorem State.modLink_ports (s : State) (l : LinkId) (f : LinkDie → LinkDie) : (s.modLink l f).ports = s.ports := rfl
@[simp] theorem State.modLink_dies (s : State) (l : LinkId) (f : LinkDie → LinkDie) : (s.modLink l f).dies = s.dies := rfl
@[simp] theorem State.modLink_parts (s : State) (l : LinkId) (f : LinkDie → LinkDie) : (s.modLink l f).parts = s.parts := rfl
@[simp] theorem State.modLink_fns (s : State) (l : LinkId) (f : LinkDie → LinkDie) : (s.modLink l f).fns = s.fns := rfl
@[simp] theorem State.modLink_free (s : State) (l : LinkId) (f : LinkDie → LinkDie) : (s.modLink l f).free = s.free := rfl
@[simp] theorem State.modLink_pending (s : State) (l : LinkId) (f : LinkDie → LinkDie) : (s.modLink l f).pending = s.pending := rfl

/-! ### modDie -/

@[simp] theorem State.modDie_get_same (s : State) (d : DieId) (f : Die → Die) : (s.modDie d f).dies.get d = f (s.dies.get d) := vmod_get_same _ _ _
theorem State.modDie_get_other (s : State) {d i : DieId} (f : Die → Die) (h : i ≠ d) : (s.modDie d f).dies.get i = s.dies.get i := vmod_get_other _ _ h
@[simp] theorem State.modDie_time (s : State) (d : DieId) (f : Die → Die) : (s.modDie d f).time = s.time := rfl
@[simp] theorem State.modDie_module (s : State) (d : DieId) (f : Die → Die) : (s.modDie d f).module = s.module := rfl
@[simp] theorem State.modDie_flash (s : State) (d : DieId) (f : Die → Die) : (s.modDie d f).flash = s.flash := rfl
@[simp] theorem State.modDie_placer (s : State) (d : DieId) (f : Die → Die) : (s.modDie d f).placer = s.placer := rfl
@[simp] theorem State.modDie_ranges (s : State) (d : DieId) (f : Die → Die) : (s.modDie d f).ranges = s.ranges := rfl
@[simp] theorem State.modDie_audit (s : State) (d : DieId) (f : Die → Die) : (s.modDie d f).audit = s.audit := rfl
@[simp] theorem State.modDie_fabric (s : State) (d : DieId) (f : Die → Die) : (s.modDie d f).fabric = s.fabric := rfl
@[simp] theorem State.modDie_links (s : State) (d : DieId) (f : Die → Die) : (s.modDie d f).links = s.links := rfl
@[simp] theorem State.modDie_collective (s : State) (d : DieId) (f : Die → Die) : (s.modDie d f).collective = s.collective := rfl
@[simp] theorem State.modDie_cinch (s : State) (d : DieId) (f : Die → Die) : (s.modDie d f).cinch = s.cinch := rfl
@[simp] theorem State.modDie_input (s : State) (d : DieId) (f : Die → Die) : (s.modDie d f).input = s.input := rfl
@[simp] theorem State.modDie_governor (s : State) (d : DieId) (f : Die → Die) : (s.modDie d f).governor = s.governor := rfl
@[simp] theorem State.modDie_thermal (s : State) (d : DieId) (f : Die → Die) : (s.modDie d f).thermal = s.thermal := rfl
@[simp] theorem State.modDie_faults (s : State) (d : DieId) (f : Die → Die) : (s.modDie d f).faults = s.faults := rfl
@[simp] theorem State.modDie_selfTest (s : State) (d : DieId) (f : Die → Die) : (s.modDie d f).selfTest = s.selfTest := rfl
@[simp] theorem State.modDie_rein (s : State) (d : DieId) (f : Die → Die) : (s.modDie d f).rein = s.rein := rfl
@[simp] theorem State.modDie_pcie (s : State) (d : DieId) (f : Die → Die) : (s.modDie d f).pcie = s.pcie := rfl
@[simp] theorem State.modDie_tiles (s : State) (d : DieId) (f : Die → Die) : (s.modDie d f).tiles = s.tiles := rfl
@[simp] theorem State.modDie_stackDies (s : State) (d : DieId) (f : Die → Die) : (s.modDie d f).stackDies = s.stackDies := rfl
@[simp] theorem State.modDie_linkDies (s : State) (d : DieId) (f : Die → Die) : (s.modDie d f).linkDies = s.linkDies := rfl
@[simp] theorem State.modDie_ports (s : State) (d : DieId) (f : Die → Die) : (s.modDie d f).ports = s.ports := rfl
@[simp] theorem State.modDie_parts (s : State) (d : DieId) (f : Die → Die) : (s.modDie d f).parts = s.parts := rfl
@[simp] theorem State.modDie_fns (s : State) (d : DieId) (f : Die → Die) : (s.modDie d f).fns = s.fns := rfl
@[simp] theorem State.modDie_free (s : State) (d : DieId) (f : Die → Die) : (s.modDie d f).free = s.free := rfl
@[simp] theorem State.modDie_pending (s : State) (d : DieId) (f : Die → Die) : (s.modDie d f).pending = s.pending := rfl

/-! ### modPart -/

@[simp] theorem State.modPart_get_same (s : State) (n : PartId) (f : Partition → Partition) : (s.modPart n f).parts.get n = f (s.parts.get n) := vmod_get_same _ _ _
theorem State.modPart_get_other (s : State) {n i : PartId} (f : Partition → Partition) (h : i ≠ n) : (s.modPart n f).parts.get i = s.parts.get i := vmod_get_other _ _ h
@[simp] theorem State.modPart_time (s : State) (n : PartId) (f : Partition → Partition) : (s.modPart n f).time = s.time := rfl
@[simp] theorem State.modPart_module (s : State) (n : PartId) (f : Partition → Partition) : (s.modPart n f).module = s.module := rfl
@[simp] theorem State.modPart_flash (s : State) (n : PartId) (f : Partition → Partition) : (s.modPart n f).flash = s.flash := rfl
@[simp] theorem State.modPart_placer (s : State) (n : PartId) (f : Partition → Partition) : (s.modPart n f).placer = s.placer := rfl
@[simp] theorem State.modPart_ranges (s : State) (n : PartId) (f : Partition → Partition) : (s.modPart n f).ranges = s.ranges := rfl
@[simp] theorem State.modPart_audit (s : State) (n : PartId) (f : Partition → Partition) : (s.modPart n f).audit = s.audit := rfl
@[simp] theorem State.modPart_fabric (s : State) (n : PartId) (f : Partition → Partition) : (s.modPart n f).fabric = s.fabric := rfl
@[simp] theorem State.modPart_links (s : State) (n : PartId) (f : Partition → Partition) : (s.modPart n f).links = s.links := rfl
@[simp] theorem State.modPart_collective (s : State) (n : PartId) (f : Partition → Partition) : (s.modPart n f).collective = s.collective := rfl
@[simp] theorem State.modPart_cinch (s : State) (n : PartId) (f : Partition → Partition) : (s.modPart n f).cinch = s.cinch := rfl
@[simp] theorem State.modPart_input (s : State) (n : PartId) (f : Partition → Partition) : (s.modPart n f).input = s.input := rfl
@[simp] theorem State.modPart_governor (s : State) (n : PartId) (f : Partition → Partition) : (s.modPart n f).governor = s.governor := rfl
@[simp] theorem State.modPart_thermal (s : State) (n : PartId) (f : Partition → Partition) : (s.modPart n f).thermal = s.thermal := rfl
@[simp] theorem State.modPart_faults (s : State) (n : PartId) (f : Partition → Partition) : (s.modPart n f).faults = s.faults := rfl
@[simp] theorem State.modPart_selfTest (s : State) (n : PartId) (f : Partition → Partition) : (s.modPart n f).selfTest = s.selfTest := rfl
@[simp] theorem State.modPart_rein (s : State) (n : PartId) (f : Partition → Partition) : (s.modPart n f).rein = s.rein := rfl
@[simp] theorem State.modPart_pcie (s : State) (n : PartId) (f : Partition → Partition) : (s.modPart n f).pcie = s.pcie := rfl
@[simp] theorem State.modPart_tiles (s : State) (n : PartId) (f : Partition → Partition) : (s.modPart n f).tiles = s.tiles := rfl
@[simp] theorem State.modPart_stackDies (s : State) (n : PartId) (f : Partition → Partition) : (s.modPart n f).stackDies = s.stackDies := rfl
@[simp] theorem State.modPart_linkDies (s : State) (n : PartId) (f : Partition → Partition) : (s.modPart n f).linkDies = s.linkDies := rfl
@[simp] theorem State.modPart_ports (s : State) (n : PartId) (f : Partition → Partition) : (s.modPart n f).ports = s.ports := rfl
@[simp] theorem State.modPart_dies (s : State) (n : PartId) (f : Partition → Partition) : (s.modPart n f).dies = s.dies := rfl
@[simp] theorem State.modPart_fns (s : State) (n : PartId) (f : Partition → Partition) : (s.modPart n f).fns = s.fns := rfl
@[simp] theorem State.modPart_free (s : State) (n : PartId) (f : Partition → Partition) : (s.modPart n f).free = s.free := rfl
@[simp] theorem State.modPart_pending (s : State) (n : PartId) (f : Partition → Partition) : (s.modPart n f).pending = s.pending := rfl

/-! ### modFn -/

@[simp] theorem State.modFn_get_same (s : State) (g : FuncId) (f : HostFn → HostFn) : (s.modFn g f).fns.get g = f (s.fns.get g) := vmod_get_same _ _ _
theorem State.modFn_get_other (s : State) {g i : FuncId} (f : HostFn → HostFn) (h : i ≠ g) : (s.modFn g f).fns.get i = s.fns.get i := vmod_get_other _ _ h
@[simp] theorem State.modFn_time (s : State) (g : FuncId) (f : HostFn → HostFn) : (s.modFn g f).time = s.time := rfl
@[simp] theorem State.modFn_module (s : State) (g : FuncId) (f : HostFn → HostFn) : (s.modFn g f).module = s.module := rfl
@[simp] theorem State.modFn_flash (s : State) (g : FuncId) (f : HostFn → HostFn) : (s.modFn g f).flash = s.flash := rfl
@[simp] theorem State.modFn_placer (s : State) (g : FuncId) (f : HostFn → HostFn) : (s.modFn g f).placer = s.placer := rfl
@[simp] theorem State.modFn_ranges (s : State) (g : FuncId) (f : HostFn → HostFn) : (s.modFn g f).ranges = s.ranges := rfl
@[simp] theorem State.modFn_audit (s : State) (g : FuncId) (f : HostFn → HostFn) : (s.modFn g f).audit = s.audit := rfl
@[simp] theorem State.modFn_fabric (s : State) (g : FuncId) (f : HostFn → HostFn) : (s.modFn g f).fabric = s.fabric := rfl
@[simp] theorem State.modFn_links (s : State) (g : FuncId) (f : HostFn → HostFn) : (s.modFn g f).links = s.links := rfl
@[simp] theorem State.modFn_collective (s : State) (g : FuncId) (f : HostFn → HostFn) : (s.modFn g f).collective = s.collective := rfl
@[simp] theorem State.modFn_cinch (s : State) (g : FuncId) (f : HostFn → HostFn) : (s.modFn g f).cinch = s.cinch := rfl
@[simp] theorem State.modFn_input (s : State) (g : FuncId) (f : HostFn → HostFn) : (s.modFn g f).input = s.input := rfl
@[simp] theorem State.modFn_governor (s : State) (g : FuncId) (f : HostFn → HostFn) : (s.modFn g f).governor = s.governor := rfl
@[simp] theorem State.modFn_thermal (s : State) (g : FuncId) (f : HostFn → HostFn) : (s.modFn g f).thermal = s.thermal := rfl
@[simp] theorem State.modFn_faults (s : State) (g : FuncId) (f : HostFn → HostFn) : (s.modFn g f).faults = s.faults := rfl
@[simp] theorem State.modFn_selfTest (s : State) (g : FuncId) (f : HostFn → HostFn) : (s.modFn g f).selfTest = s.selfTest := rfl
@[simp] theorem State.modFn_rein (s : State) (g : FuncId) (f : HostFn → HostFn) : (s.modFn g f).rein = s.rein := rfl
@[simp] theorem State.modFn_pcie (s : State) (g : FuncId) (f : HostFn → HostFn) : (s.modFn g f).pcie = s.pcie := rfl
@[simp] theorem State.modFn_tiles (s : State) (g : FuncId) (f : HostFn → HostFn) : (s.modFn g f).tiles = s.tiles := rfl
@[simp] theorem State.modFn_stackDies (s : State) (g : FuncId) (f : HostFn → HostFn) : (s.modFn g f).stackDies = s.stackDies := rfl
@[simp] theorem State.modFn_linkDies (s : State) (g : FuncId) (f : HostFn → HostFn) : (s.modFn g f).linkDies = s.linkDies := rfl
@[simp] theorem State.modFn_ports (s : State) (g : FuncId) (f : HostFn → HostFn) : (s.modFn g f).ports = s.ports := rfl
@[simp] theorem State.modFn_dies (s : State) (g : FuncId) (f : HostFn → HostFn) : (s.modFn g f).dies = s.dies := rfl
@[simp] theorem State.modFn_parts (s : State) (g : FuncId) (f : HostFn → HostFn) : (s.modFn g f).parts = s.parts := rfl
@[simp] theorem State.modFn_free (s : State) (g : FuncId) (f : HostFn → HostFn) : (s.modFn g f).free = s.free := rfl
@[simp] theorem State.modFn_pending (s : State) (g : FuncId) (f : HostFn → HostFn) : (s.modFn g f).pending = s.pending := rfl

/-! ### modRange -/

@[simp] theorem State.modRange_get_same (s : State) (r : Fin 16) (f : BuckleRange → BuckleRange) : (s.modRange r f).ranges.get r = f (s.ranges.get r) := vmod_get_same _ _ _
theorem State.modRange_get_other (s : State) {r i : Fin 16} (f : BuckleRange → BuckleRange) (h : i ≠ r) : (s.modRange r f).ranges.get i = s.ranges.get i := vmod_get_other _ _ h
@[simp] theorem State.modRange_time (s : State) (r : Fin 16) (f : BuckleRange → BuckleRange) : (s.modRange r f).time = s.time := rfl
@[simp] theorem State.modRange_module (s : State) (r : Fin 16) (f : BuckleRange → BuckleRange) : (s.modRange r f).module = s.module := rfl
@[simp] theorem State.modRange_flash (s : State) (r : Fin 16) (f : BuckleRange → BuckleRange) : (s.modRange r f).flash = s.flash := rfl
@[simp] theorem State.modRange_placer (s : State) (r : Fin 16) (f : BuckleRange → BuckleRange) : (s.modRange r f).placer = s.placer := rfl
@[simp] theorem State.modRange_audit (s : State) (r : Fin 16) (f : BuckleRange → BuckleRange) : (s.modRange r f).audit = s.audit := rfl
@[simp] theorem State.modRange_fabric (s : State) (r : Fin 16) (f : BuckleRange → BuckleRange) : (s.modRange r f).fabric = s.fabric := rfl
@[simp] theorem State.modRange_links (s : State) (r : Fin 16) (f : BuckleRange → BuckleRange) : (s.modRange r f).links = s.links := rfl
@[simp] theorem State.modRange_collective (s : State) (r : Fin 16) (f : BuckleRange → BuckleRange) : (s.modRange r f).collective = s.collective := rfl
@[simp] theorem State.modRange_cinch (s : State) (r : Fin 16) (f : BuckleRange → BuckleRange) : (s.modRange r f).cinch = s.cinch := rfl
@[simp] theorem State.modRange_input (s : State) (r : Fin 16) (f : BuckleRange → BuckleRange) : (s.modRange r f).input = s.input := rfl
@[simp] theorem State.modRange_governor (s : State) (r : Fin 16) (f : BuckleRange → BuckleRange) : (s.modRange r f).governor = s.governor := rfl
@[simp] theorem State.modRange_thermal (s : State) (r : Fin 16) (f : BuckleRange → BuckleRange) : (s.modRange r f).thermal = s.thermal := rfl
@[simp] theorem State.modRange_faults (s : State) (r : Fin 16) (f : BuckleRange → BuckleRange) : (s.modRange r f).faults = s.faults := rfl
@[simp] theorem State.modRange_selfTest (s : State) (r : Fin 16) (f : BuckleRange → BuckleRange) : (s.modRange r f).selfTest = s.selfTest := rfl
@[simp] theorem State.modRange_rein (s : State) (r : Fin 16) (f : BuckleRange → BuckleRange) : (s.modRange r f).rein = s.rein := rfl
@[simp] theorem State.modRange_pcie (s : State) (r : Fin 16) (f : BuckleRange → BuckleRange) : (s.modRange r f).pcie = s.pcie := rfl
@[simp] theorem State.modRange_tiles (s : State) (r : Fin 16) (f : BuckleRange → BuckleRange) : (s.modRange r f).tiles = s.tiles := rfl
@[simp] theorem State.modRange_stackDies (s : State) (r : Fin 16) (f : BuckleRange → BuckleRange) : (s.modRange r f).stackDies = s.stackDies := rfl
@[simp] theorem State.modRange_linkDies (s : State) (r : Fin 16) (f : BuckleRange → BuckleRange) : (s.modRange r f).linkDies = s.linkDies := rfl
@[simp] theorem State.modRange_ports (s : State) (r : Fin 16) (f : BuckleRange → BuckleRange) : (s.modRange r f).ports = s.ports := rfl
@[simp] theorem State.modRange_dies (s : State) (r : Fin 16) (f : BuckleRange → BuckleRange) : (s.modRange r f).dies = s.dies := rfl
@[simp] theorem State.modRange_parts (s : State) (r : Fin 16) (f : BuckleRange → BuckleRange) : (s.modRange r f).parts = s.parts := rfl
@[simp] theorem State.modRange_fns (s : State) (r : Fin 16) (f : BuckleRange → BuckleRange) : (s.modRange r f).fns = s.fns := rfl
@[simp] theorem State.modRange_free (s : State) (r : Fin 16) (f : BuckleRange → BuckleRange) : (s.modRange r f).free = s.free := rfl
@[simp] theorem State.modRange_pending (s : State) (r : Fin 16) (f : BuckleRange → BuckleRange) : (s.modRange r f).pending = s.pending := rfl

end Sys2Proof.Machine
end

