-- ==== Sys2Proof/Laws/Issue.lean ====
section
/-! SUPPORT. What issuing and completing a command of a tile changes, said once for each shared operation: no other tile, no partition, and
none of the tile's data. -/

namespace Sys2Proof.Machine

/-- A state issues over itself. -/
theorem IssueFrame.refl (t : TileId) (s : State) : IssueFrame t s s := ⟨rfl, fun _ _ => rfl, rfl, rfl, rfl, rfl, rfl⟩

/-- Issue frames compose. -/
theorem IssueFrame.trans {t : TileId} {a b c : State} (h : IssueFrame t a b) (k : IssueFrame t b c) : IssueFrame t a c where
  rest := by rw [k.rest]; rw [h.rest]
  others := fun u hu => (k.others u hu).trans (h.others u hu)
  power := k.power.trans h.power
  faults := k.faults.trans h.faults
  test := k.test.trans h.test
  stamp := k.stamp.trans h.stamp
  stream := k.stream.trans h.stream

/-- Data stand as they were. -/
theorem SameData.refl (t : TileId) (s : State) : SameData t s s := ⟨rfl, rfl, rfl, rfl, rfl, rfl, rfl⟩

/-- And so through two changes. -/
theorem SameData.trans {t : TileId} {a b c : State} (h : SameData t a b) (k : SameData t b c) : SameData t a c :=
  ⟨k.array.trans h.array, k.regs.trans h.regs, k.gens.trans h.gens, k.laneFlags.trans h.laneFlags, k.phaseFlags.trans h.phaseFlags,
    k.store.trans h.store, k.storeStatus.trans h.storeStatus⟩

/-- A change of one tile that keeps what the frame names is within the issue frame. -/
theorem IssueFrame.modTile (t : TileId) (s : State) (f : Tile → Tile) (h1 : (f (s.tiles.get t)).power = (s.tiles.get t).power)
    (h2 : (f (s.tiles.get t)).faults = (s.tiles.get t).faults) (h3 : (f (s.tiles.get t)).test = (s.tiles.get t).test)
    (h4 : (f (s.tiles.get t)).stamp = (s.tiles.get t).stamp) (h5 : (f (s.tiles.get t)).stream = (s.tiles.get t).stream) :
    IssueFrame t s (s.modTile t f) where
  rest := rfl
  others := fun _ hu => State.modTile_get_other s f hu
  power := by simp [h1]
  faults := by simp [h2]
  test := by simp [h3]
  stamp := by simp [h4]
  stream := by simp [h5]

/-- A change of one tile that keeps its data. -/
theorem SameData.modTile (t : TileId) (s : State) (f : Tile → Tile) (h1 : (f (s.tiles.get t)).array = (s.tiles.get t).array)
    (h2 : (f (s.tiles.get t)).vec = (s.tiles.get t).vec) (h3 : (f (s.tiles.get t)).store = (s.tiles.get t).store)
    (h4 : (f (s.tiles.get t)).storeStatus = (s.tiles.get t).storeStatus) : SameData t s (s.modTile t f) :=
  ⟨by simp [h1], by simp [h2], by simp [h2], by simp [h2], by simp [h2], by simp [h3], by simp [h4]⟩

/-- Changes of the Buckles, the audit and the fabric are within the issue frame. -/
theorem IssueFrame.outside (t : TileId) (s : State) (r : Vector BuckleRange 16) (a : Audit) (f : Fabric) :
    IssueFrame t s { s with ranges := r, audit := a, fabric := f } := ⟨rfl, fun _ _ => rfl, rfl, rfl, rfl, rfl, rfl⟩

/-- And they keep the data. -/
theorem SameData.outside (t : TileId) (s : State) (r : Vector BuckleRange 16) (a : Audit) (f : Fabric) :
    SameData t s { s with ranges := r, audit := a, fabric := f } := ⟨rfl, rfl, rfl, rfl, rfl, rfl, rfl⟩

/-- Both frames at once. -/
def TileQuiet (t : TileId) (s s' : State) : Prop := IssueFrame t s s' ∧ SameData t s s'

theorem TileQuiet.refl (t : TileId) (s : State) : TileQuiet t s s := ⟨.refl t s, .refl t s⟩

theorem TileQuiet.trans {t : TileId} {a b c : State} (h : TileQuiet t a b) (k : TileQuiet t b c) : TileQuiet t a c := ⟨h.1.trans k.1, h.2.trans k.2⟩

theorem TileQuiet.outside (t : TileId) (s : State) (r : Vector BuckleRange 16) (a : Audit) (f : Fabric) :
    TileQuiet t s { s with ranges := r, audit := a, fabric := f } := ⟨.outside t s r a f, .outside t s r a f⟩

/-- A change of the tile's context, crossings or router is quiet. -/
theorem TileQuiet.modTile (t : TileId) (s : State) (f : Tile → Tile)
    (h : ∃ i q r, f (s.tiles.get t) = { s.tiles.get t with island := i, seqr := q, router := r }) : TileQuiet t s (s.modTile t f) := by
  obtain ⟨i, q, r, h⟩ := h
  exact ⟨.modTile t s f (by rw [h]) (by rw [h]) (by rw [h]) (by rw [h]) (by rw [h]), .modTile t s f (by rw [h]) (by rw [h]) (by rw [h]) (by rw [h])⟩

/-- A core's endpoint number names its tile (R277). -/
theorem endpointOf_epTile (t : TileId) : endpointOf (epTile t) = some (.core t) := by
  have h := t.2
  have h : t.1 < 288 := h
  exact dif_pos h

/-- A core that sends a packet changes its outbound crossing and the fabric. -/
theorem send_quiet (s : State) (t : TileId) (kind vc dst flow : Nat) (n : PartId) (addr : Word64) (gen : BitVec 8) (queue : Nat) (bs : List Byte) :
    TileQuiet t s (s.send kind vc dst (epTile t) flow n addr gen queue bs) := by
  unfold State.send
  rw [endpointOf_epTile]
  extract_lets key seq p src s1
  exact (TileQuiet.outside t s s.ranges s.audit _).trans (TileQuiet.modTile t s1 _ ⟨_, _, _, rfl⟩)

/-- A core that sends a Buckle message. -/
theorem sendBuckle_quiet (s : State) (t : TileId) (dst : Nat) (n : PartId) (m : BuckleMsg) : TileQuiet t s (s.sendBuckle (epTile t) dst n m) := by
  unfold State.sendBuckle
  extract_lets seq src s1
  exact (TileQuiet.outside t s s.ranges s.audit _).trans (send_quiet s1 t ..)

/-- Tokens applied at a home in the tile. -/
theorem applyTokens_quiet (s : State) (t : TileId) (b n : Nat) : TileQuiet t s (s.applyTokens b n) :=
  TileQuiet.outside t s _ _ s.fabric

/-- An arrival that a tile sends. -/
theorem sendArrival_quiet (s : State) (t : TileId) (e : Seat) (c cmd b count kind target : Nat) :
    TileQuiet t s (s.sendArrival t e c cmd b count kind target) := by
  unfold State.sendArrival
  extract_lets p b'
  split
  · split
    · exact TileQuiet.outside t s s.ranges _ s.fabric
    · exact ((TileQuiet.modTile t s _ ⟨_, _, _, rfl⟩).trans (TileQuiet.outside t _ _ _ _)).trans (sendBuckle_quiet _ t ..)
  · exact (TileQuiet.outside t s s.ranges _ s.fabric).trans (applyTokens_quiet _ t ..)

/-- Arrivals that leave as a command completes. -/
theorem flushArrivals_quiet (s : State) (t : TileId) (c : CtxId) (e : Seat) (n : Nat) : TileQuiet t s (s.flushArrivals t c e n) := by
  induction n generalizing s with
  | zero => exact TileQuiet.refl t s
  | succ n ih =>
    unfold State.flushArrivals
    extract_lets k
    split
    · exact TileQuiet.refl t s
    · exact ((sendArrival_quiet s t ..).trans (TileQuiet.modTile t _ _ ⟨_, _, _, rfl⟩)).trans (ih _)

/-- A command completes. -/
theorem complete_quiet (s : State) (t : TileId) (c : CtxId) (e : Seat) (i : Nat) : TileQuiet t s (s.complete t c e i) := by
  unfold State.complete
  extract_lets s1
  exact (TileQuiet.modTile t s _ ⟨_, _, _, rfl⟩).trans (flushArrivals_quiet s1 t c e 16)

/-- A context issues its next command. -/
theorem issue_quiet (s : State) (t : TileId) (c : CtxId) (e : Seat) (done : Bool) : TileQuiet t s (s.issue t c e done) := by
  unfold State.issue
  extract_lets i s1
  have h : TileQuiet t s s1 := TileQuiet.modTile t s _ ⟨_, _, _, rfl⟩
  split
  · exact h.trans (complete_quiet s1 t c e i)
  · exact h

/-- A context waits. -/
theorem waitCtx_quiet (s : State) (t : TileId) (c : CtxId) : TileQuiet t s (s.waitCtx t c) := TileQuiet.modTile t s _ ⟨_, _, _, rfl⟩

/-- A context that takes a command runs the command's effect. -/
theorem command_takes (s : State) (t : TileId) (c : CtxId) (i : Instr) (e : Seat) (f : Seat → State → State) (h : Takes i s t c e) :
    s.command t c i f = f e s := by
  have h3 : ¬ 16 ≤ ((s.tiles.get t).seqr.ctxs.get c).outstanding.length := by have := h.tag; omega
  simp [State.command, h.live, h.page, h.next, h.seat, h3]

end Sys2Proof.Machine
end

