-- ==== Sys2Proof/Laws/Outer.lean ====
section
/-! SUPPORT. What every shared operation and every command outside the Rein and power chapters leaves alone: the queue, the Rein block and the time.
One lemma `f_outer` for each operation `f` on the state, each proved from those of the operations that `f` calls. -/

namespace Sys2Proof.Machine

set_option linter.all false

/-- The parts of the state that only steps, Rein commands and resets change: the queue, the Rein block and the time. -/
def State.outer (s : State) : List Instr × Rein × Nat := (s.pending, s.rein, s.time)

/-- An update of other fields keeps them. -/


@[simp] theorem State.outer_mk (t : State) (a1 : Module) (a2 : Flash) (a3 : Placer) (a4 : Vector BuckleRange 16) (a5 : Audit) (a6 : Fabric) (a7 : LinkSettings) (a8 : Collective)
  (a9 : Cinch) (a10 : PowerInput) (a11 : Governor) (a12 : Thermal) (a13 : Faults) (a14 : SelfTest) (a16 : Vector PcieLink 2) (a17 : Vector Tile 288)
  (a18 : Vector Stack 24) (a19 : Vector LinkDie 8) (a20 : Vector Port 16) (a21 : Vector Die 72) (a22 : Vector Partition 16) (a23 : Vector HostFn 32) (a24 : Nat) : State.outer (State.mk t.time a1 a2 a3 a4 a5 a6 a7 a8 a9 a10 a11 a12 a13 a14 t.rein a16 a17 a18 a19 a20 a21 a22 a23 a24 t.pending) = t.outer := rfl
def keepsOuter (o : Host.Outcome State Fault Refusal) (s : State) : Prop := match o with | .next t => t.outer = s.outer | _ => True

@[simp] theorem keepsOuter_next (t s : State) : keepsOuter (.next t) s = (t.outer = s.outer) := rfl

theorem keepsOuter_fault (r : Fault) (s : State) : keepsOuter (.fault r) s = True := rfl

theorem foldl_outer {α : Type} (l : List α) (f : State → α → State) (s : State) (h : ∀ s x, (f s x).outer = s.outer) : (l.foldl f s).outer = s.outer := by
  induction l generalizing s with
  | nil => rfl
  | cons a l ih => simp only [List.foldl_cons]; rw [ih, h]

theorem foldl_outer' {α : Type} (l : List α) (f : State → α → State) {s : State} {b : List Instr × Rein × Nat} (hs : s.outer = b) (h : ∀ s x, (f s x).outer = s.outer) : (l.foldl f s).outer = b := by rw [foldl_outer l f s h, hs]

theorem foldl_fst_outer {α β : Type} (l : List α) (f : State × β → α → State × β) {s : State × β} {b : List Instr × Rein × Nat} (hs : s.1.outer = b) (h : ∀ s x, (f s x).1.outer = s.1.outer) : (l.foldl f s).1.outer = b := by
  induction l generalizing s with
  | nil => exact hs
  | cons a l ih => exact ih (by rw [h, hs])

theorem State.modTile_outer (s : State) (t : TileId) (f : Tile → Tile) : (State.modTile s t f).outer = s.outer := by
  rfl

theorem State.modStack_outer (s : State) (k : StackId) (f : Stack → Stack) : (State.modStack s k f).outer = s.outer := by
  rfl

theorem State.modPort_outer (s : State) (p : PortId) (f : Port → Port) : (State.modPort s p f).outer = s.outer := by
  rfl

theorem State.modLink_outer (s : State) (l : LinkId) (f : LinkDie → LinkDie) : (State.modLink s l f).outer = s.outer := by
  rfl

theorem State.modDie_outer (s : State) (d : DieId) (f : Die → Die) : (State.modDie s d f).outer = s.outer := by
  rfl

theorem State.modPart_outer (s : State) (n : PartId) (f : Partition → Partition) : (State.modPart s n f).outer = s.outer := by
  rfl

theorem State.modFn_outer (s : State) (f : FuncId) (g : HostFn → HostFn) : (State.modFn s f g).outer = s.outer := by
  rfl

theorem State.modRange_outer (s : State) (r : Fin 16) (f : BuckleRange → BuckleRange) : (State.modRange s r f).outer = s.outer := by
  rfl

theorem State.modTiles_outer (s : State) (ts : List TileId) (f : Tile → Tile) : (State.modTiles s ts f).outer = s.outer := by
  unfold State.modTiles
  refine foldl_outer' _ _ rfl fun s _ => ?_
  repeat' first
    | with_reducible rfl
    | (simp only [State.outer_mk, keepsOuter_next, State.modTile_outer]; done)
    | split

theorem State.statusChanged_outer (s : State) (n : PartId) : (State.statusChanged s n).outer = s.outer := by
  unfold State.statusChanged
  split <;> simp only [State.outer_mk, keepsOuter_next, State.modFn_outer]

theorem State.postTo_outer (s : State) (n : PartId) (c : Completion) : (State.postTo s n c).outer = s.outer := by
  unfold State.postTo
  split <;> simp only [State.outer_mk, keepsOuter_next, State.modFn_outer]

theorem State.refreshAlert_outer (s : State) : (State.refreshAlert s).outer = s.outer := by
  rfl

theorem State.publish_outer (s : State) (r : ErrorReport) (cont : Bool) : (State.publish s r cont).outer = s.outer := by
  unfold State.publish
  repeat' first
    | with_reducible rfl
    | (extract_lets +onlyGivenNames x
       refine (fun (hx : State.outer x = State.outer s) => ?_) ?_
       on_goal 1 => clear_value x
       on_goal 2 => (dsimp -zeta only [x]; clear x))
    | (extract_lets +onlyGivenNames x
       refine (fun (hx : ∀ y z, State.outer (x y z) = State.outer y) => ?_) ?_
       on_goal 1 => clear_value x
       on_goal 2 => (dsimp -zeta only [x]; clear x; intro s _))
    | (extract_lets +onlyGivenNames x
       clear_value x)
    | (simp -zeta only [State.outer_mk, keepsOuter_next, keepsOuter_fault, State.modFn_outer, State.refreshAlert_outer]; done)
    | split
    | (with_reducible refine foldl_outer' _ _ ?_ ?_
       on_goal 2 => intro s _)
    | (simp -zeta only [*, State.outer_mk, keepsOuter_next, keepsOuter_fault, State.modFn_outer, State.refreshAlert_outer]; done)

theorem State.reportEntry_outer (s : State) (r : ErrorReport) : (State.reportEntry s r).outer = s.outer := by
  unfold State.reportEntry
  repeat' first
    | with_reducible rfl
    | (extract_lets +onlyGivenNames x
       refine (fun (hx : State.outer x = State.outer s) => ?_) ?_
       on_goal 1 => clear_value x
       on_goal 2 => (dsimp -zeta only [x]; clear x))
    | (extract_lets +onlyGivenNames x
       clear_value x)
    | (simp -zeta only [State.outer_mk, keepsOuter_next, keepsOuter_fault, State.publish_outer]; done)
    | (simp -zeta only [State.outer_mk, keepsOuter_next, keepsOuter_fault, State.publish_outer]; with_reducible assumption)
    | split

theorem State.report_outer (s : State) (pt : CoalescePoint) (r : ErrorReport) : (State.report s pt r).outer = s.outer := by
  unfold State.report
  repeat' first
    | with_reducible rfl
    | (extract_lets +onlyGivenNames x
       clear_value x)
    | (simp -zeta only [State.outer_mk, keepsOuter_next, keepsOuter_fault, State.reportEntry_outer]; done)
    | split

theorem State.syncTime_outer (s : State) : (State.syncTime s).outer = s.outer := by
  unfold State.syncTime
  repeat' first
    | (simp -zeta only [State.outer_mk, keepsOuter_next, keepsOuter_fault, State.outer_mk]; done)
    | (simp -zeta only [*, State.outer_mk, keepsOuter_next, State.outer_mk]; done)

theorem State.recordOwn_outer (s : State) (r : ErrorReport) : (State.recordOwn s r).outer = s.outer := by
  simp only [State.recordOwn, State.outer_mk, keepsOuter_next, State.publish_outer]

theorem State.sbEvent_outer (s : State) (n : PartId) (w0 w2 w3 : Word64) : (State.sbEvent s n w0 w2 w3).outer = s.outer := by
  rfl

theorem State.send_outer (s : State) (kind vc dst src flow : Nat) (part : PartId) (addr : Word64) (gen : BitVec 8) (queue : Nat) (payload : List Byte) : (State.send s kind vc dst src flow part addr gen queue payload).outer = s.outer := by
  unfold State.send
  split <;> simp only [State.outer_mk, keepsOuter_next, State.modTile_outer]

theorem State.stamped_outer (s : State) (at_ : Nat) (f : State → State) (hf : ∀ s, (f s).outer = s.outer) : (State.stamped s at_ f).outer = s.outer := by
  have h := hf { s with time := at_ }
  simp only [State.outer, Prod.mk.injEq] at h ⊢
  exact ⟨h.1, h.2.1, rfl⟩

theorem State.take_outer (s : State) (p : Packet) : (State.take s p).outer = s.outer := by
  rfl

theorem State.nack_outer (s : State) (t : TileId) (p : Packet) (cause : Nat) : (State.nack s t p cause).outer = s.outer := by
  unfold State.nack
  repeat' first
    | (extract_lets +onlyGivenNames x
       refine (fun (hx : State.outer x = State.outer s) => ?_) ?_
       on_goal 1 => clear_value x
       on_goal 2 => (dsimp -zeta only [x]; clear x))
    | (extract_lets +onlyGivenNames x
       clear_value x)
    | (simp -zeta only [State.outer_mk, keepsOuter_next, keepsOuter_fault, State.modTile_outer, State.send_outer]; done)
    | split
    | (simp -zeta only [*, State.outer_mk, keepsOuter_next, State.modTile_outer, State.send_outer]; done)

theorem State.sendControl_outer (s : State) (dst src flow : Nat) (part : PartId) (bs : List Byte) : (State.sendControl s dst src flow part bs).outer = s.outer := by
  unfold State.sendControl
  refine foldl_outer' _ _ rfl fun s _ => ?_
  repeat' first
    | with_reducible rfl
    | (simp only [State.outer_mk, keepsOuter_next, State.send_outer]; done)
    | split

theorem State.sendVia_outer (s : State) (n : PartId) (m : Nat) (source kind vc : Nat) (addr : Word64) (payload : List Byte) : (State.sendVia s n m source kind vc addr payload).outer = s.outer := by
  unfold State.sendVia
  split <;> simp only [State.outer_mk, keepsOuter_next, State.modPort_outer]

theorem State.sendBack_outer (s : State) (n : PartId) (k : LinkAsk) (kind vc : Nat) (addr : Word64) (payload : List Byte) : (State.sendBack s n k kind vc addr payload).outer = s.outer := by
  unfold State.sendBack
  repeat' first
    | (extract_lets +onlyGivenNames x
       refine (fun (hx : State.outer x = State.outer s) => ?_) ?_
       on_goal 1 => clear_value x
       on_goal 2 => (dsimp -zeta only [x]; clear x))
    | (extract_lets +onlyGivenNames x
       clear_value x)
    | (simp -zeta only [State.outer_mk, keepsOuter_next, keepsOuter_fault, State.modPort_outer]; done)
    | split
    | (simp -zeta only [*, State.outer_mk, keepsOuter_next, State.modPort_outer]; done)

theorem State.sendMember_outer (s : State) (n : PartId) (m : Nat) (source kind vc : Nat) (payload : List Byte) : (State.sendMember s n m source kind vc payload).outer = s.outer := by
  unfold State.sendMember
  repeat' first
    | (simp -zeta only [State.outer_mk, keepsOuter_next, keepsOuter_fault, State.sendVia_outer]; done)
    | (with_reducible refine foldl_outer' _ _ ?_ ?_
       on_goal 2 => intro s _)
    | (simp -zeta only [*, State.outer_mk, keepsOuter_next, State.sendVia_outer]; done)

theorem State.sendMembers_outer (s : State) (n : PartId) (bs : List Byte) : (State.sendMembers s n bs).outer = s.outer := by
  unfold State.sendMembers
  refine foldl_outer' _ _ rfl fun s _ => ?_
  repeat' first
    | with_reducible rfl
    | (simp only [State.outer_mk, keepsOuter_next, State.sendMember_outer]; done)
    | split

theorem State.noticeHere_outer (s : State) (n : PartId) (bs : List Byte) : (State.noticeHere s n bs).outer = s.outer := by
  unfold State.noticeHere
  repeat' first
    | with_reducible rfl
    | (simp -zeta only [State.outer_mk, keepsOuter_next, keepsOuter_fault, State.sendControl_outer]; done)
    | (with_reducible refine foldl_outer' _ _ ?_ ?_
       on_goal 2 => intro s _)

theorem State.sendNotice_outer (s : State) (n : PartId) (attempt code : Nat) : (State.sendNotice s n attempt code).outer = s.outer := by
  simp only [State.sendNotice, State.outer_mk, keepsOuter_next, State.modPart_outer, State.sendMembers_outer, State.noticeHere_outer]

theorem State.countTokens_outer (s : State) (b : Nat) (g : Word64) (sent applied retired rejected : Nat) : (State.countTokens s b g sent applied retired rejected).outer = s.outer := by
  unfold State.countTokens
  repeat' first
    | (extract_lets +onlyGivenNames x
       clear_value x)
    | (simp -zeta only [State.outer_mk, keepsOuter_next, keepsOuter_fault, State.outer_mk]; done)
    | (simp -zeta only [*, State.outer_mk, keepsOuter_next, State.outer_mk]; done)

theorem State.retireLost_outer (s : State) (ps : List Packet) : (State.retireLost s ps).outer = s.outer := by
  unfold State.retireLost
  repeat' first
    | (extract_lets +onlyGivenNames x
       clear_value x)
    | (simp -zeta only [State.outer_mk, keepsOuter_next, keepsOuter_fault, State.countTokens_outer]; done)
    | (with_reducible refine foldl_outer' _ _ ?_ ?_
       on_goal 2 => intro s _)
    | (simp -zeta only [*, State.outer_mk, keepsOuter_next, State.countTokens_outer]; done)

theorem State.sendBuckle_outer (s : State) (src dst : Nat) (part : PartId) (m : BuckleMsg) : (State.sendBuckle s src dst part m).outer = s.outer := by
  simp only [State.sendBuckle, State.outer_mk, keepsOuter_next, State.send_outer]

theorem State.setBuckle_outer (s : State) (b v : Nat) : (State.setBuckle s b v).outer = s.outer := by
  rfl

theorem State.admitWake_outer (s : State) (t : TileId) (r : WakeReq) : (State.admitWake s t r).outer = s.outer := by
  rfl

theorem State.tryAdmit_outer (s : State) (d : DieId) : (State.tryAdmit s d).outer = s.outer := by
  unfold State.tryAdmit
  repeat' first
    | with_reducible rfl
    | (extract_lets +onlyGivenNames x
       clear_value x)
    | (simp -zeta only [State.outer_mk, keepsOuter_next, keepsOuter_fault, State.admitWake_outer]; done)
    | split

theorem State.queueWake_outer (s : State) (t : TileId) (cls : Nat) : (State.queueWake s t cls).outer = s.outer := by
  unfold State.queueWake
  repeat' first
    | with_reducible assumption
    | (extract_lets +onlyGivenNames x
       refine (fun (hx : State.outer x = State.outer s) => ?_) ?_
       on_goal 1 => clear_value x
       on_goal 2 => (dsimp -zeta only [x]; clear x))
    | (extract_lets +onlyGivenNames x
       clear_value x)
    | (simp -zeta only [State.outer_mk, keepsOuter_next, keepsOuter_fault, State.modTile_outer, State.modDie_outer, State.tryAdmit_outer]; done)
    | (simp -zeta only [State.outer_mk, keepsOuter_next, keepsOuter_fault, State.modTile_outer, State.modDie_outer, State.tryAdmit_outer]; with_reducible assumption)
    | split

theorem State.requestWake_outer (s : State) (t : TileId) (cls : Nat) : (State.requestWake s t cls).outer = s.outer := by
  unfold State.requestWake
  split <;> simp only [State.outer_mk, keepsOuter_next, State.queueWake_outer]

theorem State.dropWake_outer (s : State) (t : TileId) : (State.dropWake s t).outer = s.outer := by
  unfold State.dropWake
  repeat' first
    | (simp -zeta only [State.outer_mk, keepsOuter_next, keepsOuter_fault, State.modDie_outer]; done)
    | (simp -zeta only [*, State.outer_mk, keepsOuter_next, State.modDie_outer]; done)

theorem State.stopWake_outer (s : State) (t : TileId) : (State.stopWake s t).outer = s.outer := by
  unfold State.stopWake
  repeat' first
    | (simp -zeta only [State.outer_mk, keepsOuter_next, keepsOuter_fault, State.modDie_outer, State.dropWake_outer]; done)
    | (simp -zeta only [*, State.outer_mk, keepsOuter_next, State.modDie_outer, State.dropWake_outer]; done)

theorem State.requestCore_outer (s : State) (t : TileId) (g : IslandTarget) (cls : Nat) : (State.requestCore s t g cls).outer = s.outer := by
  unfold State.requestCore
  repeat' first
    | (extract_lets +onlyGivenNames x
       refine (fun (hx : State.outer x = State.outer s) => ?_) ?_
       on_goal 1 => clear_value x
       on_goal 2 => (dsimp -zeta only [x]; clear x))
    | (extract_lets +onlyGivenNames x
       clear_value x)
    | (simp -zeta only [State.outer_mk, keepsOuter_next, keepsOuter_fault, State.modTile_outer, State.requestWake_outer, State.dropWake_outer]; done)
    | split
    | (simp -zeta only [*, State.outer_mk, keepsOuter_next, State.modTile_outer, State.requestWake_outer, State.dropWake_outer]; done)

theorem State.afterStopped_outer (s : State) (t : TileId) : (State.afterStopped s t).outer = s.outer := by
  unfold State.afterStopped
  repeat' first
    | with_reducible assumption
    | (extract_lets +onlyGivenNames x
       refine (fun (hx : State.outer x = State.outer s) => ?_) ?_
       on_goal 1 => clear_value x
       on_goal 2 => (dsimp -zeta only [x]; clear x))
    | (extract_lets +onlyGivenNames x
       clear_value x)
    | (simp -zeta only [State.outer_mk, keepsOuter_next, keepsOuter_fault, State.modTile_outer, State.requestCore_outer]; done)
    | (simp -zeta only [State.outer_mk, keepsOuter_next, keepsOuter_fault, State.modTile_outer, State.requestCore_outer]; with_reducible assumption)
    | split

theorem State.forcedClose_outer (s : State) (t : TileId) : (State.forcedClose s t).outer = s.outer := by
  unfold State.forcedClose
  repeat' first
    | (extract_lets +onlyGivenNames x
       refine (fun (hx : State.outer x = State.outer s) => ?_) ?_
       on_goal 1 => clear_value x
       on_goal 2 => (dsimp -zeta only [x]; clear x))
    | (extract_lets +onlyGivenNames x
       clear_value x)
    | (simp -zeta only [State.outer_mk, keepsOuter_next, keepsOuter_fault, State.modTile_outer, State.report_outer, State.take_outer, State.nack_outer]; done)
    | (with_reducible refine foldl_outer' _ _ ?_ ?_
       on_goal 2 => intro s _)
    | (simp -zeta only [*, State.outer_mk, keepsOuter_next, State.modTile_outer, State.report_outer, State.take_outer, State.nack_outer]; done)

theorem State.enter_outer (s : State) (m : ModuleState) : (State.enter s m).outer = s.outer := by
  unfold State.enter
  split <;> simp only [State.outer_mk, keepsOuter_next, State.refreshAlert_outer]

theorem State.refreshModule_outer (s : State) : (State.refreshModule s).outer = s.outer := by
  unfold State.refreshModule
  repeat' first
    | with_reducible rfl
    | (simp only [State.outer_mk, keepsOuter_next, State.enter_outer]; done)
    | split

theorem State.clearStreams_outer (s : State) (t : TileId) (counts : Bool) : (State.clearStreams s t counts).outer = s.outer := by
  rfl

theorem State.advance_outer (s : State) (rs : List (Fin 16)) : (State.advance s rs).outer = s.outer := by
  unfold State.advance
  repeat' first
    | (extract_lets +onlyGivenNames x
       refine (fun (hx : State.outer x = State.outer s) => ?_) ?_
       on_goal 1 => clear_value x
       on_goal 2 => (dsimp -zeta only [x]; clear x))
    | (simp -zeta only [State.outer_mk, keepsOuter_next, keepsOuter_fault, State.modRange_outer, State.modTiles_outer]; done)
    | (with_reducible refine foldl_outer' _ _ ?_ ?_
       on_goal 2 => intro s _)
    | (simp -zeta only [*, State.outer_mk, keepsOuter_next, State.modRange_outer, State.modTiles_outer]; done)

theorem State.advancePart_outer (s : State) (n : PartId) : (State.advancePart s n).outer = s.outer := by
  simp only [State.advancePart, State.outer_mk, keepsOuter_next, State.modTiles_outer, State.advance_outer]

theorem State.leaveTile_outer (s : State) (t : TileId) : (State.leaveTile s t).outer = s.outer := by
  unfold State.leaveTile
  repeat' first
    | (extract_lets +onlyGivenNames x
       refine (fun (hx : State.outer x = State.outer s) => ?_) ?_
       on_goal 1 => clear_value x
       on_goal 2 => (dsimp -zeta only [x]; clear x))
    | (extract_lets +onlyGivenNames x
       refine (fun (hx : ∀ y, State.outer (x y) = State.outer y) => ?_) ?_
       on_goal 1 => clear_value x
       on_goal 2 => (dsimp -zeta only [x]; clear x; intro s))
    | (extract_lets +onlyGivenNames x
       clear_value x)
    | (simp -zeta only [State.outer_mk, keepsOuter_next, keepsOuter_fault, State.modTile_outer, State.dropWake_outer, State.requestCore_outer]; done)
    | split
    | (simp -zeta only [*, State.outer_mk, keepsOuter_next, State.modTile_outer, State.dropWake_outer, State.requestCore_outer]; done)

theorem State.resetPartition_outer (s : State) (n : PartId) (code : Nat) : (State.resetPartition s n code).outer = s.outer := by
  unfold State.resetPartition
  repeat' first
    | (extract_lets +onlyGivenNames x
       refine (fun (hx : State.outer x = State.outer s) => ?_) ?_
       on_goal 1 => clear_value x
       on_goal 2 => (dsimp -zeta only [x]; clear x))
    | (extract_lets +onlyGivenNames x
       clear_value x)
    | (simp -zeta only [State.outer_mk, keepsOuter_next, keepsOuter_fault, State.modPort_outer, State.modPart_outer, State.modFn_outer, State.modTiles_outer, State.statusChanged_outer, State.sendNotice_outer, State.retireLost_outer, State.stopWake_outer, State.refreshModule_outer, State.clearStreams_outer, State.advancePart_outer, State.leaveTile_outer]; done)
    | split
    | (with_reducible refine foldl_outer' _ _ ?_ ?_
       on_goal 2 => intro s _)
    | (simp -zeta only [*, State.outer_mk, keepsOuter_next, State.modPort_outer, State.modPart_outer, State.modFn_outer, State.modTiles_outer, State.statusChanged_outer, State.sendNotice_outer, State.retireLost_outer, State.stopWake_outer, State.refreshModule_outer, State.clearStreams_outer, State.advancePart_outer, State.leaveTile_outer]; done)

theorem State.stopForRetry_outer (s : State) (n : PartId) (code attempt : Nat) : (State.stopForRetry s n code attempt).outer = s.outer := by
  simp only [State.stopForRetry, State.outer_mk, keepsOuter_next, State.modPart_outer, State.modTiles_outer, State.sbEvent_outer]

theorem State.takeNotice_outer (s : State) (n : PartId) : (State.takeNotice s n).outer = s.outer := by
  unfold State.takeNotice
  repeat' first
    | (extract_lets +onlyGivenNames x
       refine (fun (hx : State.outer x = State.outer s) => ?_) ?_
       on_goal 1 => clear_value x
       on_goal 2 => (dsimp -zeta only [x]; clear x))
    | (extract_lets +onlyGivenNames x
       clear_value x)
    | (simp -zeta only [State.outer_mk, keepsOuter_next, keepsOuter_fault, State.modPart_outer, State.modTiles_outer]; done)
    | (simp -zeta only [*, State.outer_mk, keepsOuter_next, State.modPart_outer, State.modTiles_outer]; done)

theorem State.takeNotices_outer (s : State) : (State.takeNotices s).outer = s.outer := by
  unfold State.takeNotices
  repeat' first
    | (simp -zeta only [State.outer_mk, keepsOuter_next, keepsOuter_fault, State.takeNotice_outer]; done)
    | (with_reducible refine foldl_outer' _ _ ?_ ?_
       on_goal 2 => intro s _)
    | (simp -zeta only [*, State.outer_mk, keepsOuter_next, State.takeNotice_outer]; done)

theorem State.startRetry_outer (s : State) (n : PartId) (code : Nat) : (State.startRetry s n code).outer = s.outer := by
  simp only [State.startRetry, State.outer_mk, keepsOuter_next, State.sendNotice_outer, State.stopForRetry_outer]

theorem State.callRetry_outer (s : State) (n : PartId) (code : Nat) : (State.callRetry s n code).outer = s.outer := by
  unfold State.callRetry
  repeat' first
    | with_reducible rfl
    | (extract_lets +onlyGivenNames x
       clear_value x)
    | (simp -zeta only [State.outer_mk, keepsOuter_next, keepsOuter_fault, State.modPart_outer, State.resetPartition_outer, State.startRetry_outer]; done)
    | split

theorem State.designate_outer (s : State) : (State.designate s).outer = s.outer := by
  unfold State.designate
  refine foldl_outer' _ _ rfl fun s _ => ?_
  repeat' first
    | with_reducible rfl
    | (simp only [State.outer_mk, keepsOuter_next, State.requestCore_outer]; done)
    | split

theorem State.startSubstitution_outer (s : State) (n : PartId) (t : TileId) (l : Nat) (layer : Option Nat) (dieFault : Bool) : (State.startSubstitution s n t l layer dieFault).outer = s.outer := by
  unfold State.startSubstitution
  repeat' first
    | with_reducible assumption
    | (extract_lets +onlyGivenNames x
       refine (fun (hx : State.outer x = State.outer s) => ?_) ?_
       on_goal 1 => clear_value x
       on_goal 2 => (dsimp -zeta only [x]; clear x))
    | (extract_lets +onlyGivenNames x
       clear_value x)
    | (simp -zeta only [State.outer_mk, keepsOuter_next, keepsOuter_fault, State.modTile_outer, State.modPart_outer, State.recordOwn_outer, State.requestCore_outer, State.refreshModule_outer, State.clearStreams_outer, State.resetPartition_outer, State.designate_outer]; done)
    | (simp -zeta only [State.outer_mk, keepsOuter_next, keepsOuter_fault, State.modTile_outer, State.modPart_outer, State.recordOwn_outer, State.requestCore_outer, State.refreshModule_outer, State.clearStreams_outer, State.resetPartition_outer, State.designate_outer]; with_reducible assumption)
    | split
    | (with_reducible refine foldl_outer' _ _ ?_ ?_
       on_goal 2 => intro s _)

theorem State.abandonMigration_outer (s : State) (n : PartId) (v : Move) : (State.abandonMigration s n v).outer = s.outer := by
  unfold State.abandonMigration
  repeat' first
    | (extract_lets +onlyGivenNames x
       refine (fun (hx : State.outer x = State.outer s) => ?_) ?_
       on_goal 1 => clear_value x
       on_goal 2 => (dsimp -zeta only [x]; clear x))
    | (extract_lets +onlyGivenNames x
       clear_value x)
    | (simp -zeta only [State.outer_mk, keepsOuter_next, keepsOuter_fault, State.modTile_outer, State.modPart_outer, State.dropWake_outer, State.requestCore_outer, State.refreshModule_outer, State.leaveTile_outer, State.designate_outer]; done)
    | split
    | (simp -zeta only [*, State.outer_mk, keepsOuter_next, State.modTile_outer, State.modPart_outer, State.dropWake_outer, State.requestCore_outer, State.refreshModule_outer, State.leaveTile_outer, State.designate_outer]; done)

theorem State.replaceTarget_outer (s : State) (n : PartId) (m : Move) (dieFault : Bool) : (State.replaceTarget s n m dieFault).outer = s.outer := by
  unfold State.replaceTarget
  repeat' first
    | (extract_lets +onlyGivenNames x
       refine (fun (hx : State.outer x = State.outer s) => ?_) ?_
       on_goal 1 => clear_value x
       on_goal 2 => (dsimp -zeta only [x]; clear x))
    | (extract_lets +onlyGivenNames x
       clear_value x)
    | (simp -zeta only [State.outer_mk, keepsOuter_next, keepsOuter_fault, State.modPart_outer, State.recordOwn_outer, State.requestCore_outer, State.refreshModule_outer, State.resetPartition_outer, State.designate_outer, State.abandonMigration_outer]; done)
    | split
    | (simp -zeta only [*, State.outer_mk, keepsOuter_next, State.modPart_outer, State.recordOwn_outer, State.requestCore_outer, State.refreshModule_outer, State.resetPartition_outer, State.designate_outer, State.abandonMigration_outer]; done)

theorem State.replaceTargets_outer (s : State) (t : TileId) (dieFault : Bool) : (State.replaceTargets s t dieFault).outer = s.outer := by
  unfold State.replaceTargets
  repeat' first
    | (simp -zeta only [State.outer_mk, keepsOuter_next, keepsOuter_fault, State.replaceTarget_outer]; done)
    | split
    | (with_reducible refine foldl_outer' _ _ ?_ ?_
       on_goal 2 => intro s _)
    | (simp -zeta only [*, State.outer_mk, keepsOuter_next, State.replaceTarget_outer]; done)

theorem State.fenceTile_outer (s : State) (t : TileId) (layer : Option Nat) (dieFault : Bool) : (State.fenceTile s t layer dieFault).outer = s.outer := by
  unfold State.fenceTile
  repeat' first
    | (extract_lets +onlyGivenNames x
       refine (fun (hx : State.outer x = State.outer s) => ?_) ?_
       on_goal 1 => clear_value x
       on_goal 2 => (dsimp -zeta only [x]; clear x))
    | (extract_lets +onlyGivenNames x
       clear_value x)
    | (simp -zeta only [State.outer_mk, keepsOuter_next, keepsOuter_fault, State.modTile_outer, State.modPart_outer, State.requestCore_outer, State.refreshModule_outer, State.clearStreams_outer, State.designate_outer, State.startSubstitution_outer, State.replaceTargets_outer]; done)
    | split
    | (with_reducible refine foldl_outer' _ _ ?_ ?_
       on_goal 2 => intro s _)
    | (simp -zeta only [*, State.outer_mk, keepsOuter_next, State.modTile_outer, State.modPart_outer, State.requestCore_outer, State.refreshModule_outer, State.clearStreams_outer, State.designate_outer, State.startSubstitution_outer, State.replaceTargets_outer]; done)

theorem State.queueTest_outer (s : State) (t : TileId) : (State.queueTest s t).outer = s.outer := by
  unfold State.queueTest
  split <;> simp only [State.outer_mk, keepsOuter_next]

theorem State.closeTest_outer (s : State) (k : PendingTest) (r : TestResult) (code : Nat) : (State.closeTest s k r code).outer = s.outer := rfl

theorem State.failTest_outer (s : State) (t : TileId) : (State.failTest s t).outer = s.outer := by
  unfold State.failTest
  split <;> simp only [State.outer_mk, keepsOuter_next, State.modTile_outer, State.closeTest_outer]

theorem State.endTests_outer (s : State) : (State.endTests s).outer = s.outer := by
  unfold State.endTests
  refine foldl_outer' _ _ rfl fun s _ => ?_
  repeat' first
    | with_reducible rfl
    | (simp only [State.outer_mk, keepsOuter_next, State.modTile_outer]; done)
    | split

theorem State.tileDeath_outer (s : State) (t : TileId) (code detailA : Nat) (dieFault retry : Bool) : (State.tileDeath s t code detailA dieFault retry).outer = s.outer := by
  unfold State.tileDeath
  repeat' first
    | (extract_lets +onlyGivenNames x
       refine (fun (hx : State.outer x = State.outer s) => ?_) ?_
       on_goal 1 => clear_value x
       on_goal 2 => (dsimp -zeta only [x]; clear x))
    | (extract_lets +onlyGivenNames x
       clear_value x)
    | (simp -zeta only [State.outer_mk, keepsOuter_next, keepsOuter_fault, State.modTile_outer, State.report_outer, State.stopWake_outer, State.clearStreams_outer, State.callRetry_outer, State.fenceTile_outer, State.failTest_outer]; done)
    | split
    | (simp -zeta only [*, State.outer_mk, keepsOuter_next, State.modTile_outer, State.report_outer, State.stopWake_outer, State.clearStreams_outer, State.callRetry_outer, State.fenceTile_outer, State.failTest_outer]; done)

theorem State.failStack_outer (s : State) (k : StackId) : (State.failStack s k).outer = s.outer := by
  unfold State.failStack
  repeat' first
    | with_reducible assumption
    | (extract_lets +onlyGivenNames x
       refine (fun (hx : State.outer x = State.outer s) => ?_) ?_
       on_goal 1 => clear_value x
       on_goal 2 => (dsimp -zeta only [x]; clear x))
    | (extract_lets +onlyGivenNames x
       clear_value x)
    | split
    | (with_reducible refine foldl_outer' _ _ ?_ ?_
       on_goal 2 => intro s _)
    | (simp -zeta only [State.outer_mk, keepsOuter_next, keepsOuter_fault, State.modStack_outer, State.report_outer, State.refreshModule_outer, State.modPart_outer, State.resetPartition_outer])

theorem State.modCtx_outer (s : State) (t : TileId) (c : CtxId) (f : Context → Context) : (State.modCtx s t c f).outer = s.outer := by
  rfl

theorem State.waitCtx_outer (s : State) (t : TileId) (c : CtxId) : (State.waitCtx s t c).outer = s.outer := by
  rfl

theorem State.command_outer (s : State) (t : TileId) (c : CtxId) (i : Instr) (f : Seat → State → State) (hf : ∀ e s, (f e s).outer = s.outer) : (State.command s t c i f).outer = s.outer := by
  unfold State.command
  extract_lets k
  split
  · rfl
  · split
    · rfl
    · split
      · rfl
      · split
        · simp only [State.waitCtx_outer]
        · split
          · exact hf _ _
          · rfl

theorem State.applyTokens_outer (s : State) (b n : Nat) : (State.applyTokens s b n).outer = s.outer := by
  rfl

theorem State.sendArrival_outer (s : State) (t : TileId) (e : Seat) (c cmd logicalBuckle count kind target : Nat) : (State.sendArrival s t e c cmd logicalBuckle count kind target).outer = s.outer := by
  unfold State.sendArrival
  repeat' first
    | (extract_lets +onlyGivenNames x
       refine (fun (hx : State.outer x = State.outer s) => ?_) ?_
       on_goal 1 => clear_value x
       on_goal 2 => (dsimp -zeta only [x]; clear x))
    | (extract_lets +onlyGivenNames x
       clear_value x)
    | (simp -zeta only [State.outer_mk, keepsOuter_next, keepsOuter_fault, State.modTile_outer, State.countTokens_outer, State.sendBuckle_outer, State.applyTokens_outer]; done)
    | split
    | (simp -zeta only [*, State.outer_mk, keepsOuter_next, State.modTile_outer, State.countTokens_outer, State.sendBuckle_outer, State.applyTokens_outer]; done)

theorem State.flushArrivals_outer (s : State) (t : TileId) (c : CtxId) (e : Seat) (n : Nat) : (State.flushArrivals s t c e n).outer = s.outer := by
  induction n generalizing s with
  | zero => rfl
  | succ n ih =>
    unfold State.flushArrivals
    extract_lets k
    split
    · rfl
    · simp only [ih, State.sendArrival_outer, State.modTile_outer]

theorem State.complete_outer (s : State) (t : TileId) (c : CtxId) (e : Seat) (i : Nat) : (State.complete s t c e i).outer = s.outer := by
  simp only [State.complete, State.outer_mk, keepsOuter_next, State.modTile_outer, State.flushArrivals_outer]

theorem State.issue_outer (s : State) (t : TileId) (c : CtxId) (e : Seat) (completes : Bool) : (State.issue s t c e completes).outer = s.outer := by
  unfold State.issue
  split <;> simp only [State.outer_mk, keepsOuter_next, State.modTile_outer, State.complete_outer]

theorem State.commandFault_outer (s : State) (t : TileId) (c : CtxId) (e : Seat) (cmd classOp code detailA : Nat) (detailB : Nat) (queue gen desc : Option Nat) : (State.commandFault s t c e cmd classOp code detailA detailB queue gen desc).outer = s.outer := by
  simp only [State.commandFault, State.outer_mk, keepsOuter_next, State.modTile_outer, State.report_outer, State.callRetry_outer]

theorem State.orderFault_outer (s : State) (t : TileId) (c : CtxId) (e : Seat) (classOp : Nat) : (State.orderFault s t c e classOp).outer = s.outer := by
  simp only [State.orderFault, State.outer_mk, keepsOuter_next, State.commandFault_outer]

theorem State.malformed_outer (s : State) (t : TileId) (c : CtxId) (e : Seat) (classOp offset : Nat) : (State.malformed s t c e classOp offset).outer = s.outer := by
  simp only [State.malformed, State.outer_mk, keepsOuter_next, State.commandFault_outer]

theorem State.structFailAs_outer (s : State) (f : StructFail) (names : ErrorReport → ErrorReport) : (State.structFailAs s f names).outer = s.outer := by
  unfold State.structFailAs
  repeat' first
    | (extract_lets +onlyGivenNames x
       refine (fun (hx : State.outer x = State.outer s) => ?_) ?_
       on_goal 1 => clear_value x
       on_goal 2 => (dsimp -zeta only [x]; clear x))
    | (extract_lets +onlyGivenNames x
       clear_value x)
    | (simp -zeta only [State.outer_mk, keepsOuter_next, keepsOuter_fault, State.modPart_outer, State.report_outer, State.callRetry_outer]; done)
    | split
    | (simp -zeta only [*, State.outer_mk, keepsOuter_next, State.modPart_outer, State.report_outer, State.callRetry_outer]; done)

theorem State.structFail_outer (s : State) (f : StructFail) : (State.structFail s f).outer = s.outer := by
  unfold State.structFail
  repeat' first
    | (simp -zeta only [State.outer_mk, keepsOuter_next, keepsOuter_fault, State.structFailAs_outer]; done)
    | (simp -zeta only [*, State.outer_mk, keepsOuter_next, State.structFailAs_outer]; done)

theorem State.structFault_outer (s : State) (t : TileId) (c : CtxId) (f : StructFail) (cmd classOp : Nat) (names : ErrorReport → ErrorReport) : (State.structFault s t c f cmd classOp names).outer = s.outer := by
  unfold State.structFault
  repeat' first
    | (extract_lets +onlyGivenNames x
       refine (fun (hx : State.outer x = State.outer s) => ?_) ?_
       on_goal 1 => clear_value x
       on_goal 2 => (dsimp -zeta only [x]; clear x))
    | (extract_lets +onlyGivenNames x
       clear_value x)
    | (simp -zeta only [State.outer_mk, keepsOuter_next, keepsOuter_fault, State.modTile_outer, State.structFailAs_outer]; done)
    | split
    | (simp -zeta only [*, State.outer_mk, keepsOuter_next, State.modTile_outer, State.structFailAs_outer]; done)

theorem State.brokenSum_outer (s : State) (quantity unit id origin expected observed : Nat) (part : Option PartId) (action : Nat) : (State.brokenSum s quantity unit id origin expected observed part action).outer = s.outer := by
  simp only [State.brokenSum, State.outer_mk, keepsOuter_next, State.report_outer]

theorem State.checkArming_outer (s : State) (t : TileId) (n : PartId) (q : Fin 32) (a : Arming) : (State.checkArming s t n q a).outer = s.outer := by
  unfold State.checkArming
  repeat' first
    | (extract_lets +onlyGivenNames x
       refine (fun (hx : State.outer x = State.outer s) => ?_) ?_
       on_goal 1 => clear_value x
       on_goal 2 => (dsimp -zeta only [x]; clear x))
    | (extract_lets +onlyGivenNames x
       clear_value x)
    | (simp -zeta only [State.outer_mk, keepsOuter_next, keepsOuter_fault, State.resetPartition_outer, State.brokenSum_outer]; done)
    | split
    | (simp -zeta only [*, State.outer_mk, keepsOuter_next, State.resetPartition_outer, State.brokenSum_outer]; done)

theorem State.countConv_outer (s : State) (n : PartId) (h col overflows nonfinite : Nat) (again : Bool) : (State.countConv s n h col overflows nonfinite again).outer = s.outer := by
  rfl

theorem State.countFlags_outer (s : State) (n : PartId) (h col sat ovf inv nin : Nat) (again : Bool) : (State.countFlags s n h col sat ovf inv nin again).outer = s.outer := by
  rfl

theorem State.scaleFault_outer (s : State) (t : TileId) (e : Seat) (cmd : Nat) (b : Block) : (State.scaleFault s t e cmd b).outer = s.outer := by
  simp only [State.scaleFault, State.outer_mk, keepsOuter_next, State.modTile_outer, State.commandFault_outer]

theorem execLoadw_outer (t : TileId) (o : LoadwOp) (s : State) : keepsOuter (execLoadw t o s) s := by
  unfold execLoadw
  repeat' first
    | with_reducible assumption
    | (extract_lets +onlyGivenNames x
       refine (fun (hx : State.outer x = State.outer s) => ?_) ?_
       on_goal 1 => clear_value x
       on_goal 2 => (dsimp -zeta only [x]; clear x))
    | (extract_lets +onlyGivenNames x
       clear_value x)
    | split
    | (with_reducible refine (State.command_outer _ _ _ _ _ ?_).trans ?_
       on_goal 1 => intro e s)
    | (simp -zeta only [State.outer_mk, keepsOuter_next, State.modTile_outer, State.waitCtx_outer, State.issue_outer, State.malformed_outer, State.scaleFault_outer])

theorem execBlockLoaded_outer (t : TileId) (s : State) : keepsOuter (execBlockLoaded t s) s := by
  unfold execBlockLoaded
  repeat' first
    | with_reducible rfl
    | (extract_lets +onlyGivenNames x
       refine (fun (hx : State.outer x = State.outer s) => ?_) ?_
       on_goal 1 => clear_value x
       on_goal 2 => (dsimp -zeta only [x]; clear x))
    | (extract_lets +onlyGivenNames x
       clear_value x)
    | (simp -zeta only [State.outer_mk, keepsOuter_next, keepsOuter_fault, State.modTile_outer, State.complete_outer, State.scaleFault_outer]; done)
    | (simp -zeta only [State.outer_mk, keepsOuter_next, keepsOuter_fault, State.modTile_outer, State.complete_outer, State.scaleFault_outer]; with_reducible assumption)
    | split

theorem State.countMmul_outer (s : State) (t : TileId) (e : Seat) (o : MmulOp) (width rowHandle bad : Nat) (again : Bool) (layer : Option Nat) : (State.countMmul s t e o width rowHandle bad again layer).outer = s.outer := by
  unfold State.countMmul
  split <;> simp only [State.outer_mk, keepsOuter_next, State.take_outer, State.countConv_outer, State.countFlags_outer]

theorem execMmul_outer (t : TileId) (o : MmulOp) (s : State) : keepsOuter (execMmul t o s) s := by
  unfold execMmul
  rw [keepsOuter_next]
  refine State.command_outer _ _ _ _ _ ?_
  intro e s
  extract_lets x n run
  split
  · exact State.malformed_outer ..
  · split
    · exact State.malformed_outer ..
    · split
      · exact State.orderFault_outer ..
      · exact State.waitCtx_outer ..
      · repeat' first
          | with_reducible exact State.waitCtx_outer ..
          | with_reducible exact State.malformed_outer ..
          | with_reducible exact State.orderFault_outer ..
          | with_reducible exact (State.issue_outer ..).trans ((State.countMmul_outer ..).trans (State.modTile_outer ..))
          | (extract_lets +onlyGivenNames y
             first
               | (refine (fun (hx : State.outer y = State.outer s) => ?_) ?_
                  on_goal 1 => clear_value y
                  on_goal 2 => (dsimp -zeta only [y]; clear y; first | with_reducible exact State.modTile_outer .. | (refine (State.countMmul_outer ..).trans ?_; assumption)))
               | clear_value y)
          | (refine (State.issue_outer ..).trans ?_; assumption)
          | split

theorem execDrain_outer (t : TileId) (o : DrainOp) (s : State) : keepsOuter (execDrain t o s) s := by
  unfold execDrain
  repeat' first
    | (extract_lets +onlyGivenNames x
       clear_value x)
    | split
    | (with_reducible refine (State.command_outer _ _ _ _ _ ?_).trans ?_
       on_goal 1 => intro e s)
    | (simp -zeta only [State.outer_mk, keepsOuter_next, State.modTile_outer, State.issue_outer, State.orderFault_outer, State.malformed_outer])

theorem execCheckStatusFinal_outer (t : TileId) (w : StatusTarget) (passed : Bool) (s : State) : keepsOuter (execCheckStatusFinal t w passed s) s := by
  rfl

theorem State.modQueue_outer (s : State) (t : TileId) (q : Fin 32) (f : Queue → Queue) : (State.modQueue s t q f).outer = s.outer := by
  rfl

theorem State.countTransfers_outer (s : State) (planned completed cancelled : Nat) : (State.countTransfers s planned completed cancelled).outer = s.outer := by
  rfl

theorem State.rearmOverrun_outer (s : State) (t : TileId) (e : Seat) (q : Fin 32) (act sh new : Arming) : (State.rearmOverrun s t e q act sh new).outer = s.outer := by
  simp only [State.rearmOverrun, State.outer_mk, keepsOuter_next, State.modTile_outer, State.report_outer, State.callRetry_outer, State.modQueue_outer, State.countTransfers_outer]

theorem State.refetchDescriptor_outer (s : State) (t : TileId) (e : Seat) (q : Fin 32) (idx : BitVec 32) (ws : List Word64) : (State.refetchDescriptor s t e q idx ws).outer = s.outer := by
  unfold State.refetchDescriptor
  repeat' first
    | (extract_lets +onlyGivenNames x
       refine (fun (hx : State.outer x = State.outer s) => ?_) ?_
       on_goal 1 => clear_value x
       on_goal 2 => (dsimp -zeta only [x]; clear x))
    | (extract_lets +onlyGivenNames x
       clear_value x)
    | (simp -zeta only [State.outer_mk, keepsOuter_next, keepsOuter_fault, State.modTile_outer, State.waitCtx_outer, State.structFault_outer]; done)
    | (simp -zeta only [*, State.outer_mk, keepsOuter_next, State.modTile_outer, State.waitCtx_outer, State.structFault_outer]; done)

theorem execArm_outer (t : TileId) (q : Fin 32) (idx : BitVec 32) (s : State) : keepsOuter (execArm t q idx s) s := by
  unfold execArm
  repeat' first
    | with_reducible assumption
    | (extract_lets +onlyGivenNames x
       refine (fun (hx : State.outer x = State.outer s) => ?_) ?_
       on_goal 1 => clear_value x
       on_goal 2 => (dsimp -zeta only [x]; clear x))
    | (extract_lets +onlyGivenNames x
       clear_value x)
    | split
    | (with_reducible refine (State.command_outer _ _ _ _ _ ?_).trans ?_
       on_goal 1 => intro e s)
    | (simp -zeta only [State.outer_mk, keepsOuter_next, State.modTile_outer, State.sendArrival_outer, State.issue_outer, State.commandFault_outer, State.modQueue_outer, State.countTransfers_outer, State.rearmOverrun_outer, State.refetchDescriptor_outer])

theorem State.startQueue_outer (s : State) (t : TileId) (i : Instr) (q : Fin 32) (out : Bool) (classOp : Nat) : (State.startQueue s t i q out classOp).outer = s.outer := by
  unfold State.startQueue
  repeat' first
    | (extract_lets +onlyGivenNames x
       clear_value x)
    | (simp -zeta only [State.outer_mk, keepsOuter_next, keepsOuter_fault, State.issue_outer, State.commandFault_outer, State.modQueue_outer]; done)
    | split
    | (with_reducible refine (State.command_outer _ _ _ _ _ ?_).trans ?_
       on_goal 1 => intro e s)
    | (simp -zeta only [*, State.outer_mk, keepsOuter_next, State.issue_outer, State.commandFault_outer, State.modQueue_outer]; done)

theorem execSend_outer (t : TileId) (q : Fin 32) (s : State) : keepsOuter (execSend t q s) s := by
  simp only [execSend, State.outer_mk, keepsOuter_next, State.startQueue_outer]

theorem execRecv_outer (t : TileId) (q : Fin 32) (s : State) : keepsOuter (execRecv t q s) s := by
  simp only [execRecv, State.outer_mk, keepsOuter_next, State.startQueue_outer]

theorem State.sendCodes_outer (s : State) (t : TileId) (n : PartId) (bucket off pass : Nat) (q : Nat) (gen : BitVec 8) (codes : List Byte) (mags : List Nat) : (State.sendCodes s t n bucket off pass q gen codes mags).outer = s.outer := by
  unfold State.sendCodes
  repeat' first
    | with_reducible rfl
    | (extract_lets +onlyGivenNames x
       refine (fun (hx : State.outer x = State.outer s) => ?_) ?_
       on_goal 1 => clear_value x
       on_goal 2 => (dsimp -zeta only [x]; clear x))
    | (extract_lets +onlyGivenNames x
       clear_value x)
    | (simp -zeta only [State.outer_mk, keepsOuter_next, keepsOuter_fault, State.modPart_outer, State.send_outer, State.sendControl_outer]; done)
    | (simp -zeta only [State.outer_mk, keepsOuter_next, keepsOuter_fault, State.modPart_outer, State.send_outer, State.sendControl_outer]; with_reducible assumption)
    | split

theorem State.quantizeRun_outer (s : State) (t : TileId) (n : PartId) (bucket residual off addr count pass : Nat) (incs : List Nat) : (State.quantizeRun s t n bucket residual off addr count pass incs).2.outer = s.outer := by
  rfl

theorem State.sendPiece_outer (s : State) (t : TileId) (e : Seat) (q : Nat) (gen : BitVec 8) (k : RegionKey) (c : Piece) (write : Bool) (back : Nat) (bs : List Byte) : (State.sendPiece s t e q gen k c write back bs).outer = s.outer := by
  unfold State.sendPiece
  repeat' first
    | (extract_lets +onlyGivenNames x
       clear_value x)
    | (simp -zeta only [State.outer_mk, keepsOuter_next, keepsOuter_fault, State.send_outer]; done)
    | split
    | (simp -zeta only [*, State.outer_mk, keepsOuter_next, State.send_outer]; done)

theorem State.sendParts_outer (s : State) (t : TileId) (e : Seat) (q : Nat) (gen : BitVec 8) (d : Descriptor) (i : Nat) : (State.sendParts s t e q gen d i).outer = s.outer := by
  unfold State.sendParts
  repeat' first
    | with_reducible rfl
    | (extract_lets +onlyGivenNames x
       clear_value x)
    | (simp -zeta only [State.outer_mk, keepsOuter_next, keepsOuter_fault, State.send_outer]; done)
    | split
    | (with_reducible refine foldl_outer' _ _ ?_ ?_
       on_goal 2 => intro s _)

theorem State.sendTransfer_outer (s : State) (t : TileId) (e : Seat) (q : Fin 32) (a : Arming) (i : Nat) : (State.sendTransfer s t e q a i).outer = s.outer := by
  unfold State.sendTransfer
  repeat' first
    | (extract_lets +onlyGivenNames x
       clear_value x)
    | (simp -zeta only [State.outer_mk, keepsOuter_next, keepsOuter_fault, State.send_outer, State.sendPiece_outer, State.sendParts_outer]; done)
    | split
    | (with_reducible refine foldl_fst_outer _ _ ?_ ?_
       on_goal 2 => intro s _)
    | (simp -zeta only [*, State.outer_mk, keepsOuter_next, State.send_outer, State.sendPiece_outer, State.sendParts_outer]; done)

theorem State.withhold_outer (s : State) (t : TileId) (e : Seat) : (State.withhold s t e).outer = s.outer := by
  unfold State.withhold
  repeat' first
    | with_reducible assumption
    | (extract_lets +onlyGivenNames x
       refine (fun (hx : State.outer x = State.outer s) => ?_) ?_
       on_goal 1 => clear_value x
       on_goal 2 => (dsimp -zeta only [x]; clear x))
    | (extract_lets +onlyGivenNames x
       clear_value x)
    | (simp -zeta only [State.outer_mk, keepsOuter_next, keepsOuter_fault, State.modTile_outer, State.modQueue_outer]; done)
    | (simp -zeta only [State.outer_mk, keepsOuter_next, keepsOuter_fault, State.modTile_outer, State.modQueue_outer]; with_reducible assumption)
    | split
    | (with_reducible refine foldl_outer' _ _ ?_ ?_
       on_goal 2 => intro s _)

theorem State.transferCodes_outer (s : State) (t : TileId) (e : Seat) (a : Arming) (far addr len : Nat) : (State.transferCodes s t e a far addr len).2.outer = s.outer := by
  unfold State.transferCodes
  repeat' first
    | with_reducible rfl
    | (extract_lets +onlyGivenNames x
       refine (fun (hx : State.outer x = State.outer s) => ?_) ?_
       on_goal 1 => clear_value x
       on_goal 2 => (dsimp -zeta only [x]; clear x))
    | (extract_lets +onlyGivenNames x
       clear_value x)
    | (simp -zeta only [State.outer_mk, keepsOuter_next, keepsOuter_fault, State.modPart_outer, State.countConv_outer, State.quantizeRun_outer]; done)
    | (simp -zeta only [State.outer_mk, keepsOuter_next, keepsOuter_fault, State.modPart_outer, State.countConv_outer, State.quantizeRun_outer]; with_reducible assumption)
    | (split <;>
       (rename_i heq
        have hx := congrArg (fun p : _ × State => State.outer p.2) heq.symm
        simp -zeta only [State.modPart_outer, State.countConv_outer, State.quantizeRun_outer] at hx))
    | split

theorem State.issueTransfer_outer (s : State) (t : TileId) (e : Seat) (q : Fin 32) (a : Arming) : (State.issueTransfer s t e q a).outer = s.outer := by
  unfold State.issueTransfer
  repeat' first
    | with_reducible rfl
    | (extract_lets +onlyGivenNames x
       refine (fun (hx : State.outer x = State.outer s) => ?_) ?_
       on_goal 1 => clear_value x
       on_goal 2 => (dsimp -zeta only [x]; clear x))
    | (extract_lets +onlyGivenNames x
       clear_value x)
    | (simp -zeta only [State.outer_mk, keepsOuter_next, keepsOuter_fault, State.modTile_outer, State.sendCodes_outer, State.sendTransfer_outer, State.transferCodes_outer]; done)
    | (simp -zeta only [State.outer_mk, keepsOuter_next, keepsOuter_fault, State.modTile_outer, State.sendCodes_outer, State.sendTransfer_outer, State.transferCodes_outer]; with_reducible assumption)
    | (split <;>
       (rename_i heq
        have hx := congrArg (fun p : _ × State => State.outer p.2) heq.symm
        simp -zeta only [State.modTile_outer, State.sendCodes_outer, State.sendTransfer_outer, State.transferCodes_outer] at hx))
    | split
    | (with_reducible refine (State.serve_outer _ _ _ _ _ ?_).trans ?_
       on_goal 1 => intro s q)

theorem execTransferIssue_outer (t : TileId) (s : State) : keepsOuter (execTransferIssue t s) s := by
  unfold execTransferIssue
  repeat' first
    | with_reducible rfl
    | (extract_lets +onlyGivenNames x
       refine (fun (hx : State.outer x = State.outer s) => ?_) ?_
       on_goal 1 => clear_value x
       on_goal 2 => (dsimp -zeta only [x]; clear x))
    | (simp -zeta only [State.outer_mk, keepsOuter_next, keepsOuter_fault, State.withhold_outer, State.issueTransfer_outer]; done)
    | (simp -zeta only [State.outer_mk, keepsOuter_next, keepsOuter_fault, State.withhold_outer, State.issueTransfer_outer]; with_reducible assumption)
    | split

theorem State.generationFault_outer (s : State) (t : TileId) (n : PartId) (q : Fin 32) (gen : BitVec 8) : (State.generationFault s t n q gen).outer = s.outer := by
  simp only [State.generationFault, State.outer_mk, keepsOuter_next, State.report_outer, State.resetPartition_outer]

theorem State.overrun_outer (s : State) (t : TileId) (e : Seat) (q : Fin 32) (a : Arming) (k : Transfer) (excess : Nat) : (State.overrun s t e q a k excess).outer = s.outer := by
  simp only [State.overrun, State.outer_mk, keepsOuter_next, State.modTile_outer, State.modPart_outer, State.report_outer]

theorem State.armingComplete_outer (s : State) (t : TileId) (e : Seat) (q : Fin 32) (a : Arming) : (State.armingComplete s t e q a).outer = s.outer := by
  unfold State.armingComplete
  repeat' first
    | (extract_lets +onlyGivenNames x
       refine (fun (hx : State.outer x = State.outer s) => ?_) ?_
       on_goal 1 => clear_value x
       on_goal 2 => (dsimp -zeta only [x]; clear x))
    | (extract_lets +onlyGivenNames x
       clear_value x)
    | (simp -zeta only [State.outer_mk, keepsOuter_next, keepsOuter_fault, State.modTile_outer, State.sendArrival_outer, State.checkArming_outer]; done)
    | split
    | (simp -zeta only [*, State.outer_mk, keepsOuter_next, State.modTile_outer, State.sendArrival_outer, State.checkArming_outer]; done)

theorem State.readAnswer_outer (s : State) (t : TileId) (r : Answer) (x : State) (h : s.readAnswer t r = some x) : x.outer = s.outer := by
  unfold State.readAnswer at h
  extract_lets at h
  split at h <;> split at h <;> simp only [Option.some.injEq, reduceCtorEq] at h <;> subst h <;> simp only [State.modTile_outer, State.take_outer]

theorem State.endTransfer_outer (s : State) (t : TileId) (e : Seat) (q : Fin 32) (a : Arming) (tr : Transfer) : (State.endTransfer s t e q a tr).outer = s.outer := by
  unfold State.endTransfer
  repeat' first
    | (extract_lets +onlyGivenNames x
       refine (fun (hx : State.outer x = State.outer s) => ?_) ?_
       on_goal 1 => clear_value x
       on_goal 2 => (dsimp -zeta only [x]; clear x))
    | (extract_lets +onlyGivenNames x
       clear_value x)
    | (simp -zeta only [State.outer_mk, keepsOuter_next, keepsOuter_fault, State.modTile_outer, State.checkArming_outer, State.modQueue_outer, State.countTransfers_outer, State.overrun_outer, State.armingComplete_outer]; done)
    | split
    | (simp -zeta only [*, State.outer_mk, keepsOuter_next, State.modTile_outer, State.checkArming_outer, State.modQueue_outer, State.countTransfers_outer, State.overrun_outer, State.armingComplete_outer]; done)

theorem execTransferComplete_outer (t : TileId) (answer : Answer) (s : State) : keepsOuter (execTransferComplete t answer s) s := by
  unfold execTransferComplete
  rw [keepsOuter_next]
  split
  · rename_i h
    refine Eq.trans ?_ (State.readAnswer_outer _ _ _ _ h)
    extract_lets x k
    split
    · extract_lets k
      split
      · rfl
      · split
        · simp only [State.generationFault_outer]
        · split
          · rfl
          · split
            · rfl
            · extract_lets s1 tr' a' s2
              have h1 : s1.outer = _ := show s1.outer = State.outer _ from by simp only [s1]; split <;> first | rfl | exact State.modTile_outer ..
              have h2 : s2.outer = _ := (State.modQueue_outer ..).trans h1
              split
              · exact (State.endTransfer_outer ..).trans h2
              · exact h2
  · rfl

theorem State.reportRefusal_outer (s : State) (e : Seat) (q : Fin 32) (a : Arming) (idx : Nat) (cause : BitVec 4) : (State.reportRefusal s e q a idx cause).outer = s.outer := by
  unfold State.reportRefusal
  repeat' first
    | (extract_lets +onlyGivenNames x
       clear_value x)
    | (simp -zeta only [State.outer_mk, keepsOuter_next, keepsOuter_fault, State.modPart_outer]; done)
    | (simp -zeta only [*, State.outer_mk, keepsOuter_next, State.modPart_outer]; done)

theorem execTransferRefused_outer (t : TileId) (p : Packet) (s : State) : keepsOuter (execTransferRefused t p s) s := by
  unfold execTransferRefused
  repeat' first
    | (extract_lets +onlyGivenNames x
       refine (fun (hx : State.outer x = State.outer s) => ?_) ?_
       on_goal 1 => clear_value x
       on_goal 2 => (dsimp -zeta only [x]; clear x))
    | (extract_lets +onlyGivenNames x
       clear_value x)
    | (simp -zeta only [State.outer_mk, keepsOuter_next, keepsOuter_fault, State.modTile_outer, State.take_outer, State.modQueue_outer, State.countTransfers_outer, State.generationFault_outer, State.reportRefusal_outer]; done)
    | split
    | (simp -zeta only [*, State.outer_mk, keepsOuter_next, State.modTile_outer, State.take_outer, State.modQueue_outer, State.countTransfers_outer, State.generationFault_outer, State.reportRefusal_outer]; done)

theorem State.askAgain_outer (s : State) (t : TileId) (e : Seat) (q : Fin 32) (a : Arming) (at_ : Nat) (z : Asked) : (State.askAgain s t e q a at_ z).1.outer = s.outer := by
  unfold State.askAgain
  repeat' first
    | (extract_lets +onlyGivenNames x
       refine (fun (hx : State.outer x = State.outer s) => ?_) ?_
       on_goal 1 => clear_value x
       on_goal 2 => (dsimp -zeta only [x]; clear x))
    | (extract_lets +onlyGivenNames x
       clear_value x)
    | (simp -zeta only [State.outer_mk, keepsOuter_next, keepsOuter_fault, State.send_outer]; done)
    | split
    | (with_reducible refine (State.stamped_outer _ _ _ ?_).trans ?_
       on_goal 1 => intro s)
    | (simp -zeta only [*, State.outer_mk, keepsOuter_next, State.send_outer]; done)

theorem State.resendTransfer_outer (s : State) (t : TileId) (e : Seat) (q : Fin 32) (a : Arming) (free : Asked → Bool) (tr : Transfer) : (State.resendTransfer s t e q a free tr).1.outer = s.outer := by
  unfold State.resendTransfer
  refine foldl_fst_outer _ _ rfl ?_
  intro acc z
  split
  · exact State.askAgain_outer ..
  · rfl

theorem State.resendQueue_outer (s : State) (t : TileId) (e : Seat) (free : Arming → Asked → Bool) (q : Fin 32) : (State.resendQueue s t e free q).outer = s.outer := by
  unfold State.resendQueue
  split
  · rfl
  · extract_lets go rs z s1
    have h : z.1.outer = s.outer := by
      refine foldl_fst_outer _ _ rfl ?_
      intro acc k
      split
      · exact State.resendTransfer_outer ..
      · rfl
    split
    · rfl
    · simp only [s1, State.modPart_outer, State.modTile_outer, State.modQueue_outer, h]

theorem State.strayWrite_outer (s : State) (t : TileId) (n : PartId) (p : Packet) : (State.strayWrite s t n p).outer = s.outer := by
  simp only [State.strayWrite, State.outer_mk, keepsOuter_next, State.report_outer, State.send_outer, State.callRetry_outer]

theorem State.acknowledge_outer (s : State) (vc src : Nat) (p : Packet) (cause : Nat) : (State.acknowledge s vc src p cause).outer = s.outer := by
  unfold State.acknowledge
  repeat' first
    | (simp -zeta only [State.outer_mk, keepsOuter_next, keepsOuter_fault, State.send_outer]; done)
    | (simp -zeta only [*, State.outer_mk, keepsOuter_next, State.send_outer]; done)

theorem execPutTileReceive_outer (t : TileId) (p : Packet) (s : State) : keepsOuter (execPutTileReceive t p s) s := by
  unfold execPutTileReceive
  repeat' first
    | (extract_lets +onlyGivenNames x
       refine (fun (hx : State.outer x = State.outer s) => ?_) ?_
       on_goal 1 => clear_value x
       on_goal 2 => (dsimp -zeta only [x]; clear x))
    | (extract_lets +onlyGivenNames x
       clear_value x)
    | (simp -zeta only [State.outer_mk, keepsOuter_next, keepsOuter_fault, State.modTile_outer, State.take_outer, State.modQueue_outer, State.countTransfers_outer, State.armingComplete_outer, State.strayWrite_outer, State.acknowledge_outer]; done)
    | split
    | (simp -zeta only [*, State.outer_mk, keepsOuter_next, State.modTile_outer, State.take_outer, State.modQueue_outer, State.countTransfers_outer, State.armingComplete_outer, State.strayWrite_outer, State.acknowledge_outer]; done)

theorem execStackWriteReceive_outer (k : StackId) (p : Packet) (s : State) : keepsOuter (execStackWriteReceive k p s) s := by
  unfold execStackWriteReceive
  repeat' first
    | (extract_lets +onlyGivenNames x
       refine (fun (hx : State.outer x = State.outer s) => ?_) ?_
       on_goal 1 => clear_value x
       on_goal 2 => (dsimp -zeta only [x]; clear x))
    | (simp -zeta only [State.outer_mk, keepsOuter_next, keepsOuter_fault, State.modPart_outer, State.take_outer, State.acknowledge_outer]; done)
    | split
    | (simp -zeta only [*, State.outer_mk, keepsOuter_next, State.modPart_outer, State.take_outer, State.acknowledge_outer]; done)

theorem State.answer_outer (s : State) (k : StackId) (p : Packet) (data : List Byte) : (State.answer s k p data).outer = s.outer := by
  unfold State.answer
  repeat' first
    | (simp -zeta only [State.outer_mk, keepsOuter_next, keepsOuter_fault, State.send_outer]; done)
    | split
    | (simp -zeta only [*, State.outer_mk, keepsOuter_next, State.send_outer]; done)

theorem execStackReadRequest_outer (k : StackId) (p : Packet) (s : State) : keepsOuter (execStackReadRequest k p s) s := by
  unfold execStackReadRequest
  repeat' first
    | (extract_lets +onlyGivenNames x
       clear_value x)
    | (simp -zeta only [State.outer_mk, keepsOuter_next, keepsOuter_fault, State.take_outer, State.answer_outer]; done)
    | split
    | (simp -zeta only [*, State.outer_mk, keepsOuter_next, State.take_outer, State.answer_outer]; done)

theorem State.sendMaxima_outer (s : State) (k : StackId) (n : PartId) (m : Image) (d : TensorDecl) (slot maxCode : Nat) (ovf : Bool) : (State.sendMaxima s k n m d slot maxCode ovf).outer = s.outer := by
  unfold State.sendMaxima
  repeat' first
    | with_reducible rfl
    | (simp only [State.outer_mk, keepsOuter_next, State.modPart_outer, State.sendControl_outer]; done)
    | split

theorem State.sweepOne_outer (s : State) (k : StackId) (n : PartId) (m : Image) (d : TensorDecl) (g : Nat) : (State.sweepOne s k n m d g).outer = s.outer := by
  unfold State.sweepOne
  repeat' first
    | with_reducible rfl
    | (extract_lets +onlyGivenNames x
       refine (fun (hx : State.outer x = State.outer s) => ?_) ?_
       on_goal 1 => clear_value x
       on_goal 2 => (dsimp -zeta only [x]; clear x))
    | (extract_lets +onlyGivenNames x
       clear_value x)
    | (simp -zeta only [State.outer_mk, keepsOuter_next, keepsOuter_fault, State.modStack_outer, State.modPart_outer, State.countConv_outer, State.sendMaxima_outer]; done)
    | (simp -zeta only [State.outer_mk, keepsOuter_next, keepsOuter_fault, State.modStack_outer, State.modPart_outer, State.countConv_outer, State.sendMaxima_outer]; with_reducible assumption)
    | split

theorem execSweepBegin_outer (k : StackId) (n : PartId) (s : State) : keepsOuter (execSweepBegin k n s) s := by
  unfold execSweepBegin
  repeat' first
    | with_reducible rfl
    | (extract_lets +onlyGivenNames x
       refine (fun (hx : State.outer x = State.outer s) => ?_) ?_
       on_goal 1 => clear_value x
       on_goal 2 => (dsimp -zeta only [x]; clear x))
    | (extract_lets +onlyGivenNames x
       clear_value x)
    | (simp -zeta only [State.outer_mk, keepsOuter_next, keepsOuter_fault, State.modStack_outer, State.modPart_outer, State.sweepOne_outer]; done)
    | (simp -zeta only [State.outer_mk, keepsOuter_next, keepsOuter_fault, State.modStack_outer, State.modPart_outer, State.sweepOne_outer]; with_reducible assumption)
    | split
    | (with_reducible refine foldl_outer' _ _ ?_ ?_
       on_goal 2 => intro s _)

theorem execRingMaxima_outer (k : StackId) (n : PartId) (handle : BitVec 32) (slot : Nat) (maxCode : BitVec 32) (overflow : Bool) (s : State) : keepsOuter (execRingMaxima k n handle slot maxCode overflow s) s := by
  unfold execRingMaxima
  repeat' first
    | with_reducible rfl
    | (extract_lets +onlyGivenNames x
       clear_value x)
    | (simp -zeta only [State.outer_mk, keepsOuter_next, keepsOuter_fault, State.modPart_outer]; done)
    | split

theorem State.servePart_outer (s : State) (k : StackId) (n : PartId) (m : Image) (d : TensorDecl) (a : PartAsk) : (State.servePart s k n m d a).2.outer = s.outer := by
  unfold State.servePart
  repeat' first
    | (extract_lets +onlyGivenNames x
       refine (fun (hx : State.outer x = State.outer s) => ?_) ?_
       on_goal 1 => clear_value x
       on_goal 2 => (dsimp -zeta only [x]; clear x))
    | (extract_lets +onlyGivenNames x
       refine (fun (hx : ∀ y z, State.outer (x y z).2 = State.outer y) => ?_) ?_
       on_goal 1 => clear_value x
       on_goal 2 => (dsimp -zeta only [x]; clear x; intro s _))
    | (extract_lets +onlyGivenNames x
       clear_value x)
    | (simp -zeta only [State.outer_mk, keepsOuter_next, keepsOuter_fault, State.modStack_outer, State.sweepOne_outer]; done)
    | split
    | (simp -zeta only [*, State.outer_mk, keepsOuter_next, State.modStack_outer, State.sweepOne_outer]; done)

theorem execGetWeightPart_outer (k : StackId) (p : Packet) (s : State) : keepsOuter (execGetWeightPart k p s) s := by
  unfold execGetWeightPart
  repeat' first
    | (extract_lets +onlyGivenNames x
       clear_value x)
    | (simp -zeta only [State.outer_mk, keepsOuter_next, keepsOuter_fault, State.take_outer, State.answer_outer, State.servePart_outer]; done)
    | (split <;>
       (rename_i heq
        have hx := congrArg (fun p : _ × State => State.outer p.2) heq.symm
        simp -zeta only [State.take_outer, State.answer_outer, State.servePart_outer] at hx))
    | split
    | (simp -zeta only [*, State.outer_mk, keepsOuter_next, State.take_outer, State.answer_outer, State.servePart_outer]; done)

theorem State.updateGroup_outer (s : State) (k : StackId) (n : PartId) (m : Image) (d : TensorDecl) (u : UpdateProgram) (g : Nat) : (State.updateGroup s k n m d u g).outer = s.outer := by
  rfl

theorem execBurnisherUpdate_outer (k : StackId) (r : GroupRef) (s : State) : keepsOuter (execBurnisherUpdate k r s) s := by
  unfold execBurnisherUpdate
  repeat' first
    | with_reducible rfl
    | (simp only [State.outer_mk, keepsOuter_next, State.updateGroup_outer]; done)
    | split

theorem execEngineMismatch_outer (k : StackId) (r : GroupRef) (burnisher : Bool) (s : State) : keepsOuter (execEngineMismatch k r burnisher s) s := by
  unfold execEngineMismatch
  repeat' first
    | with_reducible rfl
    | (extract_lets +onlyGivenNames x
       refine (fun (hx : State.outer x = State.outer s) => ?_) ?_
       on_goal 1 => clear_value x
       on_goal 2 => (dsimp -zeta only [x]; clear x))
    | (extract_lets +onlyGivenNames x
       clear_value x)
    | (simp -zeta only [State.outer_mk, keepsOuter_next, keepsOuter_fault, State.modStack_outer, State.modPart_outer, State.report_outer, State.failStack_outer]; done)
    | (simp -zeta only [State.outer_mk, keepsOuter_next, keepsOuter_fault, State.modStack_outer, State.modPart_outer, State.report_outer, State.failStack_outer]; with_reducible assumption)
    | split

theorem State.setCtl_outer (s : State) (n : PartId) (k : Nat × Nat) (v : Nat) : (State.setCtl s n k v).outer = s.outer := by
  rfl

theorem State.takeCtl_outer (s : State) (n : PartId) (k : Nat × Nat) (ws : List Word64) (kind source : Nat) : (State.takeCtl s n k ws kind source).1.outer = s.outer := by
  unfold State.takeCtl
  repeat' first
    | with_reducible rfl
    | (extract_lets +onlyGivenNames x
       refine (fun (hx : State.outer x = State.outer s) => ?_) ?_
       on_goal 1 => clear_value x
       on_goal 2 => (dsimp -zeta only [x]; clear x))
    | (extract_lets +onlyGivenNames x
       clear_value x)
    | (simp -zeta only [State.outer_mk, keepsOuter_next, keepsOuter_fault, State.structFail_outer, State.setCtl_outer]; done)
    | (simp -zeta only [State.outer_mk, keepsOuter_next, keepsOuter_fault, State.structFail_outer, State.setCtl_outer]; with_reducible assumption)
    | split

theorem State.deliverTable_outer (s : State) (n : PartId) (k : ScaleTable) (t : TileId) : (State.deliverTable s n k t).outer = s.outer := by
  simp only [State.deliverTable, State.outer_mk, keepsOuter_next, State.sendControl_outer]

theorem State.completeTable_outer (s : State) (n : PartId) (k : ScaleTable) : (State.completeTable s n k).outer = s.outer := by
  unfold State.completeTable
  refine foldl_outer' _ _ rfl fun s _ => ?_
  repeat' first
    | with_reducible rfl
    | (simp only [State.outer_mk, keepsOuter_next, State.modPart_outer, State.deliverTable_outer]; done)
    | split

theorem State.assembleTable_outer (s : State) (n : PartId) (m : Image) (h : Nat) : (State.assembleTable s n m h).outer = s.outer := by
  unfold State.assembleTable
  repeat' first
    | with_reducible rfl
    | (extract_lets +onlyGivenNames x
       clear_value x)
    | (simp -zeta only [State.outer_mk, keepsOuter_next, keepsOuter_fault, State.completeTable_outer]; done)
    | split

theorem execScaleTableCompute_outer (n : PartId) (handle : BitVec 32) (s : State) : keepsOuter (execScaleTableCompute n handle s) s := by
  unfold execScaleTableCompute
  repeat' first
    | with_reducible assumption
    | (extract_lets +onlyGivenNames x
       refine (fun (hx : State.outer x = State.outer s) => ?_) ?_
       on_goal 1 => clear_value x
       on_goal 2 => (dsimp -zeta only [x]; clear x))
    | (extract_lets +onlyGivenNames x
       clear_value x)
    | (simp -zeta only [State.outer_mk, keepsOuter_next, keepsOuter_fault, State.modPart_outer, State.sendMember_outer, State.setCtl_outer, State.completeTable_outer, State.assembleTable_outer]; done)
    | (simp -zeta only [State.outer_mk, keepsOuter_next, keepsOuter_fault, State.modPart_outer, State.sendMember_outer, State.setCtl_outer, State.completeTable_outer, State.assembleTable_outer]; with_reducible assumption)
    | split
    | (with_reducible refine foldl_outer' _ _ ?_ ?_
       on_goal 2 => intro s _)

theorem execScaleFragment_outer (n : PartId) (bytes : List Byte) (s : State) : keepsOuter (execScaleFragment n bytes s) s := by
  unfold execScaleFragment
  repeat' first
    | with_reducible rfl
    | (extract_lets +onlyGivenNames x
       refine (fun (hx : State.outer x = State.outer s) => ?_) ?_
       on_goal 1 => clear_value x
       on_goal 2 => (dsimp -zeta only [x]; clear x))
    | (extract_lets +onlyGivenNames x
       clear_value x)
    | (simp -zeta only [State.outer_mk, keepsOuter_next, keepsOuter_fault, State.modPart_outer, State.takeCtl_outer, State.assembleTable_outer]; done)
    | (simp -zeta only [State.outer_mk, keepsOuter_next, keepsOuter_fault, State.modPart_outer, State.takeCtl_outer, State.assembleTable_outer]; with_reducible assumption)
    | (split <;>
       (rename_i heq
        have hx := congrArg (fun p : State × _ => State.outer p.1) heq.symm
        simp -zeta only [State.modPart_outer, State.takeCtl_outer, State.assembleTable_outer] at hx))
    | split

theorem execScaleTableReceive_outer (t : TileId) (bytes : List Byte) (s : State) : keepsOuter (execScaleTableReceive t bytes s) s := by
  unfold execScaleTableReceive
  repeat' first
    | with_reducible rfl
    | (extract_lets +onlyGivenNames x
       refine (fun (hx : State.outer x = State.outer s) => ?_) ?_
       on_goal 1 => clear_value x
       on_goal 2 => (dsimp -zeta only [x]; clear x))
    | (extract_lets +onlyGivenNames x
       clear_value x)
    | (simp -zeta only [State.outer_mk, keepsOuter_next, keepsOuter_fault, State.modTile_outer, State.structFail_outer, State.deliverTable_outer]; done)
    | (simp -zeta only [State.outer_mk, keepsOuter_next, keepsOuter_fault, State.modTile_outer, State.structFail_outer, State.deliverTable_outer]; with_reducible assumption)
    | split

theorem State.modBucket_outer (s : State) (n : PartId) (m : Image) (h : Nat) (f : Bucket → Bucket) : (State.modBucket s n m h f).outer = s.outer := by
  rfl

theorem State.sendBucketNotice_outer (s : State) (n : PartId) (l : LinkId) (kind h pass : Nat) (tiles : List Nat) : (State.sendBucketNotice s n l kind h pass tiles).outer = s.outer := by
  unfold State.sendBucketNotice
  refine foldl_outer' _ _ rfl fun s _ => ?_
  repeat' first
    | with_reducible rfl
    | (simp only [State.outer_mk, keepsOuter_next, State.sendControl_outer]; done)
    | split

theorem State.lateFull_outer (s : State) (n : PartId) (m : Image) (l : LinkId) (h : Nat) : (State.lateFull s n m l h).outer = s.outer := by
  unfold State.lateFull
  extract_lets b tiles s1 s2 head
  have e : s2.outer = s.outer := by simp only [s2, s1, State.sendBucketNotice_outer, State.modBucket_outer]
  clear_value s2
  split
  · simp only [State.outer_mk, e]
  · exact e

theorem State.makeLate_outer (s : State) (n : PartId) (m : Image) (l : LinkId) (h deadline : Nat) : (State.makeLate s n m l h deadline).outer = s.outer := by
  unfold State.makeLate
  repeat' first
    | with_reducible assumption
    | (extract_lets +onlyGivenNames x
       refine (fun (hx : State.outer x = State.outer s) => ?_) ?_
       on_goal 1 => clear_value x
       on_goal 2 => (dsimp -zeta only [x]; clear x))
    | (extract_lets +onlyGivenNames x
       clear_value x)
    | (simp -zeta only [State.outer_mk, keepsOuter_next, keepsOuter_fault, State.modBucket_outer, State.lateFull_outer]; done)
    | (simp -zeta only [State.outer_mk, keepsOuter_next, keepsOuter_fault, State.modBucket_outer, State.lateFull_outer]; with_reducible assumption)
    | split

theorem State.startBucket_outer (s : State) (n : PartId) (m : Image) (l : LinkId) (h : Nat) : (State.startBucket s n m l h).outer = s.outer := by
  unfold State.startBucket
  repeat' first
    | with_reducible assumption
    | (extract_lets +onlyGivenNames x
       refine (fun (hx : State.outer x = State.outer s) => ?_) ?_
       on_goal 1 => clear_value x
       on_goal 2 => (dsimp -zeta only [x]; clear x))
    | (extract_lets +onlyGivenNames x
       clear_value x)
    | (simp -zeta only [State.outer_mk, keepsOuter_next, keepsOuter_fault, State.modPart_outer, State.sbEvent_outer, State.modBucket_outer, State.makeLate_outer]; done)
    | (simp -zeta only [State.outer_mk, keepsOuter_next, keepsOuter_fault, State.modPart_outer, State.sbEvent_outer, State.modBucket_outer, State.makeLate_outer]; with_reducible assumption)
    | split

theorem State.forwardSeg_outer (s : State) (n : PartId) (m : Image) (h : Nat) (g : Seg) : (State.forwardSeg s n m h g).outer = s.outer := by
  simp only [State.forwardSeg, State.outer_mk, keepsOuter_next, State.modPart_outer, State.sendVia_outer, State.sendMember_outer]

theorem State.decideSeg_outer (s : State) (n : PartId) (m : Image) (h : Nat) (g : Seg) : (State.decideSeg s n m h g).outer = s.outer := by
  rfl

theorem State.applyMarks_outer (s : State) (n : PartId) (m : Image) (l : LinkId) (h chunk pass divisor : Nat) (ms : List Mark) : (State.applyMarks s n m l h chunk pass divisor ms).outer = s.outer := by
  unfold State.applyMarks
  repeat' first
    | with_reducible assumption
    | (extract_lets +onlyGivenNames x
       refine (fun (hx : State.outer x = State.outer s) => ?_) ?_
       on_goal 1 => clear_value x
       on_goal 2 => (dsimp -zeta only [x]; clear x))
    | (extract_lets +onlyGivenNames x
       clear_value x)
    | (simp -zeta only [State.outer_mk, keepsOuter_next, keepsOuter_fault, State.modPart_outer, State.modBucket_outer, State.sendBucketNotice_outer]; done)
    | (simp -zeta only [State.outer_mk, keepsOuter_next, keepsOuter_fault, State.modPart_outer, State.modBucket_outer, State.sendBucketNotice_outer]; with_reducible assumption)
    | split

theorem State.endPass_outer (s : State) (n : PartId) (m : Image) (l : LinkId) (h chunk pass : Nat) : (State.endPass s n m l h chunk pass).outer = s.outer := by
  unfold State.endPass
  repeat' first
    | with_reducible assumption
    | (extract_lets +onlyGivenNames x
       refine (fun (hx : State.outer x = State.outer s) => ?_) ?_
       on_goal 1 => clear_value x
       on_goal 2 => (dsimp -zeta only [x]; clear x))
    | (extract_lets +onlyGivenNames x
       clear_value x)
    | (simp -zeta only [State.outer_mk, keepsOuter_next, keepsOuter_fault, State.sendMember_outer, State.setCtl_outer, State.applyMarks_outer]; done)
    | (simp -zeta only [State.outer_mk, keepsOuter_next, keepsOuter_fault, State.sendMember_outer, State.setCtl_outer, State.applyMarks_outer]; with_reducible assumption)
    | split
    | (with_reducible refine foldl_outer' _ _ ?_ ?_
       on_goal 2 => intro s _)

theorem State.runSeg_outer (s : State) (n : PartId) (m : Image) (l : LinkId) (h : Nat) (g : Seg) : (State.runSeg s n m l h g).outer = s.outer := by
  unfold State.runSeg
  repeat' first
    | with_reducible rfl
    | (extract_lets +onlyGivenNames x
       refine (fun (hx : State.outer x = State.outer s) => ?_) ?_
       on_goal 1 => clear_value x
       on_goal 2 => (dsimp -zeta only [x]; clear x))
    | (extract_lets +onlyGivenNames x
       clear_value x)
    | (simp -zeta only [State.outer_mk, keepsOuter_next, keepsOuter_fault, State.modBucket_outer, State.forwardSeg_outer, State.decideSeg_outer, State.endPass_outer]; done)
    | (simp -zeta only [State.outer_mk, keepsOuter_next, keepsOuter_fault, State.modBucket_outer, State.forwardSeg_outer, State.decideSeg_outer, State.endPass_outer]; with_reducible assumption)
    | split

theorem State.runHeld_outer (s : State) (n : PartId) (m : Image) (l : LinkId) (h : Nat) : (State.runHeld s n m l h).outer = s.outer := by
  unfold State.runHeld
  repeat' first
    | with_reducible rfl
    | (extract_lets +onlyGivenNames x
       clear_value x)
    | (simp -zeta only [State.outer_mk, keepsOuter_next, keepsOuter_fault, State.modBucket_outer, State.runSeg_outer]; done)
    | split
    | (with_reducible refine foldl_outer' _ _ ?_ ?_
       on_goal 2 => intro s _)

theorem State.startOwn_outer (s : State) (n : PartId) (m : Image) (l : LinkId) (h : Nat) : (State.startOwn s n m l h).outer = s.outer := by
  unfold State.startOwn
  repeat' first
    | with_reducible assumption
    | (extract_lets +onlyGivenNames x
       refine (fun (hx : State.outer x = State.outer s) => ?_) ?_
       on_goal 1 => clear_value x
       on_goal 2 => (dsimp -zeta only [x]; clear x))
    | (extract_lets +onlyGivenNames x
       clear_value x)
    | (simp -zeta only [State.outer_mk, keepsOuter_next, keepsOuter_fault, State.modBucket_outer, State.runSeg_outer]; done)
    | split
    | (with_reducible refine foldl_outer' _ _ ?_ ?_
       on_goal 2 => intro s _)

theorem State.progress_outer (s : State) (n : PartId) (m : Image) (l : LinkId) (h : Nat) : (State.progress s n m l h).outer = s.outer := by
  unfold State.progress
  repeat' first
    | with_reducible rfl
    | (extract_lets +onlyGivenNames x
       clear_value x)
    | (simp -zeta only [State.outer_mk, keepsOuter_next, keepsOuter_fault, State.runHeld_outer, State.startOwn_outer]; done)
    | split

theorem execGradientPacket_outer (l : LinkId) (n : PartId) (p : Packet) (s : State) : keepsOuter (execGradientPacket l n p s) s := by
  unfold execGradientPacket
  repeat' first
    | (extract_lets +onlyGivenNames x
       refine (fun (hx : State.outer x = State.outer s) => ?_) ?_
       on_goal 1 => clear_value x
       on_goal 2 => (dsimp -zeta only [x]; clear x))
    | (extract_lets +onlyGivenNames x
       clear_value x)
    | (simp -zeta only [State.outer_mk, keepsOuter_next, keepsOuter_fault, State.take_outer, State.acknowledge_outer, State.modBucket_outer, State.lateFull_outer, State.startBucket_outer, State.progress_outer]; done)
    | split
    | (simp -zeta only [*, State.outer_mk, keepsOuter_next, State.take_outer, State.acknowledge_outer, State.modBucket_outer, State.lateFull_outer, State.startBucket_outer, State.progress_outer]; done)

theorem execContributionTrailer_outer (n : PartId) (bytes : List Byte) (s : State) : keepsOuter (execContributionTrailer n bytes s) s := by
  unfold execContributionTrailer
  repeat' first
    | with_reducible rfl
    | (extract_lets +onlyGivenNames x
       refine (fun (hx : State.outer x = State.outer s) => ?_) ?_
       on_goal 1 => clear_value x
       on_goal 2 => (dsimp -zeta only [x]; clear x))
    | (extract_lets +onlyGivenNames x
       clear_value x)
    | (simp -zeta only [State.outer_mk, keepsOuter_next, keepsOuter_fault, State.takeCtl_outer, State.modBucket_outer, State.progress_outer]; done)
    | (simp -zeta only [State.outer_mk, keepsOuter_next, keepsOuter_fault, State.takeCtl_outer, State.modBucket_outer, State.progress_outer]; with_reducible assumption)
    | (split <;>
       (rename_i heq
        have hx := congrArg (fun p : State × _ => State.outer p.1) heq.symm
        simp -zeta only [State.takeCtl_outer, State.modBucket_outer, State.progress_outer] at hx))
    | split

theorem execSegmentProcess_outer (n : PartId) (bucket : BitVec 32) (chunk : BitVec 16) (seg : Option SegmentIn) (s : State) : keepsOuter (execSegmentProcess n bucket chunk seg s) s := by
  unfold execSegmentProcess
  repeat' first
    | with_reducible rfl
    | (extract_lets +onlyGivenNames x
       refine (fun (hx : State.outer x = State.outer s) => ?_) ?_
       on_goal 1 => clear_value x
       on_goal 2 => (dsimp -zeta only [x]; clear x))
    | (extract_lets +onlyGivenNames x
       refine (fun (hx : ∀ y z, State.outer (x y z) = State.outer y) => ?_) ?_
       on_goal 1 => clear_value x
       on_goal 2 => (dsimp -zeta only [x]; clear x; intro s _))
    | (extract_lets +onlyGivenNames x
       clear_value x)
    | (simp -zeta only [State.outer_mk, keepsOuter_next, keepsOuter_fault, State.modPart_outer, State.structFail_outer, State.modBucket_outer, State.startBucket_outer, State.progress_outer]; done)
    | split
    | (simp -zeta only [*, State.outer_mk, keepsOuter_next, keepsOuter_fault, State.modPart_outer, State.structFail_outer, State.modBucket_outer, State.startBucket_outer, State.progress_outer]; done)

theorem State.sendDone_outer (s : State) (n : PartId) (l : LinkId) (logicalBuckle : Nat) : (State.sendDone s n l logicalBuckle).outer = s.outer := by
  unfold State.sendDone
  repeat' first
    | (extract_lets +onlyGivenNames x
       clear_value x)
    | (simp -zeta only [State.outer_mk, keepsOuter_next, keepsOuter_fault, State.countTokens_outer, State.sendBuckle_outer]; done)
    | split
    | (simp -zeta only [*, State.outer_mk, keepsOuter_next, State.countTokens_outer, State.sendBuckle_outer]; done)

theorem State.tryDone_outer (s : State) (n : PartId) (m : Image) (l : LinkId) (h : Nat) : (State.tryDone s n m l h).outer = s.outer := by
  unfold State.tryDone
  repeat' first
    | with_reducible rfl
    | (extract_lets +onlyGivenNames x
       refine (fun (hx : State.outer x = State.outer s) => ?_) ?_
       on_goal 1 => clear_value x
       on_goal 2 => (dsimp -zeta only [x]; clear x))
    | (extract_lets +onlyGivenNames x
       clear_value x)
    | (simp -zeta only [State.outer_mk, keepsOuter_next, keepsOuter_fault, State.modPart_outer, State.modBucket_outer, State.sendDone_outer]; done)
    | (simp -zeta only [State.outer_mk, keepsOuter_next, keepsOuter_fault, State.modPart_outer, State.modBucket_outer, State.sendDone_outer]; with_reducible assumption)
    | split

theorem execMarkList_outer (n : PartId) (bytes : List Byte) (s : State) : keepsOuter (execMarkList n bytes s) s := by
  unfold execMarkList
  repeat' first
    | with_reducible rfl
    | (extract_lets +onlyGivenNames x
       clear_value x)
    | (simp -zeta only [State.outer_mk, keepsOuter_next, keepsOuter_fault, State.takeCtl_outer, State.applyMarks_outer, State.progress_outer, State.tryDone_outer]; done)
    | (simp -zeta only [State.outer_mk, keepsOuter_next, keepsOuter_fault, State.takeCtl_outer, State.applyMarks_outer, State.progress_outer, State.tryDone_outer]; with_reducible assumption)
    | (split <;>
       (rename_i heq
        have hx := congrArg (fun p : State × _ => State.outer p.1) heq.symm
        simp -zeta only [State.takeCtl_outer, State.applyMarks_outer, State.progress_outer, State.tryDone_outer] at hx))
    | split

theorem execPassRequest_outer (n : PartId) (logical : BitVec 8) (bucket : BitVec 32) (s : State) : keepsOuter (execPassRequest n logical bucket s) s := by
  unfold execPassRequest
  repeat' first
    | with_reducible assumption
    | (extract_lets +onlyGivenNames x
       refine (fun (hx : State.outer x = State.outer s) => ?_) ?_
       on_goal 1 => clear_value x
       on_goal 2 => (dsimp -zeta only [x]; clear x))
    | (extract_lets +onlyGivenNames x
       clear_value x)
    | split
    | (with_reducible refine foldl_outer' _ _ ?_ ?_
       on_goal 2 => intro s _)
    | (simp -zeta only [State.outer_mk, keepsOuter_next, keepsOuter_fault, State.countConv_outer, State.sendCodes_outer, State.quantizeRun_outer, State.modBucket_outer])

theorem execPassResend_outer (n : PartId) (logical : BitVec 8) (bucket : BitVec 32) (block : Nat) (s : State) : keepsOuter (execPassResend n logical bucket block s) s := by
  unfold execPassResend
  repeat' first
    | with_reducible rfl
    | (extract_lets +onlyGivenNames x
       refine (fun (hx : State.outer x = State.outer s) => ?_) ?_
       on_goal 1 => clear_value x
       on_goal 2 => (dsimp -zeta only [x]; clear x))
    | (extract_lets +onlyGivenNames x
       clear_value x)
    | (simp -zeta only [State.outer_mk, keepsOuter_next, keepsOuter_fault, State.modBucket_outer, State.progress_outer, State.take_outer]; done)
    | (simp -zeta only [State.outer_mk, keepsOuter_next, keepsOuter_fault, State.modBucket_outer, State.progress_outer, State.take_outer]; with_reducible assumption)
    | split

theorem execBucketDeadline_outer (n : PartId) (bucket : BitVec 32) (s : State) : keepsOuter (execBucketDeadline n bucket s) s := by
  unfold execBucketDeadline
  repeat' first
    | with_reducible rfl
    | (extract_lets +onlyGivenNames x
       clear_value x)
    | (simp -zeta only [State.outer_mk, keepsOuter_next, keepsOuter_fault, State.makeLate_outer, State.progress_outer]; done)
    | split

theorem State.rewriteBlock_outer (s : State) (t : TileId) (n : PartId) (c : Contribution) (block : Nat) : (State.rewriteBlock s t n c block).outer = s.outer := by
  rfl

theorem execOmissionNotice_outer (n : PartId) (logical : BitVec 8) (bucket : BitVec 32) (s : State) : keepsOuter (execOmissionNotice n logical bucket s) s := by
  unfold execOmissionNotice
  repeat' first
    | with_reducible rfl
    | (extract_lets +onlyGivenNames x
       refine (fun (hx : State.outer x = State.outer s) => ?_) ?_
       on_goal 1 => clear_value x
       on_goal 2 => (dsimp -zeta only [x]; clear x))
    | (extract_lets +onlyGivenNames x
       clear_value x)
    | (simp -zeta only [State.outer_mk, keepsOuter_next, keepsOuter_fault, State.modBucket_outer, State.rewriteBlock_outer, State.tryDone_outer]; done)
    | (simp -zeta only [State.outer_mk, keepsOuter_next, keepsOuter_fault, State.modBucket_outer, State.rewriteBlock_outer, State.tryDone_outer]; with_reducible assumption)
    | split
    | (with_reducible refine foldl_outer' _ _ ?_ ?_
       on_goal 2 => intro s _)

theorem execRingTimeout_outer (l : LinkId) (n : PartId) (bucket : BitVec 32) (s : State) : keepsOuter (execRingTimeout l n bucket s) s := by
  unfold execRingTimeout
  repeat' first
    | with_reducible rfl
    | (extract_lets +onlyGivenNames x
       refine (fun (hx : State.outer x = State.outer s) => ?_) ?_
       on_goal 1 => clear_value x
       on_goal 2 => (dsimp -zeta only [x]; clear x))
    | (extract_lets +onlyGivenNames x
       clear_value x)
    | (simp -zeta only [State.outer_mk, keepsOuter_next, keepsOuter_fault, State.report_outer, State.callRetry_outer]; done)
    | (simp -zeta only [State.outer_mk, keepsOuter_next, keepsOuter_fault, State.report_outer, State.callRetry_outer]; with_reducible assumption)
    | split

theorem State.markLayer_outer (s : State) (t : TileId) (e : Seat) : (State.markLayer s t e).outer = s.outer := by
  unfold State.markLayer
  split <;> simp only [State.outer_mk, keepsOuter_next, State.modTile_outer]

theorem State.vector_outer (s : State) (t : TileId) (i : Instr) (ok : Bool) (kinds : VectorEngine → Bool) (body : Seat → CheckStatus → State → State) (hb : ∀ e c s, (body e c s).outer = s.outer) : keepsOuter (State.vector s t i ok kinds body) s := by
  refine State.command_outer _ _ _ _ _ ?_
  intro e s
  split
  · simp only [State.malformed_outer]
  · split
    · simp only [State.orderFault_outer]
    · simp only [State.issue_outer, hb, State.markLayer_outer]

theorem State.modVec_outer (s : State) (t : TileId) (f : VectorEngine → VectorEngine) : (State.modVec s t f).outer = s.outer := by
  rfl

theorem State.elementwise_outer (s : State) (t : TileId) (i : Instr) (o : VecOp) (readsB readsC wide optsOk : Bool) (f : LaneFn) : keepsOuter (State.elementwise s t i o readsB readsC wide optsOk f) s := by
  unfold State.elementwise
  repeat' first
    | (simp -zeta only [State.outer_mk, keepsOuter_next, keepsOuter_fault, State.modVec_outer]; done)
    | (with_reducible refine State.vector_outer _ _ _ _ _ _ ?_
       intro e c s)
    | (simp -zeta only [*, State.outer_mk, keepsOuter_next, State.modVec_outer]; done)

theorem execAdd_outer (t : TileId) (o : VecOp) (s : State) : keepsOuter (execAdd t o s) s := by
  simp only [execAdd, State.outer_mk, keepsOuter_next, State.elementwise_outer]

theorem execSub_outer (t : TileId) (o : VecOp) (s : State) : keepsOuter (execSub t o s) s := by
  simp only [execSub, State.outer_mk, keepsOuter_next, State.elementwise_outer]

theorem execMul_outer (t : TileId) (o : VecOp) (s : State) : keepsOuter (execMul t o s) s := by
  simp only [execMul, State.outer_mk, keepsOuter_next, State.elementwise_outer]

theorem execFma_outer (t : TileId) (o : VecOp) (s : State) : keepsOuter (execFma t o s) s := by
  simp only [execFma, State.outer_mk, keepsOuter_next, State.elementwise_outer]

theorem execMax_outer (t : TileId) (o : VecOp) (s : State) : keepsOuter (execMax t o s) s := by
  simp only [execMax, State.outer_mk, keepsOuter_next, State.elementwise_outer]

theorem execMin_outer (t : TileId) (o : VecOp) (s : State) : keepsOuter (execMin t o s) s := by
  simp only [execMin, State.outer_mk, keepsOuter_next, State.elementwise_outer]

theorem execAbs_outer (t : TileId) (o : VecOp) (s : State) : keepsOuter (execAbs t o s) s := by
  simp only [execAbs, State.outer_mk, keepsOuter_next, State.elementwise_outer]

theorem execNeg_outer (t : TileId) (o : VecOp) (s : State) : keepsOuter (execNeg t o s) s := by
  simp only [execNeg, State.outer_mk, keepsOuter_next, State.elementwise_outer]

theorem execCmp_outer (t : TileId) (o : VecOp) (s : State) : keepsOuter (execCmp t o s) s := by
  simp only [execCmp, State.outer_mk, keepsOuter_next, State.elementwise_outer]

theorem execSel_outer (t : TileId) (o : VecOp) (s : State) : keepsOuter (execSel t o s) s := by
  simp only [execSel, State.outer_mk, keepsOuter_next, State.elementwise_outer]

theorem execDiv_outer (t : TileId) (o : VecOp) (s : State) : keepsOuter (execDiv t o s) s := by
  simp only [execDiv, State.outer_mk, keepsOuter_next, State.elementwise_outer]

theorem execRecip_outer (t : TileId) (o : VecOp) (s : State) : keepsOuter (execRecip t o s) s := by
  simp only [execRecip, State.outer_mk, keepsOuter_next, State.elementwise_outer]

theorem execSqrt_outer (t : TileId) (o : VecOp) (s : State) : keepsOuter (execSqrt t o s) s := by
  simp only [execSqrt, State.outer_mk, keepsOuter_next, State.elementwise_outer]

theorem execRsqrt_outer (t : TileId) (o : VecOp) (s : State) : keepsOuter (execRsqrt t o s) s := by
  simp only [execRsqrt, State.outer_mk, keepsOuter_next, State.elementwise_outer]

theorem execExp_outer (t : TileId) (o : VecOp) (s : State) : keepsOuter (execExp t o s) s := by
  simp only [execExp, State.outer_mk, keepsOuter_next, State.elementwise_outer]

theorem execExp2_outer (t : TileId) (o : VecOp) (s : State) : keepsOuter (execExp2 t o s) s := by
  simp only [execExp2, State.outer_mk, keepsOuter_next, State.elementwise_outer]

theorem execLog_outer (t : TileId) (o : VecOp) (s : State) : keepsOuter (execLog t o s) s := by
  simp only [execLog, State.outer_mk, keepsOuter_next, State.elementwise_outer]

theorem execLog2_outer (t : TileId) (o : VecOp) (s : State) : keepsOuter (execLog2 t o s) s := by
  simp only [execLog2, State.outer_mk, keepsOuter_next, State.elementwise_outer]

theorem execIcvt_outer (t : TileId) (o : VecOp) (s : State) : keepsOuter (execIcvt t o s) s := by
  unfold execIcvt
  repeat' first
    | (simp -zeta only [State.outer_mk, keepsOuter_next, keepsOuter_fault, State.modVec_outer]; done)
    | (with_reducible refine State.vector_outer _ _ _ _ _ _ ?_
       intro e c s)
    | (simp -zeta only [*, State.outer_mk, keepsOuter_next, State.modVec_outer]; done)

theorem execWid_outer (t : TileId) (o : VecOp) (s : State) : keepsOuter (execWid t o s) s := by
  unfold execWid
  repeat' first
    | (simp -zeta only [State.outer_mk, keepsOuter_next, keepsOuter_fault, State.modVec_outer]; done)
    | (with_reducible refine State.vector_outer _ _ _ _ _ _ ?_
       intro e c s)
    | (simp -zeta only [*, State.outer_mk, keepsOuter_next, State.modVec_outer]; done)

theorem execNar_outer (t : TileId) (o : VecOp) (s : State) : keepsOuter (execNar t o s) s := by
  unfold execNar
  repeat' first
    | (extract_lets +onlyGivenNames x
       refine (fun (hx : State.outer x = State.outer s) => ?_) ?_
       on_goal 1 => clear_value x
       on_goal 2 => (dsimp -zeta only [x]; clear x))
    | (extract_lets +onlyGivenNames x
       clear_value x)
    | (simp -zeta only [State.outer_mk, keepsOuter_next, keepsOuter_fault, State.countConv_outer, State.modVec_outer]; done)
    | split
    | (with_reducible refine State.vector_outer _ _ _ _ _ _ ?_
       intro e c s)
    | (simp -zeta only [*, State.outer_mk, keepsOuter_next, State.countConv_outer, State.modVec_outer]; done)

theorem State.sumCommand_outer (s : State) (t : TileId) (i : Instr) (o : VecOp) (squares : Bool) : keepsOuter (State.sumCommand s t i o squares) s := by
  unfold State.sumCommand
  repeat' first
    | (simp -zeta only [State.outer_mk, keepsOuter_next, keepsOuter_fault, State.modVec_outer]; done)
    | (with_reducible refine State.vector_outer _ _ _ _ _ _ ?_
       intro e c s)
    | (simp -zeta only [*, State.outer_mk, keepsOuter_next, State.modVec_outer]; done)

theorem State.extremeCommand_outer (s : State) (t : TileId) (i : Instr) (o : VecOp) (isMax : Bool) : keepsOuter (State.extremeCommand s t i o isMax) s := by
  unfold State.extremeCommand
  repeat' first
    | (simp -zeta only [State.outer_mk, keepsOuter_next, keepsOuter_fault, State.modVec_outer]; done)
    | (with_reducible refine State.vector_outer _ _ _ _ _ _ ?_
       intro e c s)
    | (simp -zeta only [*, State.outer_mk, keepsOuter_next, State.modVec_outer]; done)

theorem execRsum_outer (t : TileId) (o : VecOp) (s : State) : keepsOuter (execRsum t o s) s := by
  simp only [execRsum, State.outer_mk, keepsOuter_next, State.sumCommand_outer]

theorem execRsumsq_outer (t : TileId) (o : VecOp) (s : State) : keepsOuter (execRsumsq t o s) s := by
  simp only [execRsumsq, State.outer_mk, keepsOuter_next, State.sumCommand_outer]

theorem execRmax_outer (t : TileId) (o : VecOp) (s : State) : keepsOuter (execRmax t o s) s := by
  simp only [execRmax, State.outer_mk, keepsOuter_next, State.extremeCommand_outer]

theorem execRmin_outer (t : TileId) (o : VecOp) (s : State) : keepsOuter (execRmin t o s) s := by
  simp only [execRmin, State.outer_mk, keepsOuter_next, State.extremeCommand_outer]

theorem execTrn_outer (t : TileId) (o : VecOp) (s : State) : keepsOuter (execTrn t o s) s := by
  unfold execTrn
  repeat' first
    | (simp -zeta only [State.outer_mk, keepsOuter_next, keepsOuter_fault, State.modVec_outer]; done)
    | (with_reducible refine State.vector_outer _ _ _ _ _ _ ?_
       intro e c s)
    | (simp -zeta only [*, State.outer_mk, keepsOuter_next, State.modVec_outer]; done)

theorem execLd_outer (t : TileId) (o : VecOp) (s : State) : keepsOuter (execLd t o s) s := by
  unfold execLd
  repeat' first
    | with_reducible assumption
    | (extract_lets +onlyGivenNames x
       refine (fun (hx : State.outer x = State.outer s) => ?_) ?_
       on_goal 1 => clear_value x
       on_goal 2 => (dsimp -zeta only [x]; clear x))
    | (extract_lets +onlyGivenNames x
       clear_value x)
    | split
    | (with_reducible refine (State.command_outer _ _ _ _ _ ?_).trans ?_
       on_goal 1 => intro e s)
    | (simp -zeta only [State.outer_mk, keepsOuter_next, State.waitCtx_outer, State.issue_outer, State.malformed_outer, State.countConv_outer, State.markLayer_outer, State.modVec_outer])

theorem State.storeRows_outer (s : State) (t : TileId) (o : VecOp) (a : MoveArgs) (st : CheckStatus) : (State.storeRows s t o a st).1.outer = s.outer := by
  unfold State.storeRows
  refine foldl_outer' _ _ rfl fun s _ => ?_
  repeat' first
    | with_reducible rfl
    | (simp only [State.outer_mk, keepsOuter_next, State.modTile_outer]; done)
    | split

theorem State.storeStaged_outer (s : State) (t : TileId) (o : VecOp) (a : MoveArgs) (st : CheckStatus) : (State.storeStaged s t o a st).1.outer = s.outer := by
  unfold State.storeStaged
  refine foldl_outer' _ _ rfl fun s _ => ?_
  repeat' first
    | with_reducible rfl
    | (simp only [State.outer_mk, keepsOuter_next, State.modTile_outer]; done)
    | split

theorem execSt_outer (t : TileId) (o : VecOp) (s : State) : keepsOuter (execSt t o s) s := by
  unfold execSt
  repeat' first
    | with_reducible assumption
    | (extract_lets +onlyGivenNames x
       refine (fun (hx : State.outer x = State.outer s) => ?_) ?_
       on_goal 1 => clear_value x
       on_goal 2 => (dsimp -zeta only [x]; clear x))
    | (extract_lets +onlyGivenNames x
       clear_value x)
    | split
    | (with_reducible refine (State.command_outer _ _ _ _ _ ?_).trans ?_
       on_goal 1 => intro e s)
    | (simp -zeta only [State.outer_mk, keepsOuter_next, State.modPart_outer, State.waitCtx_outer, State.issue_outer, State.orderFault_outer, State.malformed_outer, State.countConv_outer, State.markLayer_outer, State.modVec_outer, State.storeRows_outer, State.storeStaged_outer])

theorem execRngu_outer (t : TileId) (o : VecOp) (s : State) : keepsOuter (execRngu t o s) s := by
  unfold execRngu
  repeat' first
    | (simp -zeta only [State.outer_mk, keepsOuter_next, keepsOuter_fault, State.modVec_outer]; done)
    | (with_reducible refine State.vector_outer _ _ _ _ _ _ ?_
       intro e c s)
    | (simp -zeta only [*, State.outer_mk, keepsOuter_next, State.modVec_outer]; done)

theorem execRngr_outer (t : TileId) (o : VecOp) (s : State) : keepsOuter (execRngr t o s) s := by
  unfold execRngr
  repeat' first
    | (simp -zeta only [State.outer_mk, keepsOuter_next, keepsOuter_fault, State.modVec_outer]; done)
    | (with_reducible refine State.vector_outer _ _ _ _ _ _ ?_
       intro e c s)
    | (simp -zeta only [*, State.outer_mk, keepsOuter_next, State.modVec_outer]; done)

theorem execRngsv_outer (t : TileId) (o : VecOp) (s : State) : keepsOuter (execRngsv t o s) s := by
  unfold execRngsv
  repeat' first
    | (simp -zeta only [State.outer_mk, keepsOuter_next, keepsOuter_fault, State.modTile_outer]; done)
    | (with_reducible refine State.vector_outer _ _ _ _ _ _ ?_
       intro e c s)
    | (simp -zeta only [*, State.outer_mk, keepsOuter_next, State.modTile_outer]; done)

theorem execRngrs_outer (t : TileId) (o : VecOp) (s : State) : keepsOuter (execRngrs t o s) s := by
  unfold execRngrs
  repeat' first
    | (simp -zeta only [State.outer_mk, keepsOuter_next, keepsOuter_fault, State.modTile_outer]; done)
    | (with_reducible refine State.vector_outer _ _ _ _ _ _ ?_
       intro e c s)
    | (simp -zeta only [*, State.outer_mk, keepsOuter_next, State.modTile_outer]; done)

theorem execFlags_outer (t : TileId) (o : VecOp) (s : State) : keepsOuter (execFlags t o s) s := by
  unfold execFlags
  repeat' first
    | (simp -zeta only [State.outer_mk, keepsOuter_next, keepsOuter_fault, State.modVec_outer]; done)
    | (with_reducible refine State.vector_outer _ _ _ _ _ _ ?_
       intro e c s)
    | (simp -zeta only [*, State.outer_mk, keepsOuter_next, State.modVec_outer]; done)

theorem execArrive_outer (t : TileId) (c : CtxId) (o : BuckleOp) (s : State) : keepsOuter (execArrive t c o s) s := by
  unfold execArrive
  repeat' first
    | with_reducible assumption
    | (extract_lets +onlyGivenNames x
       refine (fun (hx : State.outer x = State.outer s) => ?_) ?_
       on_goal 1 => clear_value x
       on_goal 2 => (dsimp -zeta only [x]; clear x))
    | (extract_lets +onlyGivenNames x
       clear_value x)
    | split
    | (with_reducible refine (State.command_outer _ _ _ _ _ ?_).trans ?_
       on_goal 1 => intro e s)
    | (simp -zeta only [State.outer_mk, keepsOuter_next, State.modCtx_outer, State.flushArrivals_outer, State.issue_outer, State.malformed_outer])

theorem State.atBuckle_outer (s : State) (t : TileId) (c : CtxId) : (State.atBuckle s t c).outer = s.outer := by
  rfl

theorem State.sentFront_outer (s : State) (t : TileId) (c : CtxId) : (State.sentFront s t c).outer = s.outer := by
  rfl

theorem State.sendWatch_outer (s : State) (t : TileId) (e : Seat) (c : CtxId) (b target : Nat) (w : TileId) : (State.sendWatch s t e c b target w).outer = s.outer := by
  simp only [State.sendWatch, State.outer_mk, keepsOuter_next, State.sendBuckle_outer]

theorem State.tryWait_outer (s : State) (t : TileId) (c : CtxId) (e : Seat) (o : BuckleOp) : (State.tryWait s t c e o).outer = s.outer := by
  unfold State.tryWait
  repeat' first
    | with_reducible rfl
    | (extract_lets +onlyGivenNames x
       clear_value x)
    | (simp -zeta only [State.outer_mk, keepsOuter_next, keepsOuter_fault, State.issue_outer, State.atBuckle_outer, State.sentFront_outer, State.sendWatch_outer]; done)
    | split

theorem execWait_outer (t : TileId) (c : CtxId) (o : BuckleOp) (s : State) : keepsOuter (execWait t c o s) s := by
  unfold execWait
  repeat' first
    | split
    | (with_reducible refine (State.command_outer _ _ _ _ _ ?_).trans ?_
       on_goal 1 => intro e s)
    | (simp -zeta only [State.outer_mk, keepsOuter_next, State.malformed_outer, State.tryWait_outer])

theorem execArrwait_outer (t : TileId) (c : CtxId) (o : BuckleOp) (s : State) : keepsOuter (execArrwait t c o s) s := by
  unfold execArrwait
  repeat' first
    | with_reducible assumption
    | (extract_lets +onlyGivenNames x
       refine (fun (hx : State.outer x = State.outer s) => ?_) ?_
       on_goal 1 => clear_value x
       on_goal 2 => (dsimp -zeta only [x]; clear x))
    | (extract_lets +onlyGivenNames x
       clear_value x)
    | split
    | (with_reducible refine (State.command_outer _ _ _ _ _ ?_).trans ?_
       on_goal 1 => intro e s)
    | (simp -zeta only [State.outer_mk, keepsOuter_next, State.sendArrival_outer, State.issue_outer, State.malformed_outer, State.atBuckle_outer, State.sentFront_outer, State.sendWatch_outer, State.tryWait_outer])

theorem execHintHeavy_outer (t : TileId) (amps : BitVec 8) (lead layer : BitVec 16) (s : State) : keepsOuter (execHintHeavy t amps lead layer s) s := by
  unfold execHintHeavy
  repeat' first
    | with_reducible assumption
    | (extract_lets +onlyGivenNames x
       refine (fun (hx : State.outer x = State.outer s) => ?_) ?_
       on_goal 1 => clear_value x
       on_goal 2 => (dsimp -zeta only [x]; clear x))
    | (extract_lets +onlyGivenNames x
       clear_value x)
    | split
    | (with_reducible refine (State.command_outer _ _ _ _ _ ?_).trans ?_
       on_goal 1 => intro e s)
    | (simp -zeta only [State.outer_mk, keepsOuter_next, State.modTile_outer, State.issue_outer, State.malformed_outer])

theorem execHintLight_outer (t : TileId) (amps : BitVec 8) (lead layer : BitVec 16) (s : State) : keepsOuter (execHintLight t amps lead layer s) s := by
  unfold execHintLight
  repeat' first
    | with_reducible assumption
    | (extract_lets +onlyGivenNames x
       refine (fun (hx : State.outer x = State.outer s) => ?_) ?_
       on_goal 1 => clear_value x
       on_goal 2 => (dsimp -zeta only [x]; clear x))
    | (extract_lets +onlyGivenNames x
       clear_value x)
    | split
    | (with_reducible refine (State.command_outer _ _ _ _ _ ?_).trans ?_
       on_goal 1 => intro e s)
    | (simp -zeta only [State.outer_mk, keepsOuter_next, State.issue_outer, State.malformed_outer])

theorem execMark_outer (t : TileId) (phase : BitVec 4) (layer : BitVec 16) (marker : BitVec 32) (s : State) : keepsOuter (execMark t phase layer marker s) s := by
  unfold execMark
  repeat' first
    | with_reducible assumption
    | (extract_lets +onlyGivenNames x
       refine (fun (hx : State.outer x = State.outer s) => ?_) ?_
       on_goal 1 => clear_value x
       on_goal 2 => (dsimp -zeta only [x]; clear x))
    | (extract_lets +onlyGivenNames x
       clear_value x)
    | split
    | (with_reducible refine (State.command_outer _ _ _ _ _ ?_).trans ?_
       on_goal 1 => intro e s)
    | (simp -zeta only [State.outer_mk, keepsOuter_next, State.modTile_outer, State.modPart_outer, State.issue_outer, State.malformed_outer])

theorem execStep_outer (t : TileId) (c : CtxId) (s : State) : keepsOuter (execStep t c s) s := by
  unfold execStep
  repeat' first
    | (extract_lets +onlyGivenNames x
       clear_value x)
    | split
    | (with_reducible refine (State.command_outer _ _ _ _ _ ?_).trans ?_
       on_goal 1 => intro e s)
    | (simp -zeta only [State.outer_mk, keepsOuter_next, State.modCtx_outer, State.waitCtx_outer, State.issue_outer])

theorem execStepReady_outer (t : TileId) (s : State) : keepsOuter (execStepReady t s) s := by
  unfold execStepReady
  repeat' first
    | with_reducible rfl
    | (extract_lets +onlyGivenNames x
       refine (fun (hx : State.outer x = State.outer s) => ?_) ?_
       on_goal 1 => clear_value x
       on_goal 2 => (dsimp -zeta only [x]; clear x))
    | (extract_lets +onlyGivenNames x
       clear_value x)
    | (simp -zeta only [State.outer_mk, keepsOuter_next, keepsOuter_fault, State.modTile_outer, State.modPart_outer]; done)
    | (simp -zeta only [State.outer_mk, keepsOuter_next, keepsOuter_fault, State.modTile_outer, State.modPart_outer]; with_reducible assumption)
    | split

theorem execPageFetch_outer (t : TileId) (c : CtxId) (p : Nat) (s : State) : keepsOuter (execPageFetch t c p s) s := by
  unfold execPageFetch
  repeat' first
    | with_reducible rfl
    | (extract_lets +onlyGivenNames x
       refine (fun (hx : State.outer x = State.outer s) => ?_) ?_
       on_goal 1 => clear_value x
       on_goal 2 => (dsimp -zeta only [x]; clear x))
    | (extract_lets +onlyGivenNames x
       clear_value x)
    | (simp -zeta only [State.outer_mk, keepsOuter_next, keepsOuter_fault, State.send_outer, State.modCtx_outer]; done)
    | (simp -zeta only [State.outer_mk, keepsOuter_next, keepsOuter_fault, State.send_outer, State.modCtx_outer]; with_reducible assumption)
    | split

theorem execPageArrival_outer (t : TileId) (c : CtxId) (p : Packet) (s : State) : keepsOuter (execPageArrival t c p s) s := by
  unfold execPageArrival
  repeat' first
    | (extract_lets +onlyGivenNames x
       refine (fun (hx : State.outer x = State.outer s) => ?_) ?_
       on_goal 1 => clear_value x
       on_goal 2 => (dsimp -zeta only [x]; clear x))
    | (extract_lets +onlyGivenNames x
       clear_value x)
    | (simp -zeta only [State.outer_mk, keepsOuter_next, keepsOuter_fault, State.modTile_outer, State.send_outer, State.take_outer, State.modCtx_outer, State.structFault_outer]; done)
    | split
    | (simp -zeta only [*, State.outer_mk, keepsOuter_next, State.modTile_outer, State.send_outer, State.take_outer, State.modCtx_outer, State.structFault_outer]; done)

theorem State.placeHomes_outer (s : State) (n : PartId) (m : Image) (bs : List Nat) : (State.placeHomes s n m bs).1.outer = s.outer := by
  unfold State.placeHomes
  repeat' first
    | with_reducible rfl
    | (extract_lets +onlyGivenNames x
       clear_value x)
    | (simp -zeta only [State.outer_mk, keepsOuter_next, keepsOuter_fault, State.modPart_outer]; done)
    | split
    | (with_reducible refine foldl_fst_outer _ _ ?_ ?_
       on_goal 2 => intro s _)

theorem State.rehome_outer (s : State) (n : PartId) : (State.rehome s n).outer = s.outer := by
  unfold State.rehome
  repeat' first
    | with_reducible rfl
    | (extract_lets +onlyGivenNames x
       refine (fun (hx : State.outer x = State.outer s) => ?_) ?_
       on_goal 1 => clear_value x
       on_goal 2 => (dsimp -zeta only [x]; clear x))
    | (extract_lets +onlyGivenNames x
       clear_value x)
    | (simp -zeta only [State.outer_mk, keepsOuter_next, keepsOuter_fault, State.modPart_outer, State.report_outer, State.resetPartition_outer, State.placeHomes_outer]; done)
    | (split <;>
       (rename_i heq
        have hx := congrArg (fun p : State × _ => State.outer p.1) heq.symm
        simp -zeta only [State.modPart_outer, State.report_outer, State.resetPartition_outer, State.placeHomes_outer] at hx))
    | split
    | (simp -zeta only [*, State.outer_mk, keepsOuter_next, keepsOuter_fault, State.modPart_outer, State.report_outer, State.resetPartition_outer, State.placeHomes_outer]; done)

theorem State.brokenTokens_outer (s : State) (n : PartId) (b expected observed : Nat) : (State.brokenTokens s n b expected observed).outer = s.outer := by
  simp only [State.brokenTokens, State.outer_mk, keepsOuter_next, State.resetPartition_outer, State.brokenSum_outer]

theorem State.fireWatches_outer (s : State) (n : PartId) (w : TileId) (b : Nat) : (State.fireWatches s n w b).outer = s.outer := by
  unfold State.fireWatches
  refine foldl_outer' _ _ rfl fun s _ => ?_
  repeat' first
    | with_reducible rfl
    | (simp only [State.outer_mk, keepsOuter_next, State.modTile_outer, State.sendBuckle_outer]; done)
    | split

theorem State.registerWatch_outer (s : State) (n : PartId) (w : TileId) (m : BuckleMsg) : (State.registerWatch s n w m).outer = s.outer := by
  simp only [State.registerWatch, State.outer_mk, keepsOuter_next, State.modTile_outer, State.fireWatches_outer]

theorem State.rejectMessage_outer (s : State) (n : Option PartId) (src : Nat) (words : List Word64) (m : BuckleMsg) : (State.rejectMessage s n src words m).outer = s.outer := by
  unfold State.rejectMessage
  repeat' first
    | (extract_lets +onlyGivenNames x
       refine (fun (hx : State.outer x = State.outer s) => ?_) ?_
       on_goal 1 => clear_value x
       on_goal 2 => (dsimp -zeta only [x]; clear x))
    | (extract_lets +onlyGivenNames x
       clear_value x)
    | (simp -zeta only [State.outer_mk, keepsOuter_next, keepsOuter_fault, State.report_outer, State.countTokens_outer, State.structFail_outer]; done)
    | split
    | (simp -zeta only [*, State.outer_mk, keepsOuter_next, State.report_outer, State.countTokens_outer, State.structFail_outer]; done)

theorem State.takeMessage_outer (s : State) (n : Option PartId) (src dst : Nat) (words : List Word64) (m : BuckleMsg) : (State.takeMessage s n src dst words m).1.outer = s.outer := by
  unfold State.takeMessage
  repeat' first
    | (extract_lets +onlyGivenNames x
       refine (fun (hx : State.outer x = State.outer s) => ?_) ?_
       on_goal 1 => clear_value x
       on_goal 2 => (dsimp -zeta only [x]; clear x))
    | (extract_lets +onlyGivenNames x
       clear_value x)
    | (simp -zeta only [State.outer_mk, keepsOuter_next, keepsOuter_fault, State.take_outer, State.rejectMessage_outer]; done)
    | split
    | (simp -zeta only [*, State.outer_mk, keepsOuter_next, State.take_outer, State.rejectMessage_outer]; done)

theorem State.lateTokens_outer (s : State) (m : BuckleMsg) : (State.lateTokens s m).outer = s.outer := by
  unfold State.lateTokens
  repeat' first
    | (extract_lets +onlyGivenNames x
       refine (fun (hx : State.outer x = State.outer s) => ?_) ?_
       on_goal 1 => clear_value x
       on_goal 2 => (dsimp -zeta only [x]; clear x))
    | (extract_lets +onlyGivenNames x
       clear_value x)
    | (simp -zeta only [State.outer_mk, keepsOuter_next, keepsOuter_fault, State.modPart_outer, State.countTokens_outer, State.brokenTokens_outer]; done)
    | split
    | (simp -zeta only [*, State.outer_mk, keepsOuter_next, State.modPart_outer, State.countTokens_outer, State.brokenTokens_outer]; done)

theorem State.homeMessage_outer (s : State) (kind : Nat) (words : List Word64) : (State.homeMessage s kind words).outer = s.outer := by
  unfold State.homeMessage
  repeat' first
    | with_reducible rfl
    | with_reducible assumption
    | (extract_lets +onlyGivenNames x
       refine (fun (hx : State.outer x = State.outer s) => ?_) ?_
       on_goal 1 => clear_value x
       on_goal 2 => (dsimp -zeta only [x]; clear x))
    | (extract_lets +onlyGivenNames x
       clear_value x)
    | (simp -zeta only [State.outer_mk, keepsOuter_next, keepsOuter_fault, State.applyTokens_outer, State.fireWatches_outer, State.registerWatch_outer, State.takeMessage_outer, State.lateTokens_outer]; with_reducible assumption)
    | (split <;>
       (rename_i heq
        have hx := congrArg (fun p : State × _ => State.outer p.1) heq.symm
        simp -zeta only [State.applyTokens_outer, State.fireWatches_outer, State.registerWatch_outer, State.takeMessage_outer, State.lateTokens_outer] at hx))
    | split

theorem execBuckleArriveMsg_outer (words : List Word64) (s : State) : keepsOuter (execBuckleArriveMsg words s) s := by
  simp only [execBuckleArriveMsg, State.outer_mk, keepsOuter_next, State.homeMessage_outer]

theorem execBuckleWatchMsg_outer (words : List Word64) (s : State) : keepsOuter (execBuckleWatchMsg words s) s := by
  simp only [execBuckleWatchMsg, State.outer_mk, keepsOuter_next, State.homeMessage_outer]

theorem execBuckleArriveWatchMsg_outer (words : List Word64) (s : State) : keepsOuter (execBuckleArriveWatchMsg words s) s := by
  simp only [execBuckleArriveWatchMsg, State.outer_mk, keepsOuter_next, State.homeMessage_outer]

theorem execBuckleSatisfyMsg_outer (t : TileId) (words : List Word64) (s : State) : keepsOuter (execBuckleSatisfyMsg t words s) s := by
  unfold execBuckleSatisfyMsg
  repeat' first
    | with_reducible rfl
    | (extract_lets +onlyGivenNames x
       clear_value x)
    | (simp -zeta only [State.outer_mk, keepsOuter_next, keepsOuter_fault, State.issue_outer, State.takeMessage_outer]; done)
    | (simp -zeta only [State.outer_mk, keepsOuter_next, keepsOuter_fault, State.issue_outer, State.takeMessage_outer]; with_reducible assumption)
    | (split <;>
       (rename_i heq
        have hx := congrArg (fun p : State × _ => State.outer p.1) heq.symm
        simp -zeta only [State.issue_outer, State.takeMessage_outer] at hx))
    | split

theorem State.openClosing_outer (s : State) (n : PartId) : (State.openClosing s n).outer = s.outer := by
  unfold State.openClosing
  repeat' first
    | with_reducible assumption
    | (extract_lets +onlyGivenNames x
       refine (fun (hx : State.outer x = State.outer s) => ?_) ?_
       on_goal 1 => clear_value x
       on_goal 2 => (dsimp -zeta only [x]; clear x))
    | (extract_lets +onlyGivenNames x
       clear_value x)
    | (simp -zeta only [State.outer_mk, keepsOuter_next, keepsOuter_fault, State.modPart_outer, State.brokenTokens_outer]; done)
    | (simp -zeta only [State.outer_mk, keepsOuter_next, keepsOuter_fault, State.modPart_outer, State.brokenTokens_outer]; with_reducible assumption)
    | split

theorem execClosingWindowExpiry_outer (n : PartId) (s : State) : keepsOuter (execClosingWindowExpiry n s) s := by
  unfold execClosingWindowExpiry
  refine foldl_outer' _ _ rfl fun s _ => ?_
  repeat' first
    | with_reducible rfl
    | (simp only [State.outer_mk, keepsOuter_next, State.modPart_outer, State.brokenTokens_outer]; done)
    | split

theorem execBuckleProbe_outer (b : BitVec 16) (s : State) : keepsOuter (execBuckleProbe b s) s := by
  rfl

theorem State.openWindow_outer (s : State) (n : PartId) : (State.openWindow s n).outer = s.outer := by
  unfold State.openWindow
  repeat' first
    | with_reducible assumption
    | (extract_lets +onlyGivenNames x
       refine (fun (hx : State.outer x = State.outer s) => ?_) ?_
       on_goal 1 => clear_value x
       on_goal 2 => (dsimp -zeta only [x]; clear x))
    | (extract_lets +onlyGivenNames x
       clear_value x)
    | (simp -zeta only [State.outer_mk, keepsOuter_next, keepsOuter_fault, State.modPart_outer]; done)
    | (simp -zeta only [State.outer_mk, keepsOuter_next, keepsOuter_fault, State.modPart_outer]; with_reducible assumption)
    | split

theorem execCinchEdge_outer (quarterNs : Word64) (highNs : Nat) (s : State) : keepsOuter (execCinchEdge quarterNs highNs s) s := by
  unfold execCinchEdge
  repeat' first
    | with_reducible assumption
    | (extract_lets +onlyGivenNames x
       refine (fun (hx : State.outer x = State.outer s) => ?_) ?_
       on_goal 1 => clear_value x
       on_goal 2 => (dsimp -zeta only [x]; clear x))
    | (extract_lets +onlyGivenNames x
       clear_value x)
    | split
    | (with_reducible refine foldl_outer' _ _ ?_ ?_
       on_goal 2 => intro s _)
    | (simp -zeta only [State.outer_mk, keepsOuter_next, keepsOuter_fault, State.modPart_outer, State.sbEvent_outer])

theorem execCinchInFall_outer (s : State) : keepsOuter (execCinchInFall s) s := by
  unfold execCinchInFall
  split <;> simp only [State.outer_mk, keepsOuter_next]

theorem execHoldWindowExpiry_outer (n : PartId) (s : State) : keepsOuter (execHoldWindowExpiry n s) s := by
  unfold execHoldWindowExpiry
  repeat' first
    | with_reducible rfl
    | (simp only [State.outer_mk, keepsOuter_next, State.modPart_outer]; done)
    | split

theorem execCinchTestPulse_outer (v : BitVec 8) (s : State) : keepsOuter (execCinchTestPulse v s) s := by
  unfold execCinchTestPulse
  repeat' first
    | with_reducible rfl
    | (simp only [State.outer_mk, keepsOuter_next]; done)
    | split

theorem execAccumulationDelivery_outer (n : PartId) (bucket : BitVec 32) (block : Nat) (s : State) : keepsOuter (execAccumulationDelivery n bucket block s) s := by
  unfold execAccumulationDelivery
  repeat' first
    | with_reducible assumption
    | (extract_lets +onlyGivenNames x
       refine (fun (hx : State.outer x = State.outer s) => ?_) ?_
       on_goal 1 => clear_value x
       on_goal 2 => (dsimp -zeta only [x]; clear x))
    | (extract_lets +onlyGivenNames x
       clear_value x)
    | (simp -zeta only [State.outer_mk, keepsOuter_next, keepsOuter_fault, State.modPart_outer, State.sendMember_outer, State.setCtl_outer, State.modBucket_outer, State.tryDone_outer]; done)
    | (simp -zeta only [State.outer_mk, keepsOuter_next, keepsOuter_fault, State.modPart_outer, State.sendMember_outer, State.setCtl_outer, State.modBucket_outer, State.tryDone_outer]; with_reducible assumption)
    | split
    | (with_reducible refine foldl_outer' _ _ ?_ ?_
       on_goal 2 => intro s _)

theorem execNodeCopy_outer (n : PartId) (bucket : BitVec 32) (bytes : List Byte) (s : State) : keepsOuter (execNodeCopy n bucket bytes s) s := by
  unfold execNodeCopy
  repeat' first
    | with_reducible rfl
    | (extract_lets +onlyGivenNames x
       clear_value x)
    | (simp -zeta only [State.outer_mk, keepsOuter_next, keepsOuter_fault, State.takeCtl_outer, State.modBucket_outer]; done)
    | (simp -zeta only [State.outer_mk, keepsOuter_next, keepsOuter_fault, State.takeCtl_outer, State.modBucket_outer]; with_reducible assumption)
    | (split <;>
       (rename_i heq
        have hx := congrArg (fun p : State × _ => State.outer p.1) heq.symm
        simp -zeta only [State.takeCtl_outer, State.modBucket_outer] at hx))
    | split

theorem State.sendNorms_outer (s : State) (n : PartId) (d : TensorDecl) (member : Nat) : (State.sendNorms s n d member).outer = s.outer := by
  unfold State.sendNorms
  repeat' first
    | (extract_lets +onlyGivenNames x
       refine (fun (hx : State.outer x = State.outer s) => ?_) ?_
       on_goal 1 => clear_value x
       on_goal 2 => (dsimp -zeta only [x]; clear x))
    | (extract_lets +onlyGivenNames x
       clear_value x)
    | (simp -zeta only [State.outer_mk, keepsOuter_next, keepsOuter_fault, State.modPart_outer, State.sendMember_outer, State.setCtl_outer]; done)
    | split
    | (simp -zeta only [*, State.outer_mk, keepsOuter_next, State.modPart_outer, State.sendMember_outer, State.setCtl_outer]; done)

theorem execGatherRequest_outer (l : LinkId) (n : PartId) (member : BitVec 16) (p : Packet) (s : State) : keepsOuter (execGatherRequest l n member p s) s := by
  unfold execGatherRequest
  repeat' first
    | (extract_lets +onlyGivenNames x
       refine (fun (hx : State.outer x = State.outer s) => ?_) ?_
       on_goal 1 => clear_value x
       on_goal 2 => (dsimp -zeta only [x]; clear x))
    | (extract_lets +onlyGivenNames x
       clear_value x)
    | (simp -zeta only [State.outer_mk, keepsOuter_next, keepsOuter_fault, State.modLink_outer, State.sendBack_outer, State.servePart_outer, State.sendNorms_outer]; done)
    | (split <;>
       (rename_i heq
        have hx := congrArg (fun p : _ × State => State.outer p.2) heq.symm
        simp -zeta only [State.modLink_outer, State.sendBack_outer, State.servePart_outer, State.sendNorms_outer] at hx))
    | split
    | (simp -zeta only [*, State.outer_mk, keepsOuter_next, State.modLink_outer, State.sendBack_outer, State.servePart_outer, State.sendNorms_outer]; done)

theorem execNormTrailer_outer (n : PartId) (member : BitVec 16) (bytes : List Byte) (s : State) : keepsOuter (execNormTrailer n member bytes s) s := by
  unfold execNormTrailer
  repeat' first
    | with_reducible rfl
    | (extract_lets +onlyGivenNames x
       clear_value x)
    | (simp -zeta only [State.outer_mk, keepsOuter_next, keepsOuter_fault, State.modPart_outer, State.takeCtl_outer]; done)
    | (simp -zeta only [State.outer_mk, keepsOuter_next, keepsOuter_fault, State.modPart_outer, State.takeCtl_outer]; with_reducible assumption)
    | (split <;>
       (rename_i heq
        have hx := congrArg (fun p : State × _ => State.outer p.1) heq.symm
        simp -zeta only [State.modPart_outer, State.takeCtl_outer] at hx))
    | split

theorem execPermuteBlockMove_outer (n : PartId) (decl entry : Nat) (data : List Byte) (s : State) : keepsOuter (execPermuteBlockMove n decl entry data s) s := by
  unfold execPermuteBlockMove
  repeat' first
    | with_reducible rfl
    | (extract_lets +onlyGivenNames x
       refine (fun (hx : State.outer x = State.outer s) => ?_) ?_
       on_goal 1 => clear_value x
       on_goal 2 => (dsimp -zeta only [x]; clear x))
    | (extract_lets +onlyGivenNames x
       clear_value x)
    | (simp -zeta only [State.outer_mk, keepsOuter_next, keepsOuter_fault, State.modPart_outer, State.sendVia_outer, State.sendDone_outer]; done)
    | (simp -zeta only [State.outer_mk, keepsOuter_next, keepsOuter_fault, State.modPart_outer, State.sendVia_outer, State.sendDone_outer]; with_reducible assumption)
    | split

theorem State.sendTable_outer (s : State) (t : TileId) (e : Seat) (layer : Nat) : (State.sendTable s t e layer).outer = s.outer := by
  unfold State.sendTable
  repeat' first
    | with_reducible rfl
    | (extract_lets +onlyGivenNames x
       refine (fun (hx : State.outer x = State.outer s) => ?_) ?_
       on_goal 1 => clear_value x
       on_goal 2 => (dsimp -zeta only [x]; clear x))
    | (extract_lets +onlyGivenNames x
       clear_value x)
    | (simp -zeta only [State.outer_mk, keepsOuter_next, keepsOuter_fault, State.modTile_outer, State.modPart_outer]; done)
    | (simp -zeta only [State.outer_mk, keepsOuter_next, keepsOuter_fault, State.modTile_outer, State.modPart_outer]; with_reducible assumption)
    | split

theorem execLayerStampTable_outer (t : TileId) (layer : Nat) (s : State) : keepsOuter (execLayerStampTable t layer s) s := by
  unfold execLayerStampTable
  repeat' first
    | with_reducible rfl
    | (simp only [State.outer_mk, keepsOuter_next, State.sendTable_outer]; done)
    | split

theorem State.collectTables_outer (s : State) (n : PartId) : (State.collectTables s n).outer = s.outer := by
  unfold State.collectTables
  repeat' first
    | with_reducible rfl
    | (simp -zeta only [State.outer_mk, keepsOuter_next, keepsOuter_fault, State.sendTable_outer]; done)
    | split
    | (with_reducible refine foldl_outer' _ _ ?_ ?_
       on_goal 2 => intro s _)

theorem State.noteHold_outer (s : State) (n : PartId) : (State.noteHold s n).outer = s.outer := by
  rfl

theorem State.trySendUpdate_outer (s : State) (n : PartId) : (State.trySendUpdate s n).outer = s.outer := by
  unfold State.trySendUpdate
  repeat' first
    | with_reducible rfl
    | (extract_lets +onlyGivenNames x
       refine (fun (hx : State.outer x = State.outer s) => ?_) ?_
       on_goal 1 => clear_value x
       on_goal 2 => (dsimp -zeta only [x]; clear x))
    | (extract_lets +onlyGivenNames x
       clear_value x)
    | (simp -zeta only [State.outer_mk, keepsOuter_next, keepsOuter_fault, State.modPart_outer, State.sendMembers_outer, State.openWindow_outer, State.noteHold_outer]; done)
    | (simp -zeta only [State.outer_mk, keepsOuter_next, keepsOuter_fault, State.modPart_outer, State.sendMembers_outer, State.openWindow_outer, State.noteHold_outer]; with_reducible assumption)
    | split

theorem execUpdateCompleteSend_outer (n : PartId) (s : State) : keepsOuter (execUpdateCompleteSend n s) s := by
  simp only [execUpdateCompleteSend, State.outer_mk, keepsOuter_next, State.trySendUpdate_outer]

theorem execUpdateCompleteReceive_outer (n : PartId) (words : List Word64) (s : State) : keepsOuter (execUpdateCompleteReceive n words s) s := by
  unfold execUpdateCompleteReceive
  repeat' first
    | with_reducible rfl
    | (extract_lets +onlyGivenNames x
       refine (fun (hx : State.outer x = State.outer s) => ?_) ?_
       on_goal 1 => clear_value x
       on_goal 2 => (dsimp -zeta only [x]; clear x))
    | (extract_lets +onlyGivenNames x
       clear_value x)
    | (simp -zeta only [State.outer_mk, keepsOuter_next, keepsOuter_fault, State.modPart_outer, State.structFail_outer, State.noteHold_outer]; done)
    | (simp -zeta only [State.outer_mk, keepsOuter_next, keepsOuter_fault, State.modPart_outer, State.structFail_outer, State.noteHold_outer]; with_reducible assumption)
    | split

theorem State.recordHold_outer (s : State) (n : PartId) : (State.recordHold s n).outer = s.outer := by
  unfold State.recordHold
  repeat' first
    | with_reducible rfl
    | (extract_lets +onlyGivenNames x
       refine (fun (hx : State.outer x = State.outer s) => ?_) ?_
       on_goal 1 => clear_value x
       on_goal 2 => (dsimp -zeta only [x]; clear x))
    | (extract_lets +onlyGivenNames x
       clear_value x)
    | (simp -zeta only [State.outer_mk, keepsOuter_next, keepsOuter_fault, State.sbEvent_outer]; done)
    | (simp -zeta only [State.outer_mk, keepsOuter_next, keepsOuter_fault, State.sbEvent_outer]; with_reducible assumption)
    | split

theorem execCommitPoint_outer (n : PartId) (s : State) : keepsOuter (execCommitPoint n s) s := by
  unfold execCommitPoint
  repeat' first
    | with_reducible assumption
    | (extract_lets +onlyGivenNames x
       refine (fun (hx : State.outer x = State.outer s) => ?_) ?_
       on_goal 1 => clear_value x
       on_goal 2 => (dsimp -zeta only [x]; clear x))
    | (extract_lets +onlyGivenNames x
       clear_value x)
    | (simp -zeta only [State.outer_mk, keepsOuter_next, keepsOuter_fault, State.modPart_outer, State.report_outer, State.sendControl_outer, State.advancePart_outer, State.resetPartition_outer, State.rehome_outer, State.openClosing_outer, State.collectTables_outer, State.recordHold_outer]; done)
    | (simp -zeta only [State.outer_mk, keepsOuter_next, keepsOuter_fault, State.modPart_outer, State.report_outer, State.sendControl_outer, State.advancePart_outer, State.resetPartition_outer, State.rehome_outer, State.openClosing_outer, State.collectTables_outer, State.recordHold_outer]; with_reducible assumption)
    | split
    | (with_reducible refine foldl_outer' _ _ ?_ ?_
       on_goal 2 => intro s _)

theorem execCommitFlip_outer (k : StackId) (n : PartId) (s : State) : keepsOuter (execCommitFlip k n s) s := by
  unfold execCommitFlip
  repeat' first
    | with_reducible rfl
    | (extract_lets +onlyGivenNames x
       refine (fun (hx : State.outer x = State.outer s) => ?_) ?_
       on_goal 1 => clear_value x
       on_goal 2 => (dsimp -zeta only [x]; clear x))
    | (extract_lets +onlyGivenNames x
       clear_value x)
    | (simp -zeta only [State.outer_mk, keepsOuter_next, keepsOuter_fault, State.modStack_outer, State.modPart_outer]; done)
    | (simp -zeta only [State.outer_mk, keepsOuter_next, keepsOuter_fault, State.modStack_outer, State.modPart_outer]; with_reducible assumption)
    | split

theorem execCommitAcksIn_outer (n : PartId) (s : State) : keepsOuter (execCommitAcksIn n s) s := by
  unfold execCommitAcksIn
  repeat' first
    | with_reducible assumption
    | (extract_lets +onlyGivenNames x
       refine (fun (hx : State.outer x = State.outer s) => ?_) ?_
       on_goal 1 => clear_value x
       on_goal 2 => (dsimp -zeta only [x]; clear x))
    | (extract_lets +onlyGivenNames x
       clear_value x)
    | (simp -zeta only [State.outer_mk, keepsOuter_next, keepsOuter_fault, State.modPart_outer, State.modFn_outer, State.modTiles_outer, State.callRetry_outer]; done)
    | (simp -zeta only [State.outer_mk, keepsOuter_next, keepsOuter_fault, State.modPart_outer, State.modFn_outer, State.modTiles_outer, State.callRetry_outer]; with_reducible assumption)
    | split

theorem execCompareStep_outer (n : PartId) (s : State) : keepsOuter (execCompareStep n s) s := by
  unfold execCompareStep
  repeat' first
    | with_reducible rfl
    | (extract_lets +onlyGivenNames x
       refine (fun (hx : State.outer x = State.outer s) => ?_) ?_
       on_goal 1 => clear_value x
       on_goal 2 => (dsimp -zeta only [x]; clear x))
    | (extract_lets +onlyGivenNames x
       clear_value x)
    | (simp -zeta only [State.outer_mk, keepsOuter_next, keepsOuter_fault, State.modPart_outer, State.report_outer, State.recordOwn_outer, State.sbEvent_outer, State.collectTables_outer, State.trySendUpdate_outer]; done)
    | (simp -zeta only [State.outer_mk, keepsOuter_next, keepsOuter_fault, State.modPart_outer, State.report_outer, State.recordOwn_outer, State.sbEvent_outer, State.collectTables_outer, State.trySendUpdate_outer]; with_reducible assumption)
    | split

theorem State.releaseCompare_outer (s : State) (n : PartId) (leave : Bool) : (State.releaseCompare s n leave).outer = s.outer := by
  unfold State.releaseCompare
  split <;> simp only [State.outer_mk, keepsOuter_next, State.modPart_outer, State.trySendUpdate_outer]

theorem execCompareContinue_outer (n : PartId) (s : State) : keepsOuter (execCompareContinue n s) s := by
  simp only [execCompareContinue, State.outer_mk, keepsOuter_next, State.releaseCompare_outer]

theorem execCompareRetry_outer (n : PartId) (s : State) : keepsOuter (execCompareRetry n s) s := by
  unfold execCompareRetry
  split <;> simp only [State.outer_mk, keepsOuter_next, State.modPart_outer, State.callRetry_outer]

theorem execCompareLeave_outer (n : PartId) (s : State) : keepsOuter (execCompareLeave n s) s := by
  simp only [execCompareLeave, State.outer_mk, keepsOuter_next, State.releaseCompare_outer]

theorem State.assignCuts_outer (s : State) (n : PartId) : (State.assignCuts s n).1.outer = s.outer := by
  unfold State.assignCuts
  refine foldl_outer' _ _ rfl fun s _ => ?_
  repeat' first
    | with_reducible rfl
    | (simp only [State.outer_mk, keepsOuter_next, State.modPort_outer, State.modPart_outer]; done)
    | split

theorem State.sendPortTable_outer (s : State) (n : PartId) : (State.sendPortTable s n).outer = s.outer := by
  unfold State.sendPortTable
  refine foldl_outer' _ _ rfl fun s _ => ?_
  repeat' first
    | with_reducible rfl
    | (simp only [State.outer_mk, keepsOuter_next, State.modPart_outer, State.sendMember_outer]; done)
    | split

theorem State.takeTable_outer (s : State) (n : PartId) (member : Nat) (table : List Byte) : (State.takeTable s n member table).1.outer = s.outer := by
  unfold State.takeTable
  repeat' first
    | with_reducible rfl
    | (extract_lets +onlyGivenNames x
       refine (fun (hx : State.outer x = State.outer s) => ?_) ?_
       on_goal 1 => clear_value x
       on_goal 2 => (dsimp -zeta only [x]; clear x))
    | (extract_lets +onlyGivenNames x
       clear_value x)
    | (simp -zeta only [State.outer_mk, keepsOuter_next, keepsOuter_fault, State.modPart_outer, State.assignCuts_outer]; done)
    | (simp -zeta only [State.outer_mk, keepsOuter_next, keepsOuter_fault, State.modPart_outer, State.assignCuts_outer]; with_reducible assumption)
    | split

theorem execCoreStateRequest_outer (t : TileId) (target : BitVec 2) (fence : Bool) (s : State) : keepsOuter (execCoreStateRequest t target fence s) s := by
  simp only [execCoreStateRequest, State.outer_mk, keepsOuter_next, State.requestCore_outer]

theorem State.dropReceived_outer (s : State) (t : TileId) : (State.dropReceived s t).outer = s.outer := by
  unfold State.dropReceived
  repeat' first
    | (extract_lets +onlyGivenNames x
       refine (fun (hx : State.outer x = State.outer s) => ?_) ?_
       on_goal 1 => clear_value x
       on_goal 2 => (dsimp -zeta only [x]; clear x))
    | (simp -zeta only [State.outer_mk, keepsOuter_next, keepsOuter_fault, State.modTile_outer, State.take_outer]; done)
    | (with_reducible refine foldl_outer' _ _ ?_ ?_
       on_goal 2 => intro s _)
    | (simp -zeta only [*, State.outer_mk, keepsOuter_next, State.modTile_outer, State.take_outer]; done)

theorem State.dropUnsent_outer (s : State) (t : TileId) : (State.dropUnsent s t).outer = s.outer := by
  unfold State.dropUnsent
  repeat' first
    | (extract_lets +onlyGivenNames x
       refine (fun (hx : State.outer x = State.outer s) => ?_) ?_
       on_goal 1 => clear_value x
       on_goal 2 => (dsimp -zeta only [x]; clear x))
    | (simp -zeta only [State.outer_mk, keepsOuter_next, keepsOuter_fault, State.modTile_outer, State.take_outer]; done)
    | (with_reducible refine foldl_outer' _ _ ?_ ?_
       on_goal 2 => intro s _)
    | (simp -zeta only [*, State.outer_mk, keepsOuter_next, State.modTile_outer, State.take_outer]; done)

theorem execQuiesceRequest_outer (t : TileId) (s : State) : keepsOuter (execQuiesceRequest t s) s := by
  unfold execQuiesceRequest
  repeat' first
    | (extract_lets +onlyGivenNames x
       clear_value x)
    | (simp -zeta only [State.outer_mk, keepsOuter_next, keepsOuter_fault, State.modTile_outer, State.dropUnsent_outer]; done)
    | split
    | (simp -zeta only [*, State.outer_mk, keepsOuter_next, State.modTile_outer, State.dropUnsent_outer]; done)

theorem execFinalPointers_outer (t : TileId) (s : State) : keepsOuter (execFinalPointers t s) s := by
  unfold execFinalPointers
  repeat' first
    | with_reducible rfl
    | (extract_lets +onlyGivenNames x
       clear_value x)
    | (simp -zeta only [State.outer_mk, keepsOuter_next, keepsOuter_fault, State.modTile_outer]; done)
    | split

theorem execQuiesceAck_outer (t : TileId) (s : State) : keepsOuter (execQuiesceAck t s) s := by
  unfold execQuiesceAck
  repeat' first
    | with_reducible rfl
    | (extract_lets +onlyGivenNames x
       clear_value x)
    | (simp -zeta only [State.outer_mk, keepsOuter_next, keepsOuter_fault, State.modTile_outer]; done)
    | split

theorem execCoreClockStop_outer (t : TileId) (s : State) : keepsOuter (execCoreClockStop t s) s := by
  unfold execCoreClockStop
  repeat' first
    | (extract_lets +onlyGivenNames x
       clear_value x)
    | (simp -zeta only [State.outer_mk, keepsOuter_next, keepsOuter_fault, State.modTile_outer, State.afterStopped_outer, State.dropReceived_outer, State.dropUnsent_outer]; done)
    | split
    | (simp -zeta only [*, State.outer_mk, keepsOuter_next, State.modTile_outer, State.afterStopped_outer, State.dropReceived_outer, State.dropUnsent_outer]; done)

theorem execQuiesceTimeout_outer (t : TileId) (s : State) : keepsOuter (execQuiesceTimeout t s) s := by
  unfold execQuiesceTimeout
  repeat' first
    | with_reducible rfl
    | (extract_lets +onlyGivenNames x
       clear_value x)
    | (simp -zeta only [State.outer_mk, keepsOuter_next, keepsOuter_fault, State.afterStopped_outer, State.forcedClose_outer]; done)
    | split

theorem execCoreRailLoss_outer (t : TileId) (s : State) : keepsOuter (execCoreRailLoss t s) s := by
  unfold execCoreRailLoss
  split <;> simp only [State.outer_mk, keepsOuter_next, State.forcedClose_outer, State.tileDeath_outer]

theorem State.headerFault_outer (s : State) (t : TileId) (port : RPort) : (State.headerFault s t port).outer = s.outer := by
  unfold State.headerFault
  repeat' first
    | with_reducible rfl
    | (simp -zeta only [State.outer_mk, keepsOuter_next, keepsOuter_fault, State.modTile_outer, State.report_outer, State.callRetry_outer]; done)
    | (simp -zeta only [State.outer_mk, keepsOuter_next, keepsOuter_fault, State.modTile_outer, State.report_outer, State.callRetry_outer]; with_reducible assumption)
    | (with_reducible refine foldl_outer' _ _ ?_ ?_
       on_goal 2 => intro s _)

theorem State.flitUncorrectable_outer (s : State) (t : TileId) (port : RPort) (p : Packet) : (State.flitUncorrectable s t port p).outer = s.outer := by
  simp only [State.flitUncorrectable, State.outer_mk, keepsOuter_next, State.report_outer, State.resetPartition_outer]

theorem State.flitCorrected_outer (s : State) (t : TileId) : (State.flitCorrected s t).outer = s.outer := by
  rfl

theorem State.accept_outer (s : State) (dst : Nat) (p : Packet) : (State.accept s dst p).outer = s.outer := by
  rfl

theorem State.sequenceFault_outer (s : State) (t : TileId) (dst : Nat) (p : Packet) : (State.sequenceFault s t dst p).outer = s.outer := by
  simp only [State.sequenceFault, State.outer_mk, keepsOuter_next, State.report_outer, State.callRetry_outer]

theorem State.seenAt_outer (s : State) (t : TileId) (port : RPort) (p : Packet) : (State.seenAt s t port p).outer = s.outer := by
  rfl

theorem execWakeRequest_outer (t : TileId) (cls : BitVec 2) (s : State) : keepsOuter (execWakeRequest t cls s) s := by
  simp only [execWakeRequest, State.outer_mk, keepsOuter_next, State.requestCore_outer]

theorem execSoftStartEnd_outer (t : TileId) (millivolts : Nat) (s : State) : keepsOuter (execSoftStartEnd t millivolts s) s := by
  unfold execSoftStartEnd
  repeat' first
    | with_reducible rfl
    | (extract_lets +onlyGivenNames x
       refine (fun (hx : State.outer x = State.outer s) => ?_) ?_
       on_goal 1 => clear_value x
       on_goal 2 => (dsimp -zeta only [x]; clear x))
    | (extract_lets +onlyGivenNames x
       clear_value x)
    | (simp -zeta only [State.outer_mk, keepsOuter_next, keepsOuter_fault, State.modTile_outer, State.modDie_outer, State.report_outer, State.tryAdmit_outer, State.fenceTile_outer]; done)
    | (simp -zeta only [State.outer_mk, keepsOuter_next, keepsOuter_fault, State.modTile_outer, State.modDie_outer, State.report_outer, State.tryAdmit_outer, State.fenceTile_outer]; with_reducible assumption)
    | split

theorem execReadyWord_outer (t : TileId) (scrubOk : Bool) (s : State) : keepsOuter (execReadyWord t scrubOk s) s := by
  unfold execReadyWord
  repeat' first
    | with_reducible rfl
    | (extract_lets +onlyGivenNames x
       refine (fun (hx : State.outer x = State.outer s) => ?_) ?_
       on_goal 1 => clear_value x
       on_goal 2 => (dsimp -zeta only [x]; clear x))
    | (extract_lets +onlyGivenNames x
       clear_value x)
    | (simp -zeta only [State.outer_mk, keepsOuter_next, keepsOuter_fault, State.modTile_outer, State.report_outer, State.requestCore_outer, State.fenceTile_outer]; done)
    | (simp -zeta only [State.outer_mk, keepsOuter_next, keepsOuter_fault, State.modTile_outer, State.report_outer, State.requestCore_outer, State.fenceTile_outer]; with_reducible assumption)
    | split

theorem State.failWelt_outer (s : State) (t : TileId) : (State.failWelt s t).outer = s.outer := by
  unfold State.failWelt
  repeat' first
    | (simp -zeta only [State.outer_mk, keepsOuter_next, keepsOuter_fault, State.modTile_outer, State.retireLost_outer, State.callRetry_outer]; done)
    | (with_reducible refine foldl_outer' _ _ ?_ ?_
       on_goal 2 => intro s _)
    | (simp -zeta only [*, State.outer_mk, keepsOuter_next, State.modTile_outer, State.retireLost_outer, State.callRetry_outer]; done)

theorem execWeltFault_outer (t : TileId) (s : State) : keepsOuter (execWeltFault t s) s := by
  unfold execWeltFault
  split <;> simp only [State.outer_mk, keepsOuter_next, State.refreshModule_outer, State.tileDeath_outer, State.failWelt_outer]

theorem State.loseDie_outer (s : State) (d : DieId) : (State.loseDie s d).outer = s.outer := by
  unfold State.loseDie
  repeat' first
    | with_reducible assumption
    | (extract_lets +onlyGivenNames x
       refine (fun (hx : State.outer x = State.outer s) => ?_) ?_
       on_goal 1 => clear_value x
       on_goal 2 => (dsimp -zeta only [x]; clear x))
    | split
    | (with_reducible refine foldl_outer' _ _ ?_ ?_
       on_goal 2 => intro s _)
    | (simp -zeta only [State.outer_mk, keepsOuter_next, keepsOuter_fault, State.modDie_outer, State.refreshModule_outer, State.tileDeath_outer, State.failWelt_outer])

theorem execDieRailLoss_outer (d : DieId) (s : State) : keepsOuter (execDieRailLoss d s) s := by
  unfold execDieRailLoss
  split <;> simp only [State.outer_mk, keepsOuter_next, State.loseDie_outer]

theorem State.modRouter_outer (s : State) (t : TileId) (f : Router → Router) : (State.modRouter s t f).outer = s.outer := by
  rfl

theorem State.replacePacket_outer (s : State) (t : TileId) (p q : Packet) : (State.replacePacket s t p q).outer = s.outer := by
  rfl

theorem State.modAsked_outer (s : State) (t : TileId) (flow : Nat) (gen : BitVec 8) (hit : Asked → Bool) (f : Transfer → Transfer) : (State.modAsked s t flow gen hit f).outer = s.outer := by
  unfold State.modAsked
  repeat' first
    | (extract_lets +onlyGivenNames x
       clear_value x)
    | (simp -zeta only [State.outer_mk, keepsOuter_next, keepsOuter_fault, State.modTile_outer]; done)
    | split
    | (simp -zeta only [*, State.outer_mk, keepsOuter_next, State.modTile_outer]; done)

theorem State.modTransfer_outer (s : State) (p : Packet) (f : Transfer → Transfer) : (State.modTransfer s p f).outer = s.outer := by
  unfold State.modTransfer
  repeat' first
    | (extract_lets +onlyGivenNames x
       refine (fun (hx : State.outer x = State.outer s) => ?_) ?_
       on_goal 1 => clear_value x
       on_goal 2 => (dsimp -zeta only [x]; clear x))
    | (simp -zeta only [State.outer_mk, keepsOuter_next, keepsOuter_fault, State.modAsked_outer]; done)
    | split
    | (simp -zeta only [*, State.outer_mk, keepsOuter_next, State.modAsked_outer]; done)

theorem State.markSpill_outer (s : State) (p : Packet) : (State.markSpill s p).outer = s.outer := by
  simp only [State.markSpill, State.outer_mk, keepsOuter_next, State.modTransfer_outer]

theorem State.carryBack_outer (s : State) (l : LinkId) (p : Packet) : (State.carryBack s l p).outer = s.outer := by
  unfold State.carryBack
  repeat' first
    | (extract_lets +onlyGivenNames x
       refine (fun (hx : State.outer x = State.outer s) => ?_) ?_
       on_goal 1 => clear_value x
       on_goal 2 => (dsimp -zeta only [x]; clear x))
    | (extract_lets +onlyGivenNames x
       clear_value x)
    | (simp -zeta only [State.outer_mk, keepsOuter_next, keepsOuter_fault, State.modLink_outer, State.take_outer, State.sendBack_outer]; done)
    | split
    | (simp -zeta only [*, State.outer_mk, keepsOuter_next, State.modLink_outer, State.take_outer, State.sendBack_outer]; done)

theorem State.carry_outer (s : State) (p : Packet) : (State.carry s p).outer = s.outer := by
  unfold State.carry
  repeat' first
    | (extract_lets +onlyGivenNames x
       clear_value x)
    | (simp -zeta only [State.outer_mk, keepsOuter_next, keepsOuter_fault, State.modPort_outer, State.take_outer, State.carryBack_outer]; done)
    | split
    | (simp -zeta only [*, State.outer_mk, keepsOuter_next, State.modPort_outer, State.take_outer, State.carryBack_outer]; done)

theorem State.arriveDie_outer (s : State) (t : TileId) (ep : Nat) (e : BufEntry) : (State.arriveDie s t ep e).outer = s.outer := by
  unfold State.arriveDie
  repeat' first
    | (simp -zeta only [State.outer_mk, keepsOuter_next, keepsOuter_fault, State.take_outer, State.accept_outer, State.sequenceFault_outer, State.carry_outer]; done)
    | split
    | (simp -zeta only [*, State.outer_mk, keepsOuter_next, State.take_outer, State.accept_outer, State.sequenceFault_outer, State.carry_outer]; done)

theorem State.passFlit_outer (s : State) (t : TileId) (o : RPort) (e : BufEntry) : (State.passFlit s t o e).outer = s.outer := by
  unfold State.passFlit
  repeat' first
    | (extract_lets +onlyGivenNames x
       refine (fun (hx : State.outer x = State.outer s) => ?_) ?_
       on_goal 1 => clear_value x
       on_goal 2 => (dsimp -zeta only [x]; clear x))
    | (extract_lets +onlyGivenNames x
       clear_value x)
    | (simp -zeta only [State.outer_mk, keepsOuter_next, keepsOuter_fault, State.modTile_outer, State.take_outer, State.arriveDie_outer]; done)
    | split
    | (simp -zeta only [*, State.outer_mk, keepsOuter_next, State.modTile_outer, State.take_outer, State.arriveDie_outer]; done)

theorem State.slots_outer (t : TileId) (o : RPort) (n : Nat) (s : State) : (State.slots t o n s).outer = s.outer := by
  induction n generalizing s with
  | zero => rfl
  | succ n ih =>
    simp only [State.slots]
    repeat' first
      | rfl
      | split
      | (simp only [ih, State.passFlit_outer]; done)

theorem State.returnCredits_outer (s : State) (t : TileId) : (State.returnCredits s t).outer = s.outer := by
  unfold State.returnCredits
  repeat' first
    | (extract_lets +onlyGivenNames x
       clear_value x)
    | (simp -zeta only [State.outer_mk, keepsOuter_next, keepsOuter_fault, State.modRouter_outer]; done)
    | split
    | (with_reducible refine foldl_outer' _ _ ?_ ?_
       on_goal 2 => intro s _)
    | (simp -zeta only [*, State.outer_mk, keepsOuter_next, State.modRouter_outer]; done)

theorem State.feedFresh_outer (s : State) (t : TileId) (e : BufEntry) : (State.feedFresh s t e).outer = s.outer := by
  unfold State.feedFresh
  repeat' first
    | (extract_lets +onlyGivenNames x
       clear_value x)
    | (simp -zeta only [State.outer_mk, keepsOuter_next, keepsOuter_fault, State.modTile_outer, State.modRouter_outer]; done)
    | split
    | (simp -zeta only [*, State.outer_mk, keepsOuter_next, State.modTile_outer, State.modRouter_outer]; done)

theorem State.feedEntry_outer (s : State) (t : TileId) (e : BufEntry) : (State.feedEntry s t e).outer = s.outer := by
  unfold State.feedEntry
  repeat' first
    | (extract_lets +onlyGivenNames x
       clear_value x)
    | (simp -zeta only [State.outer_mk, keepsOuter_next, keepsOuter_fault, State.modTile_outer, State.feedFresh_outer]; done)
    | split
    | (simp -zeta only [*, State.outer_mk, keepsOuter_next, State.modTile_outer, State.feedFresh_outer]; done)

theorem State.guardEdge_outer (s : State) (t : TileId) : (State.guardEdge s t).outer = s.outer := by
  unfold State.guardEdge
  repeat' first
    | split
    | (with_reducible refine foldl_outer' _ _ ?_ ?_
       on_goal 2 => intro s _)
    | (simp only [State.outer_mk, keepsOuter_next, State.modTile_outer, State.take_outer, State.nack_outer])

theorem State.cycleTile_outer (s : State) (t : TileId) : (State.cycleTile s t).outer = s.outer := by
  unfold State.cycleTile
  repeat' first
    | (extract_lets +onlyGivenNames x
       refine (fun (hx : State.outer x = State.outer s) => ?_) ?_
       on_goal 1 => clear_value x
       on_goal 2 => (dsimp -zeta only [x]; clear x))
    | (extract_lets +onlyGivenNames x
       clear_value x)
    | (simp -zeta only [State.outer_mk, keepsOuter_next, keepsOuter_fault, State.modTile_outer, State.slots_outer, State.returnCredits_outer, State.feedEntry_outer, State.guardEdge_outer]; done)
    | split
    | (with_reducible refine foldl_outer' _ _ ?_ ?_
       on_goal 2 => intro s _)
    | (simp -zeta only [*, State.outer_mk, keepsOuter_next, State.modTile_outer, State.slots_outer, State.returnCredits_outer, State.feedEntry_outer, State.guardEdge_outer]; done)

theorem State.fabricCycle_outer (s : State) : (State.fabricCycle s).outer = s.outer := by
  unfold State.fabricCycle
  repeat' first
    | (simp -zeta only [State.outer_mk, keepsOuter_next, keepsOuter_fault, State.cycleTile_outer]; done)
    | (with_reducible refine foldl_outer' _ _ ?_ ?_
       on_goal 2 => intro s _)
    | (simp -zeta only [*, State.outer_mk, keepsOuter_next, State.cycleTile_outer]; done)

theorem State.spill_outer (s : State) (t : TileId) (e : BufEntry) : (State.spill s t e).outer = s.outer := by
  unfold State.spill
  repeat' first
    | (extract_lets +onlyGivenNames x
       refine (fun (hx : State.outer x = State.outer s) => ?_) ?_
       on_goal 1 => clear_value x
       on_goal 2 => (dsimp -zeta only [x]; clear x))
    | (extract_lets +onlyGivenNames x
       clear_value x)
    | (simp -zeta only [State.outer_mk, keepsOuter_next, keepsOuter_fault, State.modTile_outer, State.report_outer, State.send_outer, State.resetPartition_outer, State.modRouter_outer, State.markSpill_outer]; done)
    | split
    | (simp -zeta only [*, State.outer_mk, keepsOuter_next, State.modTile_outer, State.report_outer, State.send_outer, State.resetPartition_outer, State.modRouter_outer, State.markSpill_outer]; done)

theorem State.correct_outer (s : State) (t : TileId) (errors : List Nat) : (State.correct s t errors).outer = s.outer := by
  unfold State.correct
  repeat' first
    | (simp -zeta only [State.outer_mk, keepsOuter_next, keepsOuter_fault, State.flitCorrected_outer]; done)
    | (with_reducible refine foldl_outer' _ _ ?_ ?_
       on_goal 2 => intro s _)
    | (simp -zeta only [*, State.outer_mk, keepsOuter_next, State.flitCorrected_outer]; done)

theorem State.arriveHead_outer (s : State) (t : TileId) (port : RPort) (pool : Nat) (p : Packet) : (State.arriveHead s t port pool p).outer = s.outer := by
  unfold State.arriveHead
  repeat' first
    | (extract_lets +onlyGivenNames x
       clear_value x)
    | (simp -zeta only [State.outer_mk, keepsOuter_next, keepsOuter_fault, State.modTile_outer, State.modRouter_outer, State.feedFresh_outer]; done)
    | split
    | (simp -zeta only [*, State.outer_mk, keepsOuter_next, State.modTile_outer, State.modRouter_outer, State.feedFresh_outer]; done)

theorem State.routeHead_outer (s : State) (t : TileId) (e : BufEntry) : (State.routeHead s t e).outer = s.outer := by
  unfold State.routeHead
  repeat' first
    | (extract_lets +onlyGivenNames x
       refine (fun (hx : State.outer x = State.outer s) => ?_) ?_
       on_goal 1 => clear_value x
       on_goal 2 => (dsimp -zeta only [x]; clear x))
    | (extract_lets +onlyGivenNames x
       refine (fun (hx : ∀ y, State.outer (x y) = State.outer s) => ?_) ?_
       on_goal 1 => clear_value x
       on_goal 2 => (dsimp -zeta only [x]; clear x; intro _))
    | (extract_lets +onlyGivenNames x
       clear_value x)
    | (simp -zeta only [State.outer_mk, keepsOuter_next, keepsOuter_fault, State.modRouter_outer, State.replacePacket_outer]; done)
    | split
    | (simp -zeta only [*, State.outer_mk, keepsOuter_next, State.modRouter_outer, State.replacePacket_outer]; done)

theorem execHeadFlitRoute_outer (t : TileId) (port : RPort) (pool : BitVec 2) (p : Packet) (symbolErrors : List Nat) (s : State) : keepsOuter (execHeadFlitRoute t port pool p symbolErrors s) s := by
  unfold execHeadFlitRoute
  repeat' first
    | (extract_lets +onlyGivenNames x
       refine (fun (hx : State.outer x = State.outer s) => ?_) ?_
       on_goal 1 => clear_value x
       on_goal 2 => (dsimp -zeta only [x]; clear x))
    | (simp -zeta only [State.outer_mk, keepsOuter_next, keepsOuter_fault, State.modTile_outer, State.take_outer, State.headerFault_outer, State.flitUncorrectable_outer, State.seenAt_outer, State.spill_outer, State.correct_outer, State.arriveHead_outer, State.routeHead_outer]; done)
    | split
    | (simp -zeta only [*, State.outer_mk, keepsOuter_next, State.modTile_outer, State.take_outer, State.headerFault_outer, State.flitUncorrectable_outer, State.seenAt_outer, State.spill_outer, State.correct_outer, State.arriveHead_outer, State.routeHead_outer]; done)

theorem State.atLocal_outer (s : State) (t : TileId) (p : Packet) : (State.atLocal s t p).outer = s.outer := by
  unfold State.atLocal
  repeat' first
    | (simp -zeta only [State.outer_mk, keepsOuter_next, keepsOuter_fault, State.modRouter_outer]; done)
    | split
    | (simp -zeta only [*, State.outer_mk, keepsOuter_next, State.modRouter_outer]; done)

theorem execLocalPortHead_outer (t : TileId) (p : Packet) (symbolErrors : List Nat) (s : State) : keepsOuter (execLocalPortHead t p symbolErrors s) s := by
  unfold execLocalPortHead
  repeat' first
    | (extract_lets +onlyGivenNames x
       refine (fun (hx : State.outer x = State.outer s) => ?_) ?_
       on_goal 1 => clear_value x
       on_goal 2 => (dsimp -zeta only [x]; clear x))
    | (extract_lets +onlyGivenNames x
       refine (fun (hx : ∀ y, State.outer (x y) = State.outer y) => ?_) ?_
       on_goal 1 => clear_value x
       on_goal 2 => (dsimp -zeta only [x]; clear x; intro s))
    | (extract_lets +onlyGivenNames x
       clear_value x)
    | (simp -zeta only [State.outer_mk, keepsOuter_next, keepsOuter_fault, State.modTile_outer, State.take_outer, State.nack_outer, State.headerFault_outer, State.flitUncorrectable_outer, State.accept_outer, State.sequenceFault_outer, State.seenAt_outer, State.modRouter_outer, State.passFlit_outer, State.correct_outer, State.atLocal_outer]; done)
    | split
    | (simp -zeta only [*, State.outer_mk, keepsOuter_next, State.modTile_outer, State.take_outer, State.nack_outer, State.headerFault_outer, State.flitUncorrectable_outer, State.accept_outer, State.sequenceFault_outer, State.seenAt_outer, State.modRouter_outer, State.passFlit_outer, State.correct_outer, State.atLocal_outer]; done)

theorem execHistoryEntryExpiry_outer (dest src : BitVec 10) (flow : BitVec 6) (vc : VcId) (s : State) : keepsOuter (execHistoryEntryExpiry dest src flow vc s) s := by
  rfl

theorem execAgingWaitExpiry_outer (p : AgingPoint) (vc : VcId) (s : State) : keepsOuter (execAgingWaitExpiry p vc s) s := by
  unfold execAgingWaitExpiry
  repeat' first
    | with_reducible rfl
    | (extract_lets +onlyGivenNames x
       clear_value x)
    | (simp -zeta only [State.outer_mk, keepsOuter_next, keepsOuter_fault, State.modPort_outer, State.modRouter_outer]; done)
    | split

theorem execNeighbourSilent_outer (t : TileId) (port : RPort) (s : State) : keepsOuter (execNeighbourSilent t port s) s := by
  unfold execNeighbourSilent
  repeat' first
    | with_reducible assumption
    | (extract_lets +onlyGivenNames x
       refine (fun (hx : State.outer x = State.outer s) => ?_) ?_
       on_goal 1 => clear_value x
       on_goal 2 => (dsimp -zeta only [x]; clear x))
    | (extract_lets +onlyGivenNames x
       clear_value x)
    | split
    | (with_reducible refine foldl_outer' _ _ ?_ ?_
       on_goal 2 => intro s _)
    | (simp -zeta only [State.outer_mk, keepsOuter_next, State.modTile_outer, State.report_outer, State.refreshModule_outer, State.callRetry_outer, State.tileDeath_outer, State.failWelt_outer])

theorem execAlternateSetInForce_outer (s : State) : keepsOuter (execAlternateSetInForce s) s := by
  unfold execAlternateSetInForce
  repeat' first
    | with_reducible assumption
    | (extract_lets +onlyGivenNames x
       refine (fun (hx : State.outer x = State.outer s) => ?_) ?_
       on_goal 1 => clear_value x
       on_goal 2 => (dsimp -zeta only [x]; clear x))
    | (extract_lets +onlyGivenNames x
       clear_value x)
    | split
    | (with_reducible refine foldl_outer' _ _ ?_ ?_
       on_goal 2 => intro s _)
    | (simp -zeta only [State.outer_mk, keepsOuter_next, keepsOuter_fault, State.fenceTile_outer])

theorem execStuckOutput_outer (t : TileId) (port : RPort) (vc : VcId) (pool : BitVec 2) (s : State) : keepsOuter (execStuckOutput t port vc pool s) s := by
  unfold execStuckOutput
  repeat' first
    | with_reducible rfl
    | (extract_lets +onlyGivenNames x
       clear_value x)
    | (simp -zeta only [State.outer_mk, keepsOuter_next, keepsOuter_fault, State.modRouter_outer]; done)
    | split

theorem State.probeAt_outer (s : State) (origin : TileId) (p : Probe) (goes : Bool) (met : List Probe) : (State.probeAt s origin p goes met).outer = s.outer := by
  unfold State.probeAt
  repeat' first
    | (simp -zeta only [State.outer_mk, keepsOuter_next, keepsOuter_fault, State.modRouter_outer]; done)
    | (simp -zeta only [*, State.outer_mk, keepsOuter_next, State.modRouter_outer]; done)

theorem execStuckProbe_outer (site : ProbeSite) (origin : TileId) (s : State) : keepsOuter (execStuckProbe site origin s) s := by
  unfold execStuckProbe
  repeat' first
    | (extract_lets +onlyGivenNames x
       clear_value x)
    | (simp -zeta only [State.outer_mk, keepsOuter_next, keepsOuter_fault, State.probeAt_outer]; done)
    | split
    | (simp -zeta only [*, State.outer_mk, keepsOuter_next, State.probeAt_outer]; done)

theorem execProbeReturn_outer (t : TileId) (s : State) : keepsOuter (execProbeReturn t s) s := by
  unfold execProbeReturn
  split <;> simp only [State.outer_mk, keepsOuter_next, State.report_outer, State.sbEvent_outer, State.modRouter_outer]

theorem execSpillOrder_outer (t : TileId) (origin : TileId) (s : State) : keepsOuter (execSpillOrder t origin s) s := by
  unfold execSpillOrder
  repeat' first
    | with_reducible rfl
    | (extract_lets +onlyGivenNames x
       clear_value x)
    | (simp -zeta only [State.outer_mk, keepsOuter_next, keepsOuter_fault, State.spill_outer]; done)
    | split
    | (with_reducible refine foldl_outer' _ _ ?_ ?_
       on_goal 2 => intro s _)
    | (simp -zeta only [State.outer_mk, keepsOuter_next, keepsOuter_fault, State.spill_outer])

theorem execEscapeSpill_outer (slice : SliceId) (p : Packet) (s : State) : keepsOuter (execEscapeSpill slice p s) s := by
  unfold execEscapeSpill
  repeat' first
    | with_reducible rfl
    | (extract_lets +onlyGivenNames x
       refine (fun (hx : State.outer x = State.outer s) => ?_) ?_
       on_goal 1 => clear_value x
       on_goal 2 => (dsimp -zeta only [x]; clear x))
    | (extract_lets +onlyGivenNames x
       clear_value x)
    | (simp -zeta only [State.outer_mk, keepsOuter_next, keepsOuter_fault, State.take_outer]; done)
    | (simp -zeta only [State.outer_mk, keepsOuter_next, keepsOuter_fault, State.take_outer]; with_reducible assumption)
    | split

theorem State.readBack_outer (s : State) (z : Spilled) : (State.readBack s z).outer = s.outer := by
  unfold State.readBack
  repeat' first
    | (extract_lets +onlyGivenNames x
       refine (fun (hx : State.outer x = State.outer s) => ?_) ?_
       on_goal 1 => clear_value x
       on_goal 2 => (dsimp -zeta only [x]; clear x))
    | (extract_lets +onlyGivenNames x
       clear_value x)
    | (simp -zeta only [State.outer_mk, keepsOuter_next, keepsOuter_fault, State.send_outer, State.take_outer, State.accept_outer]; done)
    | split
    | (simp -zeta only [*, State.outer_mk, keepsOuter_next, State.send_outer, State.take_outer, State.accept_outer]; done)

theorem State.fillReinjection_outer (s : State) (t : TileId) : (State.fillReinjection s t).outer = s.outer := by
  unfold State.fillReinjection
  repeat' first
    | (simp -zeta only [State.outer_mk, keepsOuter_next, keepsOuter_fault, State.readBack_outer]; done)
    | split
    | (with_reducible refine foldl_fst_outer _ _ ?_ ?_
       on_goal 2 => intro s _)
    | (simp -zeta only [*, State.outer_mk, keepsOuter_next, State.readBack_outer]; done)

theorem State.reinject_outer (s : State) (z : Spilled) : (State.reinject s z).outer = s.outer := by
  unfold State.reinject
  repeat' first
    | (extract_lets +onlyGivenNames x
       refine (fun (hx : State.outer x = State.outer s) => ?_) ?_
       on_goal 1 => clear_value x
       on_goal 2 => (dsimp -zeta only [x]; clear x))
    | (extract_lets +onlyGivenNames x
       clear_value x)
    | (simp -zeta only [State.outer_mk, keepsOuter_next, keepsOuter_fault, State.modRouter_outer, State.feedEntry_outer]; done)
    | split
    | (simp -zeta only [*, State.outer_mk, keepsOuter_next, State.modRouter_outer, State.feedEntry_outer]; done)

theorem execReinjection_outer (t : TileId) (s : State) : keepsOuter (execReinjection t s) s := by
  unfold execReinjection
  repeat' first
    | with_reducible assumption
    | (extract_lets +onlyGivenNames x
       refine (fun (hx : State.outer x = State.outer s) => ?_) ?_
       on_goal 1 => clear_value x
       on_goal 2 => (dsimp -zeta only [x]; clear x))
    | (extract_lets +onlyGivenNames x
       clear_value x)
    | split
    | (with_reducible refine foldl_fst_outer _ _ ?_ ?_
       on_goal 2 => intro s _)
    | (simp -zeta only [State.outer_mk, keepsOuter_next, State.fillReinjection_outer, State.reinject_outer])

theorem State.pumpPort_outer (s : State) (p : PortId) : (State.pumpPort s p).outer = s.outer := by
  rfl

theorem State.replayPort_outer (s : State) (p : PortId) : (State.replayPort s p).outer = s.outer := by
  unfold State.replayPort
  repeat' first
    | (extract_lets +onlyGivenNames x
       refine (fun (hx : State.outer x = State.outer s) => ?_) ?_
       on_goal 1 => clear_value x
       on_goal 2 => (dsimp -zeta only [x]; clear x))
    | (extract_lets +onlyGivenNames x
       clear_value x)
    | (simp -zeta only [State.outer_mk, keepsOuter_next, keepsOuter_fault, State.modPort_outer, State.modTransfer_outer]; done)
    | split
    | (with_reducible refine foldl_outer' _ _ ?_ ?_
       on_goal 2 => intro s _)
    | (simp -zeta only [*, State.outer_mk, keepsOuter_next, State.modPort_outer, State.modTransfer_outer]; done)

theorem execNakReceive_outer (p : PortId) (ack : BitVec 16) (s : State) : keepsOuter (execNakReceive p ack s) s := by
  unfold execNakReceive
  split <;> simp only [State.outer_mk, keepsOuter_next, State.modPort_outer, State.pumpPort_outer, State.replayPort_outer]

theorem execReplayTimeout_outer (p : PortId) (s : State) : keepsOuter (execReplayTimeout p s) s := by
  unfold execReplayTimeout
  split <;> simp only [State.outer_mk, keepsOuter_next, State.replayPort_outer]

theorem State.losePort_outer (s : State) (p : PortId) (trigger : Nat) : (State.losePort s p trigger).outer = s.outer := by
  unfold State.losePort
  repeat' first
    | with_reducible rfl
    | (extract_lets +onlyGivenNames x
       refine (fun (hx : State.outer x = State.outer s) => ?_) ?_
       on_goal 1 => clear_value x
       on_goal 2 => (dsimp -zeta only [x]; clear x))
    | (extract_lets +onlyGivenNames x
       refine (fun (hx : ∀ y z w, State.outer (x y z w) = State.outer y) => ?_) ?_
       on_goal 1 => clear_value x
       on_goal 2 => (dsimp -zeta only [x]; clear x; intro s _ _))
    | (extract_lets +onlyGivenNames x
       clear_value x)
    | (simp -zeta only [State.outer_mk, keepsOuter_next, keepsOuter_fault, State.modPort_outer, State.report_outer, State.resetPartition_outer, State.callRetry_outer, State.assignCuts_outer, State.sendPortTable_outer]; done)
    | (split <;>
       (rename_i heq
        have hx := congrArg (fun p : State × _ => State.outer p.1) heq.symm
        simp -zeta only [State.modPort_outer, State.report_outer, State.resetPartition_outer, State.callRetry_outer, State.assignCuts_outer, State.sendPortTable_outer] at hx))
    | split
    | (simp -zeta only [*, State.outer_mk, keepsOuter_next, keepsOuter_fault, State.modPort_outer, State.report_outer, State.resetPartition_outer, State.callRetry_outer, State.assignCuts_outer, State.sendPortTable_outer]; done)

theorem State.dropPort_outer (s : State) (p : PortId) (trigger : Nat) : (State.dropPort s p trigger).outer = s.outer := by
  unfold State.dropPort
  split <;> simp only [State.outer_mk, keepsOuter_next, State.modPort_outer, State.losePort_outer]

theorem State.failLink_outer (s : State) (l : LinkId) : (State.failLink s l).outer = s.outer := by
  unfold State.failLink
  repeat' first
    | with_reducible assumption
    | (extract_lets +onlyGivenNames x
       refine (fun (hx : State.outer x = State.outer s) => ?_) ?_
       on_goal 1 => clear_value x
       on_goal 2 => (dsimp -zeta only [x]; clear x))
    | (simp -zeta only [State.outer_mk, keepsOuter_next, keepsOuter_fault, State.modLink_outer, State.report_outer, State.refreshModule_outer, State.dropPort_outer]; done)
    | (simp -zeta only [State.outer_mk, keepsOuter_next, keepsOuter_fault, State.modLink_outer, State.report_outer, State.refreshModule_outer, State.dropPort_outer]; with_reducible assumption)
    | split
    | (with_reducible refine foldl_outer' _ _ ?_ ?_
       on_goal 2 => intro s _)

theorem execDownTimeout_outer (p : PortId) (s : State) : keepsOuter (execDownTimeout p s) s := by
  unfold execDownTimeout
  split <;> simp only [State.outer_mk, keepsOuter_next, State.losePort_outer]

theorem execLaneSignalLoss_outer (p : PortId) (s : State) : keepsOuter (execLaneSignalLoss p s) s := by
  simp only [execLaneSignalLoss, State.outer_mk, keepsOuter_next, State.dropPort_outer]

theorem execViletDrainLimit_outer (p : PortId) (s : State) : keepsOuter (execViletDrainLimit p s) s := by
  unfold execViletDrainLimit
  split <;> simp only [State.outer_mk, keepsOuter_next, State.modPort_outer, State.losePort_outer]

theorem execVauxOvercurrent_outer (p : PortId) (s : State) : keepsOuter (execVauxOvercurrent p s) s := by
  unfold execVauxOvercurrent
  split <;> simp only [State.outer_mk, keepsOuter_next, State.modPort_outer, State.dropPort_outer]

theorem execCablePresence_outer (p : PortId) (present : Bool) (identity : List Byte) (s : State) : keepsOuter (execCablePresence p present identity s) s := by
  unfold execCablePresence
  repeat' first
    | with_reducible rfl
    | (extract_lets +onlyGivenNames x
       clear_value x)
    | (simp -zeta only [State.outer_mk, keepsOuter_next, keepsOuter_fault, State.modPort_outer, State.dropPort_outer]; done)
    | split

theorem execTrainingAttempt_outer (p : PortId) (r : TrainingResult) (s : State) : keepsOuter (execTrainingAttempt p r s) s := by
  unfold execTrainingAttempt
  repeat' first
    | (extract_lets +onlyGivenNames x
       refine (fun (hx : State.outer x = State.outer s) => ?_) ?_
       on_goal 1 => clear_value x
       on_goal 2 => (dsimp -zeta only [x]; clear x))
    | (extract_lets +onlyGivenNames x
       clear_value x)
    | (simp -zeta only [State.outer_mk, keepsOuter_next, keepsOuter_fault, State.modPort_outer, State.pumpPort_outer]; done)
    | split
    | (simp -zeta only [*, State.outer_mk, keepsOuter_next, State.modPort_outer, State.pumpPort_outer]; done)

theorem execTrainingRetryTimer_outer (p : PortId) (s : State) : keepsOuter (execTrainingRetryTimer p s) s := by
  unfold execTrainingRetryTimer
  repeat' first
    | with_reducible rfl
    | (extract_lets +onlyGivenNames x
       clear_value x)
    | (simp -zeta only [State.outer_mk, keepsOuter_next, keepsOuter_fault, State.modPort_outer]; done)
    | split

theorem execPortEnable_outer (p : PortId) (s : State) : keepsOuter (execPortEnable p s) s := by
  unfold execPortEnable
  split <;> simp only [State.outer_mk, keepsOuter_next, State.modPort_outer]

theorem execPortDisable_outer (p : PortId) (s : State) : keepsOuter (execPortDisable p s) s := by
  rfl

theorem State.beginRetrain_outer (s : State) (p : PortId) (notice : Option Nat) : (State.beginRetrain s p notice).outer = s.outer := by
  rfl

theorem State.relock_outer (s : State) (p : PortId) (passing : BitVec 16) : (State.relock s p passing).outer = s.outer := by
  unfold State.relock
  repeat' first
    | with_reducible assumption
    | (extract_lets +onlyGivenNames x
       refine (fun (hx : State.outer x = State.outer s) => ?_) ?_
       on_goal 1 => clear_value x
       on_goal 2 => (dsimp -zeta only [x]; clear x))
    | (extract_lets +onlyGivenNames x
       clear_value x)
    | (simp -zeta only [State.outer_mk, keepsOuter_next, keepsOuter_fault, State.modPort_outer, State.sbEvent_outer, State.sendPortTable_outer, State.pumpPort_outer, State.replayPort_outer]; done)
    | (simp -zeta only [State.outer_mk, keepsOuter_next, keepsOuter_fault, State.modPort_outer, State.sbEvent_outer, State.sendPortTable_outer, State.pumpPort_outer, State.replayPort_outer]; with_reducible assumption)
    | split

theorem execRetrain_outer (p : PortId) (cause : RetrainCause) (passing : BitVec 16) (s : State) : keepsOuter (execRetrain p cause passing s) s := by
  unfold execRetrain
  extract_lets x due notice
  split
  · simp only [keepsOuter_next, State.relock_outer]
  · split
    · simp only [keepsOuter_next, State.relock_outer, State.beginRetrain_outer]
    · rfl

theorem execRetrainNotice_outer (p : PortId) (trigger : BitVec 8) (s : State) : keepsOuter (execRetrainNotice p trigger s) s := by
  unfold execRetrainNotice
  split <;> simp only [State.outer_mk, keepsOuter_next, State.beginRetrain_outer]

theorem execPortRetrain_outer (p : PortId) (passing : BitVec 16) (s : State) : keepsOuter (execPortRetrain p passing s) s := by
  unfold execPortRetrain
  repeat' first
    | with_reducible rfl
    | (extract_lets +onlyGivenNames x
       clear_value x)
    | (simp -zeta only [State.outer_mk, keepsOuter_next, keepsOuter_fault, State.beginRetrain_outer, State.relock_outer]; done)
    | split

theorem execIdentity_outer (p : PortId) (fields : List Byte) (s : State) : keepsOuter (execIdentity p fields s) s := by
  unfold execIdentity
  repeat' first
    | (simp -zeta only [State.outer_mk, keepsOuter_next, keepsOuter_fault, State.modPort_outer, State.take_outer, State.pumpPort_outer]; done)
    | split
    | (simp -zeta only [*, State.outer_mk, keepsOuter_next, State.modPort_outer, State.take_outer, State.pumpPort_outer]; done)

theorem execDrainRequest_outer (p : PortId) (s : State) : keepsOuter (execDrainRequest p s) s := by
  unfold execDrainRequest
  split <;> simp only [State.outer_mk, keepsOuter_next, State.modPort_outer]

theorem execDrainDone_outer (p : PortId) (s : State) : keepsOuter (execDrainDone p s) s := by
  unfold execDrainDone
  split <;> simp only [State.outer_mk, keepsOuter_next, State.modPort_outer]

theorem execProbe_outer (p : PortId) (stamp : Word64) (s : State) : keepsOuter (execProbe p stamp s) s := by
  unfold execProbe
  split <;> simp only [State.outer_mk, keepsOuter_next, State.modPort_outer, State.pumpPort_outer]

theorem execEcho_outer (p : PortId) (stamp : Word64) (s : State) : keepsOuter (execEcho p stamp s) s := by
  unfold execEcho
  split <;> simp only [State.outer_mk, keepsOuter_next, State.modPort_outer]

theorem State.portHeaderFault_outer (s : State) (p : PortId) : (State.portHeaderFault s p).outer = s.outer := by
  unfold State.portHeaderFault
  repeat' first
    | with_reducible assumption
    | (extract_lets +onlyGivenNames x
       refine (fun (hx : State.outer x = State.outer s) => ?_) ?_
       on_goal 1 => clear_value x
       on_goal 2 => (dsimp -zeta only [x]; clear x))
    | (extract_lets +onlyGivenNames x
       clear_value x)
    | (simp -zeta only [State.outer_mk, keepsOuter_next, keepsOuter_fault, State.report_outer, State.callRetry_outer]; done)
    | (simp -zeta only [State.outer_mk, keepsOuter_next, keepsOuter_fault, State.report_outer, State.callRetry_outer]; with_reducible assumption)
    | split

theorem State.takeAsk_outer (s : State) (p : PortId) (n : PartId) (k : Packet) (hops : Nat) : (State.takeAsk s p n k hops).outer = s.outer := by
  unfold State.takeAsk
  repeat' first
    | (extract_lets +onlyGivenNames x
       refine (fun (hx : ∀ y z, State.outer (x y z) = State.outer y) => ?_) ?_
       on_goal 1 => clear_value x
       on_goal 2 => (dsimp -zeta only [x]; clear x; intro s _))
    | (extract_lets +onlyGivenNames x
       clear_value x)
    | (simp -zeta only [State.outer_mk, keepsOuter_next, keepsOuter_fault, State.modLink_outer, State.send_outer, State.take_outer]; done)
    | split
    | (simp -zeta only [*, State.outer_mk, keepsOuter_next, State.modLink_outer, State.send_outer, State.take_outer]; done)

theorem State.deliverVilet_outer (s : State) (p : PortId) (bs : List Byte) (hops : Nat) : (State.deliverVilet s p bs hops).outer = s.outer := by
  unfold State.deliverVilet
  repeat' first
    | (extract_lets +onlyGivenNames x
       clear_value x)
    | (simp -zeta only [State.outer_mk, keepsOuter_next, keepsOuter_fault, State.modPort_outer, State.send_outer, State.take_outer, State.portHeaderFault_outer, State.takeAsk_outer]; done)
    | split
    | (simp -zeta only [*, State.outer_mk, keepsOuter_next, State.modPort_outer, State.send_outer, State.take_outer, State.portHeaderFault_outer, State.takeAsk_outer]; done)

theorem State.takeFlit_outer (s : State) (p : PortId) (f : ViletFlit) : (State.takeFlit s p f).outer = s.outer := by
  unfold State.takeFlit
  repeat' first
    | with_reducible assumption
    | (extract_lets +onlyGivenNames x
       refine (fun (hx : State.outer x = State.outer s) => ?_) ?_
       on_goal 1 => clear_value x
       on_goal 2 => (dsimp -zeta only [x]; clear x))
    | (extract_lets +onlyGivenNames x
       clear_value x)
    | (simp -zeta only [State.outer_mk, keepsOuter_next, keepsOuter_fault, State.modPort_outer, State.take_outer, State.pumpPort_outer, State.portHeaderFault_outer, State.deliverVilet_outer]; done)
    | (simp -zeta only [State.outer_mk, keepsOuter_next, keepsOuter_fault, State.modPort_outer, State.take_outer, State.pumpPort_outer, State.portHeaderFault_outer, State.deliverVilet_outer]; with_reducible assumption)
    | split

theorem execViletFlitReceive_outer (p : PortId) (f : ViletFlit) (s : State) : keepsOuter (execViletFlitReceive p f s) s := by
  unfold execViletFlitReceive
  repeat' first
    | with_reducible rfl
    | (extract_lets +onlyGivenNames x
       refine (fun (hx : State.outer x = State.outer s) => ?_) ?_
       on_goal 1 => clear_value x
       on_goal 2 => (dsimp -zeta only [x]; clear x))
    | (extract_lets +onlyGivenNames x
       refine (fun (hx : ∀ y, State.outer (x y) = State.outer y) => ?_) ?_
       on_goal 1 => clear_value x
       on_goal 2 => (dsimp -zeta only [x]; clear x; intro s))
    | (extract_lets +onlyGivenNames x
       clear_value x)
    | (simp -zeta only [State.outer_mk, keepsOuter_next, keepsOuter_fault, State.modPort_outer, State.pumpPort_outer, State.takeFlit_outer]; done)
    | split
    | (simp -zeta only [*, State.outer_mk, keepsOuter_next, keepsOuter_fault, State.modPort_outer, State.pumpPort_outer, State.takeFlit_outer]; done)

theorem execNakRepeatTimeout_outer (p : PortId) (s : State) : keepsOuter (execNakRepeatTimeout p s) s := by
  unfold execNakRepeatTimeout
  repeat' first
    | with_reducible rfl
    | (extract_lets +onlyGivenNames x
       clear_value x)
    | (simp -zeta only [State.outer_mk, keepsOuter_next, keepsOuter_fault, State.modPort_outer, State.pumpPort_outer]; done)
    | split

theorem execLaneErrorRatioAlarm_outer (p : PortId) (lane : Fin 16) (ratio : Word32) (s : State) : keepsOuter (execLaneErrorRatioAlarm p lane ratio s) s := by
  unfold execLaneErrorRatioAlarm
  repeat' first
    | with_reducible rfl
    | (extract_lets +onlyGivenNames x
       refine (fun (hx : State.outer x = State.outer s) => ?_) ?_
       on_goal 1 => clear_value x
       on_goal 2 => (dsimp -zeta only [x]; clear x))
    | (simp -zeta only [State.outer_mk, keepsOuter_next, keepsOuter_fault, State.modPort_outer, State.report_outer]; done)
    | (simp -zeta only [State.outer_mk, keepsOuter_next, keepsOuter_fault, State.modPort_outer, State.report_outer]; with_reducible assumption)
    | split

theorem execPortTable_outer (n : PartId) (member : BitVec 16) (table : List Byte) (s : State) : keepsOuter (execPortTable n member table s) s := by
  unfold execPortTable
  repeat' first
    | with_reducible rfl
    | (extract_lets +onlyGivenNames x
       clear_value x)
    | (simp -zeta only [State.outer_mk, keepsOuter_next, keepsOuter_fault, State.resetPartition_outer, State.takeTable_outer]; done)
    | (simp -zeta only [State.outer_mk, keepsOuter_next, keepsOuter_fault, State.resetPartition_outer, State.takeTable_outer]; with_reducible assumption)
    | (split <;>
       (rename_i heq
        have hx := congrArg (fun p : State × _ => State.outer p.1) heq.symm
        simp -zeta only [State.resetPartition_outer, State.takeTable_outer] at hx))
    | split

theorem execPortMatchConfirm_outer (p : PortId) (matched : Bool) (s : State) : keepsOuter (execPortMatchConfirm p matched s) s := by
  unfold execPortMatchConfirm
  repeat' first
    | (extract_lets +onlyGivenNames x
       refine (fun (hx : State.outer x = State.outer s) => ?_) ?_
       on_goal 1 => clear_value x
       on_goal 2 => (dsimp -zeta only [x]; clear x))
    | (simp -zeta only [State.outer_mk, keepsOuter_next, keepsOuter_fault, State.modPort_outer, State.modPart_outer, State.resetPartition_outer, State.takeTable_outer]; done)
    | (split <;>
       (rename_i heq
        have hx := congrArg (fun p : State × _ => State.outer p.1) heq.symm
        simp -zeta only [State.modPort_outer, State.modPart_outer, State.resetPartition_outer, State.takeTable_outer] at hx))
    | split
    | (simp -zeta only [*, State.outer_mk, keepsOuter_next, State.modPort_outer, State.modPart_outer, State.resetPartition_outer, State.takeTable_outer]; done)

theorem State.rebindStatus_outer (s : State) (code : Nat) : (State.rebindStatus s code).outer = s.outer := by
  rfl

theorem State.partChanged_outer (s : State) (n : PartId) : (State.partChanged s n).outer = s.outer := by
  simp only [State.partChanged, State.outer_mk, keepsOuter_next, State.statusChanged_outer, State.refreshModule_outer, State.designate_outer]

theorem State.releasePort_outer (s : State) (p : PortId) : (State.releasePort s p).outer = s.outer := by
  rfl

theorem State.confirmPort_outer (s : State) (n : PartId) (q : PortId) : (State.confirmPort s n q).outer = s.outer := by
  unfold State.confirmPort
  repeat' first
    | (extract_lets +onlyGivenNames x
       refine (fun (hx : State.outer x = State.outer s) => ?_) ?_
       on_goal 1 => clear_value x
       on_goal 2 => (dsimp -zeta only [x]; clear x))
    | (extract_lets +onlyGivenNames x
       clear_value x)
    | (simp -zeta only [State.outer_mk, keepsOuter_next, keepsOuter_fault, State.modPort_outer, State.take_outer]; done)
    | split
    | (simp -zeta only [*, State.outer_mk, keepsOuter_next, State.modPort_outer, State.take_outer]; done)

theorem State.recordRebind_outer (s : State) (n : PartId) (slice : Bool) (before after : Option Nat) : (State.recordRebind s n slice before after).outer = s.outer := by
  unfold State.recordRebind
  repeat' first
    | (simp -zeta only [State.outer_mk, keepsOuter_next, keepsOuter_fault, State.sbEvent_outer]; done)
    | (simp -zeta only [*, State.outer_mk, keepsOuter_next, State.sbEvent_outer]; done)

theorem State.recordGranules_outer (s : State) (n : PartId) (ts : List TileId) (cs : List SliceId) (enters : Bool) : (State.recordGranules s n ts cs enters).outer = s.outer := by
  unfold State.recordGranules
  repeat' first
    | (simp -zeta only [State.outer_mk, keepsOuter_next, keepsOuter_fault, State.recordRebind_outer]; done)
    | split
    | (with_reducible refine foldl_outer' _ _ ?_ ?_
       on_goal 2 => intro s _)
    | (simp -zeta only [*, State.outer_mk, keepsOuter_next, State.recordRebind_outer]; done)

theorem State.addGranules_outer (s : State) (q : Rebind) (ts : List TileId) : (State.addGranules s q ts).outer = s.outer := by
  unfold State.addGranules
  repeat' first
    | (extract_lets +onlyGivenNames x
       refine (fun (hx : State.outer x = State.outer s) => ?_) ?_
       on_goal 1 => clear_value x
       on_goal 2 => (dsimp -zeta only [x]; clear x))
    | (extract_lets +onlyGivenNames x
       clear_value x)
    | (simp -zeta only [State.outer_mk, keepsOuter_next, keepsOuter_fault, State.modPart_outer, State.take_outer, State.refreshModule_outer, State.designate_outer, State.partChanged_outer, State.confirmPort_outer, State.recordGranules_outer]; done)
    | split
    | (with_reducible refine foldl_outer' _ _ ?_ ?_
       on_goal 2 => intro s _)
    | (simp -zeta only [*, State.outer_mk, keepsOuter_next, State.modPart_outer, State.take_outer, State.refreshModule_outer, State.designate_outer, State.partChanged_outer, State.confirmPort_outer, State.recordGranules_outer]; done)

theorem State.beginAdd_outer (s : State) (q : Rebind) (ws : List Word64) : (State.beginAdd s q ws).outer = s.outer := by
  unfold State.beginAdd
  repeat' first
    | (simp -zeta only [State.outer_mk, keepsOuter_next, keepsOuter_fault, State.take_outer, State.requestCore_outer, State.rebindStatus_outer]; done)
    | (with_reducible refine foldl_outer' _ _ ?_ ?_
       on_goal 2 => intro s _)
    | (simp -zeta only [*, State.outer_mk, keepsOuter_next, State.take_outer, State.requestCore_outer, State.rebindStatus_outer]; done)

theorem State.progressAdd_outer (s : State) (q : Rebind) (v : RebindService) : (State.progressAdd s q v).outer = s.outer := by
  unfold State.progressAdd
  repeat' first
    | with_reducible assumption
    | (extract_lets +onlyGivenNames x
       refine (fun (hx : State.outer x = State.outer s) => ?_) ?_
       on_goal 1 => clear_value x
       on_goal 2 => (dsimp -zeta only [x]; clear x))
    | (extract_lets +onlyGivenNames x
       clear_value x)
    | split
    | (with_reducible refine foldl_outer' _ _ ?_ ?_
       on_goal 2 => intro s _)
    | (simp -zeta only [State.outer_mk, keepsOuter_next, State.take_outer, State.requestCore_outer, State.refreshModule_outer, State.designate_outer, State.rebindStatus_outer, State.addGranules_outer])

theorem State.freeFn_outer (s : State) (f : FuncId) : (State.freeFn s f).outer = s.outer := by
  rfl

theorem State.serving_outer (s : State) (ws : List Word64) (ts : List TileId) : (State.serving s ws ts).outer = s.outer := by
  unfold State.serving
  repeat' first
    | (simp -zeta only [State.outer_mk, keepsOuter_next, keepsOuter_fault, State.rebindStatus_outer]; done)
    | (simp -zeta only [*, State.outer_mk, keepsOuter_next, State.rebindStatus_outer]; done)

theorem State.beginRemove_outer (s : State) (q : Rebind) (ws : List Word64) : (State.beginRemove s q ws).outer = s.outer := by
  unfold State.beginRemove
  repeat' first
    | with_reducible assumption
    | (extract_lets +onlyGivenNames x
       refine (fun (hx : State.outer x = State.outer s) => ?_) ?_
       on_goal 1 => clear_value x
       on_goal 2 => (dsimp -zeta only [x]; clear x))
    | (extract_lets +onlyGivenNames x
       clear_value x)
    | split
    | (with_reducible refine foldl_outer' _ _ ?_ ?_
       on_goal 2 => intro s _)
    | (simp -zeta only [State.outer_mk, keepsOuter_next, State.modPart_outer, State.take_outer, State.refreshModule_outer, State.advance_outer, State.leaveTile_outer, State.designate_outer, State.releasePort_outer, State.recordGranules_outer, State.freeFn_outer, State.serving_outer])

theorem State.emptyPartition_outer (s : State) (n : PartId) : (State.emptyPartition s n).outer = s.outer := by
  unfold State.emptyPartition
  repeat' first
    | (simp -zeta only [State.outer_mk, keepsOuter_next, keepsOuter_fault, State.modPart_outer, State.statusChanged_outer, State.advance_outer, State.resetPartition_outer, State.releasePort_outer, State.freeFn_outer]; done)
    | split
    | (with_reducible refine foldl_outer' _ _ ?_ ?_
       on_goal 2 => intro s _)
    | (simp -zeta only [*, State.outer_mk, keepsOuter_next, State.modPart_outer, State.statusChanged_outer, State.advance_outer, State.resetPartition_outer, State.releasePort_outer, State.freeFn_outer]; done)

theorem State.dissolve_outer (s : State) (n : PartId) : (State.dissolve s n).outer = s.outer := by
  unfold State.dissolve
  repeat' first
    | with_reducible assumption
    | (extract_lets +onlyGivenNames x
       refine (fun (hx : State.outer x = State.outer s) => ?_) ?_
       on_goal 1 => clear_value x
       on_goal 2 => (dsimp -zeta only [x]; clear x))
    | (extract_lets +onlyGivenNames x
       clear_value x)
    | (with_reducible refine foldl_outer' _ _ ?_ ?_
       on_goal 2 => intro s _)
    | (simp -zeta only [State.outer_mk, keepsOuter_next, State.modTile_outer, State.modPart_outer, State.refreshModule_outer, State.designate_outer, State.emptyPartition_outer])

theorem State.beginDissolve_outer (s : State) (q : Rebind) (ws : List Word64) : (State.beginDissolve s q ws).outer = s.outer := by
  unfold State.beginDissolve
  repeat' first
    | with_reducible assumption
    | (extract_lets +onlyGivenNames x
       refine (fun (hx : State.outer x = State.outer s) => ?_) ?_
       on_goal 1 => clear_value x
       on_goal 2 => (dsimp -zeta only [x]; clear x))
    | (extract_lets +onlyGivenNames x
       clear_value x)
    | (with_reducible refine foldl_outer' _ _ ?_ ?_
       on_goal 2 => intro s _)
    | (simp -zeta only [State.outer_mk, keepsOuter_next, State.refreshModule_outer, State.leaveTile_outer, State.designate_outer, State.serving_outer, State.emptyPartition_outer])

theorem State.progressLeave_outer (s : State) (q : Rebind) (v : RebindService) : (State.progressLeave s q v).outer = s.outer := by
  unfold State.progressLeave
  repeat' first
    | (extract_lets +onlyGivenNames x
       refine (fun (hx : State.outer x = State.outer s) => ?_) ?_
       on_goal 1 => clear_value x
       on_goal 2 => (dsimp -zeta only [x]; clear x))
    | (simp -zeta only [State.outer_mk, keepsOuter_next, keepsOuter_fault, State.modPart_outer, State.refreshModule_outer, State.designate_outer, State.rebindStatus_outer]; done)
    | split
    | (simp -zeta only [*, State.outer_mk, keepsOuter_next, State.modPart_outer, State.refreshModule_outer, State.designate_outer, State.rebindStatus_outer]; done)

theorem State.beginRebind_outer (s : State) (q : Rebind) (ws : List Word64) : (State.beginRebind s q ws).outer = s.outer := by
  unfold State.beginRebind
  repeat' first
    | (simp -zeta only [State.outer_mk, keepsOuter_next, keepsOuter_fault, State.beginAdd_outer, State.beginRemove_outer, State.beginDissolve_outer]; done)
    | split
    | (simp -zeta only [*, State.outer_mk, keepsOuter_next, State.beginAdd_outer, State.beginRemove_outer, State.beginDissolve_outer]; done)

theorem State.progressRebind_outer (s : State) : (State.progressRebind s).outer = s.outer := by
  unfold State.progressRebind
  repeat' first
    | (extract_lets +onlyGivenNames x
       clear_value x)
    | (simp -zeta only [State.outer_mk, keepsOuter_next, keepsOuter_fault, State.progressAdd_outer, State.progressLeave_outer]; done)
    | split
    | (simp -zeta only [*, State.outer_mk, keepsOuter_next, State.progressAdd_outer, State.progressLeave_outer]; done)

theorem State.serveOne_outer (s : State) : (State.serveOne s).outer = s.outer := by
  unfold State.serveOne
  repeat' first
    | (extract_lets +onlyGivenNames x
       refine (fun (hx : State.outer x = State.outer s) => ?_) ?_
       on_goal 1 => clear_value x
       on_goal 2 => (dsimp -zeta only [x]; clear x))
    | (extract_lets +onlyGivenNames x
       clear_value x)
    | (simp -zeta only [State.outer_mk, keepsOuter_next, keepsOuter_fault, State.rebindStatus_outer, State.beginRebind_outer, State.progressRebind_outer]; done)
    | split
    | (simp -zeta only [*, State.outer_mk, keepsOuter_next, State.rebindStatus_outer, State.beginRebind_outer, State.progressRebind_outer]; done)

theorem State.serveRebinds_outer (s : State) : (State.serveRebinds s).outer = s.outer := by
  unfold State.serveRebinds
  repeat' first
    | (simp -zeta only [State.outer_mk, keepsOuter_next, keepsOuter_fault, State.progressRebind_outer, State.serveOne_outer]; done)
    | (with_reducible refine foldl_outer' _ _ ?_ ?_
       on_goal 2 => intro s _)
    | (simp -zeta only [*, State.outer_mk, keepsOuter_next, State.progressRebind_outer, State.serveOne_outer]; done)

theorem State.submitRebind_outer (s : State) (op : Nat) (ws : List Word64) : (State.submitRebind s op ws).outer = s.outer := by
  unfold State.submitRebind
  repeat' first
    | (extract_lets +onlyGivenNames x
       clear_value x)
    | (simp -zeta only [State.outer_mk, keepsOuter_next, keepsOuter_fault, State.serveRebinds_outer]; done)
    | split
    | (simp -zeta only [*, State.outer_mk, keepsOuter_next, State.serveRebinds_outer]; done)

theorem execRebindAdd_outer (words : List Word64) (s : State) : keepsOuter (execRebindAdd words s) s := by
  unfold execRebindAdd
  repeat' first
    | (simp -zeta only [State.outer_mk, keepsOuter_next, keepsOuter_fault, State.submitRebind_outer]; done)
    | (simp -zeta only [*, State.outer_mk, keepsOuter_next, State.submitRebind_outer]; done)

theorem execRebindRemove_outer (words : List Word64) (s : State) : keepsOuter (execRebindRemove words s) s := by
  unfold execRebindRemove
  repeat' first
    | (simp -zeta only [State.outer_mk, keepsOuter_next, keepsOuter_fault, State.submitRebind_outer]; done)
    | (simp -zeta only [*, State.outer_mk, keepsOuter_next, State.submitRebind_outer]; done)

theorem execRebindDissolve_outer (words : List Word64) (s : State) : keepsOuter (execRebindDissolve words s) s := by
  unfold execRebindDissolve
  repeat' first
    | (simp -zeta only [State.outer_mk, keepsOuter_next, keepsOuter_fault, State.submitRebind_outer]; done)
    | (simp -zeta only [*, State.outer_mk, keepsOuter_next, State.submitRebind_outer]; done)

theorem State.resendAll_outer (s : State) (t : TileId) (free : Arming → Asked → Bool) : (State.resendAll s t free).outer = s.outer := by
  unfold State.resendAll
  repeat' first
    | (simp -zeta only [State.outer_mk, keepsOuter_next, keepsOuter_fault, State.resendQueue_outer]; done)
    | split
    | (with_reducible refine foldl_outer' _ _ ?_ ?_
       on_goal 2 => intro s _)
    | (simp -zeta only [*, State.outer_mk, keepsOuter_next, State.resendQueue_outer]; done)

theorem State.publishEntry_outer (s : State) (t : TileId) (l : Nat) (u : TileId) : (State.publishEntry s t l u).outer = s.outer := by
  unfold State.publishEntry
  repeat' first
    | (simp -zeta only [State.outer_mk, keepsOuter_next, keepsOuter_fault, State.modTile_outer, State.resendAll_outer]; done)
    | (simp -zeta only [*, State.outer_mk, keepsOuter_next, State.modTile_outer, State.resendAll_outer]; done)

theorem execBindingRepublish_outer (t : TileId) (what : Republish) (s : State) : keepsOuter (execBindingRepublish t what s) s := by
  unfold execBindingRepublish
  repeat' first
    | (extract_lets +onlyGivenNames x
       clear_value x)
    | (simp -zeta only [State.outer_mk, keepsOuter_next, keepsOuter_fault, State.resendAll_outer, State.publishEntry_outer]; done)
    | split
    | (simp -zeta only [*, State.outer_mk, keepsOuter_next, State.resendAll_outer, State.publishEntry_outer]; done)

theorem State.dropTables_outer (s : State) (n : PartId) (l r : Nat) : (State.dropTables s n l r).outer = s.outer := by
  rfl

theorem State.enterBuckles_outer (s : State) (n : PartId) (m : Image) (l r : Nat) : (State.enterBuckles s n m l r).outer = s.outer := by
  unfold State.enterBuckles
  refine foldl_outer' _ _ rfl fun s _ => ?_
  repeat' first
    | with_reducible rfl
    | (simp only [State.outer_mk, keepsOuter_next, State.setBuckle_outer]; done)
    | split

theorem State.moveSent_outer (s : State) (old new_ : TileId) : (State.moveSent s old new_).outer = s.outer := by
  rfl

theorem State.recordMove_outer (s : State) (n : PartId) (v : Move) (cause : Nat) : (State.recordMove s n v cause).outer = s.outer := by
  rfl

theorem State.bindMove_outer (s : State) (n : PartId) (v : Move) : (State.bindMove s n v).outer = s.outer := by
  simp only [State.bindMove, State.outer_mk, keepsOuter_next, State.modPart_outer, State.refreshModule_outer, State.designate_outer]

theorem State.publishMove_outer (s : State) (n : PartId) (v : Move) : (State.publishMove s n v).outer = s.outer := by
  unfold State.publishMove
  repeat' first
    | (simp -zeta only [State.outer_mk, keepsOuter_next, keepsOuter_fault, State.publishEntry_outer]; done)
    | (with_reducible refine foldl_outer' _ _ ?_ ?_
       on_goal 2 => intro s _)
    | (simp -zeta only [*, State.outer_mk, keepsOuter_next, State.publishEntry_outer]; done)

theorem State.restartMove_outer (s : State) (n : PartId) (m : Image) (v : Move) (r : Nat) : (State.restartMove s n m v r).outer = s.outer := by
  unfold State.restartMove
  repeat' first
    | (extract_lets +onlyGivenNames x
       refine (fun (hx : State.outer x = State.outer s) => ?_) ?_
       on_goal 1 => clear_value x
       on_goal 2 => (dsimp -zeta only [x]; clear x))
    | (extract_lets +onlyGivenNames x
       clear_value x)
    | (simp -zeta only [State.outer_mk, keepsOuter_next, keepsOuter_fault, State.modTile_outer, State.modPart_outer, State.dropTables_outer, State.enterBuckles_outer, State.moveSent_outer, State.bindMove_outer, State.publishMove_outer]; done)
    | (simp -zeta only [*, State.outer_mk, keepsOuter_next, State.modTile_outer, State.modPart_outer, State.dropTables_outer, State.enterBuckles_outer, State.moveSent_outer, State.bindMove_outer, State.publishMove_outer]; done)

theorem State.completeSubstitution_outer (s : State) (n : PartId) (m : Image) (v : Move) (c : SubstCause) : (State.completeSubstitution s n m v c).outer = s.outer := by
  unfold State.completeSubstitution
  repeat' first
    | (extract_lets +onlyGivenNames x
       refine (fun (hx : State.outer x = State.outer s) => ?_) ?_
       on_goal 1 => clear_value x
       on_goal 2 => (dsimp -zeta only [x]; clear x))
    | (extract_lets +onlyGivenNames x
       refine (fun (hx : ∀ y, State.outer (x y) = State.outer y) => ?_) ?_
       on_goal 1 => clear_value x
       on_goal 2 => (dsimp -zeta only [x]; clear x; intro s))
    | (extract_lets +onlyGivenNames x
       clear_value x)
    | (simp -zeta only [State.outer_mk, keepsOuter_next, keepsOuter_fault, State.modTile_outer, State.callRetry_outer, State.queueTest_outer, State.recordMove_outer, State.bindMove_outer, State.publishMove_outer, State.restartMove_outer]; done)
    | split
    | (simp -zeta only [*, State.outer_mk, keepsOuter_next, State.modTile_outer, State.callRetry_outer, State.queueTest_outer, State.recordMove_outer, State.bindMove_outer, State.publishMove_outer, State.restartMove_outer]; done)

theorem execSubstitution_outer (t : TileId) (cause : SubstCause) (s : State) : keepsOuter (execSubstitution t cause s) s := by
  unfold execSubstitution
  repeat' first
    | with_reducible rfl
    | (extract_lets +onlyGivenNames x
       clear_value x)
    | (simp -zeta only [State.outer_mk, keepsOuter_next, keepsOuter_fault, State.fenceTile_outer, State.completeSubstitution_outer]; done)
    | split

theorem State.startMigration_outer (s : State) (t : TileId) : (State.startMigration s t).1.outer = s.outer := by
  unfold State.startMigration
  repeat' first
    | with_reducible rfl
    | (extract_lets +onlyGivenNames x
       refine (fun (hx : State.outer x = State.outer s) => ?_) ?_
       on_goal 1 => clear_value x
       on_goal 2 => (dsimp -zeta only [x]; clear x))
    | (extract_lets +onlyGivenNames x
       clear_value x)
    | (simp -zeta only [State.outer_mk, keepsOuter_next, keepsOuter_fault, State.modPart_outer, State.requestCore_outer, State.refreshModule_outer, State.designate_outer]; done)
    | (simp -zeta only [State.outer_mk, keepsOuter_next, keepsOuter_fault, State.modPart_outer, State.requestCore_outer, State.refreshModule_outer, State.designate_outer]; with_reducible assumption)
    | split

theorem execMigration_outer (t : TileId) (s : State) : keepsOuter (execMigration t s) s := by
  simp only [execMigration, State.outer_mk, keepsOuter_next, State.startMigration_outer]

theorem execMigrationQuiesced_outer (t : TileId) (s : State) : keepsOuter (execMigrationQuiesced t s) s := by
  unfold execMigrationQuiesced
  repeat' first
    | (extract_lets +onlyGivenNames x
       refine (fun (hx : State.outer x = State.outer s) => ?_) ?_
       on_goal 1 => clear_value x
       on_goal 2 => (dsimp -zeta only [x]; clear x))
    | (extract_lets +onlyGivenNames x
       clear_value x)
    | (simp -zeta only [State.outer_mk, keepsOuter_next, keepsOuter_fault, State.modTile_outer, State.modPart_outer, State.requestCore_outer, State.refreshModule_outer, State.queueTest_outer, State.moveSent_outer, State.recordMove_outer, State.bindMove_outer, State.publishMove_outer]; done)
    | split
    | (simp -zeta only [*, State.outer_mk, keepsOuter_next, State.modTile_outer, State.modPart_outer, State.requestCore_outer, State.refreshModule_outer, State.queueTest_outer, State.moveSent_outer, State.recordMove_outer, State.bindMove_outer, State.publishMove_outer]; done)

theorem execMigrationAbandon_outer (t : TileId) (s : State) : keepsOuter (execMigrationAbandon t s) s := by
  unfold execMigrationAbandon
  split <;> simp only [State.outer_mk, keepsOuter_next, State.abandonMigration_outer]

theorem State.enterFault_outer (s : State) (code : Nat) (hot : Bool) : (State.enterFault s code hot).outer = s.outer := by
  unfold State.enterFault
  repeat' first
    | with_reducible assumption
    | (extract_lets +onlyGivenNames x
       refine (fun (hx : State.outer x = State.outer s) => ?_) ?_
       on_goal 1 => clear_value x
       on_goal 2 => (dsimp -zeta only [x]; clear x))
    | (extract_lets +onlyGivenNames x
       clear_value x)
    | (simp -zeta only [State.outer_mk, keepsOuter_next, keepsOuter_fault, State.enter_outer, State.resetPartition_outer, State.endTests_outer, State.dissolve_outer]; done)
    | (simp -zeta only [State.outer_mk, keepsOuter_next, keepsOuter_fault, State.enter_outer, State.resetPartition_outer, State.endTests_outer, State.dissolve_outer]; with_reducible assumption)
    | split
    | (with_reducible refine foldl_outer' _ _ ?_ ?_
       on_goal 2 => intro s _)

theorem execFaultEntry_outer (code : BitVec 16) (s : State) : keepsOuter (execFaultEntry code s) s := by
  unfold execFaultEntry
  split <;> simp only [State.outer_mk, keepsOuter_next, State.enterFault_outer]

theorem State.failControl_outer (s : State) : (State.failControl s).outer = s.outer := by
  simp only [State.failControl, State.outer_mk, keepsOuter_next, State.recordOwn_outer, State.enterFault_outer]

theorem State.failEdge_outer (s : State) (d : Fin 33) : (State.failEdge s d).outer = s.outer := by
  unfold State.failEdge
  repeat' first
    | with_reducible rfl
    | (simp only [State.outer_mk, keepsOuter_next, State.failStack_outer, State.failLink_outer, State.failControl_outer]; done)
    | split

theorem execEdgeDieRailFailure_outer (d : Fin 33) (s : State) : keepsOuter (execEdgeDieRailFailure d s) s := by
  unfold execEdgeDieRailFailure
  split <;> simp only [State.outer_mk, keepsOuter_next, State.failEdge_outer]

theorem State.outOfService_outer (s : State) (h : Hop) : (State.outOfService s h).outer = s.outer := by
  unfold State.outOfService
  repeat' first
    | with_reducible rfl
    | (extract_lets +onlyGivenNames x
       refine (fun (hx : ∀ y z, State.outer (x y z) = State.outer y) => ?_) ?_
       on_goal 1 => clear_value x
       on_goal 2 => (dsimp -zeta only [x]; clear x; intro s _))
    | (simp -zeta only [State.outer_mk, keepsOuter_next, keepsOuter_fault, State.refreshModule_outer, State.tileDeath_outer, State.failStack_outer, State.failWelt_outer, State.failLink_outer, State.failControl_outer]; done)
    | split
    | (simp -zeta only [*, State.outer_mk, keepsOuter_next, keepsOuter_fault, State.refreshModule_outer, State.tileDeath_outer, State.failStack_outer, State.failWelt_outer, State.failLink_outer, State.failControl_outer]; done)

theorem State.brokenCredits_outer (s : State) (h : Hop) (expected observed : Nat) : (State.brokenCredits s h expected observed).outer = s.outer := by
  unfold State.brokenCredits
  repeat' first
    | with_reducible assumption
    | (extract_lets +onlyGivenNames x
       refine (fun (hx : State.outer x = State.outer s) => ?_) ?_
       on_goal 1 => clear_value x
       on_goal 2 => (dsimp -zeta only [x]; clear x))
    | (extract_lets +onlyGivenNames x
       clear_value x)
    | (simp -zeta only [State.outer_mk, keepsOuter_next, keepsOuter_fault, State.resetPartition_outer, State.brokenSum_outer, State.outOfService_outer]; done)
    | (simp -zeta only [State.outer_mk, keepsOuter_next, keepsOuter_fault, State.resetPartition_outer, State.brokenSum_outer, State.outOfService_outer]; with_reducible assumption)
    | split
    | (with_reducible refine foldl_outer' _ _ ?_ ?_
       on_goal 2 => intro s _)

theorem execAuditMarker_outer (h : Hop) (balance received : Nat) (s : State) : keepsOuter (execAuditMarker h balance received s) s := by
  unfold execAuditMarker
  repeat' first
    | with_reducible rfl
    | (extract_lets +onlyGivenNames x
       refine (fun (hx : State.outer x = State.outer s) => ?_) ?_
       on_goal 1 => clear_value x
       on_goal 2 => (dsimp -zeta only [x]; clear x))
    | (extract_lets +onlyGivenNames x
       clear_value x)
    | (simp -zeta only [State.outer_mk, keepsOuter_next, keepsOuter_fault, State.brokenCredits_outer]; done)
    | (simp -zeta only [State.outer_mk, keepsOuter_next, keepsOuter_fault, State.brokenCredits_outer]; with_reducible assumption)
    | split

theorem State.sendMarkers_outer (s : State) (probes : Bool) : (State.sendMarkers s probes).outer = s.outer := by
  unfold State.sendMarkers
  repeat' first
    | with_reducible assumption
    | (extract_lets +onlyGivenNames x
       refine (fun (hx : State.outer x = State.outer s) => ?_) ?_
       on_goal 1 => clear_value x
       on_goal 2 => (dsimp -zeta only [x]; clear x))
    | (extract_lets +onlyGivenNames x
       clear_value x)
    | (simp -zeta only [State.outer_mk, keepsOuter_next, keepsOuter_fault, State.modPort_outer, State.pumpPort_outer]; done)
    | split
    | (with_reducible refine foldl_outer' _ _ ?_ ?_
       on_goal 2 => intro s _)

theorem execAuditPeriod_outer (s : State) : keepsOuter (execAuditPeriod s) s := by
  unfold execAuditPeriod
  split <;> simp only [State.outer_mk, keepsOuter_next, State.sendMarkers_outer]

theorem State.checkBalances_outer (s : State) : (State.checkBalances s).outer = s.outer := by
  unfold State.checkBalances
  repeat' first
    | (simp -zeta only [State.outer_mk, keepsOuter_next, keepsOuter_fault, State.brokenCredits_outer]; done)
    | (with_reducible refine foldl_outer' _ _ ?_ ?_
       on_goal 2 => intro s _)
    | (simp -zeta only [*, State.outer_mk, keepsOuter_next, State.brokenCredits_outer]; done)

theorem State.brokenPool_outer (s : State) (z : Hop × Nat × Nat × Nat) : (State.brokenPool s z).outer = s.outer := by
  unfold State.brokenPool
  repeat' first
    | (simp -zeta only [State.outer_mk, keepsOuter_next, keepsOuter_fault, State.resetPartition_outer, State.brokenSum_outer]; done)
    | (with_reducible refine foldl_outer' _ _ ?_ ?_
       on_goal 2 => intro s _)
    | (simp -zeta only [*, State.outer_mk, keepsOuter_next, State.resetPartition_outer, State.brokenSum_outer]; done)

theorem execAuditNow_outer (v : BitVec 8) (s : State) : keepsOuter (execAuditNow v s) s := by
  unfold execAuditNow
  repeat' first
    | with_reducible assumption
    | (extract_lets +onlyGivenNames x
       refine (fun (hx : State.outer x = State.outer s) => ?_) ?_
       on_goal 1 => clear_value x
       on_goal 2 => (dsimp -zeta only [x]; clear x))
    | (extract_lets +onlyGivenNames x
       clear_value x)
    | split
    | (with_reducible refine foldl_outer' _ _ ?_ ?_
       on_goal 2 => intro s _)
    | (simp -zeta only [State.outer_mk, keepsOuter_next, State.resetPartition_outer, State.brokenSum_outer, State.slots_outer, State.brokenCredits_outer, State.sendMarkers_outer, State.brokenPool_outer])

theorem State.enterLow_outer (s : State) : (State.enterLow s).outer = s.outer := by
  unfold State.enterLow
  split <;> simp only [State.outer_mk, keepsOuter_next, State.recordOwn_outer]

theorem execEpoRelease_outer (s : State) : keepsOuter (execEpoRelease s) s := by
  rfl

theorem execConverterFailure_outer (i : Fin 32) (s : State) : keepsOuter (execConverterFailure i s) s := by
  unfold execConverterFailure
  repeat' first
    | with_reducible rfl
    | (simp -zeta only [State.outer_mk, keepsOuter_next, keepsOuter_fault, State.recordOwn_outer, State.refreshModule_outer, State.enterFault_outer]; done)
    | split
    | (simp only [State.outer_mk, keepsOuter_next, keepsOuter_fault, State.recordOwn_outer, State.refreshModule_outer, State.enterFault_outer])

theorem State.losePhase_outer (s : State) (t : TileId) (i : Fin 8) : (State.losePhase s t i).outer = s.outer := by
  simp only [State.losePhase, State.outer_mk, keepsOuter_next, State.modTile_outer, State.report_outer]

theorem State.regulatorOff_outer (s : State) (t : TileId) (cause : Nat) : (State.regulatorOff s t cause).outer = s.outer := by
  unfold State.regulatorOff
  repeat' first
    | with_reducible rfl
    | (extract_lets +onlyGivenNames x
       refine (fun (hx : State.outer x = State.outer s) => ?_) ?_
       on_goal 1 => clear_value x
       on_goal 2 => (dsimp -zeta only [x]; clear x))
    | (extract_lets +onlyGivenNames x
       clear_value x)
    | (simp -zeta only [State.outer_mk, keepsOuter_next, keepsOuter_fault, State.modTile_outer, State.modDie_outer, State.report_outer, State.tryAdmit_outer, State.forcedClose_outer, State.fenceTile_outer, State.failTest_outer, State.tileDeath_outer]; done)
    | (simp -zeta only [State.outer_mk, keepsOuter_next, keepsOuter_fault, State.modTile_outer, State.modDie_outer, State.report_outer, State.tryAdmit_outer, State.forcedClose_outer, State.fenceTile_outer, State.failTest_outer, State.tileDeath_outer]; with_reducible assumption)
    | split

theorem execPhaseCheck_outer (t : TileId) (bad : BitVec 8) (controllerFault : Bool) (s : State) : keepsOuter (execPhaseCheck t bad controllerFault s) s := by
  unfold execPhaseCheck
  repeat' first
    | with_reducible assumption
    | (extract_lets +onlyGivenNames x
       refine (fun (hx : State.outer x = State.outer s) => ?_) ?_
       on_goal 1 => clear_value x
       on_goal 2 => (dsimp -zeta only [x]; clear x))
    | (extract_lets +onlyGivenNames x
       clear_value x)
    | (simp -zeta only [State.outer_mk, keepsOuter_next, keepsOuter_fault, State.modTile_outer, State.losePhase_outer, State.regulatorOff_outer]; done)
    | (simp -zeta only [State.outer_mk, keepsOuter_next, keepsOuter_fault, State.modTile_outer, State.losePhase_outer, State.regulatorOff_outer]; with_reducible assumption)
    | split
    | (with_reducible refine foldl_outer' _ _ ?_ ?_
       on_goal 2 => intro s _)

theorem execVerticalStagePhaseLoss_outer (d : DieId) (phase : Fin 16) (s : State) : keepsOuter (execVerticalStagePhaseLoss d phase s) s := by
  unfold execVerticalStagePhaseLoss
  repeat' first
    | with_reducible rfl
    | (extract_lets +onlyGivenNames x
       refine (fun (hx : State.outer x = State.outer s) => ?_) ?_
       on_goal 1 => clear_value x
       on_goal 2 => (dsimp -zeta only [x]; clear x))
    | (extract_lets +onlyGivenNames x
       clear_value x)
    | (simp -zeta only [State.outer_mk, keepsOuter_next, keepsOuter_fault, State.modDie_outer, State.modTiles_outer, State.report_outer, State.loseDie_outer]; done)
    | (simp -zeta only [State.outer_mk, keepsOuter_next, keepsOuter_fault, State.modDie_outer, State.modTiles_outer, State.report_outer, State.loseDie_outer]; with_reducible assumption)
    | split

theorem execBoost_outer (t : TileId) (s : State) : keepsOuter (execBoost t s) s := by
  unfold execBoost
  split <;> simp only [State.outer_mk, keepsOuter_next, State.modTile_outer]

theorem execShunt_outer (t : TileId) (s : State) : keepsOuter (execShunt t s) s := by
  unfold execShunt
  split <;> simp only [State.outer_mk, keepsOuter_next, State.modTile_outer]

theorem execDroopDetect_outer (t : TileId) (s : State) : keepsOuter (execDroopDetect t s) s := by
  unfold execDroopDetect
  repeat' first
    | with_reducible rfl
    | (extract_lets +onlyGivenNames x
       clear_value x)
    | (simp -zeta only [State.outer_mk, keepsOuter_next, keepsOuter_fault, State.modTile_outer]; done)
    | split

theorem execMeasurementInterval_outer (r : Readings) (s : State) : keepsOuter (execMeasurementInterval r s) s := by
  unfold execMeasurementInterval
  repeat' first
    | with_reducible rfl
    | (simp -zeta only [State.outer_mk, keepsOuter_next, keepsOuter_fault, State.modTile_outer, State.modStack_outer, State.modDie_outer, State.take_outer]; done)
    | split
    | (with_reducible refine foldl_outer' _ _ ?_ ?_
       on_goal 2 => intro s _)
    | (simp -zeta only [State.outer_mk, keepsOuter_next, keepsOuter_fault, State.modTile_outer, State.modStack_outer, State.modDie_outer, State.take_outer])

theorem State.runTest_outer (s : State) (k : PendingTest) (previous : TestCode) : (State.runTest s k previous).outer = s.outer := by
  rfl

theorem State.beginTileTest_outer (s : State) (k : PendingTest) (t : TileId) : (State.beginTileTest s k t).outer = s.outer := by
  unfold State.beginTileTest
  repeat' first
    | with_reducible rfl
    | (extract_lets +onlyGivenNames x
       refine (fun (hx : State.outer x = State.outer s) => ?_) ?_
       on_goal 1 => clear_value x
       on_goal 2 => (dsimp -zeta only [x]; clear x))
    | (extract_lets +onlyGivenNames x
       clear_value x)
    | (simp -zeta only [State.outer_mk, keepsOuter_next, keepsOuter_fault, State.modTile_outer, State.queueWake_outer, State.runTest_outer]; done)
    | (simp -zeta only [State.outer_mk, keepsOuter_next, keepsOuter_fault, State.modTile_outer, State.queueWake_outer, State.runTest_outer]; with_reducible assumption)
    | split

theorem State.deferTest_outer (s : State) (k : PendingTest) (t : TileId) : (State.deferTest s k t).outer = s.outer := by
  rfl

theorem State.startTileTest_outer (s : State) (k : PendingTest) (t : TileId) : (State.startTileTest s k t).outer = s.outer := by
  unfold State.startTileTest
  repeat' first
    | with_reducible assumption
    | (extract_lets +onlyGivenNames x
       clear_value x)
    | (simp -zeta only [State.outer_mk, keepsOuter_next, keepsOuter_fault, State.startMigration_outer, State.beginTileTest_outer, State.deferTest_outer]; done)
    | (split <;>
       (rename_i heq
        have hx := congrArg (fun p : State × _ => State.outer p.1) heq.symm
        simp -zeta only [State.startMigration_outer, State.beginTileTest_outer, State.deferTest_outer] at hx))
    | split

theorem State.startTest_outer (s : State) (k : PendingTest) : (State.startTest s k).outer = s.outer := by
  unfold State.startTest
  repeat' first
    | with_reducible rfl
    | (simp only [State.outer_mk, keepsOuter_next, State.modStack_outer, State.modPort_outer, State.runTest_outer, State.startTileTest_outer]; done)
    | split

theorem State.startTests_outer (s : State) : (State.startTests s).outer = s.outer := by
  unfold State.startTests
  refine foldl_outer' _ _ rfl fun s _ => ?_
  repeat' first
    | with_reducible rfl
    | (simp only [State.outer_mk, keepsOuter_next, State.startTest_outer]; done)
    | split

theorem execTestRequest_outer (words : List Word64) (s : State) : keepsOuter (execTestRequest words s) s := by
  unfold execTestRequest
  repeat' first
    | with_reducible rfl
    | (simp only [State.outer_mk, keepsOuter_next, State.startTests_outer]; done)
    | split

theorem State.passTile_outer (s : State) (t : TileId) : (State.passTile s t).outer = s.outer := by
  unfold State.passTile
  repeat' first
    | with_reducible rfl
    | (simp -zeta only [State.outer_mk, keepsOuter_next, keepsOuter_fault, State.modTile_outer, State.refreshModule_outer, State.designate_outer]; done)
    | split
    | (simp only [State.outer_mk, keepsOuter_next, keepsOuter_fault, State.modTile_outer, State.refreshModule_outer, State.designate_outer])

theorem State.failTile_outer (s : State) (t : TileId) (code : TestCode) : (State.failTile s t code).outer = s.outer := by
  simp only [State.failTile, State.outer_mk, keepsOuter_next, State.modTile_outer, State.fenceTile_outer]

theorem State.abortTile_outer (s : State) (k : PendingTest) (r : TestResult) (t : TileId) : (State.abortTile s k r t).outer = s.outer := by
  simp only [State.abortTile, State.startTests_outer, State.tryAdmit_outer, State.failTile_outer, State.closeTest_outer]

theorem State.abortHot_outer (s : State) : (State.abortHot s).outer = s.outer := by
  unfold State.abortHot
  refine foldl_outer' _ _ rfl fun s _ => ?_
  repeat' first
    | with_reducible rfl
    | (simp only [State.abortTile_outer]; done)
    | split

theorem execTileTest_outer (t : TileId) (r : TestResult) (s : State) : keepsOuter (execTileTest t r s) s := by
  unfold execTileTest
  repeat' first
    | with_reducible rfl
    | (extract_lets +onlyGivenNames x
       refine (fun (hx : State.outer x = State.outer s) => ?_) ?_
       on_goal 1 => clear_value x
       on_goal 2 => (dsimp -zeta only [x]; clear x))
    | (extract_lets +onlyGivenNames x
       clear_value x)
    | (simp -zeta only [State.outer_mk, keepsOuter_next, keepsOuter_fault, State.report_outer, State.tryAdmit_outer, State.startTests_outer, State.closeTest_outer, State.passTile_outer, State.failTile_outer, State.abortTile_outer]; done)
    | (simp -zeta only [State.outer_mk, keepsOuter_next, keepsOuter_fault, State.report_outer, State.tryAdmit_outer, State.startTests_outer, State.closeTest_outer, State.passTile_outer, State.failTile_outer, State.abortTile_outer]; with_reducible assumption)
    | split

theorem execStackBaseTest_outer (k : StackId) (r : TestResult) (s : State) : keepsOuter (execStackBaseTest k r s) s := by
  unfold execStackBaseTest
  repeat' first
    | with_reducible rfl
    | (simp only [State.outer_mk, keepsOuter_next, State.modStack_outer, State.refreshModule_outer, State.closeTest_outer]; done)
    | split

theorem execLinkDieTest_outer (l : LinkId) (r : TestResult) (s : State) : keepsOuter (execLinkDieTest l r s) s := by
  unfold execLinkDieTest
  repeat' first
    | with_reducible rfl
    | (extract_lets +onlyGivenNames x
       refine (fun (hx : ∀ y, State.outer (x y) = State.outer y) => ?_) ?_
       on_goal 1 => clear_value x
       on_goal 2 => (dsimp -zeta only [x]; clear x; intro s))
    | (extract_lets +onlyGivenNames x
       clear_value x)
    | (simp -zeta only [State.outer_mk, keepsOuter_next, keepsOuter_fault, State.modPort_outer, State.modLink_outer, State.refreshModule_outer, State.closeTest_outer]; done)
    | split
    | (with_reducible refine foldl_outer' _ _ ?_ ?_
       on_goal 2 => intro s _)
    | (simp -zeta only [*, State.outer_mk, keepsOuter_next, keepsOuter_fault, State.modPort_outer, State.modLink_outer, State.refreshModule_outer, State.closeTest_outer]; done)

theorem execFieldTestDue_outer (t : TileId) (s : State) : keepsOuter (execFieldTestDue t s) s := by
  unfold execFieldTestDue
  repeat' first
    | with_reducible rfl
    | (extract_lets +onlyGivenNames x
       clear_value x)
    | (simp -zeta only [State.outer_mk, keepsOuter_next, keepsOuter_fault, State.startTests_outer]; done)
    | split

theorem execDeferredTestRetry_outer (t : TileId) (s : State) : keepsOuter (execDeferredTestRetry t s) s := by
  unfold execDeferredTestRetry
  split <;> simp only [State.outer_mk, keepsOuter_next, State.modTile_outer, State.startTests_outer]

theorem State.loopAllowance_outer (s : State) (t : TileId) : (State.loopAllowance s t).outer = s.outer := by
  rfl

theorem State.sendSlack_outer (s : State) (n : PartId) : (State.sendSlack s n).outer = s.outer := by
  unfold State.sendSlack
  extract_lets p threshold
  split
  · extract_lets due
    split
    · refine (State.modPart_outer _ _ _).trans ?_
      exact State.sendMembers_outer _ _ _
    · rfl
  · rfl

theorem State.matchSlack_outer (s : State) (n : PartId) : (State.matchSlack s n).outer = s.outer := by
  unfold State.matchSlack
  repeat' first
    | with_reducible rfl
    | (extract_lets +onlyGivenNames x
       refine (fun (hx : State.outer x = State.outer s) => ?_) ?_
       on_goal 1 => clear_value x
       on_goal 2 => (dsimp -zeta only [x]; clear x))
    | (extract_lets +onlyGivenNames x
       clear_value x)
    | (simp -zeta only [State.outer_mk, keepsOuter_next, keepsOuter_fault, State.modPart_outer, State.modTiles_outer]; done)
    | (simp -zeta only [State.outer_mk, keepsOuter_next, keepsOuter_fault, State.modPart_outer, State.modTiles_outer]; with_reducible assumption)
    | split

theorem State.loopClock_outer (s : State) (t : TileId) : (State.loopClock s t).outer = s.outer := by
  unfold State.loopClock
  repeat' first
    | with_reducible rfl
    | (extract_lets +onlyGivenNames x
       clear_value x)
    | (simp -zeta only [State.outer_mk, keepsOuter_next, keepsOuter_fault, State.modTile_outer]; done)
    | split

theorem State.governorLoop_outer (s : State) (r : LoopPowers) : (State.governorLoop s r).outer = s.outer := by
  unfold State.governorLoop
  repeat' first
    | with_reducible rfl
    | (simp -zeta only [State.outer_mk, keepsOuter_next, keepsOuter_fault, State.loopAllowance_outer, State.sendSlack_outer, State.matchSlack_outer, State.loopClock_outer, State.abortHot_outer]; done)
    | (simp -zeta only [State.outer_mk, keepsOuter_next, keepsOuter_fault, State.loopAllowance_outer, State.sendSlack_outer, State.matchSlack_outer, State.loopClock_outer, State.abortHot_outer]; with_reducible assumption)
    | (with_reducible refine (State.abortHot_outer _).trans ?_)
    | (with_reducible refine foldl_outer' _ _ ?_ ?_
       on_goal 2 => intro s _)

theorem execGovernorLoop_outer (r : LoopPowers) (s : State) : keepsOuter (execGovernorLoop r s) s := by
  unfold execGovernorLoop
  split <;> simp only [State.outer_mk, keepsOuter_next, State.governorLoop_outer]

theorem State.raiseAllowance_outer (s : State) (t : TileId) : (State.raiseAllowance s t).outer = s.outer := by
  unfold State.raiseAllowance
  repeat' first
    | with_reducible rfl
    | (extract_lets +onlyGivenNames x
       clear_value x)
    | (simp -zeta only [State.outer_mk, keepsOuter_next, keepsOuter_fault, State.modTile_outer]; done)
    | split

theorem State.lowerDie_outer (s : State) (d : DieId) : (State.lowerDie s d).outer = s.outer := by
  simp only [State.lowerDie, State.outer_mk, keepsOuter_next, State.modTiles_outer]

theorem State.checkDie_outer (s : State) (d : DieId) : (State.checkDie s d).outer = s.outer := by
  unfold State.checkDie
  repeat' first
    | with_reducible assumption
    | (extract_lets +onlyGivenNames x
       refine (fun (hx : State.outer x = State.outer s) => ?_) ?_
       on_goal 1 => clear_value x
       on_goal 2 => (dsimp -zeta only [x]; clear x))
    | (extract_lets +onlyGivenNames x
       clear_value x)
    | (simp -zeta only [State.outer_mk, keepsOuter_next, keepsOuter_fault, State.modDie_outer, State.tryAdmit_outer, State.lowerDie_outer]; done)
    | (simp -zeta only [State.outer_mk, keepsOuter_next, keepsOuter_fault, State.modDie_outer, State.tryAdmit_outer, State.lowerDie_outer]; with_reducible assumption)
    | split

theorem execSlopeInterval_outer (demand : List (TileId × Nat)) (s : State) : keepsOuter (execSlopeInterval demand s) s := by
  unfold execSlopeInterval
  repeat' first
    | with_reducible assumption
    | (extract_lets +onlyGivenNames x
       refine (fun (hx : State.outer x = State.outer s) => ?_) ?_
       on_goal 1 => clear_value x
       on_goal 2 => (dsimp -zeta only [x]; clear x))
    | (extract_lets +onlyGivenNames x
       clear_value x)
    | split
    | (with_reducible refine foldl_outer' _ _ ?_ ?_
       on_goal 2 => intro s _)
    | (simp -zeta only [State.outer_mk, keepsOuter_next, keepsOuter_fault, State.modTile_outer, State.startTests_outer, State.raiseAllowance_outer, State.checkDie_outer])

theorem execWakeDeferralTimeout_outer (t : TileId) (s : State) : keepsOuter (execWakeDeferralTimeout t s) s := by
  unfold execWakeDeferralTimeout
  repeat' first
    | with_reducible rfl
    | (extract_lets +onlyGivenNames x
       clear_value x)
    | (simp -zeta only [State.outer_mk, keepsOuter_next, keepsOuter_fault, State.modDie_outer, State.lowerDie_outer]; done)
    | split

theorem execRampStart_outer (t : TileId) (s : State) : keepsOuter (execRampStart t s) s := by
  rfl

theorem execRampReleaseTimeout_outer (t : TileId) (s : State) : keepsOuter (execRampReleaseTimeout t s) s := by
  rfl

theorem execDroopRecovery_outer (t : TileId) (s : State) : keepsOuter (execDroopRecovery t s) s := by
  rfl

theorem State.heatOff_outer (s : State) (t : TileId) : (State.heatOff s t).outer = s.outer := by
  unfold State.heatOff
  repeat' first
    | (extract_lets +onlyGivenNames x
       refine (fun (hx : State.outer x = State.outer s) => ?_) ?_
       on_goal 1 => clear_value x
       on_goal 2 => (dsimp -zeta only [x]; clear x))
    | (extract_lets +onlyGivenNames x
       clear_value x)
    | (simp -zeta only [State.outer_mk, keepsOuter_next, keepsOuter_fault, State.modTile_outer, State.report_outer, State.fenceTile_outer, State.failTest_outer]; done)
    | split
    | (simp -zeta only [*, State.outer_mk, keepsOuter_next, State.modTile_outer, State.report_outer, State.fenceTile_outer, State.failTest_outer]; done)

theorem State.heatMigrate_outer (s : State) (t : TileId) : (State.heatMigrate s t).outer = s.outer := by
  unfold State.heatMigrate
  repeat' first
    | with_reducible rfl
    | (extract_lets +onlyGivenNames x
       refine (fun (hx : State.outer x = State.outer s) => ?_) ?_
       on_goal 1 => clear_value x
       on_goal 2 => (dsimp -zeta only [x]; clear x))
    | (extract_lets +onlyGivenNames x
       clear_value x)
    | (simp -zeta only [State.outer_mk, keepsOuter_next, keepsOuter_fault, State.modTile_outer, State.startMigration_outer, State.heatOff_outer]; done)
    | (simp -zeta only [State.outer_mk, keepsOuter_next, keepsOuter_fault, State.modTile_outer, State.startMigration_outer, State.heatOff_outer]; with_reducible assumption)
    | (split <;>
       (rename_i heq
        have hx := congrArg (fun p : State × _ => State.outer p.1) heq.symm
        simp -zeta only [State.modTile_outer, State.startMigration_outer, State.heatOff_outer] at hx))
    | split

theorem execTemperatureSample_outer (t : TileId) (tenths : Int) (s : State) : keepsOuter (execTemperatureSample t tenths s) s := by
  unfold execTemperatureSample
  repeat' first
    | with_reducible rfl
    | (extract_lets +onlyGivenNames x
       refine (fun (hx : State.outer x = State.outer s) => ?_) ?_
       on_goal 1 => clear_value x
       on_goal 2 => (dsimp -zeta only [x]; clear x))
    | (extract_lets +onlyGivenNames x
       clear_value x)
    | (simp -zeta only [State.outer_mk, keepsOuter_next, keepsOuter_fault, State.modTile_outer, State.queueTest_outer, State.startTests_outer, State.heatOff_outer, State.heatMigrate_outer]; done)
    | (simp -zeta only [State.outer_mk, keepsOuter_next, keepsOuter_fault, State.modTile_outer, State.queueTest_outer, State.startTests_outer, State.heatOff_outer, State.heatMigrate_outer]; with_reducible assumption)
    | split

theorem execEdgeDieOvertemp_outer (d : Fin 33) (tenths : Int) (s : State) : keepsOuter (execEdgeDieOvertemp d tenths s) s := by
  unfold execEdgeDieOvertemp
  repeat' first
    | with_reducible assumption
    | (extract_lets +onlyGivenNames x
       refine (fun (hx : State.outer x = State.outer s) => ?_) ?_
       on_goal 1 => clear_value x
       on_goal 2 => (dsimp -zeta only [x]; clear x))
    | (extract_lets +onlyGivenNames x
       clear_value x)
    | split
    | (with_reducible refine foldl_outer' _ _ ?_ ?_
       on_goal 2 => intro s _)
    | (simp -zeta only [State.outer_mk, keepsOuter_next, keepsOuter_fault, State.recordOwn_outer, State.resetPartition_outer, State.dropPort_outer, State.enterFault_outer])

theorem execCoolantSample_outer (inlet outlet : Int) (flow : Nat) (s : State) : keepsOuter (execCoolantSample inlet outlet flow s) s := by
  unfold execCoolantSample
  repeat' first
    | with_reducible rfl
    | (simp -zeta only [State.outer_mk, keepsOuter_next, keepsOuter_fault]; done)
    | split

theorem execCoolantFault_outer (s : State) : keepsOuter (execCoolantFault s) s := by
  unfold execCoolantFault
  repeat' first
    | with_reducible rfl
    | (simp only [State.outer_mk, keepsOuter_next, State.recordOwn_outer, State.enterFault_outer]; done)
    | split

theorem execSlackNoticeReceive_outer (n : PartId) (words : List Word64) (s : State) : keepsOuter (execSlackNoticeReceive n words s) s := by
  unfold execSlackNoticeReceive
  repeat' first
    | with_reducible rfl
    | (extract_lets +onlyGivenNames x
       refine (fun (hx : State.outer x = State.outer s) => ?_) ?_
       on_goal 1 => clear_value x
       on_goal 2 => (dsimp -zeta only [x]; clear x))
    | (extract_lets +onlyGivenNames x
       clear_value x)
    | (simp -zeta only [State.outer_mk, keepsOuter_next, keepsOuter_fault, State.modPart_outer, State.sbEvent_outer, State.structFail_outer, State.matchSlack_outer]; done)
    | (simp -zeta only [State.outer_mk, keepsOuter_next, keepsOuter_fault, State.modPart_outer, State.sbEvent_outer, State.structFail_outer, State.matchSlack_outer]; with_reducible assumption)
    | split

theorem execCoefficientRefit_outer (fits : List (TileId × Coefficients)) (error : BitVec 16) (s : State) : keepsOuter (execCoefficientRefit fits error s) s := by
  unfold execCoefficientRefit
  split <;> simp only [State.outer_mk, keepsOuter_next]

theorem State.rerunLayer_outer (s : State) (t : TileId) (e : Seat) (layer : Nat) : (State.rerunLayer s t e layer).outer = s.outer := by
  unfold State.rerunLayer
  repeat' first
    | (extract_lets +onlyGivenNames x
       refine (fun (hx : State.outer x = State.outer s) => ?_) ?_
       on_goal 1 => clear_value x
       on_goal 2 => (dsimp -zeta only [x]; clear x))
    | (extract_lets +onlyGivenNames x
       clear_value x)
    | (simp -zeta only [State.outer_mk, keepsOuter_next, keepsOuter_fault, State.modTile_outer, State.modPart_outer, State.sbEvent_outer, State.checkArming_outer, State.countTransfers_outer, State.dropTables_outer, State.enterBuckles_outer]; done)
    | split
    | (with_reducible refine foldl_outer' _ _ ?_ ?_
       on_goal 2 => intro s _)
    | (simp -zeta only [*, State.outer_mk, keepsOuter_next, State.modTile_outer, State.modPart_outer, State.sbEvent_outer, State.checkArming_outer, State.countTransfers_outer, State.dropTables_outer, State.enterBuckles_outer]; done)

theorem State.mismatchReport_outer (s : State) (t : TileId) (e : Seat) (layer count action : Nat) : (State.mismatchReport s t e layer count action).outer = s.outer := by
  simp only [State.mismatchReport, State.outer_mk, keepsOuter_next, State.report_outer]

theorem State.mismatch_outer (s : State) (t : TileId) (e : Seat) (layer : Option Nat) : (State.mismatch s t e layer).outer = s.outer := by
  unfold State.mismatch
  repeat' first
    | with_reducible rfl
    | (extract_lets +onlyGivenNames x
       refine (fun (hx : State.outer x = State.outer s) => ?_) ?_
       on_goal 1 => clear_value x
       on_goal 2 => (dsimp -zeta only [x]; clear x))
    | (extract_lets +onlyGivenNames x
       clear_value x)
    | (simp -zeta only [State.outer_mk, keepsOuter_next, keepsOuter_fault, State.modTile_outer, State.callRetry_outer, State.fenceTile_outer, State.rerunLayer_outer, State.mismatchReport_outer]; done)
    | (simp -zeta only [State.outer_mk, keepsOuter_next, keepsOuter_fault, State.modTile_outer, State.callRetry_outer, State.fenceTile_outer, State.rerunLayer_outer, State.mismatchReport_outer]; with_reducible assumption)
    | split

theorem execResidueMismatch_outer (t : TileId) (layer : Nat) (s : State) : keepsOuter (execResidueMismatch t layer s) s := by
  unfold execResidueMismatch
  repeat' first
    | with_reducible rfl
    | (simp only [State.outer_mk, keepsOuter_next, State.mismatch_outer]; done)
    | split

theorem State.ownerReset_outer (s : State) (n : Option PartId) (code : Nat) : (State.ownerReset s n code).outer = s.outer := by
  unfold State.ownerReset
  split <;> simp only [State.outer_mk, keepsOuter_next, State.resetPartition_outer]

theorem execUncorrectableWord_outer (w : WordPlace) (s : State) : keepsOuter (execUncorrectableWord w s) s := by
  unfold execUncorrectableWord
  repeat' first
    | with_reducible rfl
    | (simp only [State.outer_mk, keepsOuter_next, State.modTile_outer, State.modStack_outer, State.modLink_outer, State.report_outer, State.resetPartition_outer, State.ownerReset_outer]; done)
    | split
    | (extract_lets +onlyGivenNames x
       refine (fun (hx : State.outer x = State.outer s) => ?_) ?_
       on_goal 1 => clear_value x
       on_goal 2 => (dsimp -zeta only [x]; clear x))
    | (extract_lets +onlyGivenNames x
       clear_value x)
    | (simp only [*, State.outer_mk, keepsOuter_next, State.fenceTile_outer, State.modTile_outer, State.report_outer, State.ownerReset_outer]; done)

theorem execPatrolRead_outer (k : StackId) (corrected uncorrectable : Nat) (slice : Fin 8) (s : State) : keepsOuter (execPatrolRead k corrected uncorrectable slice s) s := by
  unfold execPatrolRead
  repeat' first
    | with_reducible rfl
    | (simp only [State.outer_mk, keepsOuter_next, State.modStack_outer, State.report_outer, State.ownerReset_outer]; done)
    | split

theorem execControlStructureFail_outer (f : StructFail) (s : State) : keepsOuter (execControlStructureFail f s) s := by
  unfold execControlStructureFail
  split <;> simp only [State.outer_mk, keepsOuter_next, State.structFail_outer]

theorem execStepRetry_outer (n : PartId) (code : BitVec 16) (s : State) : keepsOuter (execStepRetry n code s) s := by
  simp only [execStepRetry, State.outer_mk, keepsOuter_next, State.callRetry_outer]

theorem State.dropNotice_outer (s : State) : (State.dropNotice s).outer = s.outer := by
  rfl

theorem State.noticeSound_outer (s : State) (n : PartId) (words : List Word64) : (State.noticeSound s n words).1.outer = s.outer := by
  rfl

theorem State.noticeFail_outer (s : State) (n : PartId) (words : List Word64) : (State.noticeFail s n words).outer = s.outer := by
  simp only [State.noticeFail, State.outer_mk, keepsOuter_next, State.structFail_outer]

theorem State.joinRetry_outer (s : State) (n : PartId) (code attempt : Nat) : (State.joinRetry s n code attempt).outer = s.outer := by
  unfold State.joinRetry
  split <;> simp only [State.outer_mk, keepsOuter_next, State.noticeHere_outer, State.resetPartition_outer, State.stopForRetry_outer]

theorem execRetryNotice_outer (n : PartId) (words : List Word64) (s : State) : keepsOuter (execRetryNotice n words s) s := by
  unfold execRetryNotice
  repeat' first
    | with_reducible rfl
    | (extract_lets +onlyGivenNames x
       clear_value x)
    | (simp -zeta only [State.outer_mk, keepsOuter_next, keepsOuter_fault, State.modPart_outer, State.dropNotice_outer, State.noticeSound_outer, State.noticeFail_outer, State.joinRetry_outer]; done)
    | (simp -zeta only [State.outer_mk, keepsOuter_next, keepsOuter_fault, State.modPart_outer, State.dropNotice_outer, State.noticeSound_outer, State.noticeFail_outer, State.joinRetry_outer]; with_reducible assumption)
    | (split <;>
       (rename_i heq
        have hx := congrArg (fun p : State × _ => State.outer p.1) heq.symm
        simp -zeta only [State.modPart_outer, State.dropNotice_outer, State.noticeSound_outer, State.noticeFail_outer, State.joinRetry_outer] at hx))
    | split

theorem State.feed_outer (s : State) (n : PartId) (handle off : Nat) (bs : List Byte) : (State.feed s n handle off bs).outer = s.outer := by
  rfl

theorem State.refeed_outer (s : State) (n : PartId) : (State.refeed s n).outer = s.outer := by
  unfold State.refeed
  repeat' first
    | with_reducible rfl
    | (extract_lets +onlyGivenNames x
       refine (fun (hx : State.outer x = State.outer s) => ?_) ?_
       on_goal 1 => clear_value x
       on_goal 2 => (dsimp -zeta only [x]; clear x))
    | (extract_lets +onlyGivenNames x
       clear_value x)
    | (simp -zeta only [State.outer_mk, keepsOuter_next, keepsOuter_fault, State.modFn_outer, State.feed_outer]; done)
    | (simp -zeta only [State.outer_mk, keepsOuter_next, keepsOuter_fault, State.modFn_outer, State.feed_outer]; with_reducible assumption)
    | split
    | (with_reducible refine foldl_outer' _ _ ?_ ?_
       on_goal 2 => intro s _)

theorem execRetryQuiesced_outer (n : PartId) (s : State) : keepsOuter (execRetryQuiesced n s) s := by
  unfold execRetryQuiesced
  repeat' first
    | (extract_lets +onlyGivenNames x
       refine (fun (hx : State.outer x = State.outer s) => ?_) ?_
       on_goal 1 => clear_value x
       on_goal 2 => (dsimp -zeta only [x]; clear x))
    | (extract_lets +onlyGivenNames x
       clear_value x)
    | (simp -zeta only [State.outer_mk, keepsOuter_next, keepsOuter_fault, State.modTile_outer, State.modPart_outer, State.clearStreams_outer, State.advancePart_outer, State.abandonMigration_outer, State.checkArming_outer, State.rehome_outer, State.refeed_outer]; done)
    | split
    | (with_reducible refine foldl_outer' _ _ ?_ ?_
       on_goal 2 => intro s _)
    | (simp -zeta only [*, State.outer_mk, keepsOuter_next, State.modTile_outer, State.modPart_outer, State.clearStreams_outer, State.advancePart_outer, State.abandonMigration_outer, State.checkArming_outer, State.rehome_outer, State.refeed_outer]; done)

theorem execRetryQuiesceTimeout_outer (n : PartId) (s : State) : keepsOuter (execRetryQuiesceTimeout n s) s := by
  unfold execRetryQuiesceTimeout
  split <;> simp only [State.outer_mk, keepsOuter_next, State.resetPartition_outer]

theorem execPartitionReset_outer (n : PartId) (code : BitVec 16) (s : State) : keepsOuter (execPartitionReset n code s) s := by
  simp only [execPartitionReset, State.outer_mk, keepsOuter_next, State.resetPartition_outer]

theorem execResetNotice_outer (n : PartId) (words : List Word64) (s : State) : keepsOuter (execResetNotice n words s) s := by
  unfold execResetNotice
  repeat' first
    | with_reducible rfl
    | (extract_lets +onlyGivenNames x
       clear_value x)
    | (simp -zeta only [State.outer_mk, keepsOuter_next, keepsOuter_fault, State.resetPartition_outer, State.dropNotice_outer, State.noticeSound_outer, State.noticeFail_outer]; done)
    | (simp -zeta only [State.outer_mk, keepsOuter_next, keepsOuter_fault, State.resetPartition_outer, State.dropNotice_outer, State.noticeSound_outer, State.noticeFail_outer]; with_reducible assumption)
    | (split <;>
       (rename_i heq
        have hx := congrArg (fun p : State × _ => State.outer p.1) heq.symm
        simp -zeta only [State.resetPartition_outer, State.dropNotice_outer, State.noticeSound_outer, State.noticeFail_outer] at hx))
    | split

theorem State.oddEvent_outer (s : State) (n : PartId) (h : Nat) (e : Nat × Nat) : (State.oddEvent s n h e).outer = s.outer := by
  simp only [State.oddEvent, State.outer_mk, keepsOuter_next, State.recordOwn_outer, State.sbEvent_outer]

theorem execOddNumbersCheck_outer (n : PartId) (s : State) : keepsOuter (execOddNumbersCheck n s) s := by
  unfold execOddNumbersCheck
  repeat' first
    | with_reducible rfl
    | (extract_lets +onlyGivenNames x
       refine (fun (hx : State.outer x = State.outer s) => ?_) ?_
       on_goal 1 => clear_value x
       on_goal 2 => (dsimp -zeta only [x]; clear x))
    | (extract_lets +onlyGivenNames x
       clear_value x)
    | (simp -zeta only [State.outer_mk, keepsOuter_next, keepsOuter_fault, State.modPart_outer, State.oddEvent_outer]; done)
    | (simp -zeta only [State.outer_mk, keepsOuter_next, keepsOuter_fault, State.modPart_outer, State.oddEvent_outer]; with_reducible assumption)
    | split
    | (with_reducible refine foldl_outer' _ _ ?_ ?_
       on_goal 2 => intro s _)

theorem State.oddRelease_outer (s : State) (n : PartId) (f : State → State) (hf : ∀ s, (f s).outer = s.outer) : (State.oddRelease s n f).outer = s.outer := by
  unfold State.oddRelease
  split
  · exact hf _
  · rfl

theorem State.oddContinue_outer (s : State) (n : PartId) : (State.oddContinue s n).outer = s.outer := by
  simp only [State.oddContinue, State.outer_mk, keepsOuter_next, State.modPart_outer, State.trySendUpdate_outer]

theorem execOddContinue_outer (n : PartId) (s : State) : keepsOuter (execOddContinue n s) s := by
  unfold execOddContinue
  repeat' first
    | with_reducible rfl
    | (simp -zeta only [State.outer_mk, keepsOuter_next, keepsOuter_fault, State.oddContinue_outer]; done)
    | (with_reducible refine (State.oddRelease_outer _ _ _ ?_).trans ?_
       on_goal 1 => intro s)
    | (simp -zeta only [State.outer_mk, keepsOuter_next, keepsOuter_fault, State.oddContinue_outer])

theorem execOddRetry_outer (n : PartId) (s : State) : keepsOuter (execOddRetry n s) s := by
  unfold execOddRetry
  repeat' first
    | with_reducible rfl
    | (simp -zeta only [State.outer_mk, keepsOuter_next, keepsOuter_fault, State.callRetry_outer]; done)
    | (with_reducible refine (State.oddRelease_outer _ _ _ ?_).trans ?_
       on_goal 1 => intro s)
    | (simp -zeta only [State.outer_mk, keepsOuter_next, keepsOuter_fault, State.callRetry_outer])

theorem execOddContinueClear_outer (n : PartId) (s : State) : keepsOuter (execOddContinueClear n s) s := by
  unfold execOddContinueClear
  repeat' first
    | with_reducible rfl
    | (simp -zeta only [State.outer_mk, keepsOuter_next, keepsOuter_fault, State.oddContinue_outer]; done)
    | (with_reducible refine (State.oddRelease_outer _ _ _ ?_).trans ?_
       on_goal 1 => intro s)
    | (simp -zeta only [State.outer_mk, keepsOuter_next, keepsOuter_fault, State.oddContinue_outer])

theorem execErrorReport_outer (pt : CoalescePoint) (r : ErrorReport) (s : State) : keepsOuter (execErrorReport pt r s) s := by
  unfold execErrorReport
  split <;> simp only [State.outer_mk, keepsOuter_next, State.report_outer]

theorem State.forwardWindow_outer (s : State) (w : CoWindow) : (State.forwardWindow s w).outer = s.outer := by
  unfold State.forwardWindow
  split <;> simp only [State.outer_mk, keepsOuter_next, State.reportEntry_outer, State.report_outer]

theorem execCoalescingWindowEnd_outer (pt : CoalescePoint) (i : Nat) (s : State) : keepsOuter (execCoalescingWindowEnd pt i s) s := by
  unfold execCoalescingWindowEnd
  repeat' first
    | with_reducible rfl
    | (extract_lets +onlyGivenNames x
       refine (fun (hx : ∀ y, State.outer (x y) = State.outer y) => ?_) ?_
       on_goal 1 => clear_value x
       on_goal 2 => (dsimp -zeta only [x]; clear x; intro s))
    | (extract_lets +onlyGivenNames x
       clear_value x)
    | (simp -zeta only [State.outer_mk, keepsOuter_next, keepsOuter_fault, State.report_outer, State.forwardWindow_outer]; done)
    | split
    | (simp -zeta only [*, State.outer_mk, keepsOuter_next, keepsOuter_fault, State.report_outer, State.forwardWindow_outer]; done)

theorem execRecordPublish_outer (i : Nat) (s : State) : keepsOuter (execRecordPublish i s) s := by
  unfold execRecordPublish
  split <;> simp only [State.outer_mk, keepsOuter_next, State.publish_outer, State.report_outer]

theorem execAlertAcknowledge_outer (v : BitVec 8) (s : State) : keepsOuter (execAlertAcknowledge v s) s := by
  unfold execAlertAcknowledge
  split <;> simp only [State.outer_mk, keepsOuter_next, State.refreshAlert_outer]

theorem execReadoutSequence_outer (seq : BitVec 32) (s : State) : keepsOuter (execReadoutSequence seq s) s := by
  rfl

theorem execReadoutStep_outer (n : PartId) (step : Word64) (s : State) : keepsOuter (execReadoutStep n step s) s := by
  rfl

theorem State.bindTiles_outer (s : State) (n : PartId) (m : Image) : (State.bindTiles s n m).outer = s.outer := by
  rfl

theorem State.park_outer (s : State) (n : PartId) (b : Bool) : (State.park s n b).outer = s.outer := by
  unfold State.park
  split <;> simp only [State.outer_mk, keepsOuter_next, State.modPart_outer, State.statusChanged_outer]

theorem State.setAllowance_outer (s : State) (n : PartId) (v : Word64) : (State.setAllowance s n v).outer = s.outer := by
  rfl

theorem execSubmissionTail_outer (f : FuncId) (tail : Word32) (entries : List (List Word64)) (s : State) : keepsOuter (execSubmissionTail f tail entries s) s := by
  unfold execSubmissionTail
  repeat' first
    | with_reducible rfl
    | (extract_lets +onlyGivenNames x
       clear_value x)
    | (simp -zeta only [State.outer_mk, keepsOuter_next, keepsOuter_fault, State.modFn_outer, State.take_outer]; done)
    | split
    | (with_reducible refine (State.serve_outer _ _ _ _ _ ?_).trans ?_
       on_goal 1 => intro s q)

theorem State.finish_outer (s : State) (f : FuncId) (i status : Nat) (value : Word64) (detail : Nat) : (State.finish s f i status value detail).outer = s.outer := by
  unfold State.finish
  split <;> simp only [State.outer_mk, keepsOuter_next, State.modFn_outer]

theorem State.modEntry_outer (s : State) (f : FuncId) (i : Nat) (g : OpenEntry → OpenEntry) : (State.modEntry s f i g).outer = s.outer := by
  rfl

theorem State.bindImage_outer (s : State) (n : PartId) (m : Image) : (State.bindImage s n m).outer = s.outer := by
  unfold State.bindImage
  repeat' first
    | with_reducible assumption
    | (extract_lets +onlyGivenNames x
       refine (fun (hx : State.outer x = State.outer s) => ?_) ?_
       on_goal 1 => clear_value x
       on_goal 2 => (dsimp -zeta only [x]; clear x))
    | (extract_lets +onlyGivenNames x
       clear_value x)
    | (simp -zeta only [State.outer_mk, keepsOuter_next, keepsOuter_fault, State.modTile_outer, State.modPart_outer, State.statusChanged_outer, State.requestCore_outer, State.refreshModule_outer, State.designate_outer, State.placeHomes_outer, State.assignCuts_outer, State.bindTiles_outer]; done)
    | (simp -zeta only [State.outer_mk, keepsOuter_next, keepsOuter_fault, State.modTile_outer, State.modPart_outer, State.statusChanged_outer, State.requestCore_outer, State.refreshModule_outer, State.designate_outer, State.placeHomes_outer, State.assignCuts_outer, State.bindTiles_outer]; with_reducible assumption)
    | split
    | (with_reducible refine foldl_outer' _ _ ?_ ?_
       on_goal 2 => intro s _)

theorem execLoad_outer (f : FuncId) (data : List Byte) (s : State) : keepsOuter (execLoad f data s) s := by
  unfold execLoad
  repeat' first
    | with_reducible rfl
    | (extract_lets +onlyGivenNames x
       refine (fun (hx : State.outer x = State.outer s) => ?_) ?_
       on_goal 1 => clear_value x
       on_goal 2 => (dsimp -zeta only [x]; clear x))
    | (extract_lets +onlyGivenNames x
       clear_value x)
    | (simp -zeta only [State.outer_mk, keepsOuter_next, keepsOuter_fault, State.modPart_outer, State.recordOwn_outer, State.take_outer, State.sendPortTable_outer, State.finish_outer, State.modEntry_outer, State.bindImage_outer]; done)
    | (simp -zeta only [State.outer_mk, keepsOuter_next, keepsOuter_fault, State.modPart_outer, State.recordOwn_outer, State.take_outer, State.sendPortTable_outer, State.finish_outer, State.modEntry_outer, State.bindImage_outer]; with_reducible assumption)
    | split

theorem State.release_outer (s : State) (n : PartId) : (State.release s n).outer = s.outer := by
  unfold State.release
  repeat' first
    | with_reducible rfl
    | (extract_lets +onlyGivenNames x
       refine (fun (hx : State.outer x = State.outer s) => ?_) ?_
       on_goal 1 => clear_value x
       on_goal 2 => (dsimp -zeta only [x]; clear x))
    | (extract_lets +onlyGivenNames x
       clear_value x)
    | (simp -zeta only [State.outer_mk, keepsOuter_next, keepsOuter_fault, State.modTile_outer, State.modPart_outer, State.statusChanged_outer, State.refreshModule_outer, State.clearStreams_outer, State.designate_outer]; done)
    | (simp -zeta only [State.outer_mk, keepsOuter_next, keepsOuter_fault, State.modTile_outer, State.modPart_outer, State.statusChanged_outer, State.refreshModule_outer, State.clearStreams_outer, State.designate_outer]; with_reducible assumption)
    | (with_reducible refine foldl_outer' _ _ ?_ ?_
       on_goal 2 => intro s _)

theorem execRelease_outer (f : FuncId) (s : State) : keepsOuter (execRelease f s) s := by
  unfold execRelease
  repeat' first
    | with_reducible rfl
    | (extract_lets +onlyGivenNames x
       clear_value x)
    | (simp -zeta only [State.outer_mk, keepsOuter_next, keepsOuter_fault, State.modFn_outer, State.finish_outer, State.release_outer]; done)
    | split

theorem execRun_outer (f : FuncId) (s : State) : keepsOuter (execRun f s) s := by
  unfold execRun
  repeat' first
    | with_reducible rfl
    | (extract_lets +onlyGivenNames x
       clear_value x)
    | (simp -zeta only [State.outer_mk, keepsOuter_next, keepsOuter_fault, State.park_outer, State.setAllowance_outer, State.finish_outer]; done)
    | split

theorem execWrite_outer (f : FuncId) (s : State) : keepsOuter (execWrite f s) s := by
  unfold execWrite
  repeat' first
    | with_reducible rfl
    | (extract_lets +onlyGivenNames x
       clear_value x)
    | (simp -zeta only [State.outer_mk, keepsOuter_next, keepsOuter_fault, State.finish_outer, State.modEntry_outer]; done)
    | split

theorem execWriteGateOpen_outer (f : FuncId) (tag : Word32) (data : List Byte) (s : State) : keepsOuter (execWriteGateOpen f tag data s) s := by
  unfold execWriteGateOpen
  repeat' first
    | with_reducible rfl
    | (simp only [State.outer_mk, keepsOuter_next, State.feed_outer, State.modEntry_outer]; done)
    | split

theorem execRead_outer (f : FuncId) (s : State) : keepsOuter (execRead f s) s := by
  unfold execRead
  repeat' first
    | with_reducible rfl
    | (extract_lets +onlyGivenNames x
       clear_value x)
    | (simp -zeta only [State.outer_mk, keepsOuter_next, keepsOuter_fault, State.finish_outer, State.modEntry_outer]; done)
    | split

theorem execReadBegin_outer (f : FuncId) (tag : Word32) (s : State) : keepsOuter (execReadBegin f tag s) s := by
  unfold execReadBegin
  repeat' first
    | with_reducible rfl
    | (extract_lets +onlyGivenNames x
       clear_value x)
    | (simp -zeta only [State.outer_mk, keepsOuter_next, keepsOuter_fault, State.modEntry_outer]; done)
    | split

theorem execHostTransferComplete_outer (f : FuncId) (tag : Word32) (s : State) : keepsOuter (execHostTransferComplete f tag s) s := by
  unfold execHostTransferComplete
  repeat' first
    | with_reducible rfl
    | (simp only [State.outer_mk, keepsOuter_next, State.modFn_outer, State.finish_outer]; done)
    | split

theorem State.startStep_outer (s : State) (n : PartId) (refChain : Nat) : (State.startStep s n refChain).outer = s.outer := by
  simp only [State.startStep, State.outer_mk, keepsOuter_next, State.modPart_outer, State.modTiles_outer, State.park_outer]

theorem execStepStart_outer (n : PartId) (s : State) : keepsOuter (execStepStart n s) s := by
  unfold execStepStart
  repeat' first
    | with_reducible rfl
    | (extract_lets +onlyGivenNames x
       clear_value x)
    | (simp -zeta only [State.outer_mk, keepsOuter_next, keepsOuter_fault, State.modPart_outer, State.recordOwn_outer, State.startStep_outer]; done)
    | split

theorem execStateOut_outer (f : FuncId) (s : State) : keepsOuter (execStateOut f s) s := by
  unfold execStateOut
  repeat' first
    | with_reducible rfl
    | (extract_lets +onlyGivenNames x
       clear_value x)
    | (simp -zeta only [State.outer_mk, keepsOuter_next, keepsOuter_fault, State.finish_outer, State.modEntry_outer]; done)
    | split

theorem execStateIn_outer (f : FuncId) (data : List Byte) (s : State) : keepsOuter (execStateIn f data s) s := by
  unfold execStateIn
  repeat' first
    | with_reducible assumption
    | (extract_lets +onlyGivenNames x
       refine (fun (hx : State.outer x = State.outer s) => ?_) ?_
       on_goal 1 => clear_value x
       on_goal 2 => (dsimp -zeta only [x]; clear x))
    | (extract_lets +onlyGivenNames x
       clear_value x)
    | (simp -zeta only [State.outer_mk, keepsOuter_next, keepsOuter_fault, State.modTile_outer, State.modPart_outer, State.modTiles_outer, State.take_outer, State.finish_outer, State.modEntry_outer]; done)
    | (simp -zeta only [State.outer_mk, keepsOuter_next, keepsOuter_fault, State.modTile_outer, State.modPart_outer, State.modTiles_outer, State.take_outer, State.finish_outer, State.modEntry_outer]; with_reducible assumption)
    | split
    | (with_reducible refine foldl_outer' _ _ ?_ ?_
       on_goal 2 => intro s _)

theorem execReference_outer (f : FuncId) (data : List Byte) (s : State) : keepsOuter (execReference f data s) s := by
  unfold execReference
  repeat' first
    | with_reducible rfl
    | (extract_lets +onlyGivenNames x
       refine (fun (hx : State.outer x = State.outer s) => ?_) ?_
       on_goal 1 => clear_value x
       on_goal 2 => (dsimp -zeta only [x]; clear x))
    | (extract_lets +onlyGivenNames x
       clear_value x)
    | (simp -zeta only [State.outer_mk, keepsOuter_next, keepsOuter_fault, State.modPart_outer, State.take_outer, State.finish_outer]; done)
    | (simp -zeta only [State.outer_mk, keepsOuter_next, keepsOuter_fault, State.modPart_outer, State.take_outer, State.finish_outer]; with_reducible assumption)
    | split

theorem execRecordOut_outer (f : FuncId) (s : State) : keepsOuter (execRecordOut f s) s := by
  unfold execRecordOut
  repeat' first
    | with_reducible rfl
    | (extract_lets +onlyGivenNames x
       clear_value x)
    | (simp -zeta only [State.outer_mk, keepsOuter_next, keepsOuter_fault, State.finish_outer]; done)
    | split

theorem execCompletionHead_outer (f : FuncId) (head : Word32) (s : State) : keepsOuter (execCompletionHead f head s) s := by
  unfold execCompletionHead
  split <;> simp only [State.outer_mk, keepsOuter_next, State.modFn_outer]

theorem execRecordHead_outer (f : FuncId) (head : Word32) (s : State) : keepsOuter (execRecordHead f head s) s := by
  unfold execRecordHead
  split <;> simp only [State.outer_mk, keepsOuter_next, State.modFn_outer]

theorem execRingControlWrite_outer (f : FuncId) (off : BitVec 16) (value : Word64) (s : State) : keepsOuter (execRingControlWrite f off value s) s := by
  rfl

theorem execInterruptIntervalExpiry_outer (f : FuncId) (v : Fin 3) (s : State) : keepsOuter (execInterruptIntervalExpiry f v s) s := by
  rfl

theorem execFunctionLevelReset_outer (f : FuncId) (s : State) : keepsOuter (execFunctionLevelReset f s) s := by
  unfold execFunctionLevelReset
  split <;> simp only [State.outer_mk, keepsOuter_next, State.resetPartition_outer, State.freeFn_outer]

theorem execPcieLinkTrained_outer (portB : Bool) (rate width : BitVec 8) (s : State) : keepsOuter (execPcieLinkTrained portB rate width s) s := by
  unfold execPcieLinkTrained
  repeat' first
    | with_reducible rfl
    | (extract_lets +onlyGivenNames x
       refine (fun (hx : State.outer x = State.outer s) => ?_) ?_
       on_goal 1 => clear_value x
       on_goal 2 => (dsimp -zeta only [x]; clear x))
    | (extract_lets +onlyGivenNames x
       clear_value x)
    | (simp -zeta only [State.outer_mk, keepsOuter_next, keepsOuter_fault]; done)
    | (simp -zeta only [State.outer_mk, keepsOuter_next, keepsOuter_fault]; with_reducible assumption)
    | split

theorem execHostAccessFail_outer (f : FuncId) (a : HostAccess) (s : State) : keepsOuter (execHostAccessFail f a s) s := by
  unfold execHostAccessFail
  repeat' first
    | with_reducible rfl
    | (simp only [State.outer_mk, keepsOuter_next, State.modFn_outer, State.feed_outer, State.setAllowance_outer, State.finish_outer, State.release_outer]; done)
    | split


end Sys2Proof.Machine
end

