-- ==== Sys2Proof/Laws/Words.lean ====
section
/-! SUPPORT. Words, bytes and the CRC of a control structure: writing a structure as bytes and reading it back, and the CRC that `sealCrc` puts in. -/

namespace Sys2Proof.Machine

/-- A number's bytes are as many as asked for. -/
@[simp] theorem leBytes_length (n w : Nat) : (leBytes n w).length = n := by
  induction n generalizing w with
  | zero => rfl
  | succ n ih => simp [leBytes, ih]

/-- The bytes of a number spell it, modulo their range. -/
@[simp] theorem leNat_leBytes (n w : Nat) : leNat (leBytes n w) = w % 256 ^ n := by
  induction n generalizing w with
  | zero => simp [leBytes, leNat, Nat.mod_one]
  | succ n ih =>
    simp only [leBytes, leNat, ih, BitVec.toNat_ofNat]
    rw [show 256 ^ (n + 1) = 256 * 256 ^ n from by ring, Nat.mod_mul]

/-- Eight bytes to a word. -/
@[simp] theorem wordsBytes_length (ws : List Word64) : (wordsBytes ws).length = 8 * ws.length := by
  induction ws with
  | nil => rfl
  | cons w ws ih => simp [wordsBytes, ih]; omega

/-- A field behind the first eight bytes of a list of words is the field of the rest. -/
theorem field_wordsBytes_cons (w : Word64) (ws : List Word64) (i n : Nat) : field (wordsBytes (w :: ws)) (8 * (i + 1)) n = field (wordsBytes ws) (8 * i) n := by
  unfold field slice
  rw [wordsBytes, List.drop_append, List.drop_of_length_le (by rw [leBytes_length]; omega), List.nil_append, leBytes_length]
  congr 3

/-- The words of the bytes of a list of words are that list (R13). -/
@[simp] theorem bytesWords_wordsBytes (ws : List Word64) : bytesWords (wordsBytes ws) = ws := by
  have len : ceilDiv (wordsBytes ws).length 8 = ws.length := by
    rw [wordsBytes_length, ceilDiv]; omega
  unfold bytesWords
  rw [len]
  induction ws with
  | nil => rfl
  | cons w ws ih =>
    have ih := ih (by rw [wordsBytes_length, ceilDiv]; omega)
    rw [List.length_cons, List.range_succ_eq_map, List.map_cons, List.map_map]
    refine List.cons_eq_cons.mpr ⟨?_, ?_⟩
    · have : field (wordsBytes (w :: ws)) (8 * 0) 8 = w.toNat := by
        unfold field slice
        rw [Nat.mul_zero, List.drop_zero, wordsBytes, List.take_left' (leBytes_length 8 _), leNat_leBytes]
        exact Nat.mod_eq_of_lt w.isLt
      rw [this, BitVec.ofNat_toNat, BitVec.setWidth_eq]
    · refine Eq.trans (List.map_congr_left fun i _ => ?_) ih
      exact congrArg (BitVec.ofNat 64) (field_wordsBytes_cons w ws i 8)

/-- One bit step stays within 32 bits. -/
theorem crcBit_lt (c : Nat) (h : c < 2 ^ 32) : crcBit 0x82F63B78 c < 2 ^ 32 := by
  unfold crcBit
  split
  · exact Nat.xor_lt_two_pow (by omega) (by norm_num)
  · omega

/-- One byte stays within 32 bits. -/
theorem crcByte_lt (c : Nat) (b : Byte) (h : c < 2 ^ 32) : crcByte 0x82F63B78 c b < 2 ^ 32 :=
  crcBit_lt _ (crcBit_lt _ (crcBit_lt _ (crcBit_lt _ (crcBit_lt _ (crcBit_lt _ (crcBit_lt _ (crcBit_lt _
    (Nat.xor_lt_two_pow h (lt_of_lt_of_le b.isLt (by norm_num))))))))))

/-- A CRC-32C has 32 bits. -/
theorem crc32c_lt (bs : List Byte) : crc32c bs < 2 ^ 32 := by
  have : ∀ (bs : List Byte) c, c < 2 ^ 32 → bs.foldl (crcByte 0x82F63B78) c < 2 ^ 32 := by
    intro bs
    induction bs with
    | nil => exact fun _ h => h
    | cons b bs ih => exact fun c h => ih _ (crcByte_lt c b h)
  exact Nat.xor_lt_two_pow (this bs _ (by norm_num)) (by norm_num)

/-- A word with a value put above a cleared half: its high half is the value, and clearing it again gives the word as it was. -/
theorem clearHigh_or (w : Word64) (v : Nat) (h : v < 2 ^ 32) (hw : clearHigh w = w) :
    bits (BitVec.ofNat 64 (v * 2 ^ 32) ||| w).toNat 63 32 = v ∧ clearHigh (BitVec.ofNat 64 (v * 2 ^ 32) ||| w) = w := by
  have hv : (BitVec.ofNat 64 (v * 2 ^ 32)).toNat = v * 2 ^ 32 := by rw [BitVec.toNat_ofNat]; exact Nat.mod_eq_of_lt (by omega)
  have hlt : w.toNat < 2 ^ 32 := by
    have := congrArg BitVec.toNat hw
    rw [clearHigh, BitVec.toNat_and] at this
    rw [← this]
    exact Nat.and_lt_two_pow _ (by decide)
  constructor
  · rw [BitVec.toNat_or, hv, bits, Nat.mul_comm, ← Nat.two_pow_add_eq_or_of_lt hlt]
    omega
  · rw [clearHigh] at hw ⊢
    have : BitVec.ofNat 64 (v * 2 ^ 32) &&& 0xFFFFFFFF#64 = 0#64 := by
      apply BitVec.eq_of_toNat_eq
      rw [BitVec.toNat_and, hv]
      change v * 2 ^ 32 &&& (2 ^ 32 - 1) = 0
      rw [Nat.and_two_pow_sub_one_eq_mod]
      omega
    rw [BitVec.and_or_distrib_right, this, hw, BitVec.zero_or]

/-- Sealing keeps the number of words. -/
@[simp] theorem sealCrc_length (ws : List Word64) (i : Nat) : (sealCrc ws i).length = ws.length := by simp [sealCrc]

/-- Sealing keeps every other word. -/
theorem sealCrc_other (ws : List Word64) (i j : Nat) (h : j ≠ i) : wordAt (sealCrc ws i) j = wordAt ws j := by
  simp [sealCrc, wordAt, List.getD_eq_getElem?_getD, List.getElem?_set_ne h.symm]

/-- The CRC that is put into a structure is found right (R14). -/
@[simp] theorem crcOk_sealCrc (ws : List Word64) (i : Nat) (h : i < ws.length) : crcOk (sealCrc ws i) i = true := by
  have idem : ∀ w : Word64, clearHigh (clearHigh w) = clearHigh w := fun w => by
    rw [clearHigh, clearHigh, BitVec.and_assoc, BitVec.and_self]
  obtain ⟨hi, lo⟩ := clearHigh_or (clearHigh (ws.getD i 0)) (crc32cWords (ws.set i (clearHigh (ws.getD i 0)))) (crc32c_lt _) (idem _)
  simp only [crcOk, sealCrc, wordAt, List.set_set]
  have get : ∀ w : Word64, (ws.set i w).getD i 0 = w := fun w => by
    rw [List.getD_eq_getElem?_getD, List.getElem?_set_self h, Option.getD_some]
  rw [get, get, lo, hi, beq_self_eq_true]

/-- Sealing keeps the low half of its own word. -/
theorem sealCrc_low (ws : List Word64) (i : Nat) (h : i < ws.length) : bits (wordAt (sealCrc ws i) i) 31 0 = bits (wordAt ws i) 31 0 := by
  have get : ∀ w : Word64, (ws.set i w).getD i 0 = w := fun w => by
    rw [List.getD_eq_getElem?_getD, List.getElem?_set_self h, Option.getD_some]
  have low : ∀ v w : Nat, (v * 2 ^ 32 ||| (w &&& (2 ^ 32 - 1))) % 2 ^ 32 = w % 2 ^ 32 := by
    intro v w
    rw [Nat.and_two_pow_sub_one_eq_mod, Nat.mul_comm, ← Nat.two_pow_add_eq_or_of_lt (Nat.mod_lt _ (by norm_num))]
    omega
  have hv := crc32c_lt (wordsBytes (ws.set i (clearHigh (ws.getD i 0))))
  simp only [sealCrc, wordAt, List.set_set, get, bits, clearHigh, BitVec.toNat_or, BitVec.toNat_and, BitVec.toNat_ofNat, crc32cWords] at hv ⊢
  rw [Nat.mod_eq_of_lt (a := _ * 2 ^ 32) (by omega)]
  simpa using low _ _

end Sys2Proof.Machine
end

