-- ==== Sys2Proof/Tests/Slice0.lean ====
section
/-! SUPPORT. Tests of the model: an ill-formed command for each check of WellFormed, the worked examples of the manual, and for every obligation states and
operands that meet all of its hypotheses together. -/

namespace Sys2Proof.Tests

open Sys2Proof.Machine

set_option Elab.async false

/-! ### Worked examples of the manual -/

/-- E4M3 byte 0x5A is 20, that is 10 × 2 (worked example of R57). -/
theorem test_decode_e4m3 : elemValue codeE4M3 false 0x5A = .fin false 10 1 := by decide

/-- Two masters and their halves (worked example of R79). -/
theorem test_master_halves :
    masterHigh 0x3F801234 = 0x3F80 ∧ masterLow 0x3F801234 = 0x1234 ∧ masterHigh 0xBF7FFFFF = 0xBF7F ∧ masterJoin 0xBF7F 0xFFFF = 0xBF7FFFFF := by decide

/-- One product of 2^24 and fifteen of 0.25: with groups of 16 the span is 2^24 + 4, with groups of 4 it is 2^24 (worked example of R99). -/
theorem test_group_size :
    let big := (FVal.fin false 1 12, FVal.fin false 1 12)
    let small := (FVal.fin false 1 (-1), FVal.fin false 1 (-1))
    let four := List.replicate 4 small
    spanValue false [big :: List.replicate 15 small] = ⟨0x4B800002, {}⟩ ∧
    spanValue false [big :: List.replicate 3 small, four, four, four] = ⟨0x4B800000, {}⟩ := by decide +kernel

/-- A group of sixteen −0 products is −0, and one +0 product makes it +0 (R98). -/
theorem test_group_zero :
    let neg := (FVal.fin true 0 0, FVal.fin false 1 0)
    (groupConvert false (groupSum (List.replicate 16 neg)).1).code = 0x80000000 ∧
    (groupConvert false (groupSum ((FVal.fin false 0 0, FVal.fin false 1 0) :: List.replicate 15 neg)).1).code = 0 := by decide +kernel

/-- A group sum beyond FP32: an infinity with OVF, and the largest finite value with OVF in Aferarel-exact mode (R83, R106). -/
theorem test_group_overflow :
    groupConvert false (.fin false 1 128) = ⟨0x7F800000, { ovf := true }⟩ ∧ groupConvert true (.fin true 1 128) = ⟨0xFF7FFFFF, { ovf := true }⟩ := by decide +kernel

/-- The program of the worked AdamW element (R206). -/
def adamProgram : UpdateProgram := ⟨2, 0, 0x3F600000, 0x3F7C0000, 0x35800000, 0, 0x3F800000, 0, [(0, 0x3F50000000000000)]⟩

/-- The step constants of the worked AdamW element at schedule step 0 (R204): lr = 2^-10, c1 = 0.125, c2 = 2^-6, a1 = 8 and a2 = 64. -/
theorem test_adamw_constants :
    let c := adamProgram.consts 0
    (c.lr, c.c1, c.c2, c.a1, c.a2) = (0x3A800000, 0x3E000000, 0x3C800000, 0x41000000, 0x42800000) := by decide +kernel

/-- The worked AdamW element from master 1.0, zero moments and gradient 0.5: m = 0.0625, v = 2^-8, s = 2^-10 − 2^-29 (R206). -/
theorem test_adamw_element : (adamProgram.consts 0).apply 0x3F000000 0x3F800000 0 0 = ⟨0x3F000000, 0x3D800000, 0x3B800000, 0x3A7FFFE0⟩ := by decide +kernel

/-- Its master becomes 0x3F7F_C001 with a word of at least 0xF800_0000, and stays 0x3F7F_C000 below it (R207). -/
theorem test_adamw_rounding :
    stochasticRound 0x3F800000 0x3A7FFFE0 0xF8000000 = (0x3F7FC001, true) ∧ stochasticRound 0x3F800000 0x3A7FFFE0 0xF7FFFFFF = (0x3F7FC000, false) := by decide +kernel

/-- The start registers of the worked stamps: 0xFFFF folded with F (R362). -/
theorem test_stamp_start :
    0xFFFF ^^^ foldWidth 4 0x30000 = 0xFFFC ∧ 0xFFFF ^^^ foldWidth 4 0x31000 = 0xEFFC ∧ 0xFFFF ^^^ foldWidth 4 0x32000 = 0xDFFC := by decide

/-- CRC-32C of the nine bytes "123456789" is 0xE306_9283, and CRC-32 of them 0xCBF4_3926 (R361). -/
theorem test_crc_check :
    let bs := [0x31, 0x32, 0x33, 0x34, 0x35, 0x36, 0x37, 0x38, 0x39]
    crc32c bs = 0xE3069283 ∧ stamp 2 0 bs = 0xCBF43926 ∧ stamp 4 0 bs = 0x29B1 := by decide +kernel

/-- The arrive-and-watch message of the worked barrier (R257): words 0 to 2. -/
theorem test_arrive_watch_words :
    (buckleWords ⟨3, 3, false, 0x11, 0x5800, 1, 0x4B4, 256, 412⟩ 0).take 3 = [0x3C11580000000001, 0x00000000000004B4, 0x000001000000019C] := by decide +kernel

/-- The request of the worked re-bind (R221): 64 tiles, 48 slices, 4 ranges, ports 4 and 5, view 3 and function 3 of PCIE_A for partition 3. -/
theorem test_rebind_words :
    let q := rebindOf [0x0130201810003000, 0x0300030000000011, 0]
    q.op = 1 ∧ q.part = 3 ∧ q.tiles = 64 ∧ q.slices = 48 ∧ q.ranges = 4 ∧ q.ports = [4, 5] ∧ q.view = some 3 ∧ q.func = some 3 := by decide +kernel

/-- The record of the worked scale table fault (R473): words 0, 2, 3 and 5. -/
theorem test_record_words :
    let r : ErrorReport := { code := 0x0203, cls := 2, action := 8, part := some 2, origin := 0x127, sub := 0, witnesses := 256, time := 0, step := some 0x9CB0,
                             first := 0x117, attempt := some 0, temp := 0x249, volts := 0x2EE, logical := none, list := none, cmdClass := 0, opcode := 0, queue := none,
                             gen := none, cmd := none, desc := none, detailA := 0x312, detailB := 0 }
    let ws := recordWords r 0 false
    ws.getD 0 0 = 0x020350249C000100 ∧ ws.getD 2 0 = 0x0000000000009CB0 ∧ ws.getD 3 0 = 0x45C000924BB80000 ∧ ws.getD 5 0 = 0xFFFFFFFF00000312 := by decide +kernel

/-- The WRITE of the worked gated input (R501): 6 MiB of handle 0x101 for step 41, gated at layer 3. -/
theorem test_write_entry :
    let e := entryOf [0x0480000000000029, 0x29, 0x0000010100030000, 0, 0x600000, 0x0000000840000000, 0x0000003900000000, 0]
    e.kind = 4 ∧ e.tag = 0x29 ∧ e.arg = 41 ∧ e.handle = 0x101 ∧ e.gate = some 3 ∧ e.length = 6291456 ∧ e.addr = 0x840000000 ∧ e.pageList = false := by decide +kernel

/-- The cap write of the worked mailbox request (R530): service 2 to 0x2500.01 with number 0x214 and 20,000 W. -/
theorem test_mailbox_words :
    (bytesWords (mailBytes 2 0 0x2500 1 4 0x214 [0x20, 0x4E, 0, 0])).take 3 = [0x0200250001000004, 0x0000000400000214, 0x0000000000004E20] := by decide +kernel

/-- The index of tile 13.9 is 0x30AF and that of its die 6.4 is 0x342A (worked example of R9). -/
theorem test_indices : odIndex 0x30AF = some (.tile 175) ∧ odIndex 0x342A = some (.die 42) ∧ (dieOf 175).1 = 42 := by decide +kernel

/-- The coolant limit of the worked manifold, 45 L/min at 37 °C, is 22.4 kW (R440). -/
theorem test_coolant_limit : coolantLimit 370 450 = 22400 := by decide

/-- The input term at 640 V, and at 720 V where it no longer binds: 24,896 W and 28,000 W (R403). -/
theorem test_input_term : inputTerm 640000 = 24896 ∧ inputTerm 720000 = 28000 := by decide

/-- The block of the worked reduction: in pass 1 its bound 160 marks it with increase 1; in pass 2 its bound 81 makes it final (R339). -/
theorem test_block_decision :
    let w := (freshBlock 0).decide_ (-10) [112, 139] 160 4
    w.fate = .marked ∧ w.increase = 1 ∧ ({ w with pass := 2 }.decide_ (-10) [56, 69] 81 4).fate = .final ∧
    ({ w with pass := 2 }.decide_ (-10) [56, 69] 81 4).exponent = -9 := by decide +kernel

/-- Its ring entry is 126 after the overflow correction, and the next wire exponent is −7 (R334). -/
theorem test_ring_entry :
    ({ (freshBlock 0) with fate := .final, pass := 2, exponent := -9, maxSum := 69 } : WireBlock).ringEntry = 126 ∧
    wireExponent (List.replicate 15 0xFF ++ [126]) 127 1 = -7 ∧ wireExponent (List.replicate 15 0xFF ++ [123]) 127 1 = -10 := by decide +kernel

/-- Member 1's codes of the worked reduction: 46.5 is a tie that goes to 46 in pass 1, and 23.25 goes to 23 in pass 2 (R331, R69). -/
theorem test_wire_codes :
    (toWire 8 (.fin false 93 (-11)) (-10)).code = 46 ∧ (toWire 8 (.fin false 93 (-11)) (-9)).code = 23 ∧
    (wireResidual 8 (.fin false 93 (-11)) 23 (-9)).code = 0x3A00 := by decide +kernel

/-- An MX scale byte: estimate 1.0 with headroom 1 for E4M3 is 2^(0 + 1 − 8), byte 120; an estimate of 0 gives byte 0 (R73). -/
theorem test_mx_scale : mxScale 0x3F80 1 3 = 120 ∧ mxScale 0 1 3 = 0 := by decide +kernel

/-! ### States and operands that meet the hypotheses of the obligations -/

/-- A small work image for two tiles: a BF16 weight that a step updates, an FP8 weight, a data tensor, one layer, one bucket of the first weight,
and an update program of rule 2. -/
def demoImage : Image where
  revision := 7
  exact_ := true
  tiles := 2
  modules := 1
  seed := 0x0123456789ABCDEF
  layerCount := 1
  build := 1
  crc := 0
  ranges := 1
  tensors := [⟨16, 1, 6, 0, 0, 0, 0, 1, 0, 32, 256, 0⟩, ⟨17, 1, 3, 0, 0, 0, 0, 0, 0, 32, 512, 0⟩, ⟨20, 6, 7, 0, 0, 0, 0, 0, 64, 16, 0, 4096⟩]
  layers := [⟨0, 6, 6, 3, 16, 18, 19, 32, 256, 2, 2, 0⟩]
  dir := [⟨0, 0, 0, 0, 0, [(0, 1), (0, 1), (0, 1), (0, 1)], 0⟩, ⟨0, 0, 0, 0, 0, [(0, 1), (0, 1), (0, 1), (0, 1)], 0⟩]
  pages := [[]]
  descriptors := []
  records := []
  entries := []
  decls := [⟨1, 10, [mkWord [at_ 32 48, at_ 26 1], mkWord [at_ 32 16, at_ 0 33], 0, at_ 32 8192, at_ 48 500]⟩]
  programs := [⟨2, 0, 0x3F666666, 0x3F7FBE77, 0x322BCC77, 0x3C23D70A, 0x3F800000, 0, [(0, 0x3F50624DD2F1A9FC)]⟩]

/-- A context that issues, with its page present. -/
def demoCtx : Context := { Context.reset with state := .issuing, pages := [⟨0, some []⟩] }

/-- A tile whose core runs. -/
def demoTile : Tile :=
  { Tile.reset with
    island := { Island.reset with state := .running, clock := 800, ingressOpen := true }
    seqr := { Sequencer.reset with ctxs := Vector.replicate 4 demoCtx, boundImage := 7 } }

/-- A Loaded partition in step 3. -/
def demoPart : Partition :=
  { Partition.reset with
    state := .loaded, tiles := [0, 1], slices := [0, 1], ranges := [0], view := some 0, func := some 0
    image := some demoImage
    place := { Placement.reset with binding := [some 0, some 1], stripe := [0, 1], ranges := [0] }
    run := { StepRun.reset with running := true, step := 3, parked := false } }

/-- The module with partition 0 on tiles 0 and 1. -/
def demo : State :=
  { State.reset with
    time := 1000
    module := { Module.reset with state := .running }
    tiles := Vector.ofFn fun t => if t.1 < 2 then demoTile else Tile.reset
    stackDies := State.reset.stackDies.map fun k => { k with power := .up, portsClosed := false }
    parts := (Vector.replicate 16 Partition.reset).set 0 demoPart }

/-- What tile 0 works for. -/
def seat0 : Seat := ⟨0, demoImage, 0⟩

/-- The words of a VEC with a function code (R116). -/
def vecWords (f : Nat) (o : VecOp) : List Word64 :=
  [mkWord [at_ 60 2, at_ 56 1, at_ 40 o.record.toNat, at_ 8 o.addr.toNat],
   mkWord [at_ 56 f, at_ 52 o.d.toNat, at_ 48 o.a.toNat, at_ 44 o.b.toNat, at_ 40 o.c.toNat, at_ 38 o.bcast.toNat, at_ 32 o.brow.toNat, at_ 23 o.blane.toNat,
     at_ 21 o.axis.toNat, at_ 19 o.prec.toNat, at_ 13 o.first.toNat, at_ 7 o.count.toNat, at_ 0 o.opts.toNat]]

/-- The words of a Buckle command (R178). -/
def buckleCmdWords (op : Nat) (o : BuckleOp) : List Word64 :=
  [mkWord [at_ 60 4, at_ 56 op, at_ 40 o.buckle.toNat, at_ 24 o.count.toNat, at_ 22 o.covers.toNat], mkWord [at_ 32 o.target.toNat]]

/-- The words of a command that stands in a list, written from the layouts of R116 and R173 to R180. -/
def wordsOf : Instr → List Word64
  | .add _ o => vecWords 0x01 o
  | .sub _ o => vecWords 0x02 o
  | .mul _ o => vecWords 0x03 o
  | .fma _ o => vecWords 0x04 o
  | .max _ o => vecWords 0x05 o
  | .min _ o => vecWords 0x06 o
  | .abs _ o => vecWords 0x07 o
  | .neg _ o => vecWords 0x08 o
  | .cmp _ o => vecWords 0x09 o
  | .sel _ o => vecWords 0x0A o
  | .icvt _ o => vecWords 0x0B o
  | .wid _ o => vecWords 0x0C o
  | .nar _ o => vecWords 0x0D o
  | .div _ o => vecWords 0x10 o
  | .recip _ o => vecWords 0x11 o
  | .sqrt _ o => vecWords 0x12 o
  | .rsqrt _ o => vecWords 0x13 o
  | .exp _ o => vecWords 0x14 o
  | .exp2 _ o => vecWords 0x15 o
  | .log _ o => vecWords 0x16 o
  | .log2 _ o => vecWords 0x17 o
  | .rsum _ o => vecWords 0x20 o
  | .rsumsq _ o => vecWords 0x21 o
  | .rmax _ o => vecWords 0x22 o
  | .rmin _ o => vecWords 0x23 o
  | .trn _ o => vecWords 0x28 o
  | .ld _ o => vecWords 0x30 o
  | .st _ o => vecWords 0x31 o
  | .rngu _ o => vecWords 0x38 o
  | .rngr _ o => vecWords 0x39 o
  | .rngsv _ o => vecWords 0x3A o
  | .rngrs _ o => vecWords 0x3B o
  | .flags _ o => vecWords 0x3C o
  | .loadw _ o => [mkWord [at_ 60 1, at_ 56 1, at_ 48 o.fmt.toNat, at_ 32 o.record.toNat, at_ 16 o.span.toNat, at_ 4 o.panel.toNat],
      mkWord [at_ 32 o.addr.toNat, at_ 22 o.depth.toNat, at_ 13 o.width.toNat]]
  | .mmul _ o => [mkWord [at_ 60 1, at_ 56 2, at_ 54 o.mode.toNat, at_ 52 o.group.toNat, at_ 40 o.base.toNat, at_ 28 o.rows.toNat, at_ 12 o.span.toNat, at_ 0 o.panel.toNat],
      mkWord [at_ 32 o.addr.toNat, at_ 16 o.record.toNat, at_ 0 o.carry.toNat]]
  | .drain _ o => [mkWord [at_ 60 1, at_ 56 3, at_ 55 (if o.toStore then 1 else 0), at_ 52 o.reg.toNat, at_ 46 o.firstReg.toNat, at_ 34 o.first.toNat, at_ 22 o.rows.toNat],
      mkWord [at_ 32 o.addr.toNat, at_ 16 o.record.toNat]]
  | .arm _ q n => [mkWord [at_ 60 3, at_ 56 1, at_ 51 q.1], mkWord [at_ 32 n.toNat]]
  | .send _ q => [mkWord [at_ 60 3, at_ 56 2, at_ 51 q.1], 0]
  | .recv _ q => [mkWord [at_ 60 3, at_ 56 3, at_ 51 q.1], 0]
  | .arrive _ _ o => buckleCmdWords 1 o
  | .wait _ _ o => buckleCmdWords 2 o
  | .arrwait _ _ o => buckleCmdWords 3 o
  | .hintHeavy _ a b c => [mkWord [at_ 60 5, at_ 56 1, at_ 48 a.toNat, at_ 32 b.toNat, at_ 16 c.toNat], 0]
  | .hintLight _ a b c => [mkWord [at_ 60 5, at_ 56 2, at_ 48 a.toNat, at_ 32 b.toNat, at_ 16 c.toNat], 0]
  | .mark _ a b c => [mkWord [at_ 60 6, at_ 56 1, at_ 52 a.toNat, at_ 36 b.toNat], mkWord [at_ 32 c.toNat]]
  | .step _ _ => [mkWord [at_ 60 7, at_ 56 1], 0]
  | _ => []

/-- A context of tile 0 holds a page whose first command is this. -/
def showing (i : Instr) (c : CtxId) (s : State) : State := s.modCtx 0 c fun k => { k with pages := [⟨0, some (wordsBytes (wordsOf i))⟩] }

/-- A context of tile 0 takes a command, as a check. -/
def takesHere (i : Instr) (c : CtxId) (s : State) : Bool :=
  s.live 0 c && ((s.tiles.get 0).seqr.ctxs.get c).pageHere && ((s.tiles.get 0).seqr.ctxs.get c).nextCommand 0 c == some i &&
  decide (((s.tiles.get 0).seqr.ctxs.get c).outstanding.length < 16) && s.seat 0 == some seat0

theorem takes_of (i : Instr) (c : CtxId) (s : State) (h : takesHere i c s = true) : Takes i s 0 c seat0 := by
  simp only [takesHere, Bool.and_eq_true, beq_iff_eq, decide_eq_true_eq] at h
  exact ⟨h.1.1.1.1, h.1.1.1.2, h.1.1.2, h.1.2, h.2⟩


/-- The stationary tensor of the array tests: BF16, so that it needs no scale table. -/
def demoRecord : OperandRecord := ⟨16, 6, false, 1024, 0, 0, 0, 0⟩
/-- A record of FP32 rows. -/
def demoRecord32 : OperandRecord := ⟨16, 7, false, 2048, 0, 0, 0, 65536⟩

/-- Tile 0 changed. -/
def demoWith (f : Tile → Tile) : State := demo.modTile 0 f

/-- Tile 0 with its operand records. -/
def demoRecords : State := demoWith fun x => { x with seqr := { x.seqr with records := [demoRecord, demoRecord32, { demoRecord with staged := true }] } }

/-- The plainest vector operation: register 1 from register 2, one row, FP32. -/
def vop : VecOp := { d := 1, a := 2, b := 3, c := 0, bcast := 0, brow := 0, blane := 0, axis := 0, prec := 0, first := 63, count := 0, opts := 0 }

/-- The elementwise commands, with the operands that each reads and whether it is offered in FP64 (R117). -/
def elementwise : List ((VecOp → Instr) × Bool × Bool × Bool) :=
  [(.add 0, true, false, true), (.sub 0, true, false, true), (.mul 0, true, false, true), (.fma 0, true, true, true), (.max 0, true, false, true),
   (.min 0, true, false, true), (.abs 0, false, false, true), (.neg 0, false, false, true), (.cmp 0, true, false, true), (.sel 0, true, true, true),
   (.div 0, true, false, true), (.recip 0, false, false, false), (.sqrt 0, false, false, true), (.rsqrt 0, false, false, false),
   (.exp 0, false, false, false), (.exp2 0, false, false, false), (.log 0, false, false, false), (.log2 0, false, false, false)]

/-- The conditions of ElementwiseReady, as a check. -/
def readyHere (i : Instr) (o : VecOp) (b c w : Bool) (s : State) : Bool :=
  takesHere i vecCtx s && o.elemOk b c w && (s.tiles.get 0).vec.noInt (opReadsAll o b c)

theorem ready_of (i : Instr) (o : VecOp) (b c w : Bool) (s : State) (h : readyHere i o b c w s = true) : ElementwiseReady i o b c w s 0 seat0 := by
  simp only [readyHere, Bool.and_eq_true] at h
  exact ⟨takes_of _ _ _ h.1.1, h.1.2, h.2⟩

/-- Every elementwise command has a form that a context takes, in the last row and, where it is offered, in the last FP64 row. -/
theorem test_wit_ElementwiseCommandsWriteTheirFunction : ∀ k ∈ elementwise,
    (let o := { vop with b := if k.2.1 then 3 else 0 }
     ElementwiseReady (k.1 o) o k.2.1 k.2.2.1 k.2.2.2 (showing (k.1 o) vecCtx demo) 0 seat0 ∧ o.opts = 0 ∧ 63 ∈ opRows o) ∧
    (k.2.2.2 = true → let o := { vop with b := if k.2.1 then 3 else 0, prec := 2, first := 62, count := 1 }
     ElementwiseReady (k.1 o) o k.2.1 k.2.2.1 true (showing (k.1 o) vecCtx demo) 0 seat0 ∧ o.opts = 0 ∧ 2 * 31 ∈ opRows o) := by
  have h1 : (elementwise.all fun k => let o := { vop with b := if k.2.1 then 3 else 0 }
      readyHere (k.1 o) o k.2.1 k.2.2.1 k.2.2.2 (showing (k.1 o) vecCtx demo) && o.opts == 0 && (opRows o).contains 63) = true := by decide +kernel
  have h2 : (elementwise.all fun k => !k.2.2.2 || (let o := { vop with b := if k.2.1 then 3 else 0, prec := 2, first := 62, count := 1 }
      readyHere (k.1 o) o k.2.1 k.2.2.1 true (showing (k.1 o) vecCtx demo) && o.opts == 0 && (opRows o).contains 62)) = true := by decide +kernel
  intro k hk
  have a := List.all_eq_true.mp h1 k hk
  have b := List.all_eq_true.mp h2 k hk
  simp only [Bool.and_eq_true, beq_iff_eq, List.contains_iff_mem] at a
  refine ⟨⟨ready_of _ _ _ _ _ _ a.1.1, a.1.2, a.2⟩, fun hw => ?_⟩
  simp only [hw, Bool.not_true, Bool.false_or, Bool.and_eq_true, beq_iff_eq, List.contains_iff_mem] at b
  exact ⟨ready_of _ _ _ _ _ _ b.1.1, b.1.2, b.2⟩

/-- WID and NAR find rows of other kinds, to FP64 row 31, and NAR finds lane pairs. -/
theorem test_wit_WideRowsAreWidenedAndNarrowed :
    let w := { vop with b := 0, prec := 2, first := 31 }
    let z := { vop with b := 0, prec := 2, opts := 1 }
    (Takes (.wid 0 w) (showing (.wid 0 w) vecCtx demo) 0 vecCtx seat0 ∧ w.convertOk false = true ∧ w.opts = 0 ∧
      (∀ i ∈ opRows w, ((demo.tiles.get 0).vec.row w.a.toNat i).kind ≠ 1) ∧ 31 ∈ opRows w) ∧
    (Takes (.nar 0 w) (showing (.nar 0 w) vecCtx demo) 0 vecCtx seat0 ∧
      (∀ i ∈ opRows w, ∀ r ∈ [2 * i, 2 * i + 1], ((demo.tiles.get 0).vec.row w.a.toNat r).kind ≠ 1) ∧
      (∀ i ∈ opRows w, ∀ j : Fin 512, (laneNar ((demo.tiles.get 0).vec.wide w.a.toNat i j.1)).flags.ovf = false ∧
        oddWide ((demo.tiles.get 0).vec.wide w.a.toNat i j.1) = false)) ∧
    (Takes (.nar 0 z) (showing (.nar 0 z) vecCtx demo) 0 vecCtx seat0 ∧ z.convertOk true = true ∧
      (∀ i ∈ opRows z, ((demo.tiles.get 0).vec.row z.a.toNat i).kind ≠ 1) ∧ 63 ∈ opRows z) :=
  ⟨⟨takes_of _ _ _ (by decide +kernel), by decide +kernel⟩, ⟨takes_of _ _ _ (by decide +kernel), by decide +kernel, by decide +kernel⟩,
    ⟨takes_of _ _ _ (by decide +kernel), by decide +kernel⟩⟩

/-- The elementwise kind condition. -/
def elemKinds (b c : Bool) (v : VectorEngine) (o : VecOp) : Bool := v.noInt (opReadsAll o b c)

/-- The commands of the vector engine that fault on their fields and on the kinds of their rows: each with operands, the check of its fields and that of the kinds. -/
def faulting : List ((VecOp → Instr) × VecOp × (VecOp → Bool) × (VectorEngine → VecOp → Bool)) :=
  (elementwise.map fun k => (k.1, { vop with b := if k.2.1 then 3 else 0 },
    (fun o => o.elemOk k.2.1 k.2.2.1 k.2.2.2 && (o.opts == 0 || (k.1 o == .cmp 0 o && decide (o.opts.toNat ≤ 5)))), elemKinds k.2.1 k.2.2.1)) ++
  [(.icvt 0, { vop with b := 0 }, (fun o => o.elemOk false false false && o.opts == 0), fun v o => (opRows o).all fun r => (v.row o.a.toNat r).kind == 1),
   (.wid 0, { vop with b := 0, prec := 2, first := 31 }, (fun o => o.convertOk false && o.opts == 0), fun v o => v.noInt ((opRows o).map fun i => (o.a.toNat, i))),
   (.rmax 0, { vop with axis := 1 }, VecOp.extremeOk, fun v o => v.noInt ((opRows o).map (fun r => (o.a.toNat, r)) ++ [(o.b.toNat, o.brow.toNat)] ++ opResultRows o true)),
   (.rmin 0, { vop with axis := 1 }, VecOp.extremeOk, fun v o => v.noInt ((opRows o).map (fun r => (o.a.toNat, r)) ++ [(o.b.toNat, o.brow.toNat)] ++ opResultRows o true)),
   (.rsum 0, { vop with b := 0, axis := 1 }, VecOp.sumOk, fun v o => v.noInt ((opRows o).map (fun r => (o.a.toNat, r)) ++ opResultRows o (sumReadsTwo o))),
   (.rsumsq 0, { vop with b := 0, axis := 1 }, VecOp.sumOk, fun v o => v.noInt ((opRows o).map (fun r => (o.a.toNat, r)) ++ opResultRows o (sumReadsTwo o))),
   (.trn 0, { vop with b := 0, first := 0, count := 63 }, VecOp.trnOk, fun v o => (List.range 64).all fun r =>
     (v.row o.a.toNat r).kind == (v.row o.a.toNat 0).kind && (v.row o.a.toNat r).exponent == (v.row o.a.toNat 0).exponent)]

/-- The commands that fault on their fields alone. -/
def fieldsOnly : List ((VecOp → Instr) × (VecOp → Bool)) :=
  [(.rngu 0, VecOp.drawOk), (.rngr 0, VecOp.drawOk), (.rngsv 0, VecOp.countersOk), (.rngrs 0, VecOp.countersOk), (.flags 0, VecOp.flagsOk)]

/-- Register 2 with rows 31 and 63 of kind 1, beside rows of kind 0. -/
def intRows : Tile → Tile := fun x => { x with vec := [31, 63].foldl (fun v r => v.setRow 2 r { RegRow.zero with kind := 1 }) x.vec }

/-- Where the rows of a command are of a kind that it does not read: ICVT finds rows of kind 0, and every other command rows of kind 1. -/
def wrongRows (i : Instr) : State :=
  match i with
  | .icvt _ _ => demo
  | _ => demoWith intRows

/-- Every vector command that checks its fields is taken with a reserved option, and every one that checks the kinds of its rows with rows of a kind that it does not read. -/
theorem test_wit_VectorCommandsFaultOnFieldsAndKinds :
    (∀ k ∈ faulting, let o := { k.2.1 with opts := 127 }
      Takes (k.1 o) (showing (k.1 o) vecCtx demo) 0 vecCtx seat0 ∧ k.2.2.1 o = false) ∧
    (∀ k ∈ fieldsOnly, let o := { vop with opts := 127 }
      Takes (k.1 o) (showing (k.1 o) vecCtx demo) 0 vecCtx seat0 ∧ k.2 o = false) ∧
    (∀ k ∈ faulting, let s := showing (k.1 k.2.1) vecCtx (wrongRows (k.1 k.2.1))
      Takes (k.1 k.2.1) s 0 vecCtx seat0 ∧ k.2.2.1 k.2.1 = true ∧ k.2.2.2 (s.tiles.get 0).vec k.2.1 = false) := by
  have h1 : (faulting.all fun k => let o := { k.2.1 with opts := 127 }
      takesHere (k.1 o) vecCtx (showing (k.1 o) vecCtx demo) && !k.2.2.1 o) = true := by decide +kernel
  have h2 : (fieldsOnly.all fun k => let o := { vop with opts := 127 }
      takesHere (k.1 o) vecCtx (showing (k.1 o) vecCtx demo) && !k.2 o) = true := by decide +kernel
  have h3 : (faulting.all fun k => let s := showing (k.1 k.2.1) vecCtx (wrongRows (k.1 k.2.1))
      takesHere (k.1 k.2.1) vecCtx s && k.2.2.1 k.2.1 && !k.2.2.2 (s.tiles.get 0).vec k.2.1) = true := by decide +kernel
  refine ⟨fun k hk => ?_, fun k hk => ?_, fun k hk => ?_⟩
  · have a := List.all_eq_true.mp h1 k hk
    simp only [Bool.and_eq_true, Bool.not_eq_true'] at a
    exact ⟨takes_of _ _ _ a.1, a.2⟩
  · have a := List.all_eq_true.mp h2 k hk
    simp only [Bool.and_eq_true, Bool.not_eq_true'] at a
    exact ⟨takes_of _ _ _ a.1, a.2⟩
  · have a := List.all_eq_true.mp h3 k hk
    simp only [Bool.and_eq_true, Bool.not_eq_true'] at a
    exact ⟨takes_of _ _ _ a.1.1, a.1.2, a.2⟩

/-- ICVT finds a row of kind 1. -/
theorem test_wit_IcvtConvertsRowsOfKindOne :
    let v := { vop with b := 0 }
    let s := showing (.icvt 0 v) vecCtx (demoWith fun x => { x with vec := x.vec.setRow 2 63 { RegRow.zero with kind := 1 } })
    Takes (.icvt 0 v) s 0 vecCtx seat0 ∧ v.elemOk false false false = true ∧ v.opts = 0 ∧ (∀ r ∈ opRows v, ((s.tiles.get 0).vec.row v.a.toNat r).kind = 1) ∧ opRows v = [63] :=
  ⟨takes_of _ _ _ (by decide +kernel), by decide +kernel⟩

/-- Sums by lane, by row and over all in each precision; extremes along rows. -/
theorem test_wit_ReductionsCompleteWithTheirTree :
    let v := { vop with b := 0 }
    let w := { vop with axis := 1 }
    let ok := fun (o : VecOp) => o.sumOk = true ∧ (seat0.image.exact_ = false ∨ o.prec ≠ 1) ∧
      (demo.tiles.get 0).vec.noInt ((opRows o).map (fun r => (o.a.toNat, r)) ++ opResultRows o (sumReadsTwo o)) = true
    (∀ o ∈ [{ v with axis := 1 }, { v with axis := 2, first := 0, count := 63, opts := 1 }, { v with axis := 3, prec := 2, first := 62, count := 1 }],
      Takes (.rsum 0 o) (showing (.rsum 0 o) vecCtx demo) 0 vecCtx seat0 ∧ Takes (.rsumsq 0 o) (showing (.rsumsq 0 o) vecCtx demo) 0 vecCtx seat0 ∧ ok o) ∧
    Takes (.rmax 0 w) (showing (.rmax 0 w) vecCtx demo) 0 vecCtx seat0 ∧ Takes (.rmin 0 w) (showing (.rmin 0 w) vecCtx demo) 0 vecCtx seat0 ∧
    w.extremeOk = true ∧ { vop with axis := 2, opts := 1 }.extremeOk = true ∧
    (demo.tiles.get 0).vec.noInt ((opRows w).map (fun r => (w.a.toNat, r)) ++ [(w.b.toNat, w.brow.toNat)] ++ opResultRows w true) = true := by
  refine ⟨fun o ho => ?_, takes_of _ _ _ (by decide +kernel), takes_of _ _ _ (by decide +kernel), by decide +kernel, by decide +kernel, by decide +kernel⟩
  simp only [List.mem_cons, List.not_mem_nil, or_false] at ho
  rcases ho with rfl | rfl | rfl <;> exact ⟨takes_of _ _ _ (by decide +kernel), takes_of _ _ _ (by decide +kernel), by decide +kernel⟩

/-- TRN of a register, draws from the last stream, the counters to and from an empty store, and the lane flags. -/
theorem test_wit_TransposeGeneratorsAndLaneFlags :
    let v := { vop with b := 0, first := 0, count := 63 }
    let g := { v with a := 0, opts := 7 }
    let k := { v with d := 0, a := 0, first := 0, count := 0, addr := 8192 }
    let f := { v with a := 0, count := 0, first := 63 }
    (∀ i ∈ [Instr.trn 0 v, .rngu 0 g, .rngr 0 g, .rngsv 0 k, .rngrs 0 k, .flags 0 f], Takes i (showing i vecCtx demo) 0 vecCtx seat0) ∧ v.trnOk = true ∧
    (∀ r : Fin 64, ((demo.tiles.get 0).vec.row v.a.toNat r.1).kind = ((demo.tiles.get 0).vec.row v.a.toNat 0).kind ∧
      ((demo.tiles.get 0).vec.row v.a.toNat r.1).exponent = ((demo.tiles.get 0).vec.row v.a.toNat 0).exponent) ∧
    g.drawOk = true ∧ k.countersOk = true ∧ f.flagsOk = true := by
  refine ⟨fun i hi => ?_, by decide +kernel, by decide +kernel, by decide +kernel, by decide +kernel, by decide +kernel⟩
  simp only [List.mem_cons, List.not_mem_nil, or_false] at hi
  rcases hi with rfl | rfl | rfl | rfl | rfl | rfl <;> exact takes_of _ _ _ (by decide +kernel)

/-- LD and ST of FP32 rows and ST of a staged BF16 block, up to its last depth. -/
theorem test_wit_LoadsAndStoresMoveRows :
    let ld := { vop with a := 0, b := 0, record := 1, addr := 64 }
    let st := { vop with d := 0, b := 0, record := 1, addr := 64 }
    let sb := { st with record := 2, first := 0, count := 63 }
    let s := showing (.ld 0 ld) vecCtx demoRecords
    let u := showing (.st 0 st) vecCtx demoRecords
    let v := showing (.st 0 sb) vecCtx demoRecords
    (Takes (.ld 0 ld) s 0 vecCtx seat0 ∧ (s.tiles.get 0).recordAt 1 = some demoRecord32 ∧ ld.moveOk true = true ∧ moveFmtOk 7 ld.prec true = true ∧ ld.addr.toNat % 64 = 0 ∧
      s.tableHere 0 seat0 7 16 = true ∧ (∀ i < moveRows ld, (s.tiles.get 0).filling (ld.addr.toNat + i * 2048) (rowBytes 7) = false)) ∧
    (Takes (.st 0 st) u 0 vecCtx seat0 ∧ (u.tiles.get 0).recordAt 1 = some demoRecord32 ∧ st.moveOk false = true ∧ moveFmtOk 7 st.prec false = true ∧ demoRecord32.staged = false ∧
      u.tableHere 0 seat0 7 16 = true) ∧
    (Takes (.st 0 sb) v 0 vecCtx seat0 ∧ (v.tiles.get 0).recordAt 2 = some { demoRecord with staged := true } ∧ sb.moveOk false = true ∧ moveFmtOk 6 0 false = true ∧
      v.tableHere 0 seat0 6 16 = true ∧ (v.tiles.get 0).vec.noInt ((opRows sb).map fun q => (sb.a.toNat, q)) = true ∧ sb.prec = 0 ∧
      bits sb.addr.toNat 15 6 + sb.first.toNat + sb.count.toNat < spanDepth 6) :=
  ⟨⟨takes_of _ _ _ (by decide +kernel), by decide +kernel⟩, ⟨takes_of _ _ _ (by decide +kernel), by decide +kernel⟩, ⟨takes_of _ _ _ (by decide +kernel), by decide +kernel⟩⟩

/-- A BF16 block of the largest width. -/
def demoLoadw : LoadwOp := ⟨6, 0, 0, 0, 8192, 511, 255⟩
/-- Tile 0 with a block issued for loading. -/
def demoLoading : State := (demoRecords.modTile 0 fun x => { x with array := { x.array with loading := some (demoRecords.loadwBlock 0 demoLoadw demoRecord) } })

/-- LOADW with free slots, BLOCK_LOADED with every byte present, and a status that waits. -/
theorem test_wit_BlocksLoadAndCheckStatusesBecomeFinal :
    let s := showing (.loadw 0 demoLoadw) arrayCtx demoRecords
    (Takes (.loadw 0 demoLoadw) s 0 arrayCtx seat0 ∧ (s.tiles.get 0).recordAt 0 = some demoRecord ∧ demoLoadw.ok = true ∧
      (s.tiles.get 0).array.shadow = none ∧ (s.tiles.get 0).array.loading = none ∧ s.tableHere 0 seat0 6 16 = true ∧ fmtNarrow demoLoadw.fmt.toNat = false) ∧
    (demoLoading.seat 0 = some seat0 ∧ ∃ b, (demoLoading.tiles.get 0).array.loading = some b ∧ (demoLoading.tiles.get 0).staged b.addr = true ∧ fmtNarrow b.fmt = false ∧
      (demoLoading.tiles.get 0).island.state = .running) ∧
    (let t := demoWith fun x => { x with storeStatus := [(5, .pending [9])] }
     ((t.tiles.get 0).storeStatus.map (·.1)).Nodup ∧ (t.tiles.get 0).statusOf (.storeWord 5) = .pending [9]) :=
  ⟨⟨takes_of _ _ _ (by decide +kernel), by decide +kernel⟩, ⟨by decide +kernel, demoRecords.loadwBlock 0 demoLoadw demoRecord, by decide +kernel⟩, by decide +kernel⟩

/-- An active block of a span, with 16 valid columns. -/
def demoBlock (span : Nat) : Block := { demoRecords.loadwBlock 0 demoLoadw demoRecord with width := 16, span := span }
/-- Tile 0 with a block of span 1 active, row 7 written by span 0, and a carried-in region of one row with its trailer. -/
def demoArray1 : State := demoRecords.modTile 0 fun x =>
  { x with
    array := { x.array with
      active := some (demoBlock 1)
      acc := x.array.acc.set 7 { AccRow.zero with group := 3, width := 16 } }
    store := Cells.write [] (65536 + 2048) (wordsBytes (trailerWords ⟨16, 0, 0, 0, 0, false, 3, 1, 0, 0, 0, 0, 3, 0, 0⟩)) }
/-- An MMUL of one row, row 7. -/
def mop (mode : BitVec 2) (span : BitVec 16) (carry : BitVec 16) : MmulOp := ⟨mode, 3, 7, 0, span, 0, 0, 0, carry⟩

/-- An MMUL in each mode: from nothing with span 0, on its own row, and from a carried-in region. -/
theorem test_wit_MultiplyAccumulateWritesEveryRow :
    let s0 := showing (.mmul 0 (mop 0 0 0)) arrayCtx (demoRecords.modTile 0 fun x => { x with array := { x.array with active := some (demoBlock 0) } })
    let s1 := showing (.mmul 0 (mop 1 1 0)) arrayCtx demoArray1
    let s2 := showing (.mmul 0 (mop 2 1 1)) arrayCtx demoArray1
    (Takes (.mmul 0 (mop 0 0 0)) s0 0 arrayCtx seat0 ∧ MmulReady s0 0 seat0 (mop 0 0 0) demoRecord (demoBlock 0) false ∧
      ((s0.tiles.get 0).array.acc.get 7).modeOk 0 (mop 0 0 0) false = true) ∧
    (Takes (.mmul 0 (mop 1 1 0)) s1 0 arrayCtx seat0 ∧ MmulReady s1 0 seat0 (mop 1 1 0) demoRecord (demoBlock 1) false ∧
      ((s1.tiles.get 0).array.acc.get 7).modeOk 1 (mop 1 1 0) false = true) ∧
    (Takes (.mmul 0 (mop 2 1 1)) s2 0 arrayCtx seat0 ∧ MmulReady s2 0 seat0 (mop 2 1 1) demoRecord (demoBlock 1) false ∧
      ∃ tr : Trailer, (s2.tiles.get 0).recordAt 1 = some demoRecord32 ∧ minStride 16 ≤ 2048 ∧
        trailerOf (bytesWords ((s2.tiles.get 0).storeRead (65536 + 1 * 2048) 64)) = some tr ∧ tr.carryOk 16 (mop 2 1 1) false (s2.parts.get 0).run = true) := by
  refine ⟨⟨takes_of _ _ _ (by decide +kernel), ?_, by decide +kernel⟩, ⟨takes_of _ _ _ (by decide +kernel), ?_, by decide +kernel⟩,
    ⟨takes_of _ _ _ (by decide +kernel), ?_, ⟨⟨16, 0, 0, 0, 0, false, 3, 1, 0, 0, 0, 0, 3, 0, 0⟩, by decide +kernel⟩⟩⟩ <;>
  exact ⟨by decide +kernel, by decide +kernel, by decide +kernel, by decide +kernel, by decide +kernel, by decide +kernel, by decide +kernel⟩

/-- A DRAIN of the last row to the last register row, and one to the store. -/
theorem test_wit_DrainMovesAccumulatorRows :
    let a : DrainOp := ⟨false, 7, 63, 4095, 0, 0, 0⟩
    let b : DrainOp := ⟨true, 0, 0, 4094, 1, 128, 1⟩
    let s := showing (.drain 0 a) arrayCtx demoRecords
    let u := showing (.drain 0 b) arrayCtx demoRecords
    (Takes (.drain 0 a) s 0 arrayCtx seat0 ∧ a.ok = true ∧ (s.tiles.get 0).drainable a = true ∧ a.toStore = false) ∧
    (Takes (.drain 0 b) u 0 arrayCtx seat0 ∧ b.ok = true ∧ (u.tiles.get 0).drainable b = true ∧ b.toStore = true ∧ (u.tiles.get 0).recordAt 1 = some demoRecord32 ∧
      minStride ((u.tiles.get 0).array.acc.get (Fin.ofNat 4096 b.first.toNat)).width ≤ demoRecord32.stride) :=
  ⟨⟨takes_of _ _ _ (by decide +kernel), by decide +kernel⟩, takes_of _ _ _ (by decide +kernel), by decide +kernel⟩

/-- A PUT-TILE descriptor toward logical tile 1, of two 64-byte rows. -/
def putTile : List Word64 :=
  sealCrc [mkWord [at_ 56 1, at_ 46 2, at_ 32 64], mkWord [at_ 32 4096, at_ 0 64], mkWord [at_ 32 2, at_ 0 64], at_ 56 1, 0, 0, 0, 0] 7
/-- An EXPECT descriptor of the same rows, index 1, that starts with its ARM. -/
def expect : List Word64 :=
  sealCrc [mkWord [at_ 56 5, at_ 46 2, at_ 45 1, at_ 32 64], mkWord [at_ 32 4096, at_ 0 64], mkWord [at_ 32 2, at_ 0 64], 0, 0, at_ 32 1, 0, 0] 7
/-- Tile 0 with both descriptors. -/
def demoStream : State := demoWith fun x => { x with seqr := { x.seqr with descriptors := [putTile, expect] }, stream := { x.stream with binding := [some 0, some 1] } }
/-- An arming of a descriptor. -/
def arming (ws : List Word64) (started : Bool) : Arming := ⟨descOf ws, 1, started, false, 0, [], 0, 0, false, 0, 0, 0, false, false, false⟩
/-- Queue 31 of tile 0 with an active and a shadow arming. -/
def demoQueue (a b : Option Arming) : State := demoStream.modQueue 0 31 fun k => { k with armCount := 1, active := a, shadow := b }

/-- A queue that a re-run left with the arming of the command at the position, and one that has faulted. -/
def keptQueue : State := demoQueue (some { arming putTile true with kept := true, keptStarted := true }) none
def faultedQueue : State := (demoQueue (some (arming putTile true)) none).modQueue 0 31 fun k => { k with faulted := true }

/-- An ARM of the last queue: of an arming that is kept, of a faulted queue, with both slots free, with the active one taken and with both taken. -/
theorem test_wit_ArmFillsASlotOfItsQueue :
    (∀ n ∈ [(0 : Nat), 1], ∀ s ∈ [demoStream, demoQueue (some (arming putTile true)) none, keptQueue, faultedQueue, demoQueue (some (arming putTile true)) (some (arming putTile false))],
      ∃ ws, Takes (.arm 0 31 (BitVec.ofNat 32 n)) (showing (.arm 0 31 (BitVec.ofNat 32 n)) streamCtx s) 0 streamCtx seat0 ∧
        (s.tiles.get 0).seqr.descriptors[n]? = some ws ∧ crcOk ws 7 = true ∧ bits (wordAt ws 5) 63 32 = n ∧ descriptorBad seat0 n ws = none ∧
        (s.tiles.get 0).faults.spent = []) ∧
    ((keptQueue.tiles.get 0).stream.queues.get 31).keptArm (keptQueue.posOf 0 streamCtx) = true ∧
    (∀ s ∈ [demoStream, demoQueue (some (arming putTile true)) none, faultedQueue, demoQueue (some (arming putTile true)) (some (arming putTile false))],
      ((s.tiles.get 0).stream.queues.get 31).keptArm (s.posOf 0 streamCtx) = false) ∧
    ((faultedQueue.tiles.get 0).stream.queues.get 31).faulted = true ∧
    ((demoStream.tiles.get 0).stream.queues.get 31).active = none ∧ (((demoQueue (some (arming putTile true)) none).tiles.get 0).stream.queues.get 31).shadow = none ∧
    (let s := demoQueue (some (arming putTile true)) (some (arming putTile false))
     ((s.tiles.get 0).stream.queues.get 31).active = some (arming putTile true) ∧ ((s.tiles.get 0).stream.queues.get 31).shadow = some (arming putTile false) ∧ MayRetry 0 s) := by
  refine ⟨?_, by decide +kernel, by decide +kernel, by decide +kernel, by decide +kernel, by decide +kernel, by decide +kernel, by decide +kernel,
    ⟨by decide +kernel, by decide +kernel, by decide +kernel, by decide +kernel, by decide +kernel⟩⟩
  intro n hn s hs
  simp only [List.mem_cons, List.not_mem_nil, or_false] at hn hs
  rcases hn with rfl | rfl
  · exact ⟨putTile, takes_of _ _ _ (by rcases hs with rfl | rfl | rfl | rfl | rfl <;> decide +kernel), by rcases hs with rfl | rfl | rfl | rfl | rfl <;> decide +kernel⟩
  · exact ⟨expect, takes_of _ _ _ (by rcases hs with rfl | rfl | rfl | rfl | rfl <;> decide +kernel), by rcases hs with rfl | rfl | rfl | rfl | rfl <;> decide +kernel⟩

/-- SEND and RECV of an arming that has not started and of a shadow one, and of a queue that has nothing to start. -/
theorem test_wit_StartCommandsStartTheOldestArming :
    let a := demoQueue (some (arming putTile false)) none
    let b := demoQueue (some (arming putTile true)) (some (arming expect false))
    (∀ s ∈ [a, b, demoStream], Takes (.send 0 31) (showing (.send 0 31) streamCtx s) 0 streamCtx seat0 ∧ Takes (.recv 0 31) (showing (.recv 0 31) streamCtx s) 0 streamCtx seat0 ∧
      ((s.tiles.get 0).stream.queues.get 31).keptStart (s.posOf 0 streamCtx) = false ∧ (s.tiles.get 0).faults.spent = []) ∧
    (((a.tiles.get 0).stream.queues.get 31).start true (a.posOf 0 streamCtx)).isSome = true ∧ (((b.tiles.get 0).stream.queues.get 31).start false (b.posOf 0 streamCtx)).isSome = true ∧
    ((demoStream.tiles.get 0).stream.queues.get 31).start true (demoStream.posOf 0 streamCtx) = none ∧
    ((demoStream.tiles.get 0).stream.queues.get 31).start false (demoStream.posOf 0 streamCtx) = none ∧
    outbound (arming putTile false).desc.kind = true ∧ outbound (arming expect false).desc.kind = false ∧ (arming expect false).startRecorded = false := by
  refine ⟨fun s hs => ?_, by decide +kernel, by decide +kernel, by decide +kernel, by decide +kernel, by decide +kernel, by decide +kernel, by decide +kernel⟩
  simp only [List.mem_cons, List.not_mem_nil, or_false] at hs
  exact ⟨takes_of _ _ _ (by rcases hs with rfl | rfl | rfl <;> decide +kernel), takes_of _ _ _ (by rcases hs with rfl | rfl | rfl <;> decide +kernel),
    by rcases hs with rfl | rfl | rfl <;> decide +kernel⟩

/-- A PUT-TILE packet for queue 31 with the first row of the EXPECT, of flow 31 and generation 1. -/
def putPacket : Packet := ⟨mkWord [at_ 58 1, at_ 56 2], 4096, mkWord [at_ 24 1, at_ 18 31, at_ 13 31], 0, List.replicate 64 7⟩
/-- A request for 64 bytes to the store's byte 4096, and the packet that answers it. -/
def askPacket : Packet := ⟨mkWord [at_ 58 2, at_ 56 0], 4096, mkWord [at_ 24 1, at_ 18 31], 0, wordsBytes [64, at_ 32 4096]⟩
def dataPacket : Packet := ⟨mkWord [at_ 58 3, at_ 56 2, at_ 0 64], 4096, mkWord [at_ 24 1, at_ 18 31], 0, List.replicate 64 9⟩
/-- A negative acknowledgement of the PUT-TILE packet with cause 1. -/
def nackPacket : Packet := ⟨mkWord [at_ 58 8, at_ 56 0], 0, 0, 0, wordsBytes [mkWord [at_ 28 1, at_ 22 1, at_ 14 1, at_ 8 31], 4096]⟩
/-- A transfer with packets that await their answers. -/
def transfer (i : Nat) (ps : List Packet) : Transfer := ⟨i, 0, ps.map fun p => ⟨p, none⟩, false, false, false, 0⟩
/-- An arming with an outstanding transfer. -/
def asking (kind : Nat) (ps : List Packet) : Arming :=
  { arming putTile true with desc := { descOf putTile with kind := kind }, next := 2, outstanding := [transfer 1 ps], completed := 1 }
/-- Tile 0 with what its core has read. -/
def hasRead (ps : List Packet) (ws : List Word64) (s : State) : State :=
  s.modTile 0 fun x => { x with stream := { x.stream with received := ps }, island := { x.island with inCtl := ws } }

/-- No queue's readiness changes its withholding: the stream unit is as it was. -/
theorem withhold_same (s : State) (t : TileId) (e : Seat)
    (h : ∀ q, (((s.tiles.get t).stream.queues.get q).active.all fun a =>
      (if a.withheld then decide (a.next < a.desc.transfers) && (s.tiles.get t).sourceStatus a != .passed
       else s.queueOpen (s.tiles.get t) e ((s.tiles.get t).stream.queues.get q) && (s.tiles.get t).sourceStatus a == .failed) == a.withheld) = true) :
    s.withhold t e = s := by
  have aux : ∀ qs : List (Fin 32), qs.foldl (fun (s : State) q =>
      let x := s.tiles.get t
      let k := x.stream.queues.get q
      match k.active with
      | none => s
      | some a =>
        let failed := if a.withheld then decide (a.next < a.desc.transfers) && x.sourceStatus a != .passed
          else s.queueOpen x e k && x.sourceStatus a == .failed
        if failed == a.withheld then s
        else
          let s := s.modQueue t q fun k => { k with active := some { a with withheld := failed } }
          if failed then s.modTile t fun x => { x with stream := { x.stream with withheld := x.stream.withheld + 1 } } else s) s = s := by
    intro qs
    induction qs with
    | nil => rfl
    | cons q qs ih =>
      rw [List.foldl_cons]
      cases hq : ((s.tiles.get t).stream.queues.get q).active with
      | none => simpa [hq] using ih
      | some a =>
        have := h q
        rw [hq] at this
        simp only [Option.all_some] at this
        simpa only [hq, this, if_true] using ih
  exact aux _

/-- A queue that is ready to issue. -/
theorem test_wit_TheLeastRecentlyServedQueueIssues :
    let s := demoQueue (some (arming putTile true)) none
    s.streamLive 0 = some seat0 ∧ s.withhold 0 seat0 = s ∧ s.readyQueue 0 seat0 = some 31 ∧ ((s.tiles.get 0).stream.queues.get 31).active = some (arming putTile true) ∧
    (arming putTile true).desc.kind = 1 :=
  ⟨by decide +kernel, withhold_same _ _ _ (by decide +kernel), by decide +kernel, by decide +kernel, by decide +kernel⟩

/-- Answers: an acknowledgement of the last packet of a transfer and of one of two, a data packet; and a refusal before and after the notices of a retry. -/
theorem test_wit_TransfersCompleteOrAreRefused :
    let w := ackNote 31 1 (ackAddr 4096)
    let one := hasRead [nackPacket] [w] (demoQueue (some (asking 1 [putPacket])) (some (arming expect false)))
    let two := hasRead [] [w] (demoQueue (some (asking 1 [putPacket, { putPacket with w1 := 8192 }])) none)
    let read := hasRead [dataPacket] [] (demoQueue (some (asking 3 [askPacket])) none)
    let retry := one.modPart 0 fun p => { p with run := { p.run with retry := some 0x0101, noticed := true } }
    (∀ z ∈ [(one, asking 1 [putPacket]), (two, asking 1 [putPacket, { putPacket with w1 := 8192 }]), (read, asking 3 [askPacket]), (retry, asking 1 [putPacket])],
      z.1.seat 0 = some seat0 ∧ ((z.1.tiles.get 0).stream.queues.get 31).active = some z.2 ∧ ((z.1.tiles.get 0).stream.queues.get 31).ended z.2 = false ∧
      (z.1.tiles.get 0).island.state = .running ∧ z.2.cancelled = 0) ∧
    (answerNames (.ack w) = (31, 1) ∧ one.answerHere 0 (.ack w) ∧ two.answerHere 0 (.ack w) ∧
      (transfer 1 [putPacket]).asked.find? (answerEnds (.ack w)) = some ⟨putPacket, none⟩ ∧ (transfer 1 [putPacket]).asked.erase ⟨putPacket, none⟩ = [] ∧
      (transfer 1 [putPacket, { putPacket with w1 := 8192 }]).asked.find? (answerEnds (.ack w)) = some ⟨putPacket, none⟩ ∧
      (transfer 1 [putPacket, { putPacket with w1 := 8192 }]).asked.erase ⟨putPacket, none⟩ ≠ []) ∧
    (answerNames (.data dataPacket) = (31, 1) ∧ read.answerHere 0 (.data dataPacket) ∧
      (transfer 1 [askPacket]).asked.find? (answerEnds (.data dataPacket)) = some ⟨askPacket, none⟩) ∧
    ((one.tiles.get 0).stream.received.contains nackPacket = true ∧ pktKind nackPacket = 8 ∧ bits (wordAt (bytesWords nackPacket.payload) 0) 13 8 = 31 ∧
      BitVec.ofNat 8 (bits (wordAt (bytesWords nackPacket.payload) 0) 21 14) = (asking 1 [putPacket]).gen ∧
      ((asking 1 [putPacket]).outstanding.find? fun y => y.asked.any (refusalHits nackPacket)) = some (transfer 1 [putPacket])) ∧
    (one.parts.get 0).run.halted = false ∧ (retry.parts.get 0).run.halted = true := by
  refine ⟨by decide +kernel, ⟨by decide +kernel, ⟨by decide +kernel, by decide +kernel⟩, ⟨by decide +kernel, by decide +kernel⟩, by decide +kernel⟩,
    ⟨by decide +kernel, ⟨by decide +kernel, by decide +kernel⟩, by decide +kernel⟩, by decide +kernel, by decide +kernel, by decide +kernel⟩

/-- An entry of a tile that runs, with a refused transfer to it and none; a route whose edge port is open; a packet within a started EXPECT, and one for a queue with none. -/
theorem test_wit_PutTilesReachTheirDestination :
    let refused : Arming := { asking 1 [] with outstanding := [⟨1, 0, [⟨putPacket, some 1⟩], true, false, false, 0⟩] }
    let s := demoQueue (some refused) none
    let u := hasRead [putPacket] [] (demoQueue (some (arming expect true)) none)
    let v := hasRead [putPacket] [] demoStream
    (s.seat 0 = some seat0 ∧ (s.parts.get 0).physOf (1 : BitVec 8).toNat = some 1 ∧ (s.tiles.get 1).island.state = .running ∧ (s.tiles.get 1).island.ingressOpen = true ∧
      1 < (s.tiles.get 0).stream.binding.length ∧ (s.tiles.get 0).stream.freeOf 1 = true ∧ (s.parts.get 0).run.halted = false ∧
      toLogical 1 refused ⟨putPacket, some 1⟩ = true) ∧
    (s.routeBack 0 (epStack 0) = true ∧ epStack 0 < 1024) ∧
    (u.seat 0 = some seat0 ∧ (u.tiles.get 0).island.state = .running ∧ pktKind putPacket = 1 ∧ (u.tiles.get 0).stream.received.contains putPacket = true ∧
      ((u.tiles.get 0).stream.queues.get (Fin.ofNat 32 (pktQueue putPacket))).active = some (arming expect true) ∧ (arming expect true).desc.kind = 5 ∧
      (arming expect true).desc.covers (bits putPacket.w1.toNat 31 0) putPacket.payload.length = true) ∧
    (v.seat 0 = some seat0 ∧ (v.tiles.get 0).stream.received.contains putPacket = true ∧ ((v.tiles.get 0).stream.queues.get (Fin.ofNat 32 (pktQueue putPacket))).active = none ∧
      MayRetry 0 v) :=
  ⟨by decide +kernel, by decide +kernel, by decide +kernel, by decide +kernel, by decide +kernel, by decide +kernel,
    ⟨by decide +kernel, by decide +kernel, by decide +kernel, by decide +kernel, by decide +kernel⟩⟩

/-- A Buckle of the partition counted at a welt. -/
def demoWelt : State := demo.modPart 0 fun p => { p with place := { p.place with homes := [(4094, .welt 5)] } }

/-- ARRIVE, WAIT and ARRWAIT of the last Buckle of the last range of the image, in every context; ARRIVE, not sent yet and sent before, and WAIT of one that is counted at a welt. -/
theorem test_wit_BuckleCommandsCountAndWait :
    (∀ c : CtxId, ∀ i ∈ [Instr.arrive 0 c ⟨4095, 1, 0, 0⟩, .wait 0 c ⟨4095, 0, 0, 1⟩, .arrwait 0 c ⟨4095, 1, 1, 1⟩],
      Takes i (showing i c demo) 0 c seat0) ∧
    (∀ c : CtxId, ∀ i ∈ [Instr.arrive 0 c ⟨4094, 1, 0, 0⟩, .wait 0 c ⟨4094, 0, 0, 1⟩], Takes i (showing i c demoWelt) 0 c seat0) ∧
    (∀ b ∈ [4094, 4095], seat0.buckleOk b = true) ∧ demo.tileScope 0 4095 ∧
    (demoWelt.parts.get 0).homeOf ((demoWelt.parts.get 0).physBuckle 4094) = some (.welt 5) ∧
    (∀ c : CtxId, ((demo.tiles.get 0).seqr.ctxs.get c).arrivals = [] ∧ ((demo.tiles.get 0).seqr.ctxs.get c).outstanding = [] ∧
      ((demo.tiles.get 0).seqr.ctxs.get c).arrwaitSent = false) ∧
    (⟨4095, 1, 0, 0⟩ : BuckleOp).arriveOk = true ∧ (⟨4095, 0, 0, 1⟩ : BuckleOp).waitOk = true ∧ (⟨4095, 1, 1, 1⟩ : BuckleOp).arrwaitOk = true ∧
    (⟨4094, 0, 0, 1⟩ : BuckleOp).target ≠ 0 := by
  refine ⟨fun c i hi => ?_, fun c i hi => ?_, by decide +kernel, fun w h => ?_, by decide +kernel, fun c => by fin_cases c <;> decide +kernel, by decide +kernel⟩
  · simp only [List.mem_cons, List.not_mem_nil, or_false] at hi
    rcases hi with rfl | rfl | rfl <;> exact takes_of _ _ _ (by fin_cases c <;> decide +kernel)
  · simp only [List.mem_cons, List.not_mem_nil, or_false] at hi
    rcases hi with rfl | rfl <;> exact takes_of _ _ _ (by fin_cases c <;> decide +kernel)
  · have : (demo.parts.get 0).homeOf ((demo.parts.get 0).physBuckle 4095) = none := by decide +kernel
    rw [this] at h
    cases h


/-- A page of list 0 of logical tile 0: 4,080 bytes of commands and its trailer. -/
def demoPage : List Byte := wordsBytes (sealCrc (List.replicate 512 0) 511)
/-- The page passes its checks. -/
theorem demoPage_ok : pageOk demoPage 0 0 0 = true := by
  have h : 511 < (List.replicate 512 (0 : Word64)).length := by rw [List.length_replicate]; decide
  simp only [pageOk, demoPage, bytesWords_wordsBytes, wordsBytes_length, sealCrc_length, crcOk_sealCrc _ _ h, zeroField, sealCrc_low _ _ h,
    sealCrc_other (List.replicate 512 0) 511 510 (by decide)]
  decide +kernel

/-- Partition 0 changed. -/
def demoPartWith (f : Partition → Partition) : State := demo.modPart 0 f
/-- A core island of tile 0 changed. -/
def demoIsland (f : Island → Island) : State := demoWith fun x => { x with island := f x.island }
/-- Tile 0 with every context of its sequencer changed. -/
def demoCtxs (f : Context → Context) : State := demoWith fun x => { x with seqr := { x.seqr with ctxs := x.seqr.ctxs.map f } }

/-- The page as it comes from a stack: list 0, page 0. -/
def pagePacket (bs : List Byte) : Packet := ⟨mkWord [at_ 58 3, at_ 0 4096], 0, mkWord [at_ 18 32], 0, bs⟩
/-- Tile 0 with page 0 of list 0 requested and its packet read. -/
def demoAsked (bs : List Byte) : State :=
  hasRead [pagePacket bs] [] (demoCtxs fun k => { k with pages := [⟨0, none⟩] })
/-- What a page that fails its checks leaves behind. -/
def pageFail : StructFail := { part := 0, tile := some 0, held := true, kind := 1, handle := 0, seq := 0 }

/-- Hints at both ends of the current's range and marks of phases 1 and 5. -/
theorem test_wit_HintsAndMarksAreTaken :
    (∀ i ∈ [Instr.hintHeavy 0 1 0 0, .hintHeavy 0 128 8 1, .hintLight 0 1 0 0, .hintLight 0 128 8 1, .mark 0 1 0 0, .mark 0 5 2 9],
      Takes i (showing i controlCtx demo) 0 controlCtx seat0) ∧
    1 ≤ (1 : BitVec 8).toNat ∧ (128 : BitVec 8).toNat ≤ 128 ∧ 1 ≤ (1 : BitVec 4).toNat ∧ (5 : BitVec 4).toNat ≤ 5 := by
  refine ⟨fun i hi => ?_, by decide⟩
  simp only [List.mem_cons, List.not_mem_nil, or_false] at hi
  rcases hi with rfl | rfl | rfl | rfl | rfl | rfl <;> exact takes_of _ _ _ (by decide +kernel)

/-- STEP in every context with nothing outstanding, with a command outstanding and with a queue that is not empty; and step-ready. -/
theorem test_wit_StepHoldsItsContext :
    (∀ c : CtxId, Takes (.step 0 c) (showing (.step 0 c) c demo) 0 c seat0) ∧
    ((∀ c, ((demo.tiles.get 0).seqr.ctxs.get c).outstanding = []) ∧ (demo.tiles.get 0).stream.allEmpty = true) ∧
    (let s := demoQueue (some (arming putTile true)) none
     Takes (.step 0 2) (showing (.step 0 2) 2 s) 0 2 seat0 ∧ (s.tiles.get 0).stream.allEmpty = false) ∧
    (let s := demoCtxs fun k => { k with outstanding := [7] }
     Takes (.step 0 1) (showing (.step 0 1) 1 s) 0 1 seat0 ∧ ((s.tiles.get 0).seqr.ctxs.get 1).outstanding ≠ []) ∧
    (let s := demoCtxs fun k => { k with state := .atStep }
     s.seat 0 = some seat0 ∧ (s.tiles.get 0).seqr.stepReady = false ∧ (∀ c, ((s.tiles.get 0).seqr.ctxs.get c).state = .atStep) ∧
      (s.tiles.get 0).allPassed = true ∧ (s.tiles.get 0).island.state = .running ∧ (s.parts.get 0).run.halted = false) :=
  ⟨fun c => takes_of _ _ _ (by fin_cases c <;> decide +kernel), by decide +kernel, ⟨takes_of _ _ _ (by decide +kernel), by decide +kernel⟩,
    ⟨takes_of _ _ _ (by decide +kernel), by decide +kernel⟩, by decide +kernel⟩

/-- The last page of the buffer's reach; a page that passes its checks, and one that fails them for the first and for the second time. -/
theorem test_wit_PagesAreRequestedAndChecked :
    (let s := demoCtxs fun k => { k with pages := [] }
     s.seat 0 = some seat0 ∧ (s.tiles.get 0).island.state = .running ∧
      (∀ c : CtxId, let k := (s.tiles.get 0).seqr.ctxs.get c
        0 < (seat0.image.listPages seat0.logical c.1).2 ∧ k.firstPage ≤ 0 ∧ 0 < k.firstPage + 8 ∧ k.pages.any (fun g => g.page == 0) = false ∧ k.pages.length < 8) ∧
      (s.tiles.get 0).stream.outstanding [3, 4] + (s.tiles.get 0).seqr.pageReads < (s.parts.get 0).allowance) ∧
    (∀ bs ∈ [demoPage, []], (demoAsked bs).seat 0 = some seat0 ∧ ((demoAsked bs).tiles.get 0).stream.received = [pagePacket bs] ∧ pktKind (pagePacket bs) = 3 ∧ pktFlow (pagePacket bs) = 32 + 0 ∧
      (((demoAsked bs).tiles.get 0).seqr.ctxs.get 0).pages.any (fun g => g.page == bits (pagePacket bs).w1.toNat 31 0 && g.bytes.isNone) = true) ∧
    (demoPage.take (pktLength (pagePacket demoPage)) = demoPage ∧ pageOk demoPage 0 0 0 = true) ∧
    (pageOk (([] : List Byte).take (pktLength (pagePacket []))) 0 0 0 = false ∧ ((demoAsked []).parts.get 0).run.structFails.any (sameStruct pageFail) = false) ∧
    (let s := (demoAsked []).modPart 0 fun p => { p with run := { p.run with structFails := [pageFail] } }
     (s.parts.get 0).run.structFails.any (sameStruct pageFail) = true ∧ MayRetry 0 s) := by
  refine ⟨by decide +kernel, fun bs h => ⟨?_, by simp only [demoAsked, hasRead, State.modTile_get_same], by simp only [pktKind, pagePacket]; decide, by simp only [pktFlow, pagePacket]; decide, ?_⟩, ⟨?_, demoPage_ok⟩,
    ⟨by decide +kernel, by decide +kernel⟩, by decide +kernel, ⟨by decide +kernel, by decide +kernel, by decide +kernel, by decide +kernel, by decide +kernel⟩⟩
  · simp only [List.mem_cons, List.not_mem_nil, or_false] at h
    rcases h with rfl | rfl <;> decide +kernel
  · simp only [List.mem_cons, List.not_mem_nil, or_false] at h
    rcases h with rfl | rfl <;> decide +kernel
  · have h : pktLength (pagePacket demoPage) = 4096 := by simp only [pktLength, pagePacket]; decide
    rw [h, List.take_of_length_le]
    simp only [demoPage, wordsBytes_length, sealCrc_length, List.length_replicate]
    decide

/-- A command fault while a retry is possible. -/
theorem test_wit_ACommandFaultStopsItsContext : demo.seat 0 = some seat0 ∧ MayRetry 0 demo :=
  ⟨by decide +kernel, by decide +kernel, by decide +kernel, by decide +kernel, by decide +kernel, by decide +kernel⟩

/-- A packet into slice 0 at an offset, from tile 0. -/
def stackPacket (kind off : Nat) (bs : List Byte) : Packet := mkPacket kind 2 (epStack 0) (epTile 0) 0 (sliceAddr 0 off) 0 1 0 0 0 bs
/-- A request for part `k` of a block of a weight, of its whole depth of 32. -/
def partPacket (h k g : Nat) : Packet := stackPacket 2 0 (requestBody h (32 * 2 ^ 16 + k) 8192 g)

/-- The state of a tensor that transfers may write and read in its two buffers, packets to a page and to a region of the base die's own. -/
theorem test_wit_BaseDiesStoreAndServeTheirSlices :
    ((∃ q m, demo.stackSeat 0 (stackPacket 1 229376 [1]) = some (q, m, .byte ⟨20, .data, true⟩ 0, 229376) ∧ q.open_ m ⟨20, .data, true⟩ true = true) ∧
      pktKind (stackPacket 1 229376 [1]) = 1 ∧ isRead (stackPacket 1 229376 [1]) = false) ∧
    ((∃ q m, demo.stackSeat 0 (stackPacket 2 225280 (requestBody 20 64 0 0)) = some (q, m, .byte ⟨20, .data, false⟩ 0, 225280) ∧ q.open_ m ⟨20, .data, false⟩ false = true) ∧
      isRead (stackPacket 2 225280 (requestBody 20 64 0 0)) = true) ∧
    ((∃ q m, demo.stackSeat 0 (stackPacket 2 0 (requestBody 0 4096 0 0)) = some (q, m, .page 0, 0)) ∧ isRead (stackPacket 2 0 (requestBody 0 4096 0 0)) = true) ∧
    (∃ q m, demo.stackSeat 0 (stackPacket 1 4096 [1]) = some (q, m, .byte ⟨16, .masterHigh, false⟩ 0, 4096) ∧ q.open_ m ⟨16, .masterHigh, false⟩ true = false ∧
      q.open_ m ⟨16, .masterHigh, false⟩ false = false) := by
  refine ⟨⟨⟨demo.parts.get 0, demoImage, by with_unfolding_all rfl, by decide +kernel⟩, by decide +kernel⟩,
    ⟨⟨demo.parts.get 0, demoImage, by with_unfolding_all rfl, by decide +kernel⟩, by decide +kernel⟩,
    ⟨⟨demo.parts.get 0, demoImage, by with_unfolding_all rfl⟩, by decide +kernel⟩,
    ⟨demo.parts.get 0, demoImage, by with_unfolding_all rfl, by decide +kernel⟩⟩

/-- A scale table of the FP8 weight for step 3. -/
def demoTable : ScaleTable := ⟨17, 3, 1, 0, 0, 3, 0, List.replicate 512 127⟩
/-- The partition with the table of its FP8 weight. -/
def demoTabled : State := demoPartWith fun p => { p with weights := { p.weights with tables := [(17, demoTable)] } }

/-- Parts of the BF16 weight: its scale area, elements, and one beyond the valid depth; a part of the FP8 weight whose group is due, and one marked failed. -/
theorem test_wit_SkiverServesWeightParts :
    let w : TensorDecl := ⟨16, 1, 6, 0, 0, 0, 0, 1, 0, 32, 256, 0⟩
    let v : TensorDecl := ⟨17, 1, 3, 0, 0, 0, 0, 0, 0, 32, 512, 0⟩
    let failed := demoPartWith fun p => { p with weights := { p.weights with groups := [((16, 0), .updateFailed)] } }
    (∀ k ∈ [0, 1, 64], (demo.parts.get (pktPart (partPacket 16 k 0))).image = some demoImage ∧ demoImage.tensor (partAsk (partPacket 16 k 0)).handle = some w ∧
      pktKind (partPacket 16 k 0) = 2 ∧ pktDst (partPacket 16 k 0) = epStack 0 ∧ (demo.parts.get 0).state = .loaded ∧ w.kind = 1 ∧ (demo.stackDies.get 0).power = .up ∧
      (demo.parts.get 0).partStack demoImage w 0 = some 0 ∧ (partAsk (partPacket 16 k 0)).part = k ∧ (partAsk (partPacket 16 k 0)).group = 0) ∧
    w.swept = false ∧ (partAsk (partPacket 16 1 0)).beyond w = false ∧ (demo.parts.get 0).weights.group 16 0 ≠ .updateFailed ∧ (partAsk (partPacket 16 64 0)).beyond w = true ∧
    (demoImage.tensor (partAsk (partPacket 17 1 0)).handle = some v ∧ (demoTabled.parts.get 0).partStack demoImage v 0 = some 0 ∧ (partAsk (partPacket 17 1 0)).beyond v = false ∧
      v.swept = true ∧ ((demoTabled.parts.get 0).weights.group 17 (0 - ((demoTabled.parts.get 0).part v).1 / 2048)).due = true ∧ ((demoTabled.parts.get 0).tableNow 17).isSome = true) ∧
    (failed.parts.get 0).weights.group 16 (0 - ((failed.parts.get 0).part w).1 / 2048) = .updateFailed ∧ (failed.parts.get 0).partStack demoImage w 0 = some 0 := by decide +kernel

/-- A sweep with its tables present, a slot of the FP8 weight, and mismatches of a swept and of an updated group. -/
theorem test_wit_TheSweepNarrowsAndMismatchesRepeat :
    (let s := demoPartWith fun p => { p with weights := { p.weights with tables := [(17, demoTable)] } }
     (s.parts.get 0).image = some demoImage ∧ (s.parts.get 0).state = .loaded ∧ (s.parts.get 0).run.halted = false ∧ (s.stackDies.get 0).power = .up ∧
      (∀ d ∈ demoImage.sweepOrder, ((s.parts.get 0).tableNow d.handle).isSome = true) ∧ demoImage.sweepOrder.length = 1 ∧
      ∃ d, demoImage.tensor (17 : BitVec 32).toNat = some d ∧ (s.parts.get 0).ringHolder demoImage d 0 = some 0) ∧
    (∀ burn : Bool, let s := demoPartWith fun p => { p with weights := { p.weights with groups := [((16, 3), .updated), ((17, 7), .swept)] } }
      let r : GroupRef := if burn then ⟨0, 16, 3⟩ else ⟨0, 17, 7⟩
      ∃ d, s.groupSeat 0 r = some (demoImage, d) ∧ (s.parts.get 0).weights.mismatched.contains (d.handle, r.group, burn) = false ∧
        (if burn then (s.parts.get 0).weights.group d.handle r.group = .updated ∨ (s.parts.get 0).weights.group d.handle r.group = .updateFailed
         else (s.parts.get 0).weights.group d.handle r.group = .swept ∨ (s.parts.get 0).weights.group d.handle r.group = .sweepFailed)) := by
  refine ⟨⟨by decide +kernel, by decide +kernel, by decide +kernel, by decide +kernel, by decide +kernel, by decide +kernel,
    ⟨17, 1, 3, 0, 0, 0, 0, 0, 0, 32, 512, 0⟩, by decide +kernel⟩, ?_⟩
  intro burn
  cases burn
  · exact ⟨⟨17, 1, 3, 0, 0, 0, 0, 0, 0, 32, 512, 0⟩, by decide +kernel⟩
  · exact ⟨⟨16, 1, 6, 0, 0, 0, 0, 1, 0, 32, 256, 0⟩, by decide +kernel⟩

/-- A block of the bucket, as delivered. -/
def deliveredBlock (i : Nat) : WireBlock := ⟨i, [], 0, false, 0, 1, .carried, [], 0, true, 0, 0, false, false⟩
/-- The bucket of the image with some blocks. -/
def demoBucket (blocks : List WireBlock) : Bucket :=
  ⟨48, [], false, none, false, 0, [], blocks, [], 0, 0, [], [], [], Vector.replicate 4 0, 0, [], false⟩

/-- The last group of the BF16 weight with its accumulation buffer final, under an update program of rule 2. -/
theorem test_wit_BurnisherWritesTheAlternateBuffers :
    let s := demoPartWith fun p => { p with reduce := { p.reduce with buckets := [demoBucket ((List.range 64).map fun i => deliveredBlock (192 + i))] } }
    ∃ d u, s.groupSeat 0 ⟨0, 16, 3⟩ = some (demoImage, d) ∧ demoImage.programs[d.program - 1]? = some u ∧ u.rule = 2 ∧ (s.stackDies.get 0).power = .up ∧
      (s.parts.get 0).updatable demoImage d 3 = true :=
  ⟨⟨16, 1, 6, 0, 0, 0, 0, 1, 0, 32, 256, 0⟩, ⟨2, 0, 0x3F666666, 0x3F7FBE77, 0x322BCC77, 0x3C23D70A, 0x3F800000, 0, [(0, 0x3F50624DD2F1A9FC)]⟩, by decide +kernel⟩

/-- A request of each kind at a Running core, requests at a core in Retain, and a wake with and without headroom. -/
theorem test_wit_CoreRequestsDrainAndWake :
    (demo.tiles.get 0).island.state = .running ∧ (demo.tiles.get 0).island.inCtl.length < 8 ∧
    ((demoIsland fun i => { i with state := .retain }).tiles.get 0).island.state = .retain ∧ 2 ≤ (2 : BitVec 2).toNat ∧
    (let s := demoIsland fun i => { i with state := .off }
     (s.tiles.get 0).island.state = .off ∧ (s.tiles.get 0).island.fenced = false ∧ (s.tiles.get 0).island.weltFailed = false ∧ (s.dies.get (dieOf 0)).requests = [] ∧
      (s.dies.get (dieOf 0)).softStartTile = none ∧ 40 ≤ s.headroom (dieOf 0) 0) := by decide +kernel

/-- A core that drains, with the final write pointers in its inbound control crossing. -/
def drainIsland : Island :=
  { demoTile.island with state := .draining, quiesced := true, finalSent := true, inCtl := [finalWord 0 0, finalWord 1 0, finalWord 2 0, finalWord 3 0] }

/-- Every step of a drain. -/
theorem test_wit_ADrainRunsToItsTarget :
    (let s := demoIsland fun i => { i with state := .draining, inCtl := [quiesceWord] }
     (s.tiles.get 0).island.state = .draining ∧ (s.tiles.get 0).island.inCtl.contains quiesceWord = true ∧ (s.tiles.get 0).island.finalSent = false ∧
      ((s.tiles.get 0).island.inCtl.erase quiesceWord).length ≤ 4 ∧ ((s.tiles.get 0).router.bufs.any fun e => e.won) = false) ∧
    (let s := demoIsland fun _ => drainIsland
     (s.tiles.get 0).island.state = .draining ∧ (s.tiles.get 0).island.quiesced = true ∧ (s.tiles.get 0).island.finalSent = true ∧
      (∀ w ∈ (s.tiles.get 0).island.finals, (s.tiles.get 0).island.inCtl.contains w = true) ∧ (s.tiles.get 0).island.outCtl.length < 8) ∧
    (let s := demoIsland fun i => { i with state := .draining, outCtl := [ackWord], acked := true }
     (s.tiles.get 0).island.state = .draining ∧ (s.tiles.get 0).island.outCtl.contains ackWord = true ∧ (s.tiles.get 0).island.acked = true ∧
      (s.tiles.get 0).outboundEmpty = true ∧ (s.tiles.get 0).island.held = none) := by
  refine ⟨by decide +kernel, ?_, by decide +kernel⟩
  have h : ((demoIsland fun _ => drainIsland).tiles.get 0).island = drainIsland := by simp only [demoIsland, demoWith, State.modTile_get_same]
  have f : drainIsland.finals = drainIsland.inCtl := by decide +kernel
  simp only [h]
  refine ⟨by decide +kernel, by decide +kernel, by decide +kernel, fun w hw => ?_, by decide +kernel⟩
  rw [f] at hw
  exact List.contains_iff_mem.mpr hw

/-- A drain without its acknowledgement and a core that is not Off. -/
theorem test_wit_ForcedClosesAreCounted :
    (let s := demoIsland fun i => { i with state := .draining }
     (s.tiles.get 0).island.state = .draining ∧ (s.tiles.get 0).island.acked = false ∧ (s.tiles.get 0).island.held = none ∧ (s.tiles.get 0).island.state ≠ .off) := by decide +kernel

/-- A wake before and after its ready word, with a test under way, with a scrub due, and with neither. -/
theorem test_wit_AWakeEndsRunningOrFenced :
    (let s := demoWith fun x => { x with island := { x.island with state := .waking, outCtl := [readyWord] }, power := { x.power with softStart := true } }
     (s.tiles.get 0).island.state = .waking ∧ (s.tiles.get 0).power.softStart = true ∧ (s.tiles.get 0).island.outCtl.length < 8 ∧
      (s.tiles.get 0).island.outCtl.contains readyWord = true ∧ (s.tiles.get 0).test.last ≠ .running ∧ (s.tiles.get 0).island.scrubDue = false ∧
      (s.tiles.get 0).island.fenced = false ∧ (s.tiles.get 0).island.held = none) ∧
    (let s := demoWith fun x => { x with island := { x.island with state := .waking, outCtl := [readyWord] }, test := { x.test with last := .running } }
     (s.tiles.get 0).island.state = .waking ∧ (s.tiles.get 0).island.outCtl.contains readyWord = true ∧ (s.tiles.get 0).test.last = .running) ∧
    (let s := demoIsland fun i => { i with state := .waking, outCtl := [readyWord], scrubDue := true }
     (s.tiles.get 0).island.state = .waking ∧ (s.tiles.get 0).island.outCtl.contains readyWord = true ∧ (s.tiles.get 0).test.last ≠ .running ∧
      (s.tiles.get 0).island.scrubDue = true ∧ (s.tiles.get 0).island.fenced = false) := by decide +kernel

/-- A packet from tile 1 to tile 0, one whose header fails, and an acknowledgement. -/
def localPut : Packet := ⟨0x0600001ffc000001, 4096, 0x000000000103e000, 0x1a3aa22f00000000, [7]⟩
def localAck : Packet := ⟨0x1100001ffc000001, 4096, 0x000000000103e000, 0x382084ce00000000, [7]⟩
def localBad : Packet := ⟨0x0600001ffc000001, 4096, 0x000000000103e000, 1, [7]⟩

/-- Heads that win the local port of a core with its ingress open and of a Stopped one: sound ones of both kinds, one whose header fails and one with a flit that cannot
be corrected; and a head that a full crossing keeps waiting. -/
theorem test_wit_TheLocalPortDeliversOrAnswers :
    (∀ p ∈ [localPut, localAck, localBad], ((demo.atLocal 0 p).localWinner 0).map (fun e => (e.packet, e.cut)) = some (p, false)) ∧
    (let s := demoIsland fun i => { i with state := .stopped }
     (s.tiles.get 0).island.weltFailed = false ∧ (s.tiles.get 0).island.cause = some 0x3 ∧
      ((s.atLocal 0 localPut).localWinner 0).map (fun e => (e.packet, e.cut)) = some (localPut, false)) ∧
    (∀ p ∈ [localPut, localAck], pktCrcOk p = true ∧ pktKindOk p = true ∧ pktDst p ≠ epWelt 0 ∧ demo.seqFresh (epTile 0) p = true) ∧
    pktCrcOk localBad = false ∧ uncorrectable [3] = true ∧ uncorrectable [2] = false ∧ (demo.tiles.get 0).island.cause = none ∧
    (demo.tiles.get 0).island.weltFailed = false ∧
    (let s := demoIsland fun i => { i with inWritten := Vector.replicate 4 16 }
     (s.tiles.get 0).island.weltFailed = false ∧ (s.atLocal 0 localPut).localWinner 0 = none) := by
  refine ⟨by decide +kernel, by decide +kernel, by decide +kernel, by decide +kernel, by decide +kernel⟩

/-- A welt and a die that work. -/
theorem test_wit_FailuresOfWeltsAndDies : (demo.tiles.get 0).island.weltFailed = false ∧ (demo.dies.get 71).railLost = false := by decide +kernel


/-- The words of a Buckle message: kind, list, sender, Buckle, count, target and command. -/
def buckleWords (kind list source buckle count target cmd : Nat) : List Word64 :=
  sealCrc [mkWord [at_ 60 kind, at_ 58 list, at_ 48 source, at_ 32 buckle, at_ 0 count], 0, mkWord [at_ 32 target, at_ 0 cmd], 0] 3
/-- Partition 0 with the last Buckle of its range at home on the welt of tile 1. -/
def demoHome : State := demoPartWith fun p => { p with place := { p.place with homes := [(4095, .welt 1)], totals := [(4095, 2)] } }
/-- A state with every router's links up. -/
def meshOf (s : State) : State := { s with tiles := s.tiles.map fun x => { x with router := { x.router with linkUp := Vector.replicate 4 true } } }

/-- Each message at its home, and an arrive message of a generation that has passed. -/
theorem test_wit_BuckleMessagesReachTheirHome :
    HomeReady demoHome 1 (buckleWords 1 0 0 4095 2 0 0) 0 1 ∧ HomeReady demoHome 2 (buckleWords 2 3 0 4095 0 1 5) 0 1 ∧
    HomeReady demoHome 3 (buckleWords 3 3 0 4095 1 1 5) 0 1 ∧
    (let s : State := { demoHome with ranges := demoHome.ranges.set 0 ⟨3, []⟩ }
     let ws := buckleWords 1 0 0 4095 2 0 0
     let m := buckleOfWords ws
     m.kind = 1 ∧ ws.length = 4 ∧ crcOk ws 3 = true ∧ s.messagePacket ws = none ∧ s.partOfBuckle m.buckle = some 0 ∧
      (∀ u, tileOfEp (s.messageDst (some 0) ws m) = some u → (s.tiles.get u).island.weltFailed = false) ∧
      m.generation.toNat < (s.ranges.get (rangeOf m.buckle)).generation.toNat ∧ s.closingOf m = none) := by
  refine ⟨⟨by decide +kernel, by decide +kernel, by decide +kernel, by decide +kernel, by decide +kernel, by decide +kernel, by decide +kernel, by decide +kernel⟩,
    ⟨by decide +kernel, by decide +kernel, by decide +kernel, by decide +kernel, by decide +kernel, by decide +kernel, by decide +kernel, by decide +kernel⟩,
    ⟨by decide +kernel, by decide +kernel, by decide +kernel, by decide +kernel, by decide +kernel, by decide +kernel, by decide +kernel, by decide +kernel⟩, by decide +kernel⟩

/-- A satisfy message at its waiting list. -/
theorem test_wit_ASatisfyMessageIssuesTheWait :
    let s := demoCtxs fun k => { k with state := .atBuckle, arrwaitSent := true }
    let ws := buckleWords 4 3 0 4095 0 0 0
    let m := buckleOfWords ws
    s.seat 0 = some seat0 ∧ ws.length = 4 ∧ crcOk ws 3 = true ∧ m.kind = 4 ∧
      BitVec.ofNat 32 (bits (wordAt ws 3) 31 0) = (Assoc.get (s.satisfySource 0 ws, epTile 0) s.fabric.buckleSeqIn).getD 0 ∧
      m.generation = (s.ranges.get (rangeOf m.buckle)).generation ∧ m.source = seat0.logical ∧
      ((s.tiles.get 0).seqr.ctxs.get (Fin.ofNat 4 m.list)).pos = m.cmd ∧ ((s.tiles.get 0).seqr.ctxs.get (Fin.ofNat 4 m.list)).arrwaitSent = true ∧
      s.live 0 (Fin.ofNat 4 m.list) = true := by decide +kernel

/-- Closing counts that pass and fail in one window, and a Buckle at home on a welt to probe. -/
theorem test_wit_ClosingCountsAndTheProbe :
    (let s := demoPartWith fun p => { p with closing := [⟨1, 0, 2, 2, 900⟩, ⟨2, 0, 1, 2, 900⟩, ⟨1, 1, 2, 2, 950⟩] }
     let all := (s.parts.get 0).closing
     let cs := all.filter fun c => c.opened == (all.head?.map (·.opened)).getD 0
     cs.length = 2 ∧ (cs.filter fun c => c.count == c.total).length = 1 ∧ (cs.filter fun c => c.count != c.total).length = 1) ∧
    demoHome.partOfBuckle 4095 = some 0 ∧ (demoHome.parts.get 0).homeOf 4095 = some (.welt 1) := by decide +kernel

/-- A marker on an open hop, the period in a module that is on, and an audit of a mesh whose pools are whole. -/
theorem test_wit_TheAuditChecksItsSums :
    (∃ a b, (meshOf demo).account (.input 0 1 0) = some (a, b)) ∧ (demo.module.state ≠ .off ∧ demo.module.state ≠ .booting) ∧ (0 : BitVec 8) ≠ 1 ∧
    (let a := demo.sendMarkers false
     (∀ z ∈ a.pools, z.2.2.2 = z.2.2.1) ∧ (∀ c, a.escapeSum c = 16384) ∧ a.overdrawn = []) :=
  ⟨⟨48, 0, by decide +kernel⟩, by decide +kernel, by decide, by decide +kernel, by decide +kernel, by decide +kernel⟩

/-- A packet of one flit from tile 0 to tile 2, and one to the base die behind the edge port of tile 1. -/
def meshPacket : Packet := ⟨0x0600800ffc000001, 4096, 0x000000000103e000, 0x8bf8327a00000000, [7]⟩
def edgePacket : Packet := ⟨0x0648001ffc000001, 0, 0x000000000103e000, 0x7cee98aa00000000, [7]⟩
/-- The packet at the local input of tile 0, before and after its head was routed to port 1. -/
def meshEntry : BufEntry := newEntry 4 2 0 meshPacket .core 1
def routedEntry : BufEntry := { meshEntry with out := some 1 }
/-- Routers with packets in the buffers of tile 0. -/
def demoRouted (es : List BufEntry) : State := (meshOf demo).modTile 0 fun x => { x with router := { x.router with bufs := es } }
/-- A Vilet port with some fields changed. -/
def demoPort (f : Port → Port) : State := demo.modPort 15 f
/-- A port in use in mode 1. -/
def portUp (x : Port) : Port := { x with state := .up, mode := 1, passing := 0xFFFF, present := true }

/-- A sound head that may leave, one whose header fails, and flits that can and cannot be corrected. -/
theorem test_wit_HeadFlitsAreRouted :
    let bad := { meshPacket with w3 := 1 }
    (∀ p ∈ [meshPacket, bad], let s := demoRouted [newEntry 4 2 0 p .core 1]
      (s.tiles.get 0).island.weltFailed = false ∧ (s.tiles.get 0).router.headAt 4 (0 : BitVec 2).toNat p = some (newEntry 4 2 0 p .core 1) ∧
      (newEntry 4 2 0 p .core 1).out = none ∧ 0 < (newEntry 4 2 0 p .core 1).got) ∧
    pktCrcOk meshPacket = true ∧ pktKindOk meshPacket = true ∧ pktCrcOk bad = false ∧ uncorrectable [2] = false ∧ uncorrectable [3] = true ∧
    ((demoRouted [meshEntry]).tiles.get 0).router.spilling.contains (4, streamKey meshPacket) = false ∧ (demoRouted [meshEntry]).nextHop 0 meshPacket = (meshPacket, .mesh 1 1) := by
  decide +kernel

/-- A routed head that its output takes. -/
theorem test_wit_FlitsPassInTurn :
    (demoRouted [routedEntry]).pick 0 1 = some routedEntry ∧ neighbour 0 1 = some 1 ∧ (1 : RPort) ≠ localPort ∧ routedEntry.sent = 0 ∧ routedEntry.flits = 1 ∧
    routedEntry.cut = false := by decide +kernel

/-- A head of the north input that loses its output to one of a lower class, an input without a head, and a starved queue of a Vilet port. -/
theorem test_wit_HistoryAndAgeing :
    (let e : BufEntry := { routedEntry with port := 2, feed := .link }
     let s := demoRouted [e, { routedEntry with cls := 0 }]
     s.starving 0 2 2 0 = some e ∧ 0 < e.cls) ∧
    (demoRouted []).starving 0 2 2 0 = none ∧
    (let f : TxFlit := { controlFlit 5 [] with type := 1, head := true }
     let s := demoPort fun x => { portUp x with credits := Vector.replicate 4 1, outQueue := [{ f with vc := 3, source := 2 }, f] }
     (s.ports.get 15).classes.get (sourceAt 3 (2 : Fin 3).1) ≠ 0 ∧ (s.ports.get 15).starves 3 (2 : Fin 3).1 = true ∧ (s.ports.get 15).starves 0 (1 : Fin 3).1 = false) := by decide +kernel

/-- A silent neighbour, entries on each side of a hop that is lost, and a set not yet in force. -/
theorem test_wit_FailedWeltsAreRoutedAround :
    (neighbour 0 1 = some 1 ∧ ((meshOf demo).tiles.get 0).router.up 1 = true ∧ ((meshOf demo).tiles.get 0).island.weltFailed = false) ∧
    (let gone : BufEntry := { routedEntry with sent := 1 }
     let coming : BufEntry := { newEntry 1 2 0 meshPacket .link 1 with flits := 4 }
     gone.out = some 1 ∧ 0 < gone.sent ∧ gone.flits ≤ gone.got ∧ coming.out ≠ some 1 ∧ coming.port = 1 ∧ coming.got < coming.flits ∧ coming.drop = false ∧
      routedEntry.out = some 1 ∧ routedEntry.sent = 0 ∧ routedEntry.port ≠ 1) ∧
    demo.fabric.alternates = false ∧
    (∀ n, ({ demo with fabric := { demo.fabric with alternates := true }, tiles := demo.tiles.map fun x => { x with
        router := { x.router with bufs := x.router.bufs.map fun e => { e with held := false } } } } : State).cutOff n = []) := by
  refine ⟨by decide +kernel, by decide +kernel, by decide +kernel, ?_⟩
  intro n; fin_cases n <;> decide +kernel

/-- Tile 0 with no credit at port 1 for VC2, and its packet waiting there. -/
def stuckMesh : State := (demoRouted [routedEntry]).modTile 0 fun x => { x with router := { x.router with
  balance := [(poolKey 1 2 (poolOf meshPacket), 0)], stuck := [(1, 2, poolOf meshPacket)] } }
/-- What a probe carries for it. -/
def meshProbe : Probe := routedEntry.probe (epWelt 0)
/-- The probe of tile 1. -/
def launched (s : State) : State := s.modTile 1 fun x => { x with router := { x.router with probe := some meshProbe } }

/-- An output with credit and one without; probes at welts and at an edge die with and without a stuck head. -/
theorem test_wit_ProbesMeetTheOldestPacket :
    ((demoRouted [routedEntry]).tiles.get 0).noCredit 0 1 2 (poolOf meshPacket) = false ∧
    ((stuckMesh.tiles.get 0).noCredit 0 1 2 (poolOf meshPacket) = true ∧
      oldest stuckMesh.time (((stuckMesh.tiles.get 0).router.blockedOn 1 2 (poolOf meshPacket)).map fun e => e.probe (epWelt 0)) = some meshProbe) ∧
    (let s := launched (demoRouted [])
     (s.tiles.get 1).router.probe = some meshProbe ∧ (s.tiles.get 0).router.anyStuck = false) ∧
    (let s := launched stuckMesh
     (s.tiles.get 1).router.probe = some meshProbe ∧ (s.tiles.get 0).router.anyStuck = true ∧ (s.tiles.get 0).router.probe.isSome = false) ∧
    (edgeAt 1 = some (0, epStack 0) ∧ (launched demo).stuckDie 1 0 (epStack 0) = [] ∧
      (let e : BufEntry := newEntry 0 2 0 meshPacket .outside 0
       let s := (launched demo).modTile 1 fun x => { x with router := { x.router with bufs := [e], edgeBalance := [(poolKey 0 2 0, 0)] } }
       s.stuckDie 1 0 (epStack 0) = [e] ∧ (s.tiles.get 1).router.probe = some meshProbe)) := by decide +kernel

/-- A probe that returns, an order for the stream of a blocked packet, a spill, and spilled packets to read back and to put back. -/
theorem test_wit_CyclesAreBrokenBySpilling :
    ((launched demo).tiles.get 1).router.probe = some meshProbe ∧
    (let s : State := { stuckMesh with fabric := { stuckMesh.fabric with spillOrders := [(1, streamKey meshPacket)] } }
     Assoc.get (1 : TileId).1 s.fabric.spillOrders = some (streamKey meshPacket) ∧ (s.tiles.get 0).blockedStream 0 (streamKey meshPacket) = [routedEntry] ∧
      s.escapeSlot (pktPart routedEntry.packet) = some (0, 0, 0) ∧ routedEntry.flits ≤ routedEntry.got) ∧
    (let p : Packet := ⟨0x3248200ffc000000, 0x0000000273fff000, 0, 0xe729bb4300000000, []⟩
     pktKind p = 0x0C ∧ escapeOffset 0 ≤ bits p.w1.toNat 33 0) ∧
    (∀ back ∈ [true, false], let z : Spilled := ⟨0, 4, 0, 0, 0, 0, meshPacket, true, back, 0⟩
     let s : State := { demo with fabric := { demo.fabric with escape := [z] } }
     (s.fabric.escape.filter fun e => e.welt == 0 && (e.stored || e.back)) = [z] ∧ s.roomFor z = true ∧ z.at_ + 1000 ≤ s.time ∧ pktFlits z.packet ≤ 128) ∧
    (let z : Spilled := ⟨0, 4, 0, 0, 0, 0, meshPacket, true, false, 500⟩
     (([z].filter fun e => e.welt == 0 && (e.stored || e.back)) = [z] ∧ demo.time < z.at_ + 1000)) := by decide +kernel

/-- A flit of a type with a sequence number, with a sound header. -/
def lineFlit (type n : Nat) : ViletFlit :=
  ⟨true, [], mkWord [at_ 60 type, at_ 0 n], BitVec.ofNat 64 (crc32cWords [mkWord [at_ 60 type, at_ 0 n], 0]), []⟩

/-- A NAK with flits left to replay, timeouts and a NAK that is outstanding. -/
theorem test_wit_ReplaysFollowNaksAndTimeouts :
    let s := demoPort fun x => { portUp x with nak := true, replayBuf := [controlFlit 5 [], { controlFlit 5 [] with seq := 1 }] }
    (s.ports.get 15).carries = true ∧ (s.ports.get 15).replayBuf.findIdx? (fun f => f.seq == (0 : BitVec 16).toNat) = some 0 ∧
      0 + 1 < (s.ports.get 15).replayBuf.length ∧ (s.ports.get 15).replayBuf ≠ [] ∧ (s.ports.get 15).nak = true := by decide +kernel

/-- An undecoded frame, a bad header, a reserved type, an idle flit, the expected flit, duplicates at both ends of their range and a number beyond it. -/
theorem test_wit_FlitsAreAcceptedInOrder :
    let s := demoPort fun x => { portUp x with rxSeq := 1 }
    (s.ports.get 15).carries = true ∧ ({ lineFlit 3 1 with decoded := false } : ViletFlit).decoded = false ∧ viletHeaderOk { lineFlit 3 1 with w1 := 0 } = false ∧
    (∀ n ∈ [1, 0, 61441, 61440], viletHeaderOk (lineFlit 3 n) = true ∧ (lineFlit 3 n).decoded = true ∧ bits (lineFlit 3 n).w0.toNat 63 60 = 3) ∧
    (viletHeaderOk (lineFlit 0 7) = true ∧ bits (lineFlit 0 7).w0.toNat 63 60 = 0) ∧ (viletHeaderOk (lineFlit 4 1) = true ∧ 3 < bits (lineFlit 4 1).w0.toNat 63 60) ∧
    [1, 0, 61441, 61440].map (fun n => ((s.ports.get 15).rxSeq + 65536 - bits (lineFlit 3 n).w0.toNat 15 0) % 65536) = [0, 1, 4096, 4097] := by decide +kernel

/-- A port in each state that loses its link. -/
theorem test_wit_LostPortsGoDown :
    ((demoPort fun x => { x with state := .retraining }).ports.get 15).state = .retraining ∧
    (let s := demoPort fun x => { x with state := .draining, vaux := true, present := true }
     (s.ports.get 15).state = .draining ∧ (s.ports.get 15).vaux = true ∧ (s.ports.get 15).present = true ∧ s.module.state ≠ .off ∧ s.module.state ≠ .booting) ∧
    ((demoPort fun x => { x with state := .training }).ports.get 15).state = .training := by decide +kernel

/-- A port with links to train, and the results of an attempt. -/
def demoTraining (f : Port → Port) : State :=
  { (demoPort fun x => f { x with state := .training, present := true, peerPermitted := 0x1E, peerPassing := 0xFFFF, echoes := 64, probeMax := 1250 }) with
    linkDies := Vector.replicate 8 { LinkDie.reset with clockStopped := false } }

/-- A port to plug in, attempts that end Up, at half rate and Down, and a port in each state that a command changes. -/
theorem test_wit_PortsTrainAndAreDisabled :
    (demo.ports.get 15).present = false ∧ demo.module.state ≠ .off ∧ demo.module.state ≠ .booting ∧
    (let s := demoTraining id
     let x := s.ports.get 15
     x.state = .training ∧ x.present = true ∧ x.halfNext = false ∧ (s.linkDies.get (linkOf 15)).failed = false ∧ (s.linkDies.get (linkOf 15)).clockStopped = false ∧
      chooseMode ⟨false, true, 0xFFFF⟩ x = 1 ∧ x.probeMax ≤ 1250 ∧ 64 ≤ x.echoes ∧ chooseMode ⟨false, true, 0⟩ x = 0) ∧
    (let s := demoPort fun x => { x with state := .down, present := true }
     (s.ports.get 15).state = .down ∧ (s.ports.get 15).present = true) ∧
    (demo.ports.get 15).state = .disabled ∧
    (((demoPort portUp).ports.get 15).state = .up ∧ ((demoPort portUp).ports.get 15).drainSent = false ∧ ((demoPort portUp).ports.get 15).drainDoneGot = false) ∧
    ((demoPort fun x => { x with state := .retraining }).ports.get 15).state = .retraining := by
  decide +kernel

/-- Notices at both ends of their range, and relocks that end in the port's mode, in mode 3 and in none, from Up and from Retraining. -/
theorem test_wit_PortsRetrain :
    (let x := (demoPort fun x => { portUp x with permitted := 0x1E, replaysInRow := 16 }).ports.get 15
     x.carries = true ∧ 1 ≤ (1 : BitVec 8).toNat ∧ (3 : BitVec 8).toNat ≤ 3 ∧ x.state = .up ∧ x.drainSent = false ∧ x.disableAfter = false ∧ x.mode ≠ 2 ∧
      modePasses x.mode 0xFFFF = true ∧ modePasses x.mode 0xFF = false ∧ ([3, 4].find? fun m => bitAt x.permitted.toNat m && modePasses m 0xFF) = some 3 ∧
      modePasses x.mode 0 = false ∧ ([3, 4].find? fun m => bitAt x.permitted.toNat m && modePasses m 0) = none ∧ demo.links.retrainLimit.toNat ≤ x.replaysInRow) ∧
    (let x := (demoPort fun x => { portUp x with state := .retraining }).ports.get 15
     x.state = .retraining ∧ x.drainSent = false ∧ x.disableAfter = false) := by decide +kernel

/-- An identity of the least length, in use and in training; a drain and its end on both paths; and a probe. -/
theorem test_wit_PortControlCommands :
    ((demoPort portUp).ports.get 15).carries = true ∧ 18 ≤ (List.replicate 18 (0 : Byte)).length ∧
    (let x := (demoTraining id).ports.get 15
     x.state = .training ∧ x.outQueue = [] ∧ x.replayBuf.length + 64 ≤ 4096 ∧ x.txSeq < 65536) ∧
    ((demoPort portUp).ports.get 15).state = .up ∧ ((demoPort portUp).ports.get 15).drainSent = false ∧ ((demoPort portUp).ports.get 15).drainDoneGot = false ∧
    (let a := demoPort fun x => { portUp x with state := .draining, drainSent := true, drainDoneSent := true }
     let b := demoPort fun x => { portUp x with state := .draining }
     (a.ports.get 15).state = .draining ∧ (a.ports.get 15).drainDoneSent = true ∧
      (b.ports.get 15).state = .draining ∧ (b.ports.get 15).drainDoneSent = false ∧ (b.ports.get 15).drainSent = false) := by decide +kernel

/-- Error ratios at and beyond the alarm, a partition that collects port tables with its last member, and ports to confirm: bound to none, with and without a cut, and of a
partition that is not Loaded. -/
theorem test_wit_PortTablesAndAlarms :
    (demo.links.errorAlarm).toNat ≤ demo.links.errorAlarm.toNat ∧
    (let s := demoPartWith fun p => { p with state := .composed, settings := { p.settings with modules := 4 } }
     (s.parts.get 0).state ≠ .free ∧ (s.parts.get 0).state ≠ .loaded ∧ 264 ≤ (List.replicate 264 (0 : Byte)).length ∧
      (3 : BitVec 16).toNat < (s.parts.get 0).settings.modules.toNat ∧ (3 : BitVec 16) ≠ (s.parts.get 0).settings.logical) ∧
    demo.partOfPort 15 = none ∧
    (let s := demoPartWith fun p => { p with ports := [15] }
     s.partOfPort 15 = some 0 ∧ Assoc.get 15 (s.parts.get 0).place.cuts = none) ∧
    (let s := demoPartWith fun p => { p with state := .composed, ports := [15], place := { p.place with cuts := [(15, 1)] } }
     s.partOfPort 15 = some 0 ∧ (s.parts.get 0).state ≠ .loaded) := by decide +kernel

/-- A contribution packet of the first block while others are missing, and a trailer for the first block. -/
theorem test_wit_ContributionsAreGathered :
    (∃ l, demo.bucketSeat 0 48 = some (demo.parts.get 0, demoImage, l)) ∧
    (let p : Packet := mkPacket 5 1 (epLink 0) (epTile 0) 0 (mkWord [at_ 32 1, at_ 0 0]) 0 0 0 0 0 (List.replicate 32 0)
     let off := bits p.w1.toNat 31 0
     let b := (demo.parts.get 0).bucketOr demoImage 48
     let blocks := (List.range ((codesOf 1 p.payload).length / 32)).map (off / 32 + ·)
     (∃ d, demoImage.decls[bits p.w1.toNat 45 32 - 1]? = some d ∧ bits (wordAt d.words 0) 63 32 = 48 ∧ d.kind = 1) ∧ pktKind p = 5 ∧ pktPart p = 0 ∧
      pktDst p = epLink 0 ∧ bits p.w1.toNat 47 46 = 0 ∧ (demo.parts.get 0).run.running = true ∧
      255 < demoImage.bucketBlocks 48 ∧ 255 ∉ b.coveredWritten ++ blocks.filter fun i => !b.coveredWritten.contains i) ∧
    (let bytes := wordsBytes (sealCrc [mkWord [at_ 32 48], mkWord [at_ 56 1, at_ 0 1], 3, 0, 5] 3)
     let ws := bytesWords bytes
     bits (wordAt ws 0) 63 32 = 48 ∧ crcOk ws 3 = true ∧ bits (wordAt ws 3) 31 0 = (demo.parts.get 0).ctl (0x200 + bits (wordAt ws 1) 47 32, 48) ∧
      wordAt ws 2 = (demo.parts.get 0).run.step ∧ bits (wordAt ws 1) 55 48 = (demo.parts.get 0).run.attempt ∧
      ((demo.parts.get 0).bucketOr demoImage 48).start = none) := by
  refine ⟨⟨_, by with_unfolding_all rfl⟩, ⟨⟨_, by with_unfolding_all rfl, by decide +kernel, by decide +kernel⟩, ?_⟩, ?_⟩ <;> decide +kernel


/-- Partition 0 as member 1 of a shard group of two. -/
def demoPeer (f : Partition → Partition) : State :=
  demoPartWith fun p => f { p with settings := { p.settings with modules := 2, logical := 1, shardWidth := 2 }, place := { p.place with routes := [(0, 15)], ring := [0, 1] } }
/-- A segment of chunk 0 of the bucket, for step 3. -/
def demoSegment : SegmentIn := ⟨[], sealCrc ([mkWord [at_ 32 48, at_ 16 0], 0, 3] ++ List.replicate 35 0) 37⟩
/-- A mark list of chunk 0, pass 1, without marks. -/
def demoMarks : List Byte := wordsBytes (sealCrc [mkWord [at_ 32 48, at_ 8 1], 3, 0, 0] 3)

/-- A block whose pass has been asked for again, and the packet that brings it. -/
def askedBlock : WireBlock := { deliveredBlock 0 with asked := true }
/-- The packet of its codes, from tile 1. -/
def resentBlock : Packet :=
  ⟨mkWord [at_ 58 5, at_ 56 1, at_ 46 (epLink 0), at_ 36 1, at_ 27 0x1FF, at_ 26 1, at_ 0 32], mkWord [at_ 32 1], 0, 0, List.replicate 32 1⟩

/-- The trailer's CRC passes. -/
theorem demoSegment_crc : crcOk demoSegment.trailer 37 = true := crcOk_sealCrc _ _ (by decide)

/-- A segment and a mark list from the other member, and a re-sent block of a contribution entry. -/
theorem test_wit_SegmentsWaitAndMarksEndPasses :
    (let s := demoPeer id
     let b := (s.parts.get 0).bucketOr demoImage 48
     (∃ l, s.bucketSeat 0 (48 : BitVec 32).toNat = some (s.parts.get 0, demoImage, l) ∧ s.heldSegments l < 4096) ∧ crcOk demoSegment.trailer 37 = true ∧
      demoSegment.trailer.length = 38 ∧
      bits (wordAt demoSegment.trailer 36) 63 32 = (Assoc.get (demoImage.bucketReverse 48).toNat (s.parts.get 0).reduce.segIn).getD 0 ∧
      bits (wordAt demoSegment.trailer 0) 63 32 = 48 ∧ bits (wordAt demoSegment.trailer 0) 31 16 = 0 ∧ wordAt demoSegment.trailer 2 = (s.parts.get 0).run.step ∧
      bits (wordAt demoSegment.trailer 3) 63 56 = (s.parts.get 0).run.attempt ∧ (s.parts.get 0).run.running = true ∧ b.full = false ∧ b.late = false ∧
      (s.parts.get 0).replay.replaying = false ∧
      (let ws := bytesWords demoMarks
       bits (wordAt ws 0) 63 32 = 48 ∧ crcOk ws 3 = true ∧ bits (wordAt ws 3) 31 0 = (s.parts.get 0).ctl (chanMarkIn (bits (wordAt ws 0) 31 16), 48) ∧
        wordAt ws 1 = (s.parts.get 0).run.step ∧ bits (wordAt ws 2) 63 56 = (s.parts.get 0).run.attempt ∧ bits (wordAt ws 0) 31 16 ≠ (s.parts.get 0).shard ∧
        b.start = none)) ∧
    (let s := demoPartWith fun p => { p with reduce := { p.reduce with
        contributions := [⟨1, 48, 0, 64, 1, 0, 8192, 0⟩], buckets := [demoBucket [askedBlock]] } }
     let s := { s with fabric := { s.fabric with inFlight := [resentBlock] } }
     let b := (s.parts.get 0).bucketOr demoImage 48
     s.bucketSeat 0 (48 : BitVec 32).toNat = some (s.parts.get 0, demoImage, 0) ∧ b.block 0 = some askedBlock ∧ askedBlock.asked = true ∧
      s.resendPacket 0 demoImage 0 48 askedBlock = some resentBlock ∧
      ((s.parts.get 0).reduce.contributions.any fun c => c.logical == (1 : BitVec 8).toNat && c.covers 48 0) = true ∧ b.start = none) := by
  refine ⟨⟨⟨_, by with_unfolding_all rfl, by decide +kernel⟩, demoSegment_crc, by decide +kernel⟩, ⟨by with_unfolding_all rfl, by decide +kernel⟩⟩

/-- A tile that runs, with an omission to rewrite; a bucket that has started and is not full, with an operation that waits. -/
theorem test_wit_TilesRewriteAndLateMembersAreLeftOut :
    (let s := demoPartWith fun p => { p with reduce := { p.reduce with buckets := [{ demoBucket [] with rewrites := [1] }] } }
     (∃ l, s.bucketSeat 0 (48 : BitVec 32).toNat = some (s.parts.get 0, demoImage, l)) ∧ s.runningTile 0 (1 : BitVec 8).toNat = some 1 ∧
      ((s.parts.get 0).bucketOr demoImage 48).rewrites.contains (1 : BitVec 8).toNat = true) ∧
    (let s := demoPeer fun p => { p with reduce := { p.reduce with buckets := [{ demoBucket [] with start := some 0, active := [(0, 1)] }] } }
     let b := (s.parts.get 0).bucketOr demoImage 48
     (∃ l, s.bucketSeat 0 (48 : BitVec 32).toNat = some (s.parts.get 0, demoImage, l)) ∧ b.start = some 0 ∧ b.full = false ∧ b.late = false ∧
      s.collective.late = 0 ∧ (s.parts.get 0).replay.replaying = false ∧ 1 < (s.parts.get 0).width ∧ (s.parts.get 0).waitingPass demoImage (48 : BitVec 32).toNat ≠ none) := by
  refine ⟨⟨⟨_, by with_unfolding_all rfl⟩, by decide +kernel⟩, ⟨⟨_, by with_unfolding_all rfl⟩, by decide +kernel⟩⟩

/-- A second data tensor, and a permute declaration that moves it by the map that the first data tensor holds. -/
def permuteImage : Image :=
  { demoImage with
    tensors := demoImage.tensors ++ [⟨21, 6, 7, 0, 0, 0, 0, 0, 64, 16, 0, 4096⟩]
    decls := demoImage.decls ++ [⟨3, 0, [mkWord [at_ 32 21, at_ 0 20], 2]⟩] }
/-- Partition 0 as member 0 of two, with a map that swaps the one block of the tensor with the other member. -/
def demoSwap : State :=
  demoPartWith fun p =>
    { p with
      image := some permuteImage
      settings := { p.settings with modules := 2, logical := 0, shardWidth := 2 }
      place := { p.place with routes := [(1, 15)], ring := [0, 1] }
      weights := p.weights.writeRuns (p.tensorRegions permuteImage 20 false) 0 (wordsBytes [0, at_ 48 1, at_ 48 1, 0]) (p.writeTag permuteImage) }
/-- A gather packet of a part of group 3. -/
def demoGather (part depth : Nat) : Packet := ⟨0, 0, 0, 0, wordsBytes [mkWord [at_ 32 16, at_ 0 part, at_ 16 depth], 3]⟩
/-- Partition 0 as member 1, whose link die 7 holds a gather of member 0. -/
def gatherAsked (part depth : Nat) (f : Partition → Partition) : State :=
  ((demoPeer f).modPort 15 fun q => { q with matched := true }).modLink 7 fun l => { l with asks := [⟨0, 0, demoGather part depth, 0⟩] }
/-- A node copy of the last block. -/
def demoCopy : List Byte := wordsBytes (sealCrc ([mkWord [at_ 32 48, at_ 0 255], 0, 3, 0] ++ List.replicate 16 0) 3)

/-- The words of the copy. -/
theorem demoCopy_words : bytesWords demoCopy = sealCrc ([mkWord [at_ 32 48, at_ 0 255], 0, 3, 0] ++ List.replicate 16 0) 3 := bytesWords_wordsBytes _

/-- Its CRC passes. -/
theorem demoCopy_crc : crcOk (bytesWords demoCopy) 3 = true := by rw [demoCopy_words]; exact crcOk_sealCrc _ _ (by decide)

/-- Its sequence number is 0. -/
theorem demoCopy_seq : bits (wordAt (bytesWords demoCopy) 3) 31 0 = 0 := by rw [demoCopy_words, sealCrc_low _ _ (by decide)]; decide

/-- A final block to deliver, a node copy of the last block, and norm sums of the step before. -/
theorem test_wit_FinalBlocksGathersAndPermutes :
    (let w : WireBlock := { deliveredBlock 255 with delivered := false, fate := .final, sums := List.replicate 32 1 }
     let s := demoPartWith fun p => { p with reduce := { p.reduce with buckets := [demoBucket [w]] } }
     ∃ l r, DeliveryReady s 0 (48 : BitVec 32).toNat 255 demoImage l w r ⟨16, 1, 6, 0, 0, 0, 0, 1, 0, 32, 256, 0⟩) ∧
    (let s := demoPeer id
     let ws := bytesWords demoCopy
     (∃ l, s.bucketSeat 0 (48 : BitVec 32).toNat = some (s.parts.get 0, demoImage, l)) ∧ bits (wordAt ws 0) 63 32 = 48 ∧ bits (wordAt ws 0) 31 0 = 255 ∧
      crcOk ws 3 = true ∧ bits (wordAt ws 3) 31 0 = 0 ∧ (s.parts.get 0).ctl (chanCopyIn ((s.parts.get 0).chunkOf demoImage 48 255), 48) = 0 ∧
      wordAt ws 2 = (s.parts.get 0).run.step ∧ bits (wordAt ws 1) 63 56 = (s.parts.get 0).run.attempt ∧
      (s.parts.get 0).chunkOf demoImage 48 255 ≠ (s.parts.get 0).shard ∧ (s.parts.get 0).holdsBlock demoImage 48 255 = true) ∧
    (let s := demoPeer id
     let ws := sealCrc [at_ 32 16, 2, 0, 0] 3
     crcOk ws 3 = true ∧ bits (wordAt ws 3) 31 0 = (s.parts.get 0).ctl (chanNormIn (0 : BitVec 16).toNat, bits (wordAt ws 0) 63 32) ∧
      wordAt ws 1 + 1 = (s.parts.get 0).run.step) := by
  refine ⟨⟨_, _, ⟨by with_unfolding_all rfl, by decide +kernel, by with_unfolding_all rfl, by decide +kernel, by decide +kernel, by decide +kernel, by decide +kernel, by decide +kernel⟩⟩,
    ⟨⟨_, by with_unfolding_all rfl⟩, by decide +kernel, by decide +kernel, demoCopy_crc, demoCopy_seq, by decide +kernel⟩, by decide +kernel⟩

/-- A gather of the table area, of a part beyond the depth and of a plain part, and one by a member that this module has passed at its commit. -/
theorem test_wit_AGatherIsServed :
    (∀ x ∈ [(0, 32), (2, 8), (1, 32)],
      let s := gatherAsked x.1 x.2 id
      let q := demoGather x.1 x.2
      let p := s.parts.get 0
      let a := partAsk q
      p.image = some demoImage ∧ p.state = .loaded ∧
      (s.linkDies.get 7).asks.find? (fun z => z.part == 0 && z.member == (0 : BitVec 16).toNat && z.packet == q) = some ⟨0, 0, q, 0⟩ ∧
      demoImage.tensor a.handle = some ⟨16, 1, 6, 0, 0, 0, 0, 1, 0, 32, 256, 0⟩ ∧
      (∃ k, p.partStack demoImage ⟨16, 1, 6, 0, 0, 0, 0, 1, 0, 32, 256, 0⟩ a.group = some k ∧ (s.stackDies.get k).power = .up) ∧
      p.mayServe (0 : BitVec 16).toNat = true ∧ p.matchedPort s.ports (0 : BitVec 16).toNat = some 15) ∧
    ((partAsk (demoGather 0 32)).part = 0 ∧ (partAsk (demoGather 2 8)).part ≠ 0 ∧
      (partAsk (demoGather 2 8)).beyond ⟨16, 1, 6, 0, 0, 0, 0, 1, 0, 32, 256, 0⟩ = true ∧ (partAsk (demoGather 1 32)).part ≠ 0 ∧
      ((gatherAsked 1 32 id).parts.get 0).weights.group 16 (3 - (((gatherAsked 1 32 id).parts.get 0).part ⟨16, 1, 6, 0, 0, 0, 0, 1, 0, 32, 256, 0⟩).1 / 2048) ≠ .updateFailed) ∧
    ((gatherAsked 1 32 fun p => { p with run := { p.run with record := some (3, 0, []) } }).parts.get 0).mayServe (0 : BitVec 16).toNat = false := by
  refine ⟨?_, by decide +kernel, by decide +kernel⟩
  intro x hx
  simp only [List.mem_cons, List.not_mem_nil, or_false] at hx
  obtain rfl | rfl | rfl := hx <;>
    exact ⟨by decide +kernel, by decide +kernel, by decide +kernel, by decide +kernel, ⟨_, by with_unfolding_all rfl, by decide +kernel⟩, by decide +kernel, by decide +kernel⟩

/-- A permute whose block 0 goes to the other member and whose destination's block 0 comes from there. -/
theorem test_wit_APermuteMovesItsBlocks :
    let p := demoSwap.parts.get 0
    p.image = some permuteImage ∧ p.state = .loaded ∧
    (∃ d, permuteImage.decls[2 - 1]? = some d ∧ d.kind = 3 ∧ p.run.running = true ∧ p.run.halted = false ∧ wordAt d.words 1 = 2 ∧
      p.mapSound permuteImage (bits (wordAt d.words 0) 63 32) (bits (wordAt d.words 0) 31 0) (wordAt d.words 1) = true) ∧
    p.reduce.permuted.contains (2, 0) = false ∧ p.reduce.permuted.contains (2, 1) = false ∧ p.settings.logical.toNat = 0 ∧
    (p.mapEntry permuteImage 20 0).1 = 0 ∧ (p.mapEntry permuteImage 20 0).2.2.1 = 1 ∧
    (p.mapEntry permuteImage 20 1).1 = 1 ∧ (p.mapEntry permuteImage 20 1).2.2.1 = 0 := by
  refine ⟨by decide +kernel, by decide +kernel, ⟨_, by with_unfolding_all rfl, by decide +kernel⟩, by decide +kernel⟩

/-- The image with an FP8 activation. -/
def actImage : Image := { demoImage with tensors := demoImage.tensors ++ [⟨24, 2, 3, 0, 0, 120, 0, 0, 2, 32, 0, 0⟩] }
/-- A table of the FP8 weight: one scale and its padding. -/
def demoTableBytes : List Byte := wordsBytes (sealCrc [mkWord [at_ 32 17, at_ 24 3, at_ 20 1], 3, 1, 0, 127] 3)

/-- An activation whose table is due, a fragment for the next step, and a table of the present step for a tile. -/
theorem test_wit_ScaleTablesComeFromTheRings :
    (let s := demoPartWith fun p => { p with image := some actImage }
     (s.parts.get 0).image = some actImage ∧ (s.parts.get 0).state = .loaded ∧ (s.parts.get 0).run.record = none ∧
      (∃ d, actImage.tensor (24 : BitVec 32).toNat = some d ∧ d.handle = 24 ∧ d.scaled = true ∧ d.kind ≠ 1) ∧ (s.parts.get 0).tableNow 24 = none ∧
      (s.parts.get 0).reduce.fragments = []) ∧
    (let ws := sealCrc [at_ 32 17, mkWord [at_ 48 1, at_ 0 0], 4, 0] 3
     (demo.parts.get 0).image = some demoImage ∧ (demo.parts.get 0).state = .loaded ∧ crcOk ws 3 = true ∧
      bits (wordAt ws 3) 31 0 = (demo.parts.get 0).ctl (chanFragIn (bits (wordAt ws 1) 63 48), bits (wordAt ws 0) 63 32) ∧
      wordAt ws 2 = (demo.parts.get 0).run.step + 1) ∧
    (let s := demoPartWith fun p => { p with weights := { p.weights with tables := [(17, { demoTable with seq := 0 })] } }
     s.seat 0 = some seat0 ∧ tableSound demoTableBytes = true ∧
      ∃ c, Assoc.get (tableOfBytes demoTableBytes).handle (s.parts.get 0).weights.tables = some c ∧ c.seq = (tableOfBytes demoTableBytes).seq ∧
        c.step = (tableOfBytes demoTableBytes).step) := by
  refine ⟨⟨by decide +kernel, by decide +kernel, by decide +kernel, ⟨_, by with_unfolding_all rfl, by decide +kernel⟩, by decide +kernel⟩, by decide +kernel,
    ⟨by decide +kernel, by decide +kernel, _, by with_unfolding_all rfl, by decide +kernel⟩⟩

/-- Partition 0 with everything of step 3 done but its update-complete message. -/
def demoDone (f : Partition → Partition) : State :=
  demoPartWith fun p => f { p with
    run := { p.run with ready := [0, 1] }
    weights := { p.weights with groups := (List.range 4).map fun g => ((16, g), .updated) }
    reduce := { p.reduce with buckets := [{ demoBucket [] with doneSent := true }] }
    odd := { p.odd with checked := true } }

/-- A layer's table that is closed, a step at its boundary, a message of the other member, a comparison, and a stop with each way to end it. -/
theorem test_wit_UpdatesCompleteAndStepsAreCompared :
    (let s := demoWith fun x => { x with stamp := { x.stamp with tables := [(0, [])] } }
     s.seat 0 = some seat0 ∧ s.layerClosed 0 seat0 0 = true ∧ Assoc.get 0 (s.tiles.get 0).stamp.tables = some []) ∧
    (let p := (demoDone id).parts.get 0
     p.image = some demoImage ∧ p.boundary demoImage = true ∧ p.replay.inForce ≠ .compare) ∧
    (let p := (demoPeer id).parts.get 0
     let ws := sealCrc [at_ 48 0, 3, 0, 0] 3
     p.state = .loaded ∧ ws.length = 4 ∧ crcOk ws 3 = true ∧ zeroField ws 0 39 0 = true ∧ wordAt ws 2 = 0 ∧
      bits (wordAt ws 3) 31 0 = (Assoc.get (bits (wordAt ws 0) 63 48) p.run.updateSeq).getD 0 ∧ wordAt ws 1 = p.run.step ∧ bits (wordAt ws 0) 47 40 = p.run.attempt ∧
      p.others.contains (bits (wordAt ws 0) 63 48) = true ∧ p.run.updateIn.contains (bits (wordAt ws 0) 63 48) = false) ∧
    (let p := (demoDone fun p => { p with replay := { p.replay with inForce := .compare, references := [(3, [1])] } }).parts.get 0
     p.image = some demoImage ∧ p.referenceNow = some [1] ∧ p.replay.inForce = .compare ∧ p.replay.compared = false ∧ p.replay.stopped = false ∧
      p.boundary demoImage = true) ∧
    (let s := demoDone fun p => { p with replay := { p.replay with inForce := .compare, stopped := true } }
     let p := s.parts.get 0
     p.replay.stopped = true ∧ p.state = .loaded ∧ p.run.retry = none ∧ p.run.record = none ∧ p.run.updateSent = false ∧
      p.run.attempt + 1 ≤ s.faults.retryLimit.toNat) := by decide +kernel

/-- A step at its commit point, a base die with a flip to make, and a record with every acknowledgement in. -/
theorem test_wit_ACommitIsRecordedFlippedAndTaken :
    (let s := demoDone fun p => { p with run := { p.run with updateSent := true } }
     let p := s.parts.get 0
     p.image = some demoImage ∧ p.state = .loaded ∧ p.run.record = none ∧ p.allReady demoImage = true ∧ p.allUpdated demoImage = true ∧ p.allMembers = true ∧
      (p.written demoImage).2 = [] ∧ p.window = none ∧ p.place.totals = [] ∧ p.place.homes = []) ∧
    (let p := (demoDone fun p => { p with run := { p.run with record := some (3, 0, [16]), acksDue := [0] } }).parts.get 0
     p.image = some demoImage ∧ p.run.record = some (3, 0, [16]) ∧ [16].Nodup ∧ p.run.acksDue.contains (0 : StackId) = true) ∧
    (let p := (demoDone fun p => { p with run := { p.run with record := some (3, 0, [16]) } }).parts.get 0
     p.run.record = some (3, 0, [16]) ∧ p.run.acksDue = [] ∧ p.run.retry = none) := by decide +kernel


/-- The module in another state. -/
def demoModule (m : ModuleState) : State := { demo with module := { demo.module with state := m } }
/-- Partition 0 observed by Cinch, with a hold window from 1 to 2 µs. -/
def demoCinch (last : Option Nat) : State :=
  { (demoPartWith fun p => { p with window := some ⟨1000, 1000, none⟩ }) with cinch := { demo.cinch with observe := 1, outMode := 1, lastSeen := last } }

/-- Edges in a window at its ends and outside it, near another one and at the 40 ns, an open window, and test pulses. -/
theorem test_wit_CinchEdgesWindowsAndPulses :
    (demoCinch none).module.state.cinchOn = true ∧ (demoCinch none).watches 0 = true ∧ 8 ≤ 8 ∧
    [3994, 4000, 7999, 8000].map (fun q => (((demoCinch none).parts.get 0).window.map fun w => w.takes (q / 5 * 5)).getD false) = [false, true, true, false] ∧
    [159, 160].map (fun q => ((demoCinch (some 0)).cinch.lastSeen.map fun x => decide (q < x + 160)).getD false) = [true, false] ∧
    ((demoCinch none).parts.get 0).window = some ⟨1000, 1000, none⟩ ∧ (demoModule .configured).module.state = .configured ∧ (2 : BitVec 8) ≠ 1 := by decide +kernel

/-- Samples at the ends of the bands, an input that is lost, and a module that has power. -/
theorem test_wit_TheInputHasBandsAndRailsFall :
    1000000 < 1000001 ∧ (∀ mv ∈ [1000000, 900001, 900000, 720000, 719999, 640000, 639999, 560000, 559999, 0], mv ≤ 1000000) ∧ demo.module.state ≠ .off ∧
    ({ demo with input := { demo.input with band := .lost } } : State).input.band = .lost := by decide +kernel

/-- A working converter, phases that have been bad twice, a vertical-stage phase, a clocked core and readings of one tile. -/
theorem test_wit_ConvertersPhasesAndReadings :
    demo.module.state ≠ .off ∧ demo.module.state ≠ .booting ∧ demo.input.converters.get 31 ≠ .failed ∧
    (let s := demoWith fun x => { x with power := { x.power with badChecks := Vector.replicate 8 2 } }
     let p := (s.tiles.get 0).power
     let gone := fun (bad : BitVec 8) =>
       ((allFin 8).filter fun i => !bitAt p.phases.toNat i.1 || ((bitAt p.phases.toNat i.1 && bitAt bad.toNat i.1) && decide (2 ≤ p.badChecks.get i))).length
     (s.tiles.get 0).island.state ≠ .off ∧ p.controllerFault = false ∧ gone 0x83 = 3 ∧ gone 0x81 = 2) ∧
    ((demo.dies.get 71).railLost = false ∧ bitAt (demo.dies.get 71).phases.toNat 15 = true) ∧
    ((demo.tiles.get 0).island.state ≠ .off ∧ (demo.tiles.get 0).island.clock ≠ 0) ∧
    (([(0, 750, 20, 30, 800)] : List (TileId × Nat × Nat × Nat × Nat)).map (·.1)).Nodup := by decide +kernel

/-- A module that serves, a Running tile, a deferred wake, a ramp, quiet loops, a slack notice of the step and a calibrated module. -/
theorem test_wit_TheGovernorSharesTheLimit :
    demo.module.state ≠ .off ∧ demo.module.state ≠ .booting ∧ (demo.tiles.get 0).island.clocked = true ∧ demo.selfTest.tests = [] ∧
    (let s : State := { demo with dies := demo.dies.set 0 { Die.reset with requests := [⟨18, 4, 0, true⟩] } }
     (s.dies.get (dieOf 18)).nextRequest = some ⟨18, 4, 0, true⟩ ∧ (s.dies.get (dieOf 18)).softStartTile = none ∧ (s.dies.get (dieOf 18)).lowering = false) ∧
    (let s := demoWith fun x => { x with power := { x.power with ramp := some (100, 2000, 3000), quietLoops := 100 } }
     (s.tiles.get 0).power.ramp = some (100, 2000, 3000) ∧ 100 ≤ (s.tiles.get 0).power.quietLoops) ∧
    (let ws := sealCrc [at_ 48 1, 3, 5000, 0] 3
     (demo.parts.get 0).state = .loaded ∧ (demo.parts.get 0).run.retry = none ∧ ws.length = 4 ∧ crcOk ws 3 = true ∧ zeroField ws 0 31 0 = true ∧
      bits (wordAt ws 3) 31 0 = (Assoc.get (bits (wordAt ws 0) 63 48) (demo.parts.get 0).slack.expected).getD 0 ∧ wordAt ws 1 = (demo.parts.get 0).run.step ∧
      bits (wordAt ws 0) 47 40 = (demo.parts.get 0).run.attempt) ∧
    ({ demo with governor := { demo.governor with calibrated := true } } : State).governor.calibrated = true ∧
    (([(0, ⟨[1]⟩)] : List (TileId × Coefficients)).map (·.1)).Nodup := by decide +kernel

/-- Temperatures at the ends of each range, a die whose slices a Loaded partition holds, coolant at its limits, and each cause of Fault. -/
theorem test_wit_HeatCoolantAndFaultsActInTime :
    (demo.module.state ≠ .off ∧ demo.module.state ≠ .booting ∧ demo.module.state ≠ .fault) ∧ (demo.tiles.get 0).island.weltFailed = false ∧
    (demo.tiles.get 0).power.heatOff = false ∧ (demo.thermal.hotSince.find? fun h => h.1 == 0) = none ∧
    (demo.thermal.migrate.toInt ≤ 1049 ∧ demo.thermal.migrate.toInt - 1 < 1050) ∧
    ((demo.parts.get 0).slices.any (fun c => (stackOf c).1 == 0) = true ∧ (demo.parts.get 0).state = .loaded) ∧ (500 : Int) < 501 ∧
    (let s : State := { demo with thermal := { demo.thermal with badSince := some 0 } }
     s.thermal.badSince ≠ none ∧ s.module.coolantWait = false) ∧
    ((0x0514 : BitVec 16) = 0x0514 ∧ (0x0601 : BitVec 16) = 0x0601 ∧ (0x0604 : BitVec 16) = 0x0604) := by decide +kernel

/-- A structure of partition 0 that failed its check. -/
def demoFail (held : Bool) : StructFail := ⟨0, some 0, held, 1, 0, 0⟩

/-- A layer's first mismatch and its second, a word of each place, a base die to read, and a structure with a copy and without. -/
theorem test_wit_MismatchesAndMemoryErrorsAreContained :
    (demo.seat 0 = some seat0 ∧ 0 ≠ preambleLayer ∧ 0 < seat0.image.layerCount ∧ (demo.parts.get 0).run.retry = none ∧
      (Assoc.get (some 0) (demo.tiles.get 0).faults.perLayer).getD 0 = 0 ∧
      ((demo.tiles.get 0).faults.recent.filter fun r => decide (demo.time < r + 1000000000)).length < demo.faults.rerunLimit.toNat ∧
      (demo.tiles.get 0).faults.rerun = none) ∧
    (demo.tiles.get 0).cancelsClose ∧
    (1 ≤ (Assoc.get (some 0) ((demoWith fun x => { x with faults := { x.faults with perLayer := [(some 0, 1)] } }).tiles.get 0).faults.perLayer).getD 0) ∧
    (demo.module.state ≠ .off ∧ demo.wordOwner (.store 0 0) = some 0 ∧ demo.wordOwner (.stack 1 0) = some 0 ∧ demo.wordOwner (.fabric 0 0 1 0) = some 0 ∧
      demo.wordOwner (.link 0) = none ∧ (demo.parts.get 0).state = .loaded) ∧
    ((demo.stackDies.get 0).power = .up ∧ demo.partOfSlice (Fin.ofNat 192 (8 * 0 + 1)) = some 0) ∧
    ((demoFail true).held = true ∧ (demo.parts.get 0).run.structFails.any (sameStruct (demoFail true)) = false ∧ (demoFail false).held = false ∧
      MayRetry 0 demo) := by
  refine ⟨by decide +kernel, ?_, by decide +kernel, by decide +kernel, by decide +kernel, by decide +kernel, by decide +kernel, by decide +kernel,
    ⟨by decide +kernel, by decide +kernel, by decide +kernel, by decide +kernel, by decide +kernel⟩⟩
  intro q a ha
  have none : ∀ q, ((demo.tiles.get 0).stream.queues.get q).active.toList ++ ((demo.tiles.get 0).stream.queues.get q).shadow.toList = [] := by decide +kernel
  rw [none q] at ha
  exact absurd ha (by simp)


/-- A notice of member 0 to a peer: the attempt that it calls, or 0xFF for a reset. -/
def noticeWords (attempt : Nat) : List Word64 := sealCrc [mkWord [at_ 40 attempt, at_ 16 0x0204], 3, 0, 0] 3

/-- A partition that may retry, one past its update and one past its limit, notices of another member with and without a retry under way, a retry before its notices have
arrived and one that has quiesced, and partitions to reset. -/
theorem test_wit_RetriesAndResetsRestartTheStep :
    MayRetry 0 demo ∧
    (let p := (demoPartWith fun p => { p with run := { p.run with updateSent := true } }).parts.get 0
     p.state = .loaded ∧ p.run.retry = none ∧ p.run.record = none ∧ p.run.updateSent = true) ∧
    (let s := demoPartWith fun p => { p with run := { p.run with attempt := 255 } }
     let p := s.parts.get 0
     p.state = .loaded ∧ p.run.retry = none ∧ p.run.record = none ∧ s.faults.retryLimit.toNat < p.run.attempt + 1) ∧
    (let s := demoPeer id
     let p := s.parts.get 0
     p.state = .loaded ∧ NoticeReady 0 (noticeWords 1) s ∧ p.run.record = none ∧ wordAt (noticeWords 1) 1 = p.run.step ∧
      p.run.attempt < bits (wordAt (noticeWords 1) 0) 47 40 ∧ bits (wordAt (noticeWords 1) 0) 47 40 ≠ 0xFF ∧ bits (wordAt (noticeWords 1) 0) 47 40 ≤ s.faults.retryLimit.toNat ∧ p.run.retry = none) ∧
    (let s := demoPeer fun p => { p with run := { p.run with retry := some 1, retryTo := 1 } }
     let p := s.parts.get 0
     p.state = .loaded ∧ NoticeReady 0 (noticeWords 2) s ∧ p.run.record = none ∧ wordAt (noticeWords 2) 1 = p.run.step ∧
      p.run.attempt < bits (wordAt (noticeWords 2) 0) 47 40 ∧ bits (wordAt (noticeWords 2) 0) 47 40 ≠ 0xFF ∧ bits (wordAt (noticeWords 2) 0) 47 40 ≤ s.faults.retryLimit.toNat ∧ p.run.retry ≠ none) ∧
    (let s := demoPartWith fun p => { p with run := { p.run with retry := some 1, retryTo := 1 } }
     let p := s.parts.get 0
     p.state = .loaded ∧ p.run.retry ≠ none ∧ p.run.noticed = false) ∧
    (let s := demoPartWith fun p => { p with run := { p.run with retry := some 1, retryTo := 1, noticed := true } }
     let p := s.parts.get 0
     p.state = .loaded ∧ p.run.retry ≠ none ∧ p.run.noticed = true ∧ p.run.record = none ∧ s.retryMayStart p = true ∧ s.homesStand 0 ∧
      ∀ t ∈ p.workers, ∀ q, ((s.tiles.get t).stream.queues.get q).all = []) ∧
    ((demo.parts.get 0).state ≠ .free ∧ (demo.parts.get 0).state ≠ .resetting) ∧
    (NoticeReady 0 (noticeWords 0xFF) (demoPeer id) ∧ bits (wordAt (noticeWords 0xFF) 0) 47 40 = 0xFF) := by
  refine ⟨⟨by decide +kernel, by decide +kernel, by decide +kernel, by decide +kernel, by decide +kernel⟩, by decide +kernel, by decide +kernel,
    ⟨by decide +kernel, ⟨by decide +kernel, by decide +kernel, by decide +kernel, by decide +kernel, by decide +kernel, by decide +kernel, by decide +kernel⟩, by decide +kernel⟩,
    ⟨by decide +kernel, ⟨by decide +kernel, by decide +kernel, by decide +kernel, by decide +kernel, by decide +kernel, by decide +kernel, by decide +kernel⟩, by decide +kernel⟩,
    by decide +kernel,
    ⟨by decide +kernel, by decide +kernel, by decide +kernel, by decide +kernel, by decide +kernel, ?_, by decide +kernel⟩, by decide +kernel,
    ⟨by decide +kernel, by decide +kernel, by decide +kernel, by decide +kernel, by decide +kernel, by decide +kernel, by decide +kernel⟩, by decide +kernel⟩
  intro m _ b _ w hw
  exact absurd hw (by with_unfolding_all exact nofun)

/-- A step whose updates are done, a step held at its boundary, and one that is not held. -/
theorem test_wit_OddNumbersHoldTheBoundary :
    (let p := (demoDone fun p => { p with odd := { p.odd with checked := false }, weights := { p.weights with norms := [(16, ⟨1, 1, 1⟩)] } }).parts.get 0
     p.image = some demoImage ∧ p.state = .loaded ∧ p.run.running = true ∧ p.odd.checked = false ∧ p.run.updateSent = false ∧ p.allUpdated demoImage = true ∧
      (demoImage.updatedWeights.filter fun h => (Assoc.get h p.weights.norms).isSome) ≠ []) ∧
    (let s := demoDone fun p => { p with odd := { p.odd with held := true } }
     let p := s.parts.get 0
     let freed : Partition := { p with odd := { p.odd with held := false } }
     p.odd.held = true ∧ p.image = some demoImage ∧ freed.boundary demoImage = true ∧ p.replay.inForce ≠ .compare ∧ MayRetry 0 s) ∧
    (demo.parts.get 0).odd.held = false := by
  refine ⟨by decide +kernel, ⟨by decide +kernel, by decide +kernel, by decide +kernel, by decide +kernel,
    ⟨by decide +kernel, by decide +kernel, by decide +kernel, by decide +kernel, by decide +kernel⟩⟩, by decide +kernel⟩

/-- A report of partition 0. -/
def demoReport (code : BitVec 16) : ErrorReport :=
  { code := code, cls := 2, action := 1, part := some 0, origin := 4, sub := 0, witnesses := 1, time := 900, step := some 3, first := 4, attempt := some 0,
    temp := 0, volts := 0, logical := none, list := none, cmdClass := 0, opcode := 0, queue := none, gen := none, cmd := none, desc := none, detailA := 0, detailB := 0 }
/-- The module with a window open at every point, one that awaits publication, and 31 windows at the welt of tile 9.15. -/
def demoWindows : State :=
  { demo with faults := { demo.faults with
      entryWindows := (List.range 31).map fun i => ⟨demoReport (BitVec.ofNat 16 (0x200 + i)), 900⟩
      weltWindows := [(4, ⟨demoReport 0x200, 900⟩)]
      linkWindows := [(7, ⟨demoReport 0x200, 900⟩)]
      awaiting := [(⟨demoReport 0x200, 900⟩, true)] } }

/-- Reports that open a window and that join one at each point, windows that end, and a record to publish. -/
theorem test_wit_RecordsAreCoalescedAndPublished :
    demoWindows.module.state ≠ .off ∧
    ((∀ w ∈ demoWindows.faults.entryWindows, faultKey w.report ≠ faultKey (demoReport 0x300)) ∧ demoWindows.faults.entryWindows.length < 32) ∧
    (∃ w ∈ demoWindows.faults.entryWindows, faultKey w.report = faultKey (demoReport 0x21E)) ∧ (4 : TileId).1 ≠ 279 ∧
    (∃ w ∈ demoWindows.faults.weltWindows, w.1 = 4 ∧ faultKey w.2.report = faultKey (demoReport 0x200)) ∧
    ((∀ w ∈ demoWindows.faults.weltWindows, w.1 = 4 → faultKey w.2.report ≠ faultKey (demoReport 0x300)) ∧
      (demoWindows.faults.weltWindows.filter fun w => w.1 == 4).length < 32) ∧
    (∃ w ∈ demoWindows.faults.linkWindows, w.1 = 7 ∧ faultKey w.2.report = faultKey (demoReport 0x200)) ∧
    demoWindows.faults.entryWindows[30]? = some ⟨demoReport 0x21E, 900⟩ ∧
    (demoWindows.faults.weltWindows.filter fun w => w.1 == 4)[0]? = some (4, ⟨demoReport 0x200, 900⟩) ∧
    demoWindows.faults.awaiting[0]? = some (⟨demoReport 0x200, 900⟩, true) ∧ (2 : BitVec 8) ≠ 1 := by decide +kernel

/-- The words of a re-bind request: operation, tiles, slices, ranges, ports, view, function and number. -/
def rebindWords (op part tiles slices ranges ports number : Nat) : List Word64 :=
  sealCrc [mkWord [at_ 56 op, at_ 52 part, at_ 39 tiles, at_ 31 slices, at_ 26 ranges, at_ 8 ports], mkWord [at_ 56 0xFF, at_ 40 0xFFFF, at_ 0 number], 0] 2

/-- Requests of another operation, malformed ones, ones that wait for a move, and each operation refused; an add whose tiles are Off and one whose tiles are in Retain, a
removal and a dissolve. -/
theorem test_wit_RebindsChangeTheGranules :
    (demo.placer.requests = [] ∧ demo.placer.service = none) ∧
    ((rebindOf (rebindWords 2 1 2 1 1 1 1)).op = 2 ∧ demo.rebindOk (rebindWords 1 1 2 1 1 1 7) = false ∧ (rebindOf (rebindWords 1 1 2 1 1 1 7)).op = 1 ∧
      demo.rebindOk (rebindWords 4 1 2 1 1 1 1) = false ∧ 3 < (rebindOf (rebindWords 4 1 2 1 1 1 1)).op) ∧
    (let s := demoPartWith fun p => { p with moves := [⟨false, 0, 0, 2, none, 1000, false, false⟩] }
     s.placer.requests = [] ∧ s.placer.service = none ∧ s.rebindOk (rebindWords 1 0 1 0 0 0 1) = true ∧ (rebindOf (rebindWords 1 0 1 0 0 0 1)).op = 1 ∧
      (s.parts.get (rebindOf (rebindWords 1 0 1 0 0 0 1)).part).moves.isEmpty = false) ∧
    (∀ w ∈ [(rebindWords 1 1 256 1 1 1 1, 1), (rebindWords 2 1 1 0 0 0 1, 2), (rebindWords 3 1 0 0 0 0 1, 3)],
      (rebindOf w.1).op = w.2 ∧ demo.rebindOk w.1 = true ∧ (demo.parts.get (rebindOf w.1).part).moves = [] ∧
      (demo.parts.get (rebindOf w.1).part).state ≠ .resetting ∧ demo.rebindRefusal (rebindOf w.1) ≠ 0) ∧
    (∀ off ∈ [true, false],
      let x : Tile := { Tile.reset with test := { Tile.reset.test with last := .passed }, island := { Island.reset with state := if off then .off else .retain } }
      let s : State := { demo with tiles := Vector.ofFn fun t => if t.1 < 2 then demoTile else if t.1 < 14 then x else Tile.reset }
      let q := rebindOf (rebindWords 1 1 2 1 1 1 1)
      s.placer.requests = [] ∧ s.placer.service = none ∧ q.op = 1 ∧ s.rebindOk (rebindWords 1 1 2 1 1 1 1) = true ∧ (s.parts.get q.part).moves = [] ∧
      (s.parts.get q.part).state ≠ .resetting ∧ s.rebindRefusal q = 0 ∧ (s.tilesToAdd q.part).take q.tiles = [2, 3] ∧
      ∀ t ∈ ([2, 3] : List TileId), (s.tiles.get t).island.state = if off then .off else .retain) ∧
    (let s := demoPartWith fun p => { p with state := .composed, image := none, ports := [3] }
     ∀ w ∈ [(rebindWords 2 0 1 1 1 8 1, 2), (rebindWords 3 0 0 0 0 0 1, 3)], s.placer.requests = [] ∧ s.placer.service = none ∧ (rebindOf w.1).op = w.2 ∧
      s.rebindOk w.1 = true ∧ (s.parts.get (rebindOf w.1).part).moves = [] ∧ (s.parts.get (rebindOf w.1).part).state ≠ .resetting ∧
      s.rebindRefusal (rebindOf w.1) = 0) := by
  refine ⟨by decide +kernel, by decide +kernel, by decide +kernel, by decide +kernel, ?_, by decide +kernel⟩
  intro off ho
  simp only [List.mem_cons, List.not_mem_nil, or_false] at ho
  obtain rfl | rfl := ho <;> decide +kernel


/-- Partition 0 with tile 2 idle in it, that may take a logical tile, and what its moves are. -/
def demoSpare (moves : List Move) : State :=
  { (demoPartWith fun p => { p with tiles := [0, 1, 2], moves := moves }) with
    tiles := demo.tiles.set 2 { demoTile with test := { demoTile.test with last := .passed } } }

/-- An arming with a transfer to logical tile 0 that has been sent. -/
def sentTo0 : Arming :=
  { desc := { kind := 1, vc := 1, startOnArm := true, poly := 0, depth := 1, buckle := 0, budget := 0, addr := 0, rowLen := 64, rows := 1, stride := 64,
              target := 0, position := 0, index := 0 }
    gen := 1, started := true, startRecorded := false, next := 1, outstanding := [⟨0, 900, [], false, false, false, 0⟩], completed := 0, received := 0, withheld := false, cancelled := 0,
    cmd := 0, startCmd := 0, kept := false, keptStarted := false, again := false }

/-- A tile to replace, a replacement that is Running, a tile to migrate, and a migration at its hold. -/
theorem test_wit_MovesGiveALogicalTileANewTile :
    ((∀ m, ∀ v ∈ ((demoSpare []).parts.get m).moves, v.source ≠ 0 ∧ v.target ≠ 0) ∧ (demoSpare []).partOfTile 0 = some 0 ∧ ((demoSpare []).parts.get 0).logicalOf 0 = some 0 ∧
      (demoSpare []).chooseTile 0 0 false = some 2 ∧ (demoSpare []).chooseTile 0 0 true = some 2) ∧
    (let v : Move := ⟨false, 0, 0, 2, none, 1000, false, true⟩
     let s := demoSpare [v]
     (∀ k, k ≠ 0 → ∀ w ∈ (s.parts.get k).moves, w.source ≠ 0) ∧ (s.parts.get 0).moves.find? (fun w => !w.migration) = some v ∧ v.source = 0 ∧
      (s.parts.get 0).image = some demoImage ∧ (s.tiles.get v.target).island.state = .running ∧ v.logical < (s.parts.get 0).place.binding.length ∧ s.noneTo (s.parts.get 0) v.logical = true ∧
      MayRetry 0 s) ∧
    (let s := demoSpare []
     s.seat 0 = some seat0 ∧ seat0.part = 0 ∧ (s.parts.get 0).moves.any (fun v => v.source == 0) = false ∧ s.chooseTile 0 0 false = some 2) ∧
    (let v : Move := ⟨true, 0, 0, 2, some 0, 1000, false, true⟩
     let s := demoSpare [v]
     s.migrationOf 0 = some (0, v) ∧ v.target ≠ 0 ∧ v.logical < (s.parts.get 0).place.binding.length ∧ (s.parts.get 0).image = some demoImage ∧
      (s.tiles.get v.target).island.state = .running ∧ s.atHold 0 demoImage v = true ∧ s.noneTo (s.parts.get 0) v.logical = true) ∧
    (let s := demoSpare [⟨true, 0, 0, 2, some 0, 1000, false, true⟩]
     let sent := s.modTile 1 fun x => { x with stream := { x.stream with queues := vmod x.stream.queues 0 fun q => { q with active := some sentTo0 } } }
     sent.noneTo (sent.parts.get 0) 0 = false) := by
  refine ⟨by decide +kernel, ⟨by decide +kernel, by decide +kernel, by decide +kernel, by decide +kernel, by decide +kernel, by decide +kernel, by decide +kernel,
    ⟨by decide +kernel, by decide +kernel, by decide +kernel, by decide +kernel, by decide +kernel⟩⟩, by decide +kernel, by decide +kernel, by decide +kernel⟩

/-- A test of a unit, under way. -/
def runningTest (scope unit : Nat) : PendingTest := ⟨scope, unit, true, true, false, false, true, .never, none⟩
/-- A module whose test of a unit is under way, with tile 9 Waking. -/
def demoTesting (scope unit : Nat) : State :=
  { (demo.modTile 9 fun x => { x with island := { x.island with state := .waking, clock := 800 } }) with
    selfTest := { demo.selfTest with tests := [runningTest scope unit] } }
/-- The words of a test request. -/
def testWords (scope unit number : Nat) : List Word64 := sealCrc [mkWord [at_ 56 scope, at_ 46 unit, at_ 45 1, at_ 44 1, at_ 0 number], 0] 1
/-- A result that matches the signatures of a scope, and one that does not. -/
def goodResult (scope : Nat) : TestResult :=
  ⟨some (Config.signature scope false false), some (Config.signature scope true false), 0, 0, false, true, false⟩
/-- A result without a signature. -/
def badResult : TestResult := ⟨none, none, 0, 0, false, true, false⟩

/-- The result passes its test. -/
theorem goodResult_passes (scope unit : Nat) : (runningTest scope unit).passes (goodResult scope) = true := by
  simp [PendingTest.passes, runningTest, goodResult]

/-- Requests that are malformed and accepted, tests of a tile and of the last base die and link die under way with results of each kind, and tests that fall due. -/
theorem test_wit_TestsAreQueuedAndDecideTheirUnits :
    (demo.module.state ≠ .off ∧ demo.module.state ≠ .booting ∧ demo.testOk (testWords 1 288 1) = false ∧ demo.testOk (testWords 1 287 1) = true ∧
      demo.testRefusal (testOf (testWords 1 287 1)) = 0 ∧ demo.testEntries (testOf (testWords 1 287 1)) ≠ []) ∧
    ((demoTesting 1 9).runningTest 1 (9 : TileId).1 = some (runningTest 1 9) ∧ (demoTesting 1 9).onlyTest (runningTest 1 9) 9 ∧
      ({ goodResult 1 with aborted := true } : TestResult).aborted = true ∧ (goodResult 1).aborted = false ∧
      ((demoTesting 1 9).tiles.get 9).island.state = .waking ∧ ((demoTesting 1 9).tiles.get 9).island.clock = 800 ∧
      (runningTest 1 9).passes (goodResult 1) = true ∧ (goodResult 1).scrubOk = true ∧ (runningTest 1 9).passes badResult = false) ∧
    ((demoTesting 3 23).runningTest 3 (23 : StackId).1 = some (runningTest 3 23) ∧ (runningTest 3 23).passes (goodResult 3) = true ∧
      (runningTest 3 23).passes badResult = false ∧ (goodResult 3).aborted = false) ∧
    ((demoTesting 4 7).runningTest 4 (7 : LinkId).1 = some (runningTest 4 7) ∧ (runningTest 4 7).passes (goodResult 4) = true ∧
      (runningTest 4 7).passes badResult = false ∧ badResult.aborted = false) ∧
    (let s : State := { demo with selfTest := { demo.selfTest with interval := 1, fieldTests := 3 } }
     s.selfTest.interval ≠ 0 ∧ bits s.selfTest.fieldTests.toNat 1 0 ≠ 0 ∧ s.testPending 1 (287 : TileId).1 = false ∧ (s.tiles.get 287).island.weltFailed = false ∧
      s.module.state.serves ∧ s.module.state ≠ .init) ∧
    (let k : PendingTest := { runningTest 1 0 with running := false }
     let s := demoWith fun x => { x with test := { x.test with waiting := some k } }
     (s.tiles.get 0).test.waiting = some k ∧ k.scope = 1 ∧ k.unit = (0 : TileId).1 ∧ s.selfTest.tests = []) := by
  refine ⟨by decide +kernel, ⟨by decide +kernel, ?_, by decide +kernel, by decide +kernel, by decide +kernel, by decide +kernel, goodResult_passes _ _, by decide +kernel, by decide +kernel⟩,
    ⟨by decide +kernel, goodResult_passes _ _, by decide +kernel, by decide +kernel⟩, ⟨by decide +kernel, goodResult_passes _ _, by decide +kernel, by decide +kernel⟩,
    ⟨by decide +kernel, by decide +kernel, by decide +kernel, by decide +kernel, ⟨by decide +kernel, by decide +kernel, by decide +kernel⟩, by decide +kernel⟩, by decide +kernel⟩
  intro j hj hne
  exact absurd (List.mem_singleton.mp hj) hne


/-- The module with a PCIe link in service and function 0 changed. -/
def demoFn (f : HostFn → HostFn) : State :=
  { (demo.modFn 0 f) with pcie := Vector.replicate 2 ⟨64, 16⟩ }
/-- An enabled ring of 64 entries at an index. -/
def ringAt (r : Ring) (next : Nat) : Ring := { r with control := 0x80000006, next := next, host := next }
/-- The words of a submission entry of partition 0's function: kind, tag and argument. -/
def entryWords (kind tag : Nat) (arg : Word64) : List Word64 := sealCrc [mkWord [at_ 56 kind, at_ 0 tag], arg, 0, 0, 0, 0, 0, 0] 7
/-- An entry that waits: kind, tag, argument, handle and length. -/
def openEntry (kind : Nat) (arg : Word64) (handle length : Nat) : OpenEntry :=
  ⟨kind, 5, arg, handle, none, 0, length, 0, false, false, false, 0, 0, 0, [], [], false⟩
/-- Function 0 with entries, and partition 0 changed. -/
def demoEntries (es : List OpenEntry) (f : Partition → Partition) : State :=
  (demoFn fun h => { h with entries := es }).modPart 0 f

/-- A doorbell over the end of the indices with a sound and an unsound entry, head doorbells, ring registers with the ring on and off and each end of its size, a pending
vector, a Loaded partition, another link, and an access that fails. -/
theorem test_wit_RingsAndDoorbells :
    (let s := demoFn fun h => { h with submission := ringAt h.submission (2 ^ 32 - 1) }
     let h := s.fns.get 0
     s.served 0 ≠ none ∧ h.submission.enabled = true ∧ h.submission.next < 2 ^ 32 ∧ 1 = ((0 : Word32).toNat + 2 ^ 32 - h.submission.next) % 2 ^ 32 ∧
      (let ws := entryWords 3 9 1
       ws.length = 8 ∧ crcOk ws 7 = true ∧ bits (wordAt ws 6) 63 32 = h.submission.seq.toNat ∧ entrySound ws = true) ∧
      entrySound (entryWords 0 9 1) = false ∧ entrySound (entryWords 10 9 1) = false) ∧
    ((demoFn id).fns.get 0).submission.enabled = false ∧ (0x1000 : Word64).toNat % 4096 = 0 ∧
    ((demoFn fun h => { h with record := ringAt h.record 0 }).fns.get 0).record.enabled = true ∧
    (([0x80000006, 0x10, 0x80000010] : List Word64).all fun v => decide (6 ≤ bits v.toNat 4 0 ∧ bits v.toNat 4 0 ≤ 16)) = true ∧
    (let s := demoFn fun h => { h with interrupt := 0x80000000, vectors := h.vectors.map fun v => { v with pending := true } }
     ((s.fns.get 0).vectors.get 2).pending = true ∧ bitAt (s.fns.get 0).interrupt.toNat (29 + (2 : Fin 3).1) = true) ∧
    (demo.partOfFn 0 = some 0 ∧ (demo.parts.get 0).state = .loaded) ∧
    ((demoFn id).pcie.get 1 ≠ ⟨32, 8⟩ ∧ fnPort 0 ≠ 1) ∧
    (let s := demoEntries [openEntry 4 3 28 64] id
     s.findEntry 0 (fun e => e.tag == 5) = some (0, openEntry 4 3 28 64) ∧ s.partOfFn 0 = some 0) := by decide +kernel

/-- The status of a function in service whose partition is Loaded, of one without a partition whose link is below service, and the reads of a committed step where
there is none, of a write-only register and of an offset that is not listed (R499). -/
theorem test_bar_reads :
    (demoFn id).barRead 0 0 = 0x0002401000000000 ∧ demo.barRead 5 0 = 0xFF00000080000000 ∧ demo.barRead 0 0x10 = 0xFFFFFFFFFFFFFFFF ∧
    demo.barRead 0 0x1000 = 0 ∧ demo.barRead 0 0x0018 = 0 := by decide +kernel

/-- Partition 0 without a program, as a LOAD finds it. -/
def composed (p : Partition) : Partition := { p with state := .composed, image := none }
/-- Partition 0 between steps, with an allowance. -/
def betweenSteps (p : Partition) : Partition :=
  { p with run := { p.run with running := false, parked := true, allowance := 1, committed := some 2 } }

/-- Each program entry at the head of the queue, in the states that it takes and in those that it does not, a LOAD before and after it has
asked for the other members' tables, and a step that may start. -/
theorem test_wit_ProgramsLoadRunAndStart :
    (∀ k ∈ [1, 2, 3], (demoEntries [openEntry k 7 0 64] id).orderedData 0 k = some (0, openEntry k 7 0 64) ∧
      (demoEntries [openEntry k 7 0 64] composed).orderedData 0 k = some (0, openEntry k 7 0 64)) ∧
    (let s := demoEntries [openEntry 1 7 0 64] composed
     (s.parts.get 0).state = .composed ∧ s.module.state ≠ .standby ∧ (s.parts.get 0).tablesMissing = false ∧ (s.parts.get 0).state ≠ .loaded) ∧
    (∀ told : Bool,
      let s := demoEntries [{ openEntry 1 7 0 64 with registered := told }] fun p => composed { p with
        settings := { p.settings with modules := 2, logical := 1, shardWidth := 2 }, place := { p.place with routes := [(0, 15)], ring := [0, 1] } }
      s.orderedData 0 1 = some (0, { openEntry 1 7 0 64 with registered := told }) ∧ (s.parts.get 0).state = .composed ∧ s.module.state ≠ .standby ∧
      (s.parts.get 0).tablesMissing = true) ∧
    ((demoEntries [openEntry 1 7 0 64] id).parts.get 0).state ≠ .composed ∧
    (let s := demoEntries [openEntry 2 7 0 64] betweenSteps
     s.ordered 0 2 = some (0, openEntry 2 7 0 64) ∧ (s.parts.get 0).state = .loaded ∧ (s.parts.get 0).run.parked = true) ∧
    ((demoEntries [openEntry 2 7 0 64] id).parts.get 0).run.parked = false ∧
    (let s := demoPartWith betweenSteps
     (s.parts.get 0).image = some demoImage ∧ s.mayStart 0 demoImage = true ∧ (s.parts.get 0).needsReference = false) := by decide +kernel

/-- The image with an input and an output tensor. -/
def hostImage : Image := { demoImage with tensors := demoImage.tensors ++ [⟨28, 8, 7, 0, 0, 0, 0, 0, 64, 16, 0, 4096⟩, ⟨29, 9, 7, 0, 0, 0, 0, 0, 64, 16, 0, 4096⟩] }
/-- Partition 0 with that image, between steps. -/
def hosted (p : Partition) : Partition := { betweenSteps p with image := some hostImage }
/-- Partition 0 with that image, in step 0 before its start. -/
def atStep0 (p : Partition) : Partition := { hosted p with run := { (hosted p).run with step := 0 } }
/-- The header of a state image with one section. -/
def stateHeader : List Word64 := sealCrc [0, 0, 0, 1, 0, 0, 0, 0] 7
/-- A section of no elements of a tensor's master values. -/
def stateSection (handle : Nat) : List Word64 := sealCrc [mkWord [at_ 32 handle, at_ 24 1], 0, 0, 0] 3
/-- A state image with that section. -/
def stateBytes (handle : Nat) : List Byte := wordsBytes stateHeader ++ wordsBytes (stateSection handle)

/-- Entries to register, with a tensor that takes them and without, at the ends of the tensor; an open gate, a committed step, transfers that end, and state images that
fit, that do not, and that are malformed. -/
theorem test_wit_HostDataMovesAsItsEntrySays :
    (∀ es, (demoEntries es hosted).partOfFn 0 = some 0) ∧
    (let s := demoEntries [openEntry 4 3 28 4096] hosted
     s.findEntry 0 (fun e => e.kind == 4 && !e.registered) = some (0, openEntry 4 3 28 4096) ∧ s.writeRefusal 0 0 (openEntry 4 3 28 4096) = 0 ∧
      s.writeRefusal 0 0 (openEntry 4 3 28 4160) = 3 ∧ s.writeRefusal 0 0 (openEntry 4 2 28 64) = 2) ∧
    (let e := { openEntry 4 3 28 64 with registered := true }
     let s := demoEntries [e] hosted
     s.findEntry 0 (fun e => e.kind == 4 && e.registered && !e.running && e.tag == 5) = some (0, e) ∧ s.gateRoom 0 0 0 = true ∧ s.writeOpen 0 e = true ∧
      (List.replicate 64 (1 : Byte)).length = e.length) ∧
    (let s := demoEntries [openEntry 5 2 29 4096] hosted
     s.findEntry 0 (fun e => e.kind == 5 && !e.registered) = some (0, openEntry 5 2 29 4096) ∧ s.readRefusal 0 (openEntry 5 2 29 4096) = 0 ∧
      s.readRefusal 0 (openEntry 5 1 29 4096) = 2) ∧
    (let e := { openEntry 5 2 29 64 with registered := true }
     let s := demoEntries [e] hosted
     s.findEntry 0 (fun e => e.kind == 5 && e.registered && !e.running && e.tag == 5) = some (0, e) ∧ s.gateRoom 0 0 0 = true ∧ e.arg.toNat < (s.parts.get 0).run.step) ∧
    ((demoEntries [] hosted).linkUp 0 = true ∧ demo.linkUp 0 = false) ∧
    (∀ k ∈ [1, 4, 5, 6], let e := { openEntry k 2 28 64 with running := true }
      (demoEntries [e] hosted).findEntry 0 (fun e => e.running && e.tag == 5) = some (0, e)) ∧
    (let s := demoEntries [openEntry 6 0 0 64] hosted
     s.orderedData 0 6 = some (0, openEntry 6 0 0 64) ∧ (s.parts.get 0).image = some hostImage ∧ (s.parts.get 0).state = .loaded ∧ (s.parts.get 0).run.parked = true) ∧
    (let s := demoEntries [openEntry 7 0 0 96] atStep0
     let p := s.parts.get 0
     s.orderedData 0 7 = some (0, openEntry 7 0 0 96) ∧ p.image = some hostImage ∧ p.state = .loaded ∧ p.run.parked = true ∧ p.run.step = 0 ∧ p.run.running = false ∧
      p.run.attempt = 0 ∧ (∀ h ∈ [16, 99], let bs := (stateBytes h).take 96
        64 ≤ bs.length ∧ crcOk (bytesWords (bs.take 64)) 7 = true ∧ ∃ x, readSections (wordAt (bytesWords (bs.take 64)) 3 % 2 ^ 16) (bs.drop 64) = some [x] ∧
          (([x] : List StateSection).all fun x => p.sectionFits hostImage x && x.ringsOk) = (h == 16)) ∧ ([] : List Byte).length < 64) ∧
    (let s := demoEntries [openEntry 8 3 0 64] hosted
     s.orderedData 0 8 = some (0, openEntry 8 3 0 64) ∧ (s.parts.get 0).run.step ≤ (openEntry 8 3 0 64).arg.toNat ∧ (s.parts.get 0).run.running = false ∧
      (((s.parts.get 0).replay.references.filter fun r => decide ((s.parts.get 0).run.step ≤ r.1 + 1) && r.1 != 3).map fun r => r.2.length).sum + 64 ≤
        (s.parts.get 0).slices.length * 2 ^ 26) ∧
    (let s := demoEntries [openEntry 9 2 0 64] hosted
     s.findEntry 0 (fun e => e.kind == 9) = some (0, openEntry 9 2 0 64) ∧ (s.parts.get 0).state = .loaded) := by
  refine ⟨fun es => by with_unfolding_all rfl, by decide +kernel, by decide +kernel, by decide +kernel, by decide +kernel, by decide +kernel, by decide +kernel, by decide +kernel,
    ⟨by decide +kernel, by decide +kernel, by decide +kernel, by decide +kernel, by decide +kernel, by decide +kernel, by decide +kernel, ?_, by decide +kernel⟩,
    by decide +kernel, by decide +kernel⟩
  intro h hh
  simp only [List.mem_cons, List.not_mem_nil, or_false] at hh
  rcases hh with rfl | rfl
  · exact ⟨by decide +kernel, by decide +kernel, ⟨1, 16, 0, 0, []⟩, by decide +kernel, by decide +kernel⟩
  · exact ⟨by decide +kernel, by decide +kernel, ⟨1, 99, 0, 0, []⟩, by decide +kernel, by decide +kernel⟩


/-- The serial number has twelve characters. -/
theorem serial_length : Config.serial.length = 12 := by simp [Config.serial]

/-- A datagram with its CRC: command, address mode, address, parameter and data. -/
def dgram (code mode address parameter : Nat) (data : List Byte) : Datagram :=
  let g : Datagram := ⟨mkWord [at_ 56 code, at_ 54 mode, at_ 32 address, at_ 16 data.length], mkWord [at_ 32 parameter], data, 0, true⟩
  { g with trailer := BitVec.ofNat 64 (dgCrc g) }

/-- A datagram built by `dgram` is sound. -/
theorem dgram_sound (code mode address parameter : Nat) (data : List Byte) : dgSound (dgram code mode address parameter data) = true := by
  have h : dgCrc (dgram code mode address parameter data) < 2 ^ 32 := crc32c_lt _
  have t : (dgram code mode address parameter data).trailer = BitVec.ofNat 64 (dgCrc (dgram code mode address parameter data)) := rfl
  rw [dgSound, t, beq_iff_eq, BitVec.toNat_ofNat, Nat.mod_eq_of_lt (by omega)]
  simp only [bits]
  omega

/-- The module with station address 7 at view 3. -/
def demoView (f : View → View) : State := (demo.modView 3 fun w => { w with address := 7 }).modView 3 f
/-- A mailbox request: service, index, subindex, value, sequence number and data. -/
def mail (service index sub value seq : Nat) (data : List Byte) : List Byte := mailBytes service 0 index sub value (BitVec.ofNat 32 seq) data
/-- An ADDR datagram's data: this module's serial number. -/
def addrData : List Byte := Config.serial ++ List.replicate 4 0

/-- The data is the serial number padded to two words. -/
theorem addrData_length : addrData.length = 16 := by simp [addrData, serial_length]

/-- The datagram is taken at the module view. -/
theorem addr_taken : DatagramTaken 2 (dgram 2 1 0 0x70000 addrData) moduleView demo := by
  have take : addrData.take 12 = Config.serial := by rw [addrData, List.take_append_of_le_length (by simp [serial_length]), List.take_of_length_le (by simp [serial_length])]
  have tail : field addrData 12 4 = 0 := by
    unfold field slice
    rw [addrData, List.drop_append, List.drop_of_length_le (by simp [serial_length]), serial_length]
    decide
  have len : (dgram 2 1 0 0x70000 addrData).data.length = 16 := addrData_length
  have head : (dgram 2 1 0 0x70000 addrData).h0 = mkWord [at_ 56 2, at_ 54 1, at_ 16 16] := by
    show mkWord [at_ 56 2, at_ 54 1, at_ 32 0, at_ 16 addrData.length] = _
    rw [addrData_length]; decide
  have par : (dgram 2 1 0 0x70000 addrData).h1 = mkWord [at_ 32 0x70000] := rfl
  refine ⟨by decide +kernel, by decide +kernel, ?_, ?_, ?_, ?_, dgram_sound _ _ _ _ _, rfl⟩
  · rw [dgCode, head]; decide
  · rw [dgClean, len, dgMode, dgAddress, head, par]; decide
  · rw [dgForm, dgCode, len, dgMode, dgParameter, head, par]
    show (_ && field addrData 12 4 == 0) = true
    rw [tail]; decide
  · rw [dgViews, dgMode, head]
    show (if addrData.take 12 = Config.serial then [moduleView] else []).head? = some moduleView
    rw [if_pos take]; rfl

/-- A datagram that no view processes, each command at a view that takes it, with a free slot and without, a new cycle and an old one, and each kind of reference. -/
theorem test_wit_DatagramsActAtTheirView :
    (dgViews demo.addresses (dgram 0 0 9 0 []) = [] ∧ dgClean (dgram 0 3 0 0 []) = false ∧ dgForm (dgram 0 2 0 1 []) = false ∧ demo.module.state ≠ .off) ∧
    DatagramTaken 0 (dgram 0 2 0 0 []) moduleView demo ∧ DatagramTaken 0 (dgram 0 0 7 0 []) 3 (demoView id) ∧
    DatagramTaken 1 (dgram 1 2 0 0 (List.replicate 16 0)) moduleView demo ∧ DatagramTaken 1 (dgram 1 2 0 0 (List.replicate 16 1)) moduleView demo ∧
    demo.scanSlot (dgram 1 2 0 0 (List.replicate 16 1)) = none ∧ (∃ bs, demo.scanSlot (dgram 1 2 0 0 (List.replicate 16 0)) = some bs) ∧
    DatagramTaken 2 (dgram 2 1 0 0x70000 addrData) moduleView demo ∧
    (let s := demoView fun w => { w with lastCycle := some 5 }
     DatagramTaken 3 (dgram 3 0 7 6 []) 3 s ∧ DatagramTaken 3 (dgram 3 0 7 5 []) 3 s ∧
      ([] : List Byte).length = s.mapLength (s.rein.views.get 3).commandMap + s.mapLength (s.rein.views.get 3).reportMap ∧
      (dgViews s.addresses (dgram 3 0 7 6 [])).length = 1 ∧ newerCycle (s.rein.views.get 3).lastCycle (dgParameter (dgram 3 0 7 6 [])) = true ∧
      newerCycle (s.rein.views.get 3).lastCycle (dgParameter (dgram 3 0 7 5 [])) = false) ∧
    (DatagramTaken 4 (dgram 4 0 7 0 (mail 1 0x1000 6 0 1 [])) 3 (demoView id) ∧ messageOk (mail 1 0x1000 6 0 1 []) = true ∧
      ((demoView id).rein.views.get 3).mailbox.request = none) ∧
    (let s := demoView fun w => { w with mailbox := { w.mailbox with response := some (List.replicate 24 9) } }
     DatagramTaken 5 (dgram 5 0 7 0 (List.replicate 24 0)) 3 s ∧ (s.rein.views.get 3).mailbox.response = some (List.replicate 24 9)) ∧
    DatagramTaken 6 (dgram 6 2 0 0 (List.replicate 8 0)) moduleView demo ∧
    (∀ k ∈ [0, 1], DatagramTaken 7 (dgram 7 2 0 0 (wordsBytes [mkWord [at_ 0 k], 900, 0])) moduleView demo ∧
      bits (wordAt (bytesWords (wordsBytes [mkWord [at_ 0 k], 900, 0])) 0) 0 0 = k) ∧
    DatagramTaken 8 (dgram 8 0 7 0x4E494552 []) 3 (demoView id) := by
  have time : ∀ k ∈ [0, 1], DatagramTaken 7 (dgram 7 2 0 0 (wordsBytes [mkWord [at_ 0 k], 900, 0])) moduleView demo ∧
      bits (wordAt (bytesWords (wordsBytes [mkWord [at_ 0 k], 900, 0])) 0) 0 0 = k := by
    intro k hk
    simp only [List.mem_cons, List.not_mem_nil, or_false] at hk
    rcases hk with rfl | rfl <;>
      exact ⟨⟨by decide +kernel, by decide +kernel, by decide +kernel, by decide +kernel, by decide +kernel, by decide +kernel, dgram_sound _ _ _ _ _, rfl⟩, by decide +kernel⟩
  refine ⟨by decide +kernel, ⟨by decide +kernel, by decide +kernel, by decide +kernel, by decide +kernel, by decide +kernel, by decide +kernel, dgram_sound _ _ _ _ _, rfl⟩,
    ⟨by decide +kernel, by decide +kernel, by decide +kernel, by decide +kernel, by decide +kernel, by decide +kernel, dgram_sound _ _ _ _ _, rfl⟩,
    ⟨by decide +kernel, by decide +kernel, by decide +kernel, by decide +kernel, by decide +kernel, by decide +kernel, dgram_sound _ _ _ _ _, rfl⟩,
    ⟨by decide +kernel, by decide +kernel, by decide +kernel, by decide +kernel, by decide +kernel, by decide +kernel, dgram_sound _ _ _ _ _, rfl⟩,
    by with_unfolding_all rfl, ⟨_, by with_unfolding_all rfl⟩, addr_taken,
    ⟨⟨by decide +kernel, by decide +kernel, by decide +kernel, by decide +kernel, by decide +kernel, by decide +kernel, dgram_sound _ _ _ _ _, rfl⟩,
      ⟨by decide +kernel, by decide +kernel, by decide +kernel, by decide +kernel, by decide +kernel, by decide +kernel, dgram_sound _ _ _ _ _, rfl⟩, by decide +kernel⟩,
    ⟨⟨by decide +kernel, by decide +kernel, by decide +kernel, by decide +kernel, by decide +kernel, by decide +kernel, dgram_sound _ _ _ _ _, rfl⟩, by decide +kernel⟩,
    ⟨⟨by decide +kernel, by decide +kernel, by decide +kernel, by decide +kernel, by decide +kernel, by decide +kernel, dgram_sound _ _ _ _ _, rfl⟩, by decide +kernel⟩,
    ⟨by decide +kernel, by decide +kernel, by decide +kernel, by decide +kernel, by decide +kernel, by decide +kernel, dgram_sound _ _ _ _ _, rfl⟩, time,
    ⟨by decide +kernel, by decide +kernel, by decide +kernel, by decide +kernel, by decide +kernel, by decide +kernel, dgram_sound _ _ _ _ _, rfl⟩⟩

/-- The bytes of a frame of another type, and of a Rein frame with one NOP datagram. -/
def otherFrame : List Byte := List.replicate 12 0 ++ [8, 0] ++ List.replicate 46 0
/-- A Rein frame that holds one NOP datagram to every view. -/
def reinFrame : List Byte := List.replicate 12 0 ++ [0x88, 0xB5] ++ leBytes 8 (mkWord [at_ 56 1, at_ 32 24]).toNat ++ dgBytes (dgram 0 2 0 0 [])
/-- View 3 with command images that wait. -/
def demoImages (map : List MapEntry) (im : List Byte) : State := demoView fun w => { w with commandMap := map, images := [im, []] }

/-- Frames of another type, on the return path and from upstream, images that wait with and without a map, and a view to reset. -/
theorem test_wit_FramesImagesAndReinResets :
    (demo.module.state ≠ .off ∧ demo.module.state ≠ .booting) ∧ reinType otherFrame = false ∧
    (let s : State := { demo with rein := { demo.rein with upstream := some false } }
     reinType reinFrame = true ∧ s.rein.upstream = some false ∧ false ≠ true) ∧
    (demo.rein.upstream = none ∧ datagramBytes reinFrame = some 24) ∧
    ((((demoImages [] []).rein.views.get 3).images = [[], []] ∧ ((demoImages [] []).rein.views.get 3).commandMap = []) ∧
      (let e : MapEntry := ⟨0x2500, 1⟩
       ((demoImages [e] (leBytes 4 9000)).rein.views.get 3).images = [leBytes 4 9000, []] ∧ ((demoImages [e] (leBytes 4 9000)).rein.views.get 3).commandMap = [e])) ∧
    (3 : ViewId) ≠ moduleView := by decide +kernel

/-- A view whose mailbox holds a request, after a request with a sequence number. -/
def demoMail (v : ViewId) (bs : List Byte) (last : Option Word32) (f : Mailbox → Mailbox) : State :=
  demo.modView v fun w => { w with mailbox := f { w.mailbox with request := some bs, lastSeq := last } }

/-- A mailbox that holds a request is ready to serve it. -/
theorem mailReady (v : ViewId) (service : Nat) (bs : List Byte) (f : Mailbox → Mailbox) (hf : ∀ m, (f m).request = m.request ∧ (f m).lastSeq = m.lastSeq)
    (h : (mailOf bs).service = service) (h' : (mailOf bs).wellFormed = true) (hs : (mailOf bs).seq = 1) :
    MailReady v service (mailOf bs) (demoMail v bs (some 0) f) := by
  have get : (demoMail v bs (some 0) f).rein.views.get v = { demo.rein.views.get v with
      mailbox := f { (demo.rein.views.get v).mailbox with request := some bs, lastSeq := some 0 } } := by
    simp [demoMail, State.modView]
  refine ⟨show demo.module.state ≠ .off by decide +kernel, show demo.module.state ≠ .booting by decide +kernel, ?_, h, h', ?_⟩
  · rw [get]; simp [(hf _).1]
  · intro q hq
    rw [get] at hq
    simp only [(hf _).2, Option.some.injEq] at hq
    rw [hs, ← hq]; rfl

/-- Each service with a repeated number, with one that is neither the last nor the next, and with the next: a value that is read whole and one that the module does not
have, a write that is whole and one that opens a segmented write, and segments at the end and inside of a value. -/
theorem test_wit_MailboxServicesAnswer :
    (∀ c ∈ ([(1, .mailboxRead 3), (2, .mailboxWrite 3), (3, .segmentRead 3), (4, .segmentWrite 3)] : List (Nat × Instr)), ∀ seq ∈ [5, 9],
      ((demoMail 3 (mail c.1 0x1000 6 0 seq []) (some 5) id).rein.views.get 3).mailbox.request.map mailOf = some (mailOf (mail c.1 0x1000 6 0 seq [])) ∧
      (mailOf (mail c.1 0x1000 6 0 seq [])).service = c.1 ∧ (mailOf (mail c.1 0x1000 6 0 seq [])).seq = BitVec.ofNat 32 seq ∧
      ((demoMail 3 (mail c.1 0x1000 6 0 seq []) (some 5) id).rein.views.get 3).mailbox.lastSeq = some 5) ∧
    (MailReady 3 1 (mailOf (mail 1 0x1000 6 0 1 [])) (demoMail 3 (mail 1 0x1000 6 0 1 []) (some 0) id) ∧
      (∃ bs, (demoMail 3 (mail 1 0x1000 6 0 1 []) (some 0) id).odRead 3 0x1000 6 = .ok bs)) ∧
    (MailReady 3 1 (mailOf (mail 1 0x0FFF 6 0 1 [])) (demoMail 3 (mail 1 0x0FFF 6 0 1 []) (some 0) id) ∧
      (∃ code, (demoMail 3 (mail 1 0x0FFF 6 0 1 []) (some 0) id).odRead 3 0x0FFF 6 = .error code)) ∧
    (let bs := mail 2 0x2500 1 8 1 (leBytes 4 9000)
     MailReady 16 2 (mailOf bs) (demoMail 16 bs (some 0) id) ∧ (mailOf bs).length < (mailOf bs).value) ∧
    (let bs := mail 2 0x2500 1 4 1 (leBytes 4 9000)
     let s := demoMail 16 bs (some 0) id
     let z := (s.modView 16 fun w => { w with mailbox := { w.mailbox with readValue := none, writing := none } }).odWrite 16 0x2500 1 (leBytes 4 9000)
     MailReady 16 2 (mailOf bs) s ∧ (mailOf bs).value = (mailOf bs).length ∧ (mailOf bs).data = leBytes 4 9000 ∧ (z.2.rein.views.get 16).resets = (s.rein.views.get 16).resets ∧
      (z.2.rein.views.get 16).executed = (s.rein.views.get 16).executed) ∧
    (let bs := mail 3 0x2E00 2 8 1 []
     let f : Mailbox → Mailbox := fun m => { m with readValue := some (0x2E00, 2, List.replicate 8 1) }
     MailReady 3 3 (mailOf bs) (demoMail 3 bs (some 0) f) ∧
      ((demoMail 3 bs (some 0) f).rein.views.get 3).mailbox.readValue = some (BitVec.ofNat 16 (mailOf bs).index, BitVec.ofNat 8 (mailOf bs).sub, List.replicate 8 1) ∧
      (mailOf bs).index < 2 ^ 16 ∧ (mailOf bs).sub < 2 ^ 8 ∧ (mailOf bs).value ≤ (List.replicate 8 (1 : Byte)).length) ∧
    (let bs := mail 4 0x2500 1 8 1 [1, 2, 3]
     let f : Mailbox → Mailbox := fun m => { m with writing := some (0x2500, 1, 12, List.replicate 8 1) }
     MailReady 3 4 (mailOf bs) (demoMail 3 bs (some 0) f) ∧
      ((demoMail 3 bs (some 0) f).rein.views.get 3).mailbox.writing = some (BitVec.ofNat 16 (mailOf bs).index, BitVec.ofNat 8 (mailOf bs).sub, 12, List.replicate 8 1) ∧
      (mailOf bs).value = (List.replicate 8 (1 : Byte)).length ∧ (List.replicate 8 (1 : Byte)).length + (mailOf bs).length < 12) := by
  refine ⟨?_, ⟨mailReady 3 1 _ id (fun _ => ⟨rfl, rfl⟩) (by decide +kernel) (by decide +kernel) (by decide +kernel), ⟨_, by with_unfolding_all rfl⟩⟩,
    ⟨mailReady 3 1 _ id (fun _ => ⟨rfl, rfl⟩) (by decide +kernel) (by decide +kernel) (by decide +kernel), ⟨_, by with_unfolding_all rfl⟩⟩,
    ⟨mailReady 16 2 _ id (fun _ => ⟨rfl, rfl⟩) (by decide +kernel) (by decide +kernel) (by decide +kernel), by decide +kernel⟩,
    ⟨mailReady 16 2 _ id (fun _ => ⟨rfl, rfl⟩) (by decide +kernel) (by decide +kernel) (by decide +kernel), by decide +kernel⟩,
    ⟨mailReady 3 3 _ _ (fun _ => ⟨rfl, rfl⟩) (by decide +kernel) (by decide +kernel) (by decide +kernel), by decide +kernel⟩,
    ⟨mailReady 3 4 _ _ (fun _ => ⟨rfl, rfl⟩) (by decide +kernel) (by decide +kernel) (by decide +kernel), by decide +kernel⟩⟩
  intro c hc seq hs
  refine ⟨?_, ?_⟩
  · simp [demoMail, State.modView]
  · revert seq c; decide +kernel


/-- Values of the cap at its ends and beyond them, a thermal setting, and a module that stores. -/
theorem test_wit_WritesStoresAndRestores :
    [7999, 8000, 28000, 28001].map (fun w => demo.writeCode moduleView 0x2500 1 (leBytes 4 w)) = [5, 0, 0, 5] ∧
    (∃ f ∈ moduleSettings, f.1 = (0x2500 : BitVec 16).toNat ∧ f.2.1 = (1 : BitVec 8).toNat) ∧
    (demo.writeCode moduleView 0x2600 1 (leBytes 2 950) = 0 ∧ ∃ f ∈ moduleSettings, f.1 = (0x2600 : BitVec 16).toNat ∧ f.2.1 = (1 : BitVec 8).toNat) ∧
    ((demoModule .configured).flash.storing = none ∧ (demoModule .configured).module.state = .configured) ∧ factorySettings ≠ [] := by decide +kernel

/-- The module before power-on with its input in the normal band, with firmware or without. -/
def demoOff (ok : Bool) : State :=
  { State.reset with
    input := { State.reset.input with band := .normal, epo := false }
    flash := { State.reset.flash with installedOk := ok, otherOk := false } }
/-- Coolant at its limits, with an inlet. -/
def coolant (inlet : Int) : CoolantReading := ⟨inlet, 600, 250⟩

/-- Power-on at each end of the coolant's ranges, with firmware and without, a module in Init, and a module in each state that a command takes and in one that it does not. -/
theorem test_wit_TheModuleChangesState :
    ((demoOff true).module.state = .off ∧ (demoOff true).input.band = .normal ∧ (demoOff true).input.epo = false ∧ 500 < (coolant 501).inlet ∧ (coolant 500).inlet ≤ 500 ∧
      (demoOff true).flash.installedOk = true ∧ (demoOff false).flash.installedOk = false ∧ (demoOff false).flash.otherOk = false ∧
      coolantBad (coolant 400).inlet (coolant 400).outlet (coolant 400).flow = false ∧ coolantBad (coolant 401).inlet (coolant 401).outlet (coolant 401).flow = true) ∧
    (let s := { demoModule .init with module := { (demoModule .init).module with coolantWait := true } }
     s.module.state = .init ∧ s.module.coolantWait = true) ∧
    ([1, 2, 3, 4].map (demoModule .init).commandOk = [false, false, false, false]) ∧
    ((demoModule .configured).commandOk 1 = true ∧ (demoModule .configured).commandOk 2 = true ∧ (demoModule .standby).commandOk 1 = true ∧
      (demoModule .standby).commandOk 3 = true ∧ (demoModule .standby).selfTest.tests = [] ∧ (demoModule .fault).commandOk 4 = true) := by decide +kernel

/-- A tile of the demonstration module runs or is as after reset. -/
theorem demo_tiles (t : TileId) : demo.tiles.get t = demoTile ∨ demo.tiles.get t = Tile.reset := by
  have h : demo.tiles.get t = if t.1 < 2 then demoTile else Tile.reset := by
    show (Vector.ofFn fun t : Fin 288 => if t.1 < 2 then demoTile else Tile.reset).get t = _
    simp [Vector.get_eq_getElem]
  rw [h]
  split <;> simp

/-- Nothing is under way in the demonstration module. -/
theorem demo_quiet : Quiet demo := by
  refine ⟨fun t => ?_, fun t => ?_, fun t => ?_, fun t => ?_, ?_, by decide +kernel, by decide +kernel, by decide +kernel⟩
  · rcases demo_tiles t with h | h <;> rw [h] <;> exact ⟨rfl, rfl, rfl⟩
  · rcases demo_tiles t with h | h <;> rw [h] <;> exact ⟨rfl, rfl, nofun⟩
  · rcases demo_tiles t with h | h <;> rw [h] <;> exact ⟨rfl, rfl⟩
  · rw [State.returnCredits]; rcases demo_tiles t with h | h <;> rw [h] <;> rfl
  · have none : ∀ t, (demo.tiles.get t).router.balance = [] := fun t => by rcases demo_tiles t with h | h <;> rw [h] <;> rfl
    simp only [State.overBalances, none, List.filterMap_nil]
    have ports : ∀ p, (demo.ports.get p).carries = false := by decide +kernel
    simp [ports]

/-- A queue of two commands, and idle modules, Off and not, the latter with nothing under way. -/
theorem test_wit_AStepRunsTheFrontCommand :
    ({ demo with pending := [.boost 0, .shunt 0] } : State).pending = [.boost 0, .shunt 0] ∧ (State.reset.pending = [] ∧ State.reset.module.state = .off) ∧
    (demo.pending = [] ∧ demo.module.state ≠ .off) ∧ Quiet demo ∧ (demo.tiles.get 0).island.weltFailed = false :=
  ⟨by decide +kernel, by decide +kernel, by decide +kernel, demo_quiet, by decide +kernel⟩

/-- Two memories in canonical form. -/
theorem test_wit_MemoriesReadBackAndStayCanonical :
    Cells.wf (Cells.write [] 5 [1, 0, 2]) = true ∧ Cells.wf (Cells.write (Cells.write [] 7 [2]) 5 [1]) = true ∧
    Cells.write [] 5 [1, 0, 2] = Cells.write (Cells.write [] 7 [2]) 5 [1] := by decide +kernel

/-- A command that never stops, and one that stops. -/
theorem test_wit_OnlyAbsoluteMaximaStopTheModule :
    Instr.mayStop (.boost 0) = false ∧ exec (.inputSample 1000001) demo = .fault .beyondAbsoluteMaximum := ⟨rfl, rfl⟩

/-- A module in a state that no run reaches, whose clock registers lie at the ends of their ranges, and that takes a step. -/
theorem test_wit_EveryStepKeepsTheQueueAndTheClock :
    (let s : State := { demo with rein := { demo.rein with trim := -1000, rate := 1000000, good := 3 } }
     s.rein.inRange = true ∧ ∃ s', step s = .next s') := ⟨by decide +kernel, _, rfl⟩

/-- Cap values at the ends of the range and beyond, and below the loads of the last loop. -/
theorem test_wit_CapWritesAreCheckedAndTakeEffectAtTheLoop :
    demo.module.state ≠ .off ∧ demo.module.state ≠ .booting ∧ (∀ w ∈ [7999, 8000, 28000, 28001], (leBytes 4 w).length = 4 ∧ leNat (leBytes 4 w) = w) ∧
    (let s : State := { demo with governor := { demo.governor with basePower := 8001 } }
     leNat (leBytes 4 8000) < s.governor.basePower + s.governor.linkPower + s.governor.floorPower) ∧
    demo.governor.basePower + demo.governor.linkPower + demo.governor.floorPower ≤ 8000 := by decide +kernel

/-- A partition at the limit, and a notice that names an attempt beyond it. -/
theorem test_wit_ARetryBeyondTheLimitResetsThePartition :
    (let s := demoPartWith fun p => { p with run := { p.run with attempt := 3 } }
     let s := { s with faults := { s.faults with retryLimit := 3 } }
     (s.parts.get 0).state = .loaded ∧ (s.parts.get 0).run.retry = none ∧ (s.parts.get 0).run.record = none ∧
      s.faults.retryLimit.toNat < (s.parts.get 0).run.attempt + 1) ∧
    (let s := { demoPeer id with faults := { (demoPeer id).faults with retryLimit := 3 } }
     (s.parts.get 0).state = .loaded ∧ (s.parts.get 0).run.retry = none ∧ (s.parts.get 0).run.record = none ∧ NoticeReady 0 (noticeWords 4) s ∧
      wordAt (noticeWords 4) 1 = (s.parts.get 0).run.step ∧ bits (wordAt (noticeWords 4) 0) 47 40 ≠ 0xFF ∧
      (s.parts.get 0).run.attempt < bits (wordAt (noticeWords 4) 0) 47 40 ∧ s.faults.retryLimit.toNat < bits (wordAt (noticeWords 4) 0) 47 40) := by
  refine ⟨by decide +kernel, ⟨by decide +kernel, by decide +kernel, by decide +kernel,
    ⟨by decide +kernel, by decide +kernel, by decide +kernel, by decide +kernel, by decide +kernel, by decide +kernel, by decide +kernel⟩, by decide +kernel⟩⟩

/-! ### Ill-formed commands -/

/-- A LOADW that is well formed: a BF16 block of the greatest extents. -/
def lw : LoadwOp := { fmt := 6, record := 1, span := 0, panel := 0, addr := 4096, depth := 511, width := 255 }
/-- An MMUL that is well formed: the last row of the buffer. -/
def mm : MmulOp := { mode := 0, group := 3, base := 4095, rows := 0, span := 0, panel := 0, addr := 64, record := 1, carry := 0 }
/-- A DRAIN to a register that is well formed: the last row of each. -/
def dr : DrainOp := { toStore := false, reg := 7, firstReg := 63, first := 4095, rows := 0, addr := 0, record := 0 }
/-- A datagram without data. -/
def dg0 : Datagram := ⟨0, 0, [], 0, true⟩

/-- A LOADW is refused with a format the array does not take, an address off its 4 KiB boundary, and an extent beyond its block (R88, R173). -/
theorem test_wf_loadw :
    (Instr.loadw 0 { lw with fmt := 0 }).wf = false ∧
    (Instr.loadw 0 { lw with fmt := 7 }).wf = false ∧
    (Instr.loadw 0 { lw with addr := 64 }).wf = false ∧
    (Instr.loadw 0 { lw with fmt := 3, depth := 512 }).wf = false ∧
    (Instr.loadw 0 { lw with width := 256 }).wf = false ∧
    (Instr.loadw 0 lw).wf = true ∧
    (Instr.loadw 0 { lw with fmt := 1, depth := 1023, width := 511 }).wf = true := by decide

/-- An MMUL is refused in mode 3, with rows beyond the buffer, with an address off its boundary, and with a carry-in record outside mode 2 (R90, R173). -/
theorem test_wf_mmul :
    (Instr.mmul 0 { mm with mode := 3 }).wf = false ∧
    (Instr.mmul 0 { mm with rows := 1 }).wf = false ∧
    (Instr.mmul 0 { mm with addr := 63 }).wf = false ∧
    (Instr.mmul 0 { mm with carry := 1 }).wf = false ∧
    (Instr.mmul 0 mm).wf = true ∧
    (Instr.mmul 0 { mm with mode := 2, carry := 1 }).wf = true := by decide

/-- A DRAIN is refused with rows beyond the buffer or the register, with the other destination's fields, and with an address off its boundary (R90, R173). -/
theorem test_wf_drain :
    (Instr.drain 0 { dr with rows := 1 }).wf = false ∧
    (Instr.drain 0 { dr with first := 0, rows := 1 }).wf = false ∧
    (Instr.drain 0 { dr with addr := 64 }).wf = false ∧
    (Instr.drain 0 { dr with record := 1 }).wf = false ∧
    (Instr.drain 0 { dr with toStore := true }).wf = false ∧
    (Instr.drain 0 { dr with toStore := true, reg := 0 }).wf = false ∧
    (Instr.drain 0 { dr with toStore := true, reg := 0, firstReg := 0, addr := 32 }).wf = false ∧
    (Instr.drain 0 dr).wf = true ∧
    (Instr.drain 0 { dr with toStore := true, reg := 0, firstReg := 0, addr := 64 }).wf = true := by decide

/-- An elementwise operation is refused with a register above 7, an axis, a record, rows beyond the register, a field of another broadcast, a C that it does not read, options, and a precision that it does not offer (R116 to R118). -/
theorem test_wf_elementwise :
    (Instr.add 0 { vop with d := 8 }).wf = false ∧
    (Instr.add 0 { vop with a := 8 }).wf = false ∧
    (Instr.add 0 { vop with b := 8 }).wf = false ∧
    (Instr.add 0 { vop with axis := 1 }).wf = false ∧
    (Instr.add 0 { vop with record := 1 }).wf = false ∧
    (Instr.add 0 { vop with addr := 64 }).wf = false ∧
    (Instr.add 0 { vop with count := 1 }).wf = false ∧
    (Instr.add 0 { vop with brow := 1 }).wf = false ∧
    (Instr.add 0 { vop with blane := 1 }).wf = false ∧
    (Instr.add 0 { vop with bcast := 1, blane := 1 }).wf = false ∧
    (Instr.add 0 { vop with bcast := 2, brow := 1 }).wf = false ∧
    (Instr.add 0 { vop with c := 1 }).wf = false ∧
    (Instr.add 0 { vop with opts := 1 }).wf = false ∧
    (Instr.add 0 { vop with prec := 1 }).wf = false ∧
    (Instr.add 0 { vop with prec := 2 }).wf = false ∧
    (Instr.add 0 { vop with prec := 2, first := 62, count := 1, bcast := 2 }).wf = false ∧
    (Instr.add 0 { vop with prec := 2, first := 62, count := 1, bcast := 1, brow := 1 }).wf = false ∧
    (Instr.fma 0 { vop with c := 8 }).wf = false ∧
    (Instr.abs 0 { vop with d := 1 }).wf = false ∧
    (Instr.recip 0 { vop with b := 0, prec := 2, first := 62, count := 1 }).wf = false ∧
    (Instr.cmp 0 { vop with opts := 6 }).wf = false ∧
    (Instr.cmp 0 { vop with opts := 5 }).wf = true ∧
    (Instr.sel 0 { vop with c := 7, bcast := 3, brow := 63, blane := 511 }).wf = true := by decide

/-- WID and NAR are refused in another precision, with an FP64 row beyond the register, and with options that they do not have (R117). -/
theorem test_wf_convert :
    (Instr.wid 0 { vop with b := 0 }).wf = false ∧
    (Instr.wid 0 { vop with b := 0, prec := 2, first := 32 }).wf = false ∧
    (Instr.wid 0 { vop with b := 0, prec := 2, first := 31, opts := 1 }).wf = false ∧
    (Instr.nar 0 { vop with b := 0, prec := 2, first := 32 }).wf = false ∧
    (Instr.nar 0 { vop with b := 0, prec := 2, opts := 2 }).wf = false ∧
    (Instr.wid 0 { vop with b := 1, prec := 2, first := 31 }).wf = false ∧
    (Instr.nar 0 { vop with b := 0, prec := 2, opts := 1 }).wf = true := by decide

/-- A reduction is refused without an axis, in precision 3, with an option that its precision does not have, with an FP64 source beyond one axis, and with a lane or row of B that its axis does not use or that is odd for a pair (R117, R125, R126). -/
theorem test_wf_reductions :
    (Instr.rsum 0 { vop with b := 0 }).wf = false ∧
    (Instr.rsum 0 { vop with b := 0, axis := 1, prec := 3 }).wf = false ∧
    (Instr.rsum 0 { vop with b := 0, axis := 1, opts := 2 }).wf = false ∧
    (Instr.rsum 0 { vop with b := 0, axis := 1, prec := 2, opts := 8 }).wf = false ∧
    (Instr.rsum 0 { vop with b := 0, axis := 3, prec := 2, opts := 8, first := 62, count := 1 }).wf = false ∧
    (Instr.rsum 0 { vop with b := 0, axis := 1, brow := 1 }).wf = false ∧
    (Instr.rsum 0 { vop with b := 0, axis := 1, prec := 2, blane := 1 }).wf = false ∧
    (Instr.rsum 0 { vop with b := 0, axis := 1, prec := 1, opts := 2, blane := 1 }).wf = false ∧
    (Instr.rsum 0 { vop with b := 0, axis := 2, blane := 1 }).wf = false ∧
    (Instr.rsum 0 { vop with b := 0, axis := 2, prec := 2, brow := 1 }).wf = false ∧
    (Instr.rsum 0 { vop with b := 0, axis := 3, prec := 2, blane := 1 }).wf = false ∧
    (Instr.rsum 0 { vop with b := 0, axis := 1, opts := 16 }).wf = false ∧
    (Instr.rsum 0 { vop with b := 0, axis := 1, count := 1 }).wf = false ∧
    (Instr.rmax 0 { vop with axis := 1, prec := 1 }).wf = false ∧
    (Instr.rmax 0 { vop with axis := 1, opts := 2 }).wf = false ∧
    (Instr.rmin 0 { vop with axis := 1, blane := 1 }).wf = false ∧
    (Instr.rmin 0 { vop with axis := 2, brow := 1 }).wf = false ∧
    (Instr.rsumsq 0 { vop with b := 0, axis := 1, prec := 2, first := 62, count := 1, opts := 9 }).wf = true := by decide

/-- TRN, LD, ST, the generators and FLAGS are refused with fields that they do not read, in other rows, and with an address off its boundary (R116, R127 to R134). -/
theorem test_wf_moves :
    (Instr.trn 0 { vop with b := 0 }).wf = false ∧
    (Instr.trn 0 { vop with b := 0, first := 0, count := 63, d := 2 }).wf = false ∧
    (Instr.ld 0 { vop with b := 0 }).wf = false ∧
    (Instr.ld 0 { vop with b := 0, a := 0, prec := 1 }).wf = false ∧
    (Instr.ld 0 { vop with b := 0, a := 0, prec := 2 }).wf = false ∧
    (Instr.st 0 { vop with b := 0 }).wf = false ∧
    (Instr.st 0 { vop with b := 0, d := 0, opts := 1 }).wf = false ∧
    (Instr.rngu 0 { vop with b := 0 }).wf = false ∧
    (Instr.rngu 0 { vop with b := 0, a := 0, opts := 8 }).wf = false ∧
    (Instr.rngsv 0 { vop with b := 0, d := 0, a := 0 }).wf = false ∧
    (Instr.rngsv 0 { vop with b := 0, d := 0, a := 0, first := 0, addr := 64 }).wf = false ∧
    (Instr.flags 0 { vop with b := 0, a := 0, count := 1 }).wf = false ∧
    (Instr.flags 0 { vop with b := 0 }).wf = false ∧
    (Instr.ld 0 { vop with b := 0, a := 0, prec := 2, first := 62, count := 1 }).wf = true ∧
    (Instr.rngrs 0 { vop with b := 0, d := 0, a := 0, first := 0, addr := 4096 }).wf = true := by decide

/-- ARRIVE and ARRWAIT are refused without a count and with a reserved coverage, ARRIVE with a target, WAIT with a count; MARK with a phase beyond 5 or none (R177). -/
theorem test_wf_buckles :
    (Instr.arrive 0 0 ⟨0, 0, 0, 0⟩).wf = false ∧
    (Instr.arrive 0 0 ⟨0, 1, 2, 0⟩).wf = false ∧
    (Instr.arrive 0 0 ⟨0, 1, 0, 1⟩).wf = false ∧
    (Instr.wait 0 0 ⟨0, 1, 0, 1⟩).wf = false ∧
    (Instr.wait 0 0 ⟨0, 0, 1, 1⟩).wf = false ∧
    (Instr.arrwait 0 0 ⟨0, 0, 0, 1⟩).wf = false ∧
    (Instr.arrwait 0 0 ⟨0, 1, 3, 1⟩).wf = false ∧
    (Instr.mark 0 0 0 0).wf = false ∧
    (Instr.mark 0 6 0 0).wf = false ∧
    (Instr.arrive 0 0 ⟨0, 1, 1, 0⟩).wf = true ∧
    (Instr.wait 0 0 ⟨0, 0, 0, 1⟩).wf = true ∧
    (Instr.arrwait 0 0 ⟨0, 1, 1, 1⟩).wf = true := by decide

/-- A structure of another length is refused: Buckle and member messages, a port table, a re-bind request, a test request, submission entries and a cable identity. -/
theorem test_wf_lengths :
    (Instr.buckleArriveMsg []).wf = false ∧
    (Instr.buckleWatchMsg [0, 0, 0]).wf = false ∧
    (Instr.buckleArriveWatchMsg [0, 0, 0, 0, 0]).wf = false ∧
    (Instr.buckleSatisfyMsg 0 []).wf = false ∧
    (Instr.portTable 0 0 (List.replicate 263 0)).wf = false ∧
    (Instr.portTable 0 0 (List.replicate 264 0)).wf = true ∧
    (Instr.updateCompleteReceive 0 []).wf = false ∧
    (Instr.slackNoticeReceive 0 []).wf = false ∧
    (Instr.retryNotice 0 []).wf = false ∧
    (Instr.resetNotice 0 []).wf = false ∧
    (Instr.rebindAdd [0, 0]).wf = false ∧
    (Instr.rebindRemove []).wf = false ∧
    (Instr.rebindDissolve [0, 0, 0, 0]).wf = false ∧
    (Instr.testRequest [0]).wf = false ∧
    (Instr.submissionTail 0 0 [[0, 0]]).wf = false ∧
    (Instr.cablePresence 0 true []).wf = false ∧
    (Instr.cablePresence 0 false []).wf = true := by decide +kernel

/-- A value outside its entry is refused: the single value of three command entries, a sample beyond 1 kV, a coolant above its absolute maximum, a Fault code that no row gives, and a ring register off its word (R273, R398, R476, R558). -/
theorem test_wf_values :
    (Instr.auditNow 2).wf = false ∧
    (Instr.cinchTestPulse 0).wf = false ∧
    (Instr.alertAcknowledge 2).wf = false ∧
    (Instr.inputSample 1000001).wf = false ∧
    (Instr.coolantSample 501 0 0).wf = false ∧
    (Instr.faultEntry 0x0602).wf = false ∧
    (Instr.powerOn ⟨501, 0, 0⟩ {}).wf = false ∧
    (Instr.coolantRecheck ⟨501, 0, 0⟩ {}).wf = false ∧
    (Instr.ringControlWrite 0 2 0).wf = false := by decide

/-- A datagram is refused with the reserved address mode, a reserved field that is not 0, and a length that is not its data's (R519). -/
theorem test_wf_datagrams :
    (Instr.nop { dg0 with h0 := 0x00C0000000000000 }).wf = false ∧
    (Instr.scan { dg0 with h0 := 0x0001000000000000 }).wf = false ∧
    (Instr.cyc { dg0 with h0 := 1 }).wf = false ∧
    (Instr.mbxW { dg0 with h1 := 1 }).wf = false ∧
    (Instr.mbxR { dg0 with data := [0] }).wf = false ∧
    (Instr.link { dg0 with h0 := 0x10000 } 0 0).wf = false ∧
    (Instr.time { dg0 with h1 := 1 } 0 0).wf = false ∧
    (Instr.addr { dg0 with h0 := 1 }).wf = false ∧
    (Instr.reset { dg0 with h0 := 1 }).wf = false ∧
    (Instr.nop dg0).wf = true := by decide

end Sys2Proof.Tests
end

section
/-! What issuing a command does to the sequencer of its tile: the context moves on by one command, and every other context stands. -/

namespace Sys2Proof.Machine

/-- Context `c` of tile `t` stands at the same command in the same state, and the tile's other contexts, operand records and scale tables stand. -/
structure PositionKept (t : TileId) (c : CtxId) (s s' : State) : Prop where
  pos : ((s'.tiles.get t).seqr.ctxs.get c).pos = ((s.tiles.get t).seqr.ctxs.get c).pos
  state : ((s'.tiles.get t).seqr.ctxs.get c).state = ((s.tiles.get t).seqr.ctxs.get c).state
  others : ∀ d, d ≠ c → (s'.tiles.get t).seqr.ctxs.get d = (s.tiles.get t).seqr.ctxs.get d
  records : (s'.tiles.get t).seqr.records = (s.tiles.get t).seqr.records
  tables : (s'.tiles.get t).seqr.tables = (s.tiles.get t).seqr.tables

/-- A sequencer that is left alone keeps the position. -/
theorem PositionKept.of_seqr_eq {t : TileId} {s s' : State} (c : CtxId) (h : (s'.tiles.get t).seqr = (s.tiles.get t).seqr) : PositionKept t c s s' where
  pos := by rw [h]
  state := by rw [h]
  others := fun _ _ => by rw [h]
  records := by rw [h]
  tables := by rw [h]

/-- Changes that keep the position compose. -/
theorem PositionKept.trans {t : TileId} {c : CtxId} {a b d : State} (h : PositionKept t c a b) (k : PositionKept t c b d) : PositionKept t c a d where
  pos := k.pos.trans h.pos
  state := k.state.trans h.state
  others := fun x hx => (k.others x hx).trans (h.others x hx)
  records := k.records.trans h.records
  tables := k.tables.trans h.tables

/-- A command that is issued stays issued through changes that keep the position. -/
theorem Issued.trans_kept {t : TileId} {c : CtxId} {a b d : State} (h : Issued t c a b) (k : PositionKept t c b d) : Issued t c a d where
  pos := k.pos.trans h.pos
  state := k.state.trans h.state
  others := fun x hx => (k.others x hx).trans (h.others x hx)
  records := k.records.trans h.records
  tables := k.tables.trans h.tables

/-- And so after changes that leave the sequencer alone. -/
theorem Issued.of_seqr_eq {t : TileId} {c : CtxId} {a b d : State} (h : (b.tiles.get t).seqr = (a.tiles.get t).seqr) (k : Issued t c b d) : Issued t c a d where
  pos := by rw [k.pos, h]
  state := k.state
  others := fun x hx => by rw [k.others x hx, h]
  records := by rw [k.records, h]
  tables := by rw [k.tables, h]

/-- A change of one context and of the count of completed commands, where the context keeps its position and its state. -/
theorem PositionKept.modTile_ctx (t : TileId) (c : CtxId) (s : State) (f : Context → Context) (n : Tile → Word64)
    (hpos : ∀ k, (f k).pos = k.pos) (hstate : ∀ k, (f k).state = k.state) :
    PositionKept t c s (s.modTile t fun x => { x with seqr := { x.seqr with ctxs := vmod x.seqr.ctxs c f, completed := n x } }) where
  pos := by simp [hpos]
  state := by simp [hstate]
  others := fun d hd => by simp [vmod_get_other _ f hd]
  records := by simp
  tables := by simp

/-- A change of a tile beside its sequencer. -/
theorem modTile_seqr (s : State) (t : TileId) (f : Tile → Tile) (h : (f (s.tiles.get t)).seqr = (s.tiles.get t).seqr) :
    ((s.modTile t f).tiles.get t).seqr = (s.tiles.get t).seqr := by rw [State.modTile_get_same, h]

/-- Counting tokens leaves every tile alone. -/
@[simp] theorem countTokens_tiles (s : State) (b : Nat) (g : Word64) (sent applied retired rejected : Nat) :
    (s.countTokens b g sent applied retired rejected).tiles = s.tiles := rfl

/-- Sending a packet leaves every sequencer alone. -/
@[simp] theorem send_seqr (s : State) (t : TileId) (kind vc dst src flow : Nat) (n : PartId) (addr : Word64) (gen : BitVec 8) (queue : Nat) (bs : List Byte) :
    ((s.send kind vc dst src flow n addr gen queue bs).tiles.get t).seqr = (s.tiles.get t).seqr := by
  unfold State.send
  split
  case h_1 u _ =>
    by_cases h : t = u
    · subst h; exact modTile_seqr _ t _ rfl
    · rw [State.modTile_get_other _ _ h]
  case h_2 => rfl

/-- Sending a Buckle message leaves every sequencer alone. -/
@[simp] theorem sendBuckle_seqr (s : State) (t : TileId) (src dst : Nat) (n : PartId) (m : BuckleMsg) :
    ((s.sendBuckle src dst n m).tiles.get t).seqr = (s.tiles.get t).seqr := send_seqr ..

/-- An arrival leaves the sequencer of its tile alone. -/
@[simp] theorem sendArrival_seqr (s : State) (t : TileId) (e : Seat) (c cmd b count kind target : Nat) :
    ((s.sendArrival t e c cmd b count kind target).tiles.get t).seqr = (s.tiles.get t).seqr := by
  unfold State.sendArrival
  extract_lets p b'
  split
  · split
    · rfl
    · rw [sendBuckle_seqr, countTokens_tiles]
      exact modTile_seqr s t _ rfl
  · rfl

/-- The arrivals that leave as a command completes keep the position. -/
theorem flushArrivals_position (s : State) (t : TileId) (c : CtxId) (e : Seat) (n : Nat) : PositionKept t c s (s.flushArrivals t c e n) := by
  induction n generalizing s with
  | zero => exact .of_seqr_eq c rfl
  | succ n ih =>
    unfold State.flushArrivals
    extract_lets k
    split
    · exact .of_seqr_eq c rfl
    · refine (PositionKept.of_seqr_eq c (sendArrival_seqr s t ..)).trans (.trans (.modTile_ctx t c _ _ _ ?_ ?_) (ih _))
      · exact fun _ => rfl
      · exact fun _ => rfl

/-- Completing a command keeps the position. -/
theorem complete_position (s : State) (t : TileId) (c : CtxId) (e : Seat) (i : Nat) : PositionKept t c s (s.complete t c e i) := by
  unfold State.complete
  extract_lets s1
  refine .trans (.modTile_ctx t c s _ _ ?_ ?_) (flushArrivals_position s1 t c e 16)
  · exact fun _ => rfl
  · exact fun _ => rfl

/-- A context that issues its next command stands after it (R182). -/
theorem issue_issued (s : State) (t : TileId) (c : CtxId) (e : Seat) (done : Bool) : Issued t c s (s.issue t c e done) := by
  unfold State.issue
  extract_lets i s1
  have moved : Issued t c s s1 :=
    { pos := by simp [s1, i], state := by simp [s1], others := fun d hd => by simp [s1, Sequencer.entered, vmod_get_other _ _ hd]
      records := by simp [s1, Sequencer.entered], tables := by simp [s1, Sequencer.entered] }
  split
  · exact moved.trans_kept (complete_position s1 t c e i)
  · exact moved

end Sys2Proof.Machine
end

section
/-! A vector command that changes the vector engine alone: what it leaves of its tile, its context and the machine. -/

namespace Sys2Proof.Machine

/-- A layer's mark adds to the marks of the tile's vector engine and changes nothing else of the tile (R461). -/
theorem markLayer_tile (s : State) (t : TileId) (e : Seat) : ∃ marks : List LayerMark,
    (s.markLayer t e).tiles.get t = { s.tiles.get t with vec := { (s.tiles.get t).vec with marks := marks } } := by
  unfold State.markLayer
  split
  · exact ⟨_, rfl⟩
  · rw [State.modTile_get_same]
    split
    · exact ⟨_, rfl⟩
    · exact ⟨_, rfl⟩

/-- A change of the tile's vector engine is within the issue frame. -/
theorem modVec_frame (s : State) (t : TileId) (f : VectorEngine → VectorEngine) : IssueFrame t s (s.modVec t f) :=
  .modTile t s _ rfl rfl rfl rfl rfl

/-- A layer's mark is within the issue frame. -/
theorem markLayer_frame (s : State) (t : TileId) (e : Seat) : IssueFrame t s (s.markLayer t e) := by
  unfold State.markLayer
  split
  · exact .refl t s
  · refine .modTile t s _ ?_ ?_ ?_ ?_ ?_ <;> split <;> rfl

/-- A vector command that is taken, with sound fields and rows of the right kinds, has its effect after the layer's mark and completes (R116, R119, R182). -/
theorem vector_takes {i : Instr} {s : State} {t : TileId} {e : Seat} {ok : Bool} {kinds : VectorEngine → Bool} (body : Seat → CheckStatus → State → State)
    (h : Takes i s t vecCtx e) (hok : ok = true) (hkinds : kinds (s.tiles.get t).vec = true) :
    s.vector t i ok kinds body = .next ((body e (.pending [s.opOf t]) (s.markLayer t e)).issue t vecCtx e true) := by
  simp [State.vector, command_takes s t vecCtx i e _ h, hok, hkinds]

/-- Such a command whose effect is `f` on the vector engine issues, and leaves of the tile's data what `f` gives for the engine as the command found it, up to the
marks of the layers. -/
theorem vector_modVec {i : Instr} {s : State} {t : TileId} {e : Seat} {ok : Bool} {kinds : VectorEngine → Bool}
    (f : Seat → CheckStatus → VectorEngine → VectorEngine) (h : Takes i s t vecCtx e) (hok : ok = true) (hkinds : kinds (s.tiles.get t).vec = true) :
    ∃ s', s.vector t i ok kinds (fun e st s => s.modVec t (f e st)) = .next s' ∧ IssueFrame t s s' ∧ Issued t vecCtx s s' ∧
      ∃ marks, SameData t (s.modVec t fun _ => f e (.pending [s.opOf t]) { (s.tiles.get t).vec with marks := marks }) s' := by
  refine ⟨_, vector_takes _ h hok hkinds, ?_⟩
  obtain ⟨marks, marked⟩ := markLayer_tile s t e
  generalize hs2 : (s.markLayer t e).modVec t (f e (.pending [s.opOf t])) = s2
  have tile2 : s2.tiles.get t = (s.modVec t fun _ => f e (.pending [s.opOf t]) { (s.tiles.get t).vec with marks := marks }).tiles.get t := by
    simp [← hs2, State.modVec, marked]
  have frame2 : IssueFrame t s s2 := hs2 ▸ (markLayer_frame s t e).trans (modVec_frame ..)
  have seqr2 : (s2.tiles.get t).seqr = (s.tiles.get t).seqr := by simp [tile2, State.modVec]
  have data2 : SameData t (s.modVec t fun _ => f e (.pending [s.opOf t]) { (s.tiles.get t).vec with marks := marks }) s2 := by constructor <;> rw [tile2]
  obtain ⟨frame, data⟩ := issue_quiet s2 t vecCtx e true
  exact ⟨frame2.trans frame, .of_seqr_eq seqr2 (issue_issued s2 t vecCtx e true), marks, data2.trans data⟩

/-- The tile has the registers of an engine that its data are said to have. -/
theorem SameData.regs_of_modVec {t : TileId} {s s' : State} {w : VectorEngine} (h : SameData t (s.modVec t fun _ => w) s') : (s'.tiles.get t).vec.regs = w.regs := by
  simpa [State.modVec] using h.regs

/-- An engine that keeps the generator counters and every row outside rows `rs` of register `d` is within the vector frame. -/
theorem VectorFrame.of_modVec {t : TileId} {d : Nat} {rs : List Nat} {s s' : State} {w : VectorEngine} (h : SameData t (s.modVec t fun _ => w) s')
    (gens : w.gens = (s.tiles.get t).vec.gens)
    (rows : ∀ (g : Fin 8) (r : Fin 64), (g.1 ≠ d ∨ r.1 ∉ rs) → (w.regs.get g).get r = ((s.tiles.get t).vec.regs.get g).get r) :
    VectorFrame t d rs s s' where
  array := by simpa [State.modVec] using h.array
  store := by simpa [State.modVec] using h.store
  storeStatus := by simpa [State.modVec] using h.storeStatus
  gens := by simpa [State.modVec, gens] using h.gens
  rows := fun g r away => by rw [h.regs_of_modVec, rows g r away]

end Sys2Proof.Machine
end

section
/-! Writing rows of a register, and reading them back. -/

namespace Sys2Proof.Machine

/-- The selected rows of an elementwise command with sound fields are rows of a register (R116). -/
theorem elemOk_rows {o : VecOp} {readsB readsC wide : Bool} (h : o.elemOk readsB readsC wide = true) : ∀ r ∈ opRows o, r < 64 := by
  simp only [VecOp.elemOk, VecOp.rowsOk, Bool.and_eq_true, decide_eq_true_eq] at h
  obtain ⟨⟨⟨⟨_, fit⟩, _⟩, _⟩, _⟩ := h
  intro r hr
  obtain ⟨i, hi, rfl⟩ := List.mem_map.mp hr
  have := List.mem_range.mp hi
  omega

/-- The destination of an elementwise command with sound fields is one of the 8 registers (R113). -/
theorem elemOk_dest {o : VecOp} {readsB readsC wide : Bool} (h : o.elemOk readsB readsC wide = true) : o.d.toNat < 8 := by
  simp only [VecOp.elemOk, Bool.and_eq_true, decide_eq_true_eq] at h
  obtain ⟨⟨⟨⟨⟨⟨dest, _⟩, _⟩, _⟩, _⟩, _⟩, _⟩ := h
  exact dest

/-- The row that is set. -/
@[simp] theorem setRow_row_same (v : VectorEngine) (d r : Nat) (x : RegRow) : (v.setRow d r x).row d r = x := by
  simp [VectorEngine.setRow, VectorEngine.row]

/-- Any other row. -/
theorem setRow_get_other (v : VectorEngine) {d r : Nat} (x : RegRow) {g : Fin 8} {q : Fin 64} (h : g ≠ Fin.ofNat 8 d ∨ q ≠ Fin.ofNat 64 r) :
    ((v.setRow d r x).regs.get g).get q = (v.regs.get g).get q := by
  rw [VectorEngine.setRow, vmod_get]
  split
  case isTrue hg => rw [vmod_get_other _ _ (h.resolve_left (· hg)), hg]
  case isFalse => rfl

/-- Raising flags leaves the registers alone. -/
@[simp] theorem raise_regs (v : VectorEngine) (fs : Vector (BitVec 4) 512) : (v.raise fs).regs = v.regs := by rw [VectorEngine.raise]

/-- Raising flags leaves the generator counters alone. -/
@[simp] theorem raise_gens (v : VectorEngine) (fs : Vector (BitVec 4) 512) : (v.raise fs).gens = v.gens := by rw [VectorEngine.raise]

/-- Engines with the same registers read the same words. -/
theorem word_of_regs_eq {v w : VectorEngine} (h : v.regs = w.regs) (d r j : Nat) : v.word d r j = w.word d r j := by
  simp only [VectorEngine.word, VectorEngine.row, h]

/-- A word of a row that is known. -/
theorem word_of_row_eq {v : VectorEngine} {d r : Nat} {x : RegRow} (h : v.row d r = x) (j : Fin 512) : v.word d r j.1 = (x.words.get j).toNat := by
  rw [VectorEngine.word, h, show Fin.ofNat 512 j.1 = j from Fin.ext (Nat.mod_eq_of_lt j.2)]

/-- A word of a row of results: the low half of the lane's code. -/
theorem resWords_low_toNat (rs : Vector FRes 512) (j : Fin 512) : ((resWords rs false).get j).toNat = (rs.get j).code % 2 ^ 32 := by
  have lane : (resWords rs false).get j = BitVec.ofNat 32 (rs.get j).code := Vector.getElem_map _ j.2
  rw [lane, BitVec.toNat_ofNat]

/-- Write rows `rs` of register `d` as rows of FP32 values, each with its words and its check status. -/
def VectorEngine.putRows (v : VectorEngine) (d : Nat) (rs : List Nat) (ws : Nat → Vector Word32 512) (st : Nat → CheckStatus) : VectorEngine :=
  rs.foldl (fun w r => w.putRow d r 0 (ws r) (st r)) v

/-- Writing rows leaves the generator counters alone. -/
@[simp] theorem putRows_gens (v : VectorEngine) (d : Nat) (rs : List Nat) (ws : Nat → Vector Word32 512) (st : Nat → CheckStatus) :
    (v.putRows d rs ws st).gens = v.gens := by
  induction rs generalizing v with
  | nil => rfl
  | cons q rs ih => exact ih _

/-- A row that is not among those written. -/
theorem putRows_get_other (v : VectorEngine) {d : Nat} {rs : List Nat} (ws : Nat → Vector Word32 512) (st : Nat → CheckStatus) (hd : d < 8)
    (hrs : ∀ r ∈ rs, r < 64) {g : Fin 8} {q : Fin 64} (h : g.1 ≠ d ∨ q.1 ∉ rs) :
    ((v.putRows d rs ws st).regs.get g).get q = (v.regs.get g).get q := by
  induction rs generalizing v with
  | nil => rfl
  | cons r rs ih =>
    have hr : r < 64 := hrs r List.mem_cons_self
    have away : g ≠ Fin.ofNat 8 d ∨ q ≠ Fin.ofNat 64 r := h.imp
      (fun hg e => hg (by rw [e]; exact Nat.mod_eq_of_lt hd))
      (fun hq e => hq (by rw [e]; simp [Nat.mod_eq_of_lt hr]))
    calc (((v.putRow d r 0 (ws r) (st r)).putRows d rs ws st).regs.get g).get q
      _ = ((v.putRow d r 0 (ws r) (st r)).regs.get g).get q :=
        ih _ (fun x hx => hrs x (List.mem_cons_of_mem r hx)) (h.imp_right fun hq hx => hq (List.mem_cons_of_mem r hx))
      _ = (v.regs.get g).get q := setRow_get_other v _ away

/-- A row that is written. -/
theorem putRows_row (v : VectorEngine) {d : Nat} {rs : List Nat} (ws : Nat → Vector Word32 512) (st : Nat → CheckStatus) (hd : d < 8)
    (hrs : ∀ r ∈ rs, r < 64) {r : Nat} (h : r ∈ rs) :
    (v.putRows d rs ws st).row d r = { words := ws r, kind := 0, exponent := 0, status := st r } := by
  induction rs generalizing v with
  | nil => cases h
  | cons q rs ih =>
    have hrs' : ∀ x ∈ rs, x < 64 := fun x hx => hrs x (List.mem_cons_of_mem q hx)
    by_cases hr : r ∈ rs
    · exact ih _ hrs' hr
    · obtain rfl : r = q := (List.mem_cons.mp h).resolve_right hr
      have last : (Fin.ofNat 64 r).1 ∉ rs := by
        rwa [Fin.val_ofNat, Nat.mod_eq_of_lt (hrs r List.mem_cons_self)]
      calc ((v.putRow d r 0 (ws r) (st r)).putRows d rs ws st).row d r
        _ = (v.putRow d r 0 (ws r) (st r)).row d r := putRows_get_other _ ws st hd hrs' (.inr last)
        _ = _ := setRow_row_same v d r _

end Sys2Proof.Machine
end

section
/-! ICVT (R121). -/

namespace Sys2Proof.Machine

/-- The two's-complement value of a word's number is the word's integer (R13). -/
theorem signed_toNat (w : Word32) : signed 32 w.toNat = w.toInt := by
  have := w.isLt
  rw [BitVec.toInt_eq_toNat_cond, signed, Nat.mod_eq_of_lt this]
  split <;> split <;> omega

/-- The results of ICVT in a row. -/
def VectorEngine.icvtRow (v : VectorEngine) (o : VecOp) (r : Nat) : Vector FRes 512 :=
  Vector.ofFn fun j => laneIcvt (v.row o.a.toNat r).exponent.toInt (v.word o.a.toNat r j.1)

/-- The vector engine after ICVT over the selected rows. -/
def VectorEngine.icvt (v : VectorEngine) (o : VecOp) (st : CheckStatus) : VectorEngine :=
  (v.putRows o.d.toNat (opRows o) (fun r => resWords (v.icvtRow o r) false) fun r => st.worst (v.worstOf [(o.a.toNat, r)])).raise
    (resFlags ((opRows o).map (v.icvtRow o)))

/-- ICVT is a vector command whose effect is `VectorEngine.icvt`. -/
theorem exec_icvt (t : TileId) (o : VecOp) (s : State) : exec (.icvt t o) s =
    s.vector t (.icvt t o) (o.elemOk false false false && o.opts == 0) (fun v => (opRows o).all fun r => (v.row o.a.toNat r).kind == 1)
      fun _ st s => s.modVec t fun v => v.icvt o st := by
  change execIcvt t o s = _
  unfold execIcvt
  congr 1
  funext _ st s
  simp only [VectorEngine.icvt, VectorEngine.putRows, List.foldl_map, List.map_map]
  rfl

/-- A lane of a row of ICVT results: the FP32 value nearest to the row's word times 2 to the row's exponent (R121). -/
theorem icvtRow_code (v : VectorEngine) (o : VecOp) (r : Nat) (j : Fin 512) :
    ((v.icvtRow o r).get j).code =
      (let w := ((v.row o.a.toNat r).words.get j).toInt
       fmtFP32.rne (decide (w < 0)) w.natAbs (v.row o.a.toNat r).exponent.toInt).code := by
  have lane : (v.icvtRow o r).get j = laneIcvt (v.row o.a.toNat r).exponent.toInt ((v.row o.a.toNat r).words.get j).toNat := by
    rw [← word_of_row_eq rfl]
    exact Vector.getElem_ofFn j.2
  rw [lane, laneIcvt, signed_toNat]

/-- The words that ICVT writes. -/
theorem icvt_word (v : VectorEngine) (o : VecOp) (st : CheckStatus) (hd : o.d.toNat < 8) (hrs : ∀ r ∈ opRows o, r < 64) {r : Nat} (hr : r ∈ opRows o) (j : Fin 512) :
    (v.icvt o st).word o.d.toNat r j.1 = ((v.icvtRow o r).get j).code % 2 ^ 32 := by
  rw [VectorEngine.icvt, word_of_regs_eq (raise_regs ..), word_of_row_eq (putRows_row v _ _ hd hrs hr), resWords_low_toNat]

/-- Settles O3: the command issues with `VectorEngine.icvt` as its effect, whose rows are written from the engine as the command found it. -/
theorem icvtConvertsRowsOfKindOne : Obligations.IcvtConvertsRowsOfKindOne := by
  intro t o s e takes fields opts kinds
  have hd := elemOk_dest fields
  have hrs := elemOk_rows fields
  obtain ⟨s', next, frame, issued, marks, data⟩ := vector_modVec (fun _ st v => v.icvt o st) takes
    (ok := o.elemOk false false false && o.opts == 0) (kinds := fun v => (opRows o).all fun r => (v.row o.a.toNat r).kind == 1)
    (by simp [fields, opts]) (by simpa using kinds)
  refine ⟨s', (exec_icvt t o s).trans next, frame, issued, .of_modVec data ?_ fun g r away => ?_, fun r hr j => ?_⟩
  · rw [VectorEngine.icvt, raise_gens, putRows_gens]
  · rw [VectorEngine.icvt, raise_regs, putRows_get_other _ _ _ hd hrs away]
  · rw [word_of_regs_eq data.regs_of_modVec, icvt_word _ o _ hd hrs hr, icvtRow_code]
    rfl

end Sys2Proof.Machine
end

section
/-! What a governor loop calls keeps the governor itself: fencing and replacing a tile, resetting a partition, sending to other members, and the tests. A slack notice
alone counts itself there. -/

namespace Sys2Proof.Machine

/-- What every step of a fold keeps of the state, the fold keeps. -/
theorem foldl_keeps {α β : Type} (g : State → β) (l : List α) (f : State → α → State) (s : State) (h : ∀ s x, g (f s x) = g s) :
    g (l.foldl f s) = g s :=
  (List.foldl_hom g (g₂ := fun b _ => b) (H := fun s x => (h s x).symm)).symm.trans (List.foldl_fixed ..)

/-- So a fold of operations that keep the governor keeps it. -/
theorem foldl_governor {α : Type} (l : List α) (f : State → α → State) (s : State) (h : ∀ s x, (f s x).governor = s.governor) :
    (l.foldl f s).governor = s.governor := foldl_keeps State.governor l f s h

/-! ### Tiles, records and the module state -/

@[simp] theorem modTiles_governor (s : State) (ts : List TileId) (f : Tile → Tile) : (s.modTiles ts f).governor = s.governor :=
  foldl_governor _ _ _ fun _ _ => rfl

@[simp] theorem refreshAlert_governor (s : State) : s.refreshAlert.governor = s.governor := rfl

@[simp] theorem publish_governor (s : State) (r : ErrorReport) (cont : Bool) : (s.publish r cont).governor = s.governor := by
  unfold State.publish
  extract_lets f ws ring kept cls published give given
  have hgive : ∀ s g, (give s g).governor = s.governor := fun _ _ => rfl
  change given.governor = published.governor
  unfold given
  split
  · split
    · exact hgive _ _
    · rfl
  · exact foldl_governor _ _ _ fun _ _ => by split <;> simp [hgive]

@[simp] theorem recordOwn_governor (s : State) (r : ErrorReport) : (s.recordOwn r).governor = s.governor := publish_governor ..

@[simp] theorem enter_governor (s : State) (m : ModuleState) : (s.enter m).governor = s.governor := by
  unfold State.enter
  split <;> rfl

@[simp] theorem refreshModule_governor (s : State) : s.refreshModule.governor = s.governor := by
  unfold State.refreshModule
  split
  case h_4 => rfl
  all_goals split <;> simp

@[simp] theorem statusChanged_governor (s : State) (n : PartId) : (s.statusChanged n).governor = s.governor := by
  unfold State.statusChanged
  split <;> simp

/-! ### Packets and notices -/

@[simp] theorem send_governor (s : State) (kind vc dst src flow : Nat) (part : PartId) (addr : Word64) (gen : BitVec 8) (queue : Nat) (payload : List Byte) :
    (s.send kind vc dst src flow part addr gen queue payload).governor = s.governor := by
  unfold State.send
  split <;> simp

@[simp] theorem sendControl_governor (s : State) (dst src flow : Nat) (part : PartId) (bs : List Byte) :
    (s.sendControl dst src flow part bs).governor = s.governor :=
  foldl_governor _ _ _ fun _ _ => send_governor ..

@[simp] theorem sendVia_governor (s : State) (n : PartId) (m source kind vc : Nat) (addr : Word64) (payload : List Byte) :
    (s.sendVia n m source kind vc addr payload).governor = s.governor := by
  unfold State.sendVia
  split <;> simp

@[simp] theorem sendMember_governor (s : State) (n : PartId) (m source kind vc : Nat) (payload : List Byte) :
    (s.sendMember n m source kind vc payload).governor = s.governor :=
  foldl_governor _ _ _ fun _ _ => sendVia_governor ..

@[simp] theorem sendMembers_governor (s : State) (n : PartId) (bs : List Byte) : (s.sendMembers n bs).governor = s.governor :=
  foldl_governor _ _ _ fun _ _ => sendMember_governor ..

@[simp] theorem noticeHere_governor (s : State) (n : PartId) (bs : List Byte) : (s.noticeHere n bs).governor = s.governor := by
  simp [State.noticeHere, foldl_governor]

@[simp] theorem sendNotice_governor (s : State) (n : PartId) (attempt code : Nat) : (s.sendNotice n attempt code).governor = s.governor := by
  simp [State.sendNotice]

@[simp] theorem retireLost_governor (s : State) (ps : List Packet) : (s.retireLost ps).governor = s.governor :=
  foldl_governor _ _ _ fun _ _ => rfl

/-! ### Wakes and requests of a core -/

@[simp] theorem admitWake_governor (s : State) (t : TileId) (r : WakeReq) : (s.admitWake t r).governor = s.governor := rfl

@[simp] theorem tryAdmit_governor (s : State) (d : DieId) : (s.tryAdmit d).governor = s.governor := by
  simp only [State.tryAdmit]
  split
  · split <;> simp
  · rfl

@[simp] theorem queueWake_governor (s : State) (t : TileId) (cls : Nat) : (s.queueWake t cls).governor = s.governor := by
  simp only [State.queueWake]
  repeat' split
  all_goals simp

@[simp] theorem requestWake_governor (s : State) (t : TileId) (cls : Nat) : (s.requestWake t cls).governor = s.governor := by
  unfold State.requestWake
  split <;> simp

@[simp] theorem dropWake_governor (s : State) (t : TileId) : (s.dropWake t).governor = s.governor := rfl

@[simp] theorem stopWake_governor (s : State) (t : TileId) : (s.stopWake t).governor = s.governor := rfl

@[simp] theorem requestCore_governor (s : State) (t : TileId) (g : IslandTarget) (cls : Nat) : (s.requestCore t g cls).governor = s.governor := by
  unfold State.requestCore
  extract_lets closed i
  have hclosed : closed.governor = s.governor := by unfold closed; split <;> simp
  clear_value closed i
  repeat' split
  all_goals simp [hclosed]

/-! ### Resets, migrations and substitutions -/

@[simp] theorem clearStreams_governor (s : State) (t : TileId) (counts : Bool) : (s.clearStreams t counts).governor = s.governor := rfl

@[simp] theorem advancePart_governor (s : State) (n : PartId) : (s.advancePart n).governor = s.governor := by
  unfold State.advancePart State.advance
  exact (foldl_governor _ _ _ fun _ _ => modTiles_governor ..).trans (foldl_governor _ _ _ fun _ _ => rfl)

@[simp] theorem designate_governor (s : State) : s.designate.governor = s.governor := by
  simp [State.designate, foldl_governor]

@[simp] theorem leaveTile_governor (s : State) (t : TileId) : (s.leaveTile t).governor = s.governor := by
  unfold State.leaveTile
  extract_lets left x due unheld
  have hleft : left.governor = s.governor := rfl
  have hdue : ∀ s, (due s).governor = s.governor := fun _ => rfl
  have hunheld : unheld.governor = s.governor := rfl
  clear_value left x due unheld
  repeat' split
  all_goals simp [hleft, hdue, hunheld]

/-- A reset of a partition, from its last operation to its first. -/
@[simp] theorem resetPartition_governor (s : State) (n : PartId) (code : Nat) : (s.resetPartition n code).governor = s.governor := by
  unfold State.resetPartition
  extract_lets p loaded noticed cleared advanced given kept stopped reset retired fabric faults dropped drained answered placement weights composed left
  split
  · rfl
  · calc (left.statusChanged n).refreshModule.governor
      _ = left.governor := by simp
      _ = composed.governor := foldl_governor _ _ _ fun _ _ => leaveTile_governor ..
      _ = answered.governor := rfl
      _ = drained.governor := by unfold answered; split <;> rfl
      _ = dropped.governor := foldl_governor _ _ _ fun _ _ => rfl
      _ = retired.governor := rfl
      _ = reset.governor := retireLost_governor ..
      _ = stopped.governor := modTiles_governor ..
      _ = advanced.governor := foldl_governor _ _ _ fun _ _ => rfl
      _ = cleared.governor := advancePart_governor ..
      _ = noticed.governor := foldl_governor _ _ _ fun _ _ => rfl
      _ = s.governor := by unfold noticed; split <;> simp

@[simp] theorem abandonMigration_governor (s : State) (n : PartId) (v : Move) : (s.abandonMigration n v).governor = s.governor := by
  unfold State.abandonMigration
  extract_lets removed reopened placer counted x released
  calc released.designate.refreshModule.governor
    _ = released.governor := by simp
    _ = counted.governor := by
      unfold released
      split
      · simp
      · split <;> simp
    _ = s.governor := rfl

@[simp] theorem replaceTarget_governor (s : State) (n : PartId) (m : Move) (dieFault : Bool) : (s.replaceTarget n m dieFault).governor = s.governor := by
  unfold State.replaceTarget
  extract_lets erased
  split
  · split <;> simp [erased]
  · simp [erased]

@[simp] theorem replaceTargets_governor (s : State) (t : TileId) (dieFault : Bool) : (s.replaceTargets t dieFault).governor = s.governor :=
  foldl_governor _ _ _ fun _ _ => by split <;> simp

@[simp] theorem startSubstitution_governor (s : State) (n : PartId) (t : TileId) (l : Nat) (layer : Option Nat) (dieFault : Bool) :
    (s.startSubstitution n t l layer dieFault).governor = s.governor := by
  unfold State.startSubstitution
  extract_lets +onlyGivenNames p
  split
  · extract_lets report recorded erased
    simp [recorded, erased]
  · extract_lets blocked moved placer taken unbound
    calc (unbound.requestCore _ .running 1).designate.refreshModule.governor
      _ = unbound.governor := by simp
      _ = taken.governor := foldl_governor _ _ _ fun _ _ => rfl
      _ = s.governor := rfl

@[simp] theorem fenceTile_governor (s : State) (t : TileId) (layer : Option Nat) (dieFault : Bool) : (s.fenceTile t layer dieFault).governor = s.governor := by
  unfold State.fenceTile
  extract_lets fenced
  have hfenced : fenced.governor = s.governor := by simp [fenced]
  clear_value fenced
  split
  · simp [hfenced]
  · extract_lets +onlyGivenNames p
    split
    · extract_lets blocked moved unbound
      calc unbound.designate.refreshModule.governor
        _ = unbound.governor := by simp
        _ = moved.governor := foldl_governor _ _ _ fun _ _ => rfl
        _ = s.governor := hfenced
    · split <;> simp [hfenced]

@[simp] theorem startMigration_governor (s : State) (t : TileId) : (s.startMigration t).1.governor = s.governor := by
  simp only [State.startMigration]
  repeat' split
  all_goals simp

/-! ### Tests -/

@[simp] theorem runTest_governor (s : State) (k : PendingTest) (previous : TestCode) : (s.runTest k previous).governor = s.governor := rfl

@[simp] theorem beginTileTest_governor (s : State) (k : PendingTest) (t : TileId) : (s.beginTileTest k t).governor = s.governor := by
  simp only [State.beginTileTest]
  split <;> simp

@[simp] theorem deferTest_governor (s : State) (k : PendingTest) (t : TileId) : (s.deferTest k t).governor = s.governor := rfl

@[simp] theorem startTileTest_governor (s : State) (k : PendingTest) (t : TileId) : (s.startTileTest k t).governor = s.governor := by
  have migrated := startMigration_governor s t
  simp only [State.startTileTest]
  repeat' split
  all_goals simp_all

@[simp] theorem startTest_governor (s : State) (k : PendingTest) : (s.startTest k).governor = s.governor := by
  simp only [State.startTest]
  repeat' split
  all_goals simp

@[simp] theorem startTests_governor (s : State) : s.startTests.governor = s.governor :=
  foldl_governor _ _ _ fun _ _ => startTest_governor ..

@[simp] theorem closeTest_governor (s : State) (k : PendingTest) (r : TestResult) (code : Nat) : (s.closeTest k r code).governor = s.governor := rfl

@[simp] theorem failTile_governor (s : State) (t : TileId) (code : TestCode) : (s.failTile t code).governor = s.governor := by
  simp [State.failTile]

@[simp] theorem abortTile_governor (s : State) (k : PendingTest) (r : TestResult) (t : TileId) : (s.abortTile k r t).governor = s.governor := by
  simp [State.abortTile]

@[simp] theorem abortHot_governor (s : State) : s.abortHot.governor = s.governor :=
  foldl_governor _ _ _ fun _ _ => by
    split
    · rfl
    · split <;> simp

/-! ### The governor's loop -/

@[simp] theorem loopAllowance_governor (s : State) (t : TileId) : (s.loopAllowance t).governor = s.governor := rfl

@[simp] theorem loopClock_governor (s : State) (t : TileId) : (s.loopClock t).governor = s.governor := by
  simp only [State.loopClock]
  split <;> simp

@[simp] theorem matchSlack_governor (s : State) (n : PartId) : (s.matchSlack n).governor = s.governor := by
  simp only [State.matchSlack]
  split <;> simp

/-- A slack notice counts itself in the governor, and keeps the cap. -/
theorem sendSlack_cap (s : State) (n : PartId) : (s.sendSlack n).governor.cap = s.governor.cap := by
  unfold State.sendSlack
  extract_lets +onlyGivenNames p threshold
  split
  · extract_lets +onlyGivenNames due
    split
    · extract_lets sent governor counted
      calc (counted.modPart n _).governor.cap
        _ = sent.governor.cap := rfl
        _ = s.governor.cap := congrArg Governor.cap (sendMembers_governor ..)
    · rfl
  · rfl

/-- The pass of a loop over the partitions keeps the cap. -/
theorem foldl_slack_cap (s : State) (ns : List PartId) :
    (ns.foldl (fun (s : State) n => (s.matchSlack n).sendSlack n) s).governor.cap = s.governor.cap :=
  foldl_keeps (fun s => s.governor.cap) ns _ s fun s n => by rw [sendSlack_cap, matchSlack_governor]

/-- A loop takes the cap that waits for it (R427), and nothing in the loop changes it after that. -/
theorem governorLoop_cap (s : State) (r : LoopPowers) : (s.governorLoop r).governor.cap = s.governor.capNext := by
  unfold State.governorLoop
  extract_lets g0 taken tiles stacksFull floor floorPower g1
  generalize taken.effective = limit
  obtain ⟨binding, limit⟩ := limit
  dsimp -zeta only
  extract_lets remainder z shared allowed matched
  -- the values are cleared one by one: unfolded, the folds run over every unit
  have hshared : shared.governor.cap = s.governor.capNext := rfl
  clear_value shared
  have hallowed : allowed.governor.cap = shared.governor.cap := congrArg Governor.cap (foldl_governor _ _ _ loopAllowance_governor)
  clear_value allowed
  have hmatched : matched.governor.cap = allowed.governor.cap := by unfold matched; exact foldl_slack_cap ..
  clear_value matched
  rw [abortHot_governor, foldl_governor _ _ _ loopClock_governor, hmatched, hallowed, hshared]

end Sys2Proof.Machine
end

section
/-! Writes of the module cap (R427). -/

namespace Sys2Proof.Machine

/-- The index of the governor's entries. -/
theorem odIndex_power : odIndex 0x2500 = some .power := by decide

/-- The entries of power are up once the module is past its boot (R525). -/
theorem unitUp_power {s : State} (off : s.module.state ≠ .off) (booting : s.module.state ≠ .booting) : s.unitUp .power = true := by
  unfold State.unitUp
  split <;> simp_all

/-- The range of the module cap (R427). -/
theorem powerRange_cap (s : State) (v : Nat) : s.powerRange .power 0x01 v = true ↔
    8000 ≤ v ∧ v ≤ 28000 ∧ s.governor.basePower + s.governor.linkPower + s.governor.floorPower ≤ v := by
  simp [State.powerRange, inSteps, Nat.mod_one, and_assoc]

/-- The module cap's entry, which is writable at any time. -/
theorem odEntry_cap (s : State) : s.odEntry .power 0x01 = some (numEntry .u32 .rw s.governor.capNext.toNat) := rfl

/-- A write of four bytes to the module cap through the module view has no fault but its range. -/
theorem writeCode_cap {s : State} {data : List Byte} (up : s.unitUp .power = true) (len : data.length = 4) :
    s.writeCode moduleView 0x2500 0x01 data = if s.powerRange .power 0x01 (leNat data) then 0 else 0x05 := by
  have reach : s.reaches moduleView .power 0x01 true = true := if_pos rfl
  have writeUp : s.writeUp .power 0x01 = true := by simp [State.writeUp, up]
  have stateOk : s.stateOk .power (numEntry .u32 .rw s.governor.capNext.toNat) data = true := rfl
  have range : s.rangeOk .power 0x01 (numEntry .u32 .rw s.governor.capNext.toNat) data = s.powerRange .power 0x01 (leNat data) := rfl
  have acc : (numEntry .u32 .rw s.governor.capNext.toNat).acc = .rw := rfl
  have ty : (numEntry .u32 .rw s.governor.capNext.toNat).ty.bytes = some 4 := rfl
  simp only [State.writeCode, odIndex_power, odEntry_cap, reach, up, stateOk, writeUp, range, acc, ty, len]
  cases s.powerRange .power 0x01 (leNat data) <;> simp

/-- The data of the module cap have no reserved bits. -/
theorem entryData_cap (data : List Byte) : entryData 0x2500 0x01 data = data := rfl

/-- A value of the module cap out of its range is counted and changes nothing else (R427). -/
theorem odWrite_cap_refused {s : State} {data : List Byte} (up : s.unitUp .power = true) (len : data.length = 4)
    (bad : ¬ s.powerRange .power 0x01 (leNat data) = true) :
    (s.odWrite moduleView 0x2500 0x01 data).2 = { s with governor := { s.governor with capRefused := s.governor.capRefused + 1 } } := by
  rw [State.odWrite, entryData_cap, writeCode_cap up len, if_neg bad]
  rfl

/-- A value of the module cap within its range waits for the next loop (R427). -/
theorem odWrite_cap_accepted {s : State} {data : List Byte} (up : s.unitUp .power = true) (len : data.length = 4)
    (good : s.powerRange .power 0x01 (leNat data) = true) :
    (s.odWrite moduleView 0x2500 0x01 data).2 = { s with governor := { s.governor with capNext := BitVec.ofNat 32 (leNat data) } } := by
  rw [State.odWrite, entryData_cap, writeCode_cap up len, if_pos good]
  rfl

/-- OD_WRITE leaves what the write through its view leaves. -/
theorem exec_odWrite (v : ViewId) (idx : BitVec 16) (sub : BitVec 8) (data : List Byte) (s : State) :
    exec (.odWrite v idx sub data) s = .next (s.odWrite v idx.toNat sub.toNat data).2 := rfl

/-- Past boot, a governor loop runs. -/
theorem exec_governorLoop {s : State} (r : LoopPowers) (off : s.module.state ≠ .off) (booting : s.module.state ≠ .booting) :
    exec (.governorLoop r) s = .next (s.governorLoop r) := by
  change execGovernorLoop r s = _
  unfold execGovernorLoop
  split
  · contradiction
  · contradiction
  · rfl

/-- Settles O59: for four bytes the checks of a write come down to the range of the cap; the value waits in `capNext`, which a loop takes as its cap. -/
theorem capWritesAreCheckedAndTakeEffectAtTheLoop : Obligations.CapWritesAreCheckedAndTakeEffectAtTheLoop := by
  intro data s off booting len w bad
  have up := unitUp_power off booting
  have range : s.powerRange .power 0x01 w = true ↔ ¬ bad := by rw [powerRange_cap]; omega
  constructor
  · intro refused
    exact (exec_odWrite ..).trans (congrArg _ (odWrite_cap_refused up len fun good => range.mp good refused))
  · intro accepted
    refine ⟨_, (exec_odWrite ..).trans (congrArg _ (odWrite_cap_accepted up len (range.mpr accepted))), rfl, rfl, rfl, fun r => ?_⟩
    refine ⟨_, exec_governorLoop r off booting, ?_⟩
    have fits : w < 2 ^ 32 := by omega
    rw [governorLoop_cap, BitVec.toNat_ofNat, Nat.mod_eq_of_lt fits]

end Sys2Proof.Machine
end

section
/-! What a reset does to the partitions and to the fault unit: its packets, wakes and clean-ups leave both alone, but for the number of its notice and the count of resets (R471, R564). -/

namespace Sys2Proof.Machine

/-- The partitions and the fault unit. -/
def State.partsFaults (s : State) : Vector Partition 16 × Faults := (s.parts, s.faults)

/-- A fold of operations that keep the partitions and the fault unit keeps them. -/
theorem foldl_partsFaults {α : Type} (l : List α) (f : State → α → State) (s : State) (h : ∀ s x, (f s x).partsFaults = s.partsFaults) :
    (l.foldl f s).partsFaults = s.partsFaults := foldl_keeps State.partsFaults l f s h

/-! ### Tiles and the module state -/

@[simp] theorem modTile_partsFaults (s : State) (t : TileId) (f : Tile → Tile) : (s.modTile t f).partsFaults = s.partsFaults := rfl

@[simp] theorem modDie_partsFaults (s : State) (d : DieId) (f : Die → Die) : (s.modDie d f).partsFaults = s.partsFaults := rfl

@[simp] theorem modTiles_partsFaults (s : State) (ts : List TileId) (f : Tile → Tile) : (s.modTiles ts f).partsFaults = s.partsFaults :=
  foldl_partsFaults _ _ _ fun _ _ => rfl

@[simp] theorem enter_partsFaults (s : State) (m : ModuleState) : (s.enter m).partsFaults = s.partsFaults := by
  unfold State.enter
  split <;> rfl

@[simp] theorem refreshModule_partsFaults (s : State) : s.refreshModule.partsFaults = s.partsFaults := by
  unfold State.refreshModule
  split
  case h_4 => rfl
  all_goals split <;> exact enter_partsFaults ..

@[simp] theorem statusChanged_partsFaults (s : State) (n : PartId) : (s.statusChanged n).partsFaults = s.partsFaults := by
  unfold State.statusChanged
  split <;> rfl

/-! ### Packets and notices -/

theorem send_partsFaults (s : State) (kind vc dst src flow : Nat) (n : PartId) (addr : Word64) (gen : BitVec 8) (queue : Nat) (bs : List Byte) :
    (s.send kind vc dst src flow n addr gen queue bs).partsFaults = s.partsFaults := by
  unfold State.send
  split <;> rfl

theorem sendControl_partsFaults (s : State) (dst src flow : Nat) (n : PartId) (bs : List Byte) :
    (s.sendControl dst src flow n bs).partsFaults = s.partsFaults :=
  foldl_partsFaults _ _ _ fun _ _ => send_partsFaults ..

theorem sendVia_partsFaults (s : State) (n : PartId) (m source kind vc : Nat) (addr : Word64) (bs : List Byte) :
    (s.sendVia n m source kind vc addr bs).partsFaults = s.partsFaults := by
  unfold State.sendVia
  split <;> rfl

theorem sendMembers_partsFaults (s : State) (n : PartId) (bs : List Byte) : (s.sendMembers n bs).partsFaults = s.partsFaults :=
  foldl_partsFaults _ _ _ fun _ _ => foldl_partsFaults _ _ _ fun _ _ => sendVia_partsFaults ..

theorem noticeHere_partsFaults (s : State) (n : PartId) (bs : List Byte) : (s.noticeHere n bs).partsFaults = s.partsFaults := by
  unfold State.noticeHere
  extract_lets p atTiles atDies
  calc
    _ = atDies.partsFaults := foldl_partsFaults _ _ _ fun _ _ => sendControl_partsFaults ..
    _ = atTiles.partsFaults := foldl_partsFaults _ _ _ fun _ _ => sendControl_partsFaults ..
    _ = s.partsFaults := foldl_partsFaults _ _ _ fun _ _ => sendControl_partsFaults ..

/-- A notice takes the next number of its partition's notices (R468) and changes nothing else of the partitions and the fault unit. -/
theorem sendNotice_partsFaults (s : State) (n : PartId) (attempt code : Nat) : (s.sendNotice n attempt code).partsFaults =
    (s.modPart n fun p => { p with run := { p.run with noticeOut := p.run.noticeOut + 1 } }).partsFaults := by
  unfold State.sendNotice
  extract_lets p bs sent
  have hsent : sent.partsFaults = s.partsFaults := (sendMembers_partsFaults ..).trans (noticeHere_partsFaults ..)
  obtain ⟨hparts, hfaults⟩ := Prod.mk.inj hsent
  simp only [State.partsFaults, State.modPart, hparts, hfaults]

@[simp] theorem retireLost_partsFaults (s : State) (ps : List Packet) : (s.retireLost ps).partsFaults = s.partsFaults :=
  foldl_partsFaults _ _ _ fun _ _ => rfl

/-! ### Wakes and requests of a core -/

@[simp] theorem tryAdmit_partsFaults (s : State) (d : DieId) : (s.tryAdmit d).partsFaults = s.partsFaults := by
  unfold State.tryAdmit
  extract_lets x
  split
  · split <;> rfl
  · rfl

@[simp] theorem queueWake_partsFaults (s : State) (t : TileId) (cls : Nat) : (s.queueWake t cls).partsFaults = s.partsFaults := by
  unfold State.queueWake
  extract_lets x d asked admitted deferred
  have hadmitted : admitted.partsFaults = s.partsFaults := tryAdmit_partsFaults ..
  split
  · split
    · rfl
    · split
      · exact hadmitted
      · exact hadmitted
  · rfl

@[simp] theorem requestWake_partsFaults (s : State) (t : TileId) (cls : Nat) : (s.requestWake t cls).partsFaults = s.partsFaults := by
  unfold State.requestWake
  split
  · rfl
  · exact queueWake_partsFaults ..

@[simp] theorem dropWake_partsFaults (s : State) (t : TileId) : (s.dropWake t).partsFaults = s.partsFaults := rfl

@[simp] theorem stopWake_partsFaults (s : State) (t : TileId) : (s.stopWake t).partsFaults = s.partsFaults := rfl

@[simp] theorem requestCore_partsFaults (s : State) (t : TileId) (g : IslandTarget) (cls : Nat) : (s.requestCore t g cls).partsFaults = s.partsFaults := by
  unfold State.requestCore
  extract_lets closed i
  have hclosed : closed.partsFaults = s.partsFaults := by unfold closed; split <;> rfl
  clear_value closed i
  repeat' split
  all_goals simp [hclosed]

/-! ### The reset of a partition -/

@[simp] theorem clearStreams_partsFaults (s : State) (t : TileId) (counts : Bool) : (s.clearStreams t counts).partsFaults = s.partsFaults := rfl

@[simp] theorem advancePart_partsFaults (s : State) (n : PartId) : (s.advancePart n).partsFaults = s.partsFaults := by
  unfold State.advancePart State.advance
  exact (foldl_partsFaults _ _ _ fun _ _ => modTiles_partsFaults ..).trans (foldl_partsFaults _ _ _ fun _ _ => rfl)

@[simp] theorem leaveTile_partsFaults (s : State) (t : TileId) : (s.leaveTile t).partsFaults = s.partsFaults := by
  unfold State.leaveTile
  extract_lets left x due unheld
  have hleft : left.partsFaults = s.partsFaults := rfl
  have hdue : ∀ s, (due s).partsFaults = s.partsFaults := fun _ => rfl
  have hunheld : unheld.partsFaults = s.partsFaults := rfl
  clear_value left x due unheld
  repeat' split
  all_goals simp [hleft, hdue, hunheld]

/-- The notice that a Loaded partition sends as it is reset leaves its weights, its slices and the fault unit alone (R471). -/
theorem resetNotice_keeps (s : State) (n : PartId) (loaded : Bool) (attempt code : Nat) :
    let noticed := if loaded then s.sendNotice n attempt code else s
    (noticed.parts.get n).weights = (s.parts.get n).weights ∧ (noticed.parts.get n).slices = (s.parts.get n).slices ∧ noticed.faults = s.faults := by
  obtain ⟨hparts, hfaults⟩ := Prod.mk.inj (sendNotice_partsFaults s n attempt code)
  cases loaded
  case false => exact ⟨rfl, rfl, rfl⟩
  case true => simp [hparts, hfaults]

/-- A partition that is neither Free nor Resetting is reset, and no retry is counted (R471, R564). -/
theorem resetPartition_wasReset (s : State) (n : PartId) (code : Nat) (live : ¬((s.parts.get n).state = .free ∨ (s.parts.get n).state = .resetting)) :
    WasReset n s (s.resetPartition n code) ∧ (s.resetPartition n code).faults.retries = s.faults.retries := by
  unfold State.resetPartition
  extract_lets p loaded noticed cleared advanced given kept stopped reset retired fabric faults dropped drained answered placement weights composed left
  rw [if_neg live]
  obtain ⟨hweights, hslices, hnoticed⟩ := resetNotice_keeps s n loaded 0xFF code
  have hretired : retired.partsFaults = noticed.partsFaults := calc
    _ = reset.partsFaults := retireLost_partsFaults ..
    _ = stopped.partsFaults := modTiles_partsFaults ..
    _ = advanced.partsFaults := foldl_partsFaults _ _ _ fun _ _ => stopWake_partsFaults ..
    _ = cleared.partsFaults := advancePart_partsFaults ..
    _ = noticed.partsFaults := foldl_partsFaults _ _ _ fun _ _ => clearStreams_partsFaults ..
  have hanswered : answered.partsFaults = dropped.partsFaults := calc
    _ = drained.partsFaults := by unfold answered; split <;> rfl
    _ = dropped.partsFaults := foldl_partsFaults _ _ _ fun _ _ => rfl
  have hleft : (left.statusChanged n).refreshModule.partsFaults = composed.partsFaults := calc
    _ = left.partsFaults := by simp
    _ = composed.partsFaults := foldl_partsFaults _ _ _ fun _ _ => leaveTile_partsFaults ..
  obtain ⟨retiredParts, retiredFaults⟩ := Prod.mk.inj hretired
  obtain ⟨answeredParts, answeredFaults⟩ := Prod.mk.inj hanswered
  obtain ⟨leftParts, leftFaults⟩ := Prod.mk.inj hleft
  have before : answered.parts = noticed.parts := answeredParts.trans retiredParts
  have after := (congrArg (·.get n) leftParts).trans (State.modPart_get_same answered n _)
  constructor
  · exact
      { composed := by rw [after]
        image := by rw [after]
        run := by rw [after]
        weights := by rw [after, before, hweights]
        settings := by rw [after]
        moves := by rw [after]
        tiles := by rw [after]
        slices := by rw [after, before, hslices] }
  · calc (left.statusChanged n).refreshModule.faults.retries
      _ = answered.faults.retries := congrArg Faults.retries leftFaults
      _ = dropped.faults.retries := by rw [answeredFaults]
      _ = retired.faults.retries := rfl
      _ = s.faults.retries := congrArg Faults.retries (retiredFaults.trans hnoticed)

end Sys2Proof.Machine
end

section
/-! A retry beyond the retry limit (R470): called here it resets the partition, and so does the notice of another member. -/

namespace Sys2Proof.Machine

/-- A retry of an attempt beyond the limit resets the partition, whether its update-complete message has left or not (R217, R470). -/
theorem callRetry_beyond {s : State} {n : PartId} (code : Nat) (loaded : (s.parts.get n).state = .loaded) (retry : (s.parts.get n).run.retry = none)
    (record : (s.parts.get n).run.record = none) (beyond : s.faults.retryLimit.toNat < (s.parts.get n).run.attempt + 1) :
    s.callRetry n code = s.resetPartition n code := by
  unfold State.callRetry
  extract_lets p
  rw [if_neg (by simp [p, loaded, retry]), if_neg (by simp [p, record]), if_pos beyond, ite_self]

/-- A retry that another member has called for an attempt beyond the limit resets the partition (R470). -/
theorem joinRetry_beyond {s : State} {n : PartId} {attempt : Nat} (code : Nat) (beyond : s.faults.retryLimit.toNat < attempt) :
    s.joinRetry n code attempt = s.resetPartition n code := by
  unfold State.joinRetry
  exact if_pos beyond

/-- A notice that passes its checks takes up its sequence number. -/
def Partition.takeSeq (p : Partition) (words : List Word64) : Partition :=
  { p with run := { p.run with
      noticeIn := Assoc.put (bits (wordAt words 0) 63 48) ((bits (wordAt words 3) 31 0 + 1) % 2 ^ 32) p.run.noticeIn } }

/-- A notice of another member that passes its checks is sound (R457, R468). -/
theorem noticeSound_ready {n : PartId} {words : List Word64} {s : State} (h : NoticeReady n words s) :
    s.noticeSound n words = (s.modPart n fun p => p.takeSeq words, true) := by
  simp only [State.noticeSound, h.length, h.crc, h.zero1, h.zero2, h.zero3, ← h.seq]
  simp [Partition.takeSeq]

/-- A sound notice of another member, for the partition's step and a later attempt, is joined where no retry has been called (R468). -/
theorem exec_retryNotice_joins {n : PartId} {words : List Word64} {s : State} (loaded : (s.parts.get n).state = .loaded) (retry : (s.parts.get n).run.retry = none)
    (record : (s.parts.get n).run.record = none) (ready : NoticeReady n words s) (step : wordAt words 1 = (s.parts.get n).run.step)
    (notReset : bits (wordAt words 0) 47 40 ≠ 0xFF) (later : (s.parts.get n).run.attempt < bits (wordAt words 0) 47 40) :
    exec (.retryNotice n words) s =
      .next ((s.modPart n fun p => p.takeSeq words).joinRetry n (bits (wordAt words 0) 31 16) (bits (wordAt words 0) 47 40)) := by
  change execRetryNotice n words s = _
  simp only [execRetryNotice, noticeSound_ready ready]
  have member : bits (wordAt words 0) 63 48 ∈ (s.parts.get n).others := by simpa using ready.member
  simp [loaded, retry, record, step, notReset, Nat.not_le.mpr later, member]

/-- A partition that is reset after a notice's sequence number was taken up was reset. -/
theorem WasReset.of_takeSeq {n : PartId} {words : List Word64} {s s' : State} (h : WasReset n (s.modPart n fun p => p.takeSeq words) s') : WasReset n s s' := by
  obtain ⟨composed, image, run, weights, settings, moves, tiles, slices⟩ := h
  simp only [State.modPart_get_same, Partition.takeSeq] at weights tiles slices
  exact ⟨composed, image, run, weights, settings, moves, tiles, slices⟩

/-- Settles O60: beyond the limit both the call and the notice come down to the reset of the partition, which counts no retry. -/
theorem aRetryBeyondTheLimitResetsThePartition : Obligations.ARetryBeyondTheLimitResetsThePartition := by
  intro n s loaded retry record
  constructor
  · intro code beyond
    obtain ⟨reset, retries⟩ := resetPartition_wasReset s n code.toNat (by simp [loaded])
    exact ⟨_, congrArg Host.Outcome.next (callRetry_beyond code.toNat loaded retry record beyond), reset, retries⟩
  · intro words ready step notReset later beyond
    have joins := exec_retryNotice_joins loaded retry record ready step notReset later
    obtain ⟨reset, retries⟩ := resetPartition_wasReset (s.modPart n fun p => p.takeSeq words) n (bits (wordAt words 0) 31 16)
      (by simp [Partition.takeSeq, loaded])
    exact ⟨_, joins.trans (congrArg _ (joinRetry_beyond _ beyond)), reset.of_takeSeq, retries⟩

end Sys2Proof.Machine
end
